-- ==== Sys2Proof/Word.lean ====
section
/-! DEFINITION. The word types of the Notrix Chevoeno and their plainest arithmetic (02_encoding.md, R26, R45). -/

namespace Sys2Proof

/-- A byte of memory. -/
abbrev Byte := BitVec 8

/-- A 32-bit register value (R45). -/
abbrev Word := BitVec 32

/-- A 64-bit value: an address, an instruction word, an even register pair (R26, R47). -/
abbrev DWord := BitVec 64

/-- One bit per lane of a team, at most 1,024 lanes (R18, R45). -/
abbrev Mask := BitVec 1024

end Sys2Proof
end

