-- ==== Sys2Proof/Syntax.lean ====
section
/-! DEFINITION. The syntax of Jeset words and of the part's events: one payload structure per word kind
and MOD layout (02_encoding.md, Tables 2.3, 2.4, 2.6, 2.7, 2.10a), and Instr, one constructor per row of the table. -/

namespace Sys2Proof

/-- The fields every full instruction shares: the switch marker and the predicate (Table 2.3). -/
structure Head where
  sw   : Bool
  pred : BitVec 3
  pn   : Bool
deriving DecidableEq, Repr

/-- An extension word: XC is bits [61:43], with bit 61 its top bit (Table 2.6). -/
structure Ext where
  xc  : BitVec 19
  c   : BitVec 11
  imm : Word
deriving DecidableEq, Repr

/-- Layout A, arithmetic (Table 2.4). -/
structure FullA where
  hd  : Head
  d   : BitVec 11
  a   : BitVec 11
  b   : BitVec 11
  ty  : BitVec 4
  rm  : BitVec 2
  na  : Bool
  aa  : Bool
  nb  : Bool
  ab  : Bool
  sub : BitVec 4
  ext : Option Ext
deriving DecidableEq, Repr

/-- Layout C, conversion, lane and mask (Table 2.4). -/
structure FullC where
  hd  : Head
  d   : BitVec 11
  a   : BitVec 11
  b   : BitVec 11
  dt  : BitVec 4
  st  : BitVec 4
  rm  : BitVec 2
  sat : Bool
  sub : BitVec 3
  ext : Option Ext
deriving DecidableEq, Repr

/-- Layout X, matrix (Table 2.4). ACC is ROLE in LDF, ANY is SAT in QCVT, SET is QR in QLD and QST. -/
structure FullX where
  hd    : Head
  d     : BitVec 11
  a     : BitVec 11
  b     : BitVec 11
  fmt   : BitVec 4
  acc   : Bool
  any   : Bool
  part  : Bool
  x2    : Bool
  perm  : Bool
  set   : BitVec 2
  space : BitVec 2
  low   : Bool
  ext   : Option Ext
deriving DecidableEq, Repr

/-- Layout M, memory (Table 2.4). -/
structure FullM where
  hd    : Head
  d     : BitVec 11
  a     : BitVec 11
  b     : BitVec 11
  space : BitVec 2
  width : BitVec 3
  scope : BitVec 3
  ord   : BitVec 2
  rp    : Bool
  nr    : Bool
  sub   : BitVec 2
  ext   : Option Ext
deriving DecidableEq, Repr

/-- Layout E, engines (Table 2.4). -/
structure FullE where
  hd  : Head
  d   : BitVec 11
  a   : BitVec 11
  b   : BitVec 11
  src : BitVec 4
  dst : BitVec 4
  cnt : BitVec 2
  sub : BitVec 4
  ext : Option Ext
deriving DecidableEq, Repr

/-- Layout T, control: MOD is OFF14 or per entry (Table 2.4). -/
structure FullT where
  hd  : Head
  d   : BitVec 11
  a   : BitVec 11
  b   : BitVec 11
  off : BitVec 14
  ext : Option Ext
deriving DecidableEq, Repr

/-- Layout S, system (Table 2.4). -/
structure FullS where
  hd   : Head
  d    : BitVec 11
  a    : BitVec 11
  b    : BitVec 11
  sreg : BitVec 10
  sub  : BitVec 4
  ext  : Option Ext
deriving DecidableEq, Repr

/-- One slot of a pair word (R39). -/
structure Slot where
  pop : BitVec 6
  d   : BitVec 8
  a   : BitVec 8
  m   : BitVec 8
deriving DecidableEq, Repr

/-- A pair word (Table 2.7). -/
structure PairWord where
  sw : Bool
  s0 : Slot
  s1 : Slot
deriving DecidableEq, Repr

/-- A head mark's fields (Table 2.10a). -/
structure HeadMark where
  sw      : Bool
  ndest   : BitVec 7
  nshadow : BitVec 4
deriving DecidableEq, Repr

/-- The four spaces (Table 6.1). -/
inductive Space where
  | glob | pocket | chamber | gallery
deriving DecidableEq, Repr

/-- A strike notice: zone, stamp, kind, and the sensor index that the log keeps (R333). -/
structure Notice where
  zone   : Nat
  stamp  : Nat
  kind   : Nat
  sensor : Nat
deriving DecidableEq, Repr

/-- What a tick brings besides time: lines that the replacement of the caches and TLBs drops during it
(R144, R145, R296 leave replacement to the part), dies whose tick input missed or doubled a pulse (R349), and stopped echo paths,
by zone and die, that the network has re-routed (R335). -/
structure TickArgs where
  dropSlice : List (Nat × Nat)          -- (ASID, line number)
  dropRead  : List (Nat × Nat × Nat)    -- (core, ASID, line number)
  dropTlb   : List (Nat × Nat × Nat)    -- (slice, ASID, first byte of the entry's range)
  missed    : List Nat
  doubled   : List Nat
  rerouted  : List (Nat × Nat)
deriving DecidableEq, Repr

/-- Where an uncorrectable storage error lies (R351). -/
inductive StorageError where
  | held (zone : Nat)                         -- a checked structure of a zone: a kind-4 notice
  | cell (pa : Nat)                           -- data at rest in a stack or a dirty line over it, by physical cell
  | chamber (block off : Nat)                 -- data at rest in a chamber word
  | gallery (span off : Nat)                  -- data at rest in a gallery word
deriving DecidableEq, Repr

/-- What a cross-die clearance time-out concerns (R347). -/
inductive TimeoutOf where
  | region (team region zone : Nat)
  | chunk (op chunk zone : Nat)
  | atomic (id : Nat)
deriving DecidableEq, Repr

/-- A unit that the hub's watchdog declares failed (R350). -/
inductive FailedUnit where
  | die (c : Nat)
  | stack (s : Nat)
deriving DecidableEq, Repr

/-- A link whose flit failed its CRC (R304, R335). -/
inductive Link where
  | dieLink (die port : Nat)
  | device (n : Nat)
  | echo (zone die : Nat)
deriving DecidableEq, Repr

/-- A gour object: the block whose scratch holds it, the space (pocket of a core, or chamber), and its offset (R185). -/
structure ObjRef where
  block : Nat
  space : Space
  core  : Nat
  off   : Nat
deriving DecidableEq, Repr

/-- Who waits for a slot (R226): an opened cell's evaluator, or a task team's bin. -/
inductive Waiting where
  | evaluator (stack entry : Nat)
  | task (die bin : Nat)
deriving DecidableEq, Repr

/-- Where a launch record comes from: a launch queue (R213) or a released LAUNCH (R247). -/
inductive LaunchSource where
  | queue (func q : Nat)
  | request (id : Nat)
deriving DecidableEq, Repr

/-- The draws measured over one interval, in W (R323): the package's without ballast, of that the memory and I/O draw, and each
partition's. -/
structure DrawSample where
  package    : Nat
  memIo      : Nat
  partitions : List Nat
deriving DecidableEq, Repr

/-- The host's answer to an ATS Translation Request or a Page Request (R298): the PASID and range it concerns,
where the range lies in host memory, and its permissions; `granted = false` is Invalid Request, Response Failure
or no access after a Page Request. -/
structure AtsAnswer where
  pasid   : Nat
  va      : Nat
  bytes   : Nat
  host    : Nat
  write   : Bool
  exec    : Bool
  granted : Bool
deriving DecidableEq, Repr

/-- What arrives from another package (R305, R153, R160): a read of some bytes, a write, an atomic with its operands, a probe; or the answer
to a request of this package: data, none for a probe that went well, or ACCESS. -/
inductive RemoteKind where
  | read (bytes : Nat)
  | write (data : List Byte)
  | atom (op ty width : Nat) (operands : List DWord)
  | probe
  | data (bytes : List Byte)
  | refused
deriving DecidableEq, Repr

/-- What arrives over a device link (R305): the source device, the ASID, the address. -/
structure RemoteReq where
  device : Nat
  asid   : Nat
  va     : DWord
  kind   : RemoteKind
deriving DecidableEq, Repr

/-- The instructions and events of the part: one constructor per row of the opcode table.
A word row carries its instruction word's fields; an event row carries what the outside world, or the
unit that performs it, decides. -/
inductive Instr where
  /-- NOP (R86). Takes one issue slot and does nothing; only its switch bit acts. -/
  | nop (w : FullA)
  /-- MOV (R86). Copies register or constant bits into the destination of every acting lane. -/
  | mov (w : FullA)
  /-- LDI (R86). Loads IMM32 into the destination, sign- or zero-extended for 64-bit types. -/
  | ldi (w : FullA)
  /-- SEL (R86). Selects a or b per lane by a mask bit. -/
  | sel (w : FullA)
  /-- IADD (R87). Wrapping integer add per element. -/
  | iadd (w : FullA)
  /-- ISUB (R87). Wrapping integer subtract per element. -/
  | isub (w : FullA)
  /-- IMUL (R87). Low part of the integer product per element. -/
  | imul (w : FullA)
  /-- IMULH (R87). High part of the integer product per element. -/
  | imulh (w : FullA)
  /-- IMAD (R87). Integer multiply added to the old destination, wrapping. -/
  | imad (w : FullA)
  /-- IMIN (R87). Integer minimum per element by signedness. -/
  | imin (w : FullA)
  /-- IMAX (R87). Integer maximum per element by signedness. -/
  | imax (w : FullA)
  /-- IABS (R87). Wrapping integer absolute value. -/
  | iabs (w : FullA)
  /-- INEG (R87). Wrapping integer negation. -/
  | ineg (w : FullA)
  /-- AND (R88). Bitwise AND of the whole register or pair. -/
  | and (w : FullA)
  /-- OR (R88). Bitwise OR. -/
  | or (w : FullA)
  /-- XOR (R88). Bitwise exclusive OR. -/
  | xor (w : FullA)
  /-- ANDN (R88). Bitwise a AND NOT b. -/
  | andn (w : FullA)
  /-- NOT (R88). Bitwise complement. -/
  | not (w : FullA)
  /-- SHL (R89). Left shift per element, optionally wrapping the count. -/
  | shl (w : FullA)
  /-- SHR (R89). Logical right shift per element. -/
  | shr (w : FullA)
  /-- SAR (R89). Arithmetic right shift per element. -/
  | sar (w : FullA)
  /-- ROTL (R89). Left rotate per element. -/
  | rotl (w : FullA)
  /-- BFX (R90). Extracts a bit field, sign- or zero-extended. -/
  | bfx (w : FullA)
  /-- BFI (R90). Inserts a bit field into the old destination. -/
  | bfi (w : FullA)
  /-- POPC (R91). Counts one bits. -/
  | popc (w : FullA)
  /-- CLZ (R91). Counts leading zero bits. -/
  | clz (w : FullA)
  /-- BREV (R91). Reverses the bits of a word. -/
  | brev (w : FullA)
  /-- ICMP (R92). Integer compare into a mask or an all-ones vector element. -/
  | icmp (w : FullA)
  /-- LEA (R93). Forms a 64-bit address from a base plus a scaled extended index. -/
  | lea (w : FullA)
  /-- IADD64 (R93). 64-bit wrapping add on pairs. -/
  | iadd64 (w : FullA)
  /-- ISUB64 (R93). 64-bit wrapping subtract on pairs. -/
  | isub64 (w : FullA)
  /-- ICMP64 (R92). 64-bit integer compare into a mask. -/
  | icmp64 (w : FullA)
  /-- IADDS (R87). Saturating integer add per element. -/
  | iadds (w : FullA)
  /-- DOT4 (R94). Adds four byte products to the old destination. -/
  | dot4 (w : FullA)
  /-- PERMB (R94). Selects bytes from a and the old destination, with sign replication. -/
  | permb (w : FullA)
  /-- FADD (R95). Float add rounded once by RM. -/
  | fadd (w : FullA)
  /-- FSUB (R95). Float subtract rounded once by RM. -/
  | fsub (w : FullA)
  /-- FMUL (R95). Float multiply rounded once by RM. -/
  | fmul (w : FullA)
  /-- FFMA (R95). Fused a times b plus the old destination, one rounding. -/
  | ffma (w : FullA)
  /-- FMIN (R96). Float minimum with NaN and signed-zero rules. -/
  | fmin (w : FullA)
  /-- FMAX (R96). Float maximum with NaN and signed-zero rules. -/
  | fmax (w : FullA)
  /-- FCMP (R97). Float compare under a condition into a mask or a vector. -/
  | fcmp (w : FullA)
  /-- FCLASS (R98). Classifies a float and ANDs the class word with a mask. -/
  | fclass (w : FullA)
  /-- FRCP (R99). Correctly rounded reciprocal, long-latency. -/
  | frcp (w : FullA)
  /-- FRSQ (R99). Correctly rounded reciprocal square root. -/
  | frsq (w : FullA)
  /-- FSQRT (R99). Correctly rounded square root. -/
  | fsqrt (w : FullA)
  /-- FEX2 (R99). Correctly rounded 2 to the x. -/
  | fex2 (w : FullA)
  /-- FLG2 (R99). Correctly rounded base-2 logarithm. -/
  | flg2 (w : FullA)
  /-- FSIN (R99). Correctly rounded sine of an argument in turns. -/
  | fsin (w : FullA)
  /-- FCOS (R99). Correctly rounded cosine of an argument in turns. -/
  | fcos (w : FullA)
  /-- FTANH (R99). Correctly rounded hyperbolic tangent. -/
  | ftanh (w : FullA)
  /-- FRND (R100). Rounds to an integral value in the same format. -/
  | frnd (w : FullA)
  /-- FFMAX (R95). Fused a times b plus a third operand c, one rounding. -/
  | ffmax (w : FullA)
  /-- CVT (R101). Converts elements between types under the routing of Table 4.7. -/
  | cvt (w : FullC)
  /-- CVTSR (R102). Converts with stochastic rounding from random bits. -/
  | cvtsr (w : FullC)
  /-- BSCALE (R103). Computes the scale byte of each 32-lane block. -/
  | bscale (w : FullC)
  /-- SHFL (R104). Exchanges values among lanes of a group. -/
  | shfl (w : FullC)
  /-- BCAST (R105). Broadcasts one lane's value to every acting lane. -/
  | bcast (w : FullC)
  /-- VOTE (R106). Writes a mask from a vote over the scope. -/
  | vote (w : FullC)
  /-- REDUX (R107). Writes the reduction over acting lanes of the scope. -/
  | redux (w : FullC)
  /-- SCAN (R107). Writes the inclusive prefix reduction. -/
  | scan (w : FullC)
  /-- ELECT (R108). Sets the mask bit of the lowest acting lane of each scope. -/
  | elect (w : FullC)
  /-- KAND (R109). Mask AND. -/
  | kand (w : FullC)
  /-- KOR (R109). Mask OR. -/
  | kor (w : FullC)
  /-- KXOR (R109). Mask XOR. -/
  | kxor (w : FullC)
  /-- KNOT (R109). Mask complement. -/
  | knot (w : FullC)
  /-- KMOV (R109). Moves between masks, or between a mask and a value. -/
  | kmov (w : FullC)
  /-- KPOP (R109). Counts acting lanes whose mask bit is set. -/
  | kpop (w : FullC)
  /-- KFIRST (R109). Finds the lowest acting lane whose mask bit is set. -/
  | kfirst (w : FullC)
  /-- MMA (R120). Multiplies 32-lane fragments into vector registers by the window sum. -/
  | mma (w : FullX)
  /-- MMAM (R120). Masked fragment multiply with row, column and depth masks. -/
  | mmam (w : FullX)
  /-- MMQ (R121). Multiplies a 256-lane fragment set into a staged tile group. -/
  | mmq (w : FullX)
  /-- QSCALE (R126). Adds a block-scaled partial group into an accumulator group. -/
  | qscale (w : FullX)
  /-- QZERO (R127). Zeroes a tile. -/
  | qzero (w : FullX)
  /-- QLD (R128). Loads a quarter of a tile from memory whole. -/
  | qld (w : FullX)
  /-- QST (R128). Stores a quarter of a tile as a held relaxed store. -/
  | qst (w : FullX)
  /-- QCVT (R127). Converts every tile element to a format's values. -/
  | qcvt (w : FullX)
  /-- QMOV (R129). Copies one tile into 32 vector registers of a fragment set. -/
  | qmov (w : FullX)
  /-- LDF (R124). Loads a block-scaled fragment and its scale register. -/
  | ldf (w : FullX)
  /-- QADD (R127). Adds two tiles element by element. -/
  | qadd (w : FullX)
  /-- LD (R156). Relaxed load, long-latency, may open a geode. -/
  | ld (w : FullM)
  /-- ST (R156). Relaxed store held in the QSB until its region clears. -/
  | st (w : FullM)
  /-- LDA (R156). Acquire load, optionally with remote-scope promotion. -/
  | lda (w : FullM)
  /-- STL (R156). Release store held in its own QSB entry. -/
  | stl (w : FullM)
  /-- ATOM (R158). Atomic read-modify-write; with return it closes the region and runs a pending interval. -/
  | atom (w : FullM)
  /-- CAS (R162). Compare-and-swap as a one-instruction region with a pending interval. -/
  | cas (w : FullM)
  /-- FENCE (R163). Release, acquire or SC fence at a scope. -/
  | fence (w : FullM)
  /-- PF (R164). Prefetches lines into the read cache or the owning slice. -/
  | pf (w : FullM)
  /-- TMOV (R165). Moves a range between scratch spaces through a copy engine, counted in cp. -/
  | tmov (w : FullM)
  /-- SINV (R166). Marks a scratch range never-written at its release. -/
  | sinv (w : FullM)
  /-- COPY (R180). Issues a shaped copy request, optionally with a barrier and a digest. -/
  | copy (w : FullE)
  /-- GATHER (R181). Issues a request copying table rows selected by an index list. -/
  | gather (w : FullE)
  /-- WAITC (R182). Waits until an outstanding counter is at most a threshold. -/
  | waitc (w : FullE)
  /-- PLINIT (R186). Holds a gour initialisation applied at release. -/
  | plinit (w : FullE)
  /-- PLFILL (R186). Issues a request that fills the next gour slot. -/
  | plfill (w : FullE)
  /-- PLWAIT (R186). Waits until a gour slot is filled and returns its offset. -/
  | plwait (w : FullE)
  /-- PLREL (R186). Holds a release of a gour slot. -/
  | plrel (w : FullE)
  /-- ARRIVE (R183). Holds an arrival on a barrier object. -/
  | arrive (w : FullE)
  /-- BWAIT (R183). Waits until a barrier object's phase advances. -/
  | bwait (w : FullE)
  /-- BINIT (R183). Holds the initialisation of a barrier object. -/
  | binit (w : FullE)
  /-- BRA (R230). Relative branch of the whole team. -/
  | bra (w : FullT)
  /-- BRC (R231). Conditional branch of the whole team on a mask or scalar. -/
  | brc (w : FullT)
  /-- BRX (R230). Branch to the address in a scalar pair. -/
  | brx (w : FullT)
  /-- CALL (R233). Writes the link, pushes a call entry and branches. -/
  | call (w : FullT)
  /-- RET (R233). Pops a call entry and returns to its address. -/
  | ret (w : FullT)
  /-- SPLIT (R235). Pushes a join entry and diverges or ejects the target-side lanes. -/
  | split (w : FullT)
  /-- JOIN (R236). Reconverges paths and writes back returned continuations. -/
  | join (w : FullT)
  /-- BARB (R241). Block barrier arrival after clearance. -/
  | barb (w : FullT)
  /-- BARD (R241). Die-span barrier arrival. -/
  | bard (w : FullT)
  /-- BARG (R241). Grid barrier arrival. -/
  | barg (w : FullT)
  /-- WAITV (R243). Waits until a memory word meets a condition or a time-out runs. -/
  | waitv (w : FullT)
  /-- YIELD (R244). Counts the team as yielding for the next n issue slots. -/
  | yield (w : FullT)
  /-- SPAWN (R245). Holds kind-2 task records that enter locality bins at release. -/
  | spawn (w : FullT)
  /-- LAUNCH (R247). Holds a request for the dispatcher to read and launch a record. -/
  | launch (w : FullT)
  /-- EXIT (R239). Closes the region, exits live lanes and frees the team when all have exited. -/
  | exit (w : FullT)
  /-- REGA (R248). Adds registers to the allotment, parking until granted. -/
  | rega (w : FullT)
  /-- REGR (R248). Frees the top registers of the allotment. -/
  | regr (w : FullT)
  /-- GETSR (R358). Reads a special register. -/
  | getsr (w : FullS)
  /-- SETSR (R359). Writes a special register, closing the region where marked. -/
  | setsr (w : FullS)
  /-- TRAP (R360). Raises USER_TRAP when some lane acts. -/
  | trap (w : FullS)
  /-- RTE (R361). Leaves the handler and resumes at %epc. -/
  | rte (w : FullS)
  /-- BRK (R360). Raises BREAK, or stops the cluster under BRKSTOP. -/
  | brk (w : FullS)
  /-- LANERD (R362). Reads one lane's vector register into a scalar. -/
  | lanerd (w : FullS)
  /-- LANEWR (R362). Writes one lane's vector register. -/
  | lanewr (w : FullS)
  /-- CAPQ (R276). Returns the capability sets of a chiplet. -/
  | capq (w : FullS)
  /-- CAPQ_PART (R276). Returns the partition's clusters of a chiplet and those free. -/
  | capqPart (w : FullS)
  /-- MIGR_CAPS (R275). Migrates the block unless its chiplet implements the named sets. -/
  | migrCaps (w : FullS)
  /-- MIGR_REQ (R275). Records a requested chiplet for the next move point. -/
  | migrReq (w : FullS)
  /-- MIGR_PIN (R275). Pins the block against return to straw. -/
  | migrPin (w : FullS)
  /-- MIGR_UNPIN (R275). Clears the block's pin. -/
  | migrUnpin (w : FullS)
  /-- GDEF (R264). Holds a geode record write that tags a cell GEODE. -/
  | gdef (w : FullM)
  /-- GRES (R264). Owner resolves its FORMING cell to a value and wakes the chain. -/
  | gres (w : FullM)
  /-- GRES_SET (R264). Setting write of a value to a cell once it is not FORMING. -/
  | gresSet (w : FullM)
  /-- GQRY (R266). Reads a cell's state without opening it. -/
  | gqry (w : FullM)
  /-- GPSN (R264). Owner poisons its FORMING cell and wakes the chain. -/
  | gpsn (w : FullM)
  /-- GPSN_SET (R264). Setting write of a poison record once the cell is not FORMING. -/
  | gpsnSet (w : FullM)
  /-- LDN (R267). Reads a cell's bytes whatever its tag, never opening. -/
  | ldn (w : FullM)
  /-- TRACE (R363). Holds a trace entry written to the host ring at release. -/
  | trace (w : FullS)
  /-- PAIR (R40). Issues two restricted slot operations together after the pair rules. -/
  | pair (w : PairWord)
  /-- REGION_HEAD (R43). Mark word opening a region with declared limits. -/
  | regionHead (w : HeadMark)
  /-- REGION_HEAD_YIELD (R43). Mark word opening a region with a yield hint. -/
  | regionHeadYield (w : HeadMark)
  /-- PADDING (R44). Padding mark word, taking a slot only with its switch bit. -/
  | padding (sw : Bool)
  /-- ISSUE_SLOT (R222). A partition picks one ready team's word for an issue slot. -/
  | issueSlot (core part : Nat)
  /-- TICK (R334). Each tick every zone collector sends its clear-through on the echo network. -/
  | tick (t : TickArgs)
  /-- SENSOR_DISTURBANCE (R333). A sensor latches a disturbance and reports a strike notice to its collector. -/
  | sensorDisturbance (zone kind sensor stamp : Nat)
  /-- STORAGE_CHECK_ERROR (R351). An uncorrectable parity or ECC error raises a kind-4 notice or an ACCESS trap. -/
  | storageCheckError (e : StorageError)
  /-- CHECK_EVENT (R134). A residue mismatch raises a check event handled as a strike notice. -/
  | checkEvent (team : Nat) (addr : DWord) (computed checked : Nat)
  /-- NOTICE_RECEIVED (R344). A die receiving a notice squashes every exposed uncleared region. -/
  | noticeReceived (die : Nat) (n : Notice)
  /-- CLEAR_THROUGH_RECEIVED (R343). A received clear-through clears every region whose conditions now hold. -/
  | clearThroughReceived (die zone c : Nat)
  /-- OUTBOUND_DRAIN (R144). Outbound write-buffer entries drain to their owning slice. -/
  | outboundDrain (core n : Nat)
  /-- CLEARANCE_TIMEOUT (R347). Cross-die clearance missing after T_CLR counts as a strike. -/
  | clearanceTimeout (what : TimeoutOf)
  /-- TICK_CHECK (R349). Every 1,024 ticks each die compares its counter with the hub's. -/
  | tickCheck (die : Nat)
  /-- DIE_FAILED (R350). The hub watchdog declares a die failed and aborts its grids. -/
  | dieFailed (unit : FailedUnit)
  /-- LINK_FLIT_ERROR (R304). A flit failing its CRC is replayed; 16 failures take the link down. -/
  | linkFlitError (link : Link) (again : Bool)
  /-- ATOM_PENDING_END (R160). A pending word's window passes and the atomic's value becomes visible and returns. -/
  | atomPendingEnd (id : Nat)
  /-- MEMORY_RESPONSE (R152). Data of a long-latency access returns and writes its destination. -/
  | memoryResponse (team acc : Nat) (lanes : Mask) (useCache : Bool)
  /-- LANE_REPLAY (R152). Answered faults or resolved cells replay unfinished lanes in program order. -/
  | laneReplay (team : Nat)
  /-- ENGINE_REQUEST_START (R170). A copy engine starts a released request. -/
  | engineRequestStart (op : Nat)
  /-- CHUNK_READ (R174). A chunk is read into the staging buffer and gathers tags. -/
  | chunkRead (op : Nat)
  /-- CHUNK_COMMIT (R174). A chunk whose tags cleared is written to its destination. -/
  | chunkCommit (op chunk : Nat)
  /-- GOUR_FILL_ACCEPT (R186). The gour unit accepts a queued fill once a slot is free. -/
  | gourFillAccept (obj : ObjRef)
  /-- GOUR_RELEASE_APPLY (R186). A queued release is counted once RIDX reaches its sequence. -/
  | gourReleaseApply (obj : ObjRef)
  /-- PLINIT_APPLY (R186). A released PLINIT applies once WIDX equals CIDX. -/
  | plinitApply (obj : ObjRef)
  /-- WAIT_CONDITION_MET (R179). A parked team's wait condition holds and it re-tests and proceeds. -/
  | waitConditionMet (team : Nat)
  /-- CONTINUATION_RUN (R212). The lantern runs the next queued continuation. -/
  | continuationRun (core : Nat)
  /-- GEODE_WAKE (R257). A wake from a walked chain reaches a waiting team. -/
  | geodeWake (team : Nat) (cell : Nat)
  /-- OPEN_BUFFER_RETRY (R254). A load waiting for a free open-buffer entry retries when one frees. -/
  | openBufferRetry (team : Nat)
  /-- EVALUATOR_PLACE (R255). The evaluator of an opened cell is placed on the chosen die. -/
  | evaluatorPlace (stack entry : Nat)
  /-- EVAL_SLOT_TIMEOUT (R226). An evaluator or task team waiting 16,384 ticks for a slot forces one pre-emption. -/
  | evalSlotTimeout (who : Waiting)
  /-- TASK_TEAM_FORM (R225). The task dispatcher drains a bin and forms task teams. -/
  | taskTeamForm (die : Nat)
  /-- LAUNCH_RECORD_READ (R213). The dispatcher reads the next launch record and increments RIDX. -/
  | launchRecordRead (src : LaunchSource)
  /-- BLOCK_PLACE (R218). A pending block is placed on a fitting eligible cluster and its teams start. -/
  | blockPlace (block : Nat)
  /-- COMPLETION_RECORD (R217). The dispatcher writes the grid's completion record. -/
  | completionRecord (grid : Nat)
  /-- PREEMPT (R313). A pending block that fits nowhere stops chosen victim blocks. -/
  | preempt (block : Nat)
  /-- STOP_ACKNOWLEDGED (R315). All units acknowledge a stop and the save begins. -/
  | stopAcknowledged (block : Nat)
  /-- ACK_TIMEOUT (R315). A missing acknowledgement at T_ACK resets the cluster. -/
  | ackTimeout (block : Nat) (unit : Nat)
  /-- SAVE_COMPLETE (R316). A block image has committed and the clusters free. -/
  | saveComplete (block : Nat)
  /-- BLOCK_RESTORE (R320). A saved block is restored onto a fitting cluster. -/
  | blockRestore (block : Nat)
  /-- MIGRATION_PLACE (R269). A saved migrating block is placed and restored on a column cluster. -/
  | migrationPlace (block : Nat)
  /-- LOAD_VALUE_QUEUE_TAKE (R365). The trailing copy takes the leader's value in program order. -/
  | loadValueQueueTake (team : Nat)
  /-- SIGNATURE_COMPARE (R368). Paired region signatures are compared before the leader's region clears. -/
  | signatureCompare (team : Nat)
  /-- FIELD_TEST_STEP (R372). A structural test step runs in idle time. -/
  | fieldTestStep (cluster unit : Nat) (pass : Bool)
  /-- FIELD_TEST_QUEUE (R373). A queued or failed cluster is drained, fully tested and cleared or disabled. -/
  | fieldTestQueue (cluster unit : Nat) (pass : Bool)
  /-- POWER_INTERVAL (R323). Every 10 us the controller measures draw and sets ration levels. -/
  | powerInterval (d : DrawSample)
  /-- LEASE_RECORD (R325). A rack lease record is checked and accepted or ignored. -/
  | leaseRecord (rackTime : DWord) (rec : List Byte)
  /-- LEASE_EXPIRY (R326). An accepted lease expires and the target falls to FLOOR. -/
  | leaseExpiry (rackTime : DWord)
  /-- PACKAGE_RESET (R22). The hub leaves reset and the tick count starts at 0. -/
  | packageReset
  /-- LAUNCH_QUEUE_ENABLE (R213). Setting EN checks the queue and zeroes WIDX and RIDX. -/
  | launchQueueEnable (func queue : Nat) (val : Word)
  /-- LAUNCH_QUEUE_DISABLE (R213). Clearing EN stops the dispatcher reading further records. -/
  | launchQueueDisable (func queue : Nat) (val : Word)
  /-- LAUNCH_QUEUE_WIDX (R213). A WIDX write posts records or halts the queue on overflow. -/
  | launchQueueWidx (func queue : Nat) (val : Word)
  /-- INVALIDATE (R297). INVCTL GO starts a TLB invalidation, optionally flushing. -/
  | invalidate (func : Nat) (val : Word)
  /-- INVALIDATION_COMPLETE (R297). Matching entries dropped and probed entries performed; BUSY clears. -/
  | invalidationComplete (func : Nat)
  /-- ATS_INVALIDATE (R298). A host ATS Invalidate Request runs as an invalidation command. -/
  | atsInvalidate (pasid : Nat) (va : DWord) (bytes : Nat)
  /-- ATS_COMPLETION (R298). An ATS or PRI response fills the TLB or fails the access. -/
  | atsCompletion (c : AtsAnswer)
  /-- RESP_MAPPED (R299). A MAPPED response makes the slice walk again. -/
  | respMapped (func : Nat) (val : Word)
  /-- RESP_FAIL (R299). A FAIL response traps PAGE_FAULT with code 0x10. -/
  | respFail (func : Nat) (val : Word)
  /-- FAULT_TIMEOUT (R300). A fault unanswered for T_FLT traps PAGE_FAULT code 0x12. -/
  | faultTimeout (slice entry : Nat)
  /-- APERTURE_READ (R302). A host BAR2 read acts on a device-half address. -/
  | apertureRead (func off bytes : Nat)
  /-- APERTURE_WRITE (R302). A host BAR2 posted write is performed once its hub tag clears. -/
  | apertureWrite (func off : Nat) (data : List Byte)
  /-- PARTITION_ENABLE (R308). Setting a partition's EN checks its record. -/
  | partitionEnable (part : Nat) (val : Word)
  /-- PARTITION_DISABLE (R308). Clearing EN pre-empts, discards images and aborts the partition's grids. -/
  | partitionDisable (part : Nat) (val : Word)
  /-- SUSPEND (R312). Writing SUSPEND 1 saves every resident block of the partition. -/
  | suspend (part : Nat) (val : Word)
  /-- SUSPEND_CLEAR (R321). Writing SUSPEND 0 makes the saved blocks pending. -/
  | suspendClear (part : Nat) (val : Word)
  /-- ATTESTATION_REQUEST (R331). GO starts writing and signing an attestation report. -/
  | attestationRequest (func : Nat) (val : Word)
  /-- TRACE_ENABLE (R363). A write of EN with SIZE checked enables the trace ring. -/
  | traceEnable (func : Nat) (val : Word)
  /-- DUMP_WRITE (R374). Firmware writes a core dump for an aborted grid while armed. -/
  | dumpWrite (func : Nat)
  /-- CHECKPOINT_GO (R379). GO checks a step-boundary stop request and starts waiting. -/
  | checkpointGo (val : Word)
  /-- CHECKPOINT_ABORT (R379). ABORT ends a wait for the step word. -/
  | checkpointAbort (val : Word)
  /-- STEP_WORD_POLL (R377). Every 1,050 ticks the step word is read; reaching S suspends and copies shards. -/
  | stepWordPoll
  /-- STOPPART (R390). Freezes every resident team of one partition. -/
  | stoppart (func : Nat) (cmd : Word)
  /-- STOPCLUS (R390). Broadcasts a freeze of a whole cluster. -/
  | stopclus (func : Nat) (cmd : Word)
  /-- RESUME (R391). Releases every frozen partition of a cluster. -/
  | resume (func : Nat) (cmd : Word)
  /-- STEP (R393). Issues exactly one word of a frozen team and freezes it again. -/
  | step (func : Nat) (cmd : Word)
  /-- STEPTRAP (R393). Steps one word then takes the STEP trap. -/
  | steptrap (func : Nat) (cmd : Word)
  /-- INSPECT (R398). Writes a frozen team's image and pending section. -/
  | inspect (func : Nat) (cmd : Word)
  /-- SAVE (R399). Writes a frozen team's stored image once its regions clear. -/
  | save (func : Nat) (cmd : Word)
  /-- LOAD (R399). Checks a stored image and replaces the frozen team's state. -/
  | load (func : Nat) (cmd : Word)
  /-- DEBUG_DISABLE (R389). Clearing EN resumes the function's stopped clusters. -/
  | debugDisable (func : Nat) (val : Word)
  /-- SAMPLE_RECORD (R400). A sampled memory instruction's record is written when it completes. -/
  | sampleRecord (idx : Nat)
  /-- REGISTER_WRITE (R4). A write to a register with no row of its own stores its fields. -/
  | registerWrite (func off : Nat) (val : Word)
  /-- LONG_LATENCY_RESULT (R28). A transcendental, MMA, MMAM, QMOV, counter GETSR or matrix array operation finishes and writes its destination or retires. -/
  | longLatencyResult (team id : Nat) (lanes : Mask)
  /-- PROBE_RESPONSE (R153). A store's probe answer returns from the owning slice, allowing its entry to release or recording a fault for the parking point. -/
  | probeResponse (team entry : Nat)
  /-- REMOTE_ACCESS (R305). An access or data frame from another package arrives over a device link and is staged, tagged and translated at this package's owning slice. -/
  | remoteAccess (r : RemoteReq)
  /-- CORRECTABLE_ECC_ERROR (R333). A correctable ECC error is corrected in place and counted per zone by the management controller, with no notice. -/
  | correctableEccError (zone : Nat)
deriving DecidableEq, Repr

end Sys2Proof
end

