-- ==== Sys2Proof/WellFormed.lean ====
section
/-! DEFINITION. Which field values each entry lists: step 1 of the decode order (R49), with R32–R38, R82 and the
entries' own tables. A word whose fields are not well-formed here is a reserved encoding and traps ILLEGAL_OP.
Checks that R49 places later (capability, operand values, pair rules, allotment) are not here: Machine/Ops.lean. -/

namespace Sys2Proof

/-- No extension form (R38). -/
def noExt (e : Option Ext) : Bool := e.isNone

/-- An optional extension whose IMM32 replaces B, so B, XC and C are 0 (R37, R38). -/
def immForB (b : BitVec 11) : Option Ext → Bool
  | none => true
  | some e => b == 0 && e.xc == 0 && e.c == 0

/-- An optional extension that carries only IMM32 beside the other operands (an offset, a time-out). -/
def immOnly : Option Ext → Bool
  | none => true
  | some e => e.xc == 0 && e.c == 0

/-- Membership of a type code in an entry's list. -/
def tyIn (ty : BitVec 4) (l : List Nat) : Bool := l.contains ty.toNat

namespace FullA

/-- RM, NA, AA, NB and AB are all 0 (R33). -/
def noMods (w : FullA) : Bool := w.rm == 0 && !w.na && !w.aa && !w.nb && !w.ab

/-- An integer entry: its types, SUB = 0, modifiers 0, IMM32 may stand for B. -/
def intBin (w : FullA) (tys : List Nat) : Bool :=
  tyIn w.ty tys && w.noMods && w.sub == 0 && immForB w.b w.ext

/-- A unary integer entry without extension. -/
def intUn (w : FullA) (tys : List Nat) : Bool :=
  tyIn w.ty tys && w.noMods && w.sub == 0 && w.b == 0 && noExt w.ext

/-- A shift entry: SUB[0] is the wrap bit where the entry has one (R89). -/
def shift (w : FullA) (maxSub : Nat) : Bool :=
  tyIn w.ty [0, 1, 2, 3, 4, 5, 13, 14] && w.noMods && w.sub.toNat ≤ maxSub && immForB w.b w.ext

/-- A unary transcendental: NB and AB 0, B = 0, SUB = 0, no extension (R99). -/
def transc (w : FullA) (tys : List Nat) (rm : Bool) : Bool :=
  tyIn w.ty tys && (rm || w.rm == 0) && !w.nb && !w.ab && w.b == 0 && w.sub == 0 && noExt w.ext

end FullA

/-- Elements of a type code (R101). -/
def elemCount (ty : BitVec 4) : Nat :=
  match ty.toNat with
  | 2 | 3 | 7 | 8 => 2
  | 4 | 5 | 10 | 11 | 12 => 4
  | _ => 1

/-- A float type code: 6–12 (Table 2.5). -/
def isFloatTy (ty : BitVec 4) : Bool := 6 ≤ ty.toNat && ty.toNat ≤ 12

namespace FullC

/-- DT, ST, RM are 0. -/
def plain (w : FullC) : Bool := w.dt == 0 && w.st == 0 && w.rm == 0

/-- CVT's field rules (Tables 4.7, 4.8; R63: an MK8 result takes RM = 0). -/
def cvt (w : FullC) : Bool :=
  w.dt != 15 && w.st != 15 && noExt w.ext &&
  (let nd := elemCount w.dt
   let ns := elemCount w.st
   if nd == ns then w.b == 0 && w.sub == 0
   else if nd == 2 * ns then w.sub == 0
   else if nd == 4 * ns then w.sub.toNat ≤ 1
   else if 2 * nd == ns then w.b == 0 && w.sub.toNat ≤ 1
   else w.b == 0 && w.sub.toNat ≤ 3) &&
  (w.rm == 0 || (w.dt != 10 && (isFloatTy w.dt || isFloatTy w.st)))

/-- The accepted ST → DT pairs of CVTSR (R102). -/
def cvtsrPair (st dt : Nat) : Bool :=
  (st == 6 && [7, 8, 10, 11, 12].contains dt) || ((st == 7 || st == 8) && [10, 11, 12].contains dt) ||
  (st == 9 && [6, 7, 8].contains dt)

/-- CVTSR's field rules (R102). -/
def cvtsr (w : FullC) : Bool :=
  cvtsrPair w.st.toNat w.dt.toNat && w.rm == 0 &&
  (let k := elemCount w.dt / elemCount w.st
   if k == 1 then w.sub == 0 && noExt w.ext
   else (match w.ext with
     | none => false
     | some e => e.xc == 0 && e.imm == 0) && (if k == 4 then w.sub.toNat ≤ 1 else w.sub == 0))

/-- REDUX and SCAN (R107). -/
def reduce (w : FullC) : Bool :=
  w.dt == w.st && w.sub.toNat ≤ 5 && w.b == 0 && noExt w.ext &&
  (if w.dt == 6 then w.sub.toNat ≤ 2 && (w.sub == 0 || w.rm == 0)
   else tyIn w.dt [0, 1, 13, 14] && w.rm == 0)

end FullC

namespace FullX

/-- The fields that LDF, QLD and QST alone use, and the mode bits, are 0. -/
def bare (w : FullX) : Bool := !w.part && !w.x2 && !w.perm && !w.low

/-- MMA and MMAM (R120). -/
def mma (w : FullX) : Bool := w.fmt.toNat ≤ 5 && w.bare && w.set == 0 && w.space == 0

/-- MOD is 0. -/
def zeroMod (w : FullX) : Bool := w.fmt == 0 && !w.acc && !w.any && w.bare && w.set == 0 && w.space == 0

/-- QLD and QST (R128). -/
def move (w : FullX) : Bool := w.fmt == 0 && !w.acc && !w.any && w.bare && immOnly w.ext

/-- LDF (R124, R125). -/
def ldf (w : FullX) : Bool :=
  w.fmt.toNat ≤ 3 && !w.any && !w.part && !w.x2 && !w.low &&
  match w.ext with
  | none => false
  | some e => if w.perm then e.xc.toNat < 128 else e.xc == 0

end FullX

namespace FullM

/-- RP is accepted only in `.g`, with ORD 1 or 3 and scope `.clus` or wider (R155). -/
def rpOk (w : FullM) : Bool := !w.rp || (w.space == 0 && (w.ord == 1 || w.ord == 3) && 2 ≤ w.scope.toNat)

/-- The sign-extension bit stands only on sub-word loads, and SUB[1] is 0 (R156). -/
def sxOk (w : FullM) : Bool := w.sub == 0 || (w.sub == 1 && w.width.toNat ≤ 1)

/-- The plain accesses (Table 6.6). -/
def plain (w : FullM) (ord : Nat) : Bool :=
  w.width.toNat ≤ 4 && w.scope.toNat ≤ 5 && w.ord.toNat == ord && !w.nr && immOnly w.ext

/-- The operation and type pairs of Table 6.7. -/
def atomPair (op ty : Nat) : Bool :=
  match op with
  | 0 => [0, 1, 13, 14, 6, 7, 8].contains ty
  | 1 | 2 => [0, 1, 13, 14, 6].contains ty
  | 3 | 4 | 5 => [0, 1, 13, 14].contains ty
  | 6 => [0, 1, 6, 13, 14].contains ty
  | 7 | 8 => ty == 1
  | _ => false

/-- ATOM (R158, R159). -/
def atom (w : FullM) : Bool :=
  w.scope.toNat ≤ 5 && w.sub == 0 && w.rpOk &&
  (match w.ext with
   | none => false
   | some e =>
     let op := (e.xc.extractLsb' 0 4).toNat
     let ty := (e.xc.extractLsb' 4 4).toNat
     e.xc.toNat < 256 && atomPair op ty &&
     w.width.toNat == (if ty == 13 || ty == 14 then 3 else 2)) &&
  (if w.nr then (w.ord == 0 || w.ord == 2) && w.d == 0 && !w.rp else true)

/-- CAS (R162): XC[53:43] is an operand, XC[60:54] and bit 61 are 0. -/
def cas (w : FullM) : Bool :=
  w.scope.toNat ≤ 5 && w.sub == 0 && w.rpOk && !w.nr && (w.width == 2 || w.width == 3) &&
  match w.ext with
  | none => false
  | some e => e.xc.toNat < 2048

/-- FENCE (R163). -/
def fence (w : FullM) : Bool :=
  w.space == 0 && w.width == 0 && w.scope.toNat ≤ 5 && w.ord != 0 && !w.rp && !w.nr &&
  (w.sub == 0 || (w.sub == 1 && w.ord == 3)) && w.d == 0 && w.a == 0 && w.b == 0 && noExt w.ext

/-- PF (R164). -/
def pf (w : FullM) : Bool :=
  w.space == 0 && w.width == 0 && w.scope.toNat ≤ 5 && w.ord == 0 && !w.rp && !w.nr && w.sub.toNat ≤ 1 &&
  w.d == 0 && immOnly w.ext

/-- TMOV (R165). -/
def tmov (w : FullM) : Bool :=
  w.space != 0 && w.sub != 0 && w.width == 0 && w.scope == 0 && w.ord == 0 && !w.rp && !w.nr && noExt w.ext

/-- SINV (R166). -/
def sinv (w : FullM) : Bool :=
  w.space != 0 && w.sub == 0 && w.width == 0 && w.scope == 0 && w.ord == 0 && !w.rp && !w.nr && w.d == 0 &&
  immOnly w.ext

/-- GDEF, GRES and GPSN, by SUB (R264). -/
def cell (w : FullM) (sub : Nat) : Bool :=
  w.space == 0 && w.width == 0 && w.scope == 4 && w.ord == 0 && !w.rp && !w.nr && w.sub.toNat == sub && immOnly w.ext

end FullM

namespace FullE

/-- SRCREC, DSTREC and CNT are 0. -/
def bare (w : FullE) : Bool := w.src == 0 && w.dst == 0 && w.cnt == 0

/-- SUB names a space from 1 to `hi` (Table 7.7). -/
def spaceTo (w : FullE) (hi : Nat) : Bool := 1 ≤ w.sub.toNat && w.sub.toNat ≤ hi

/-- COPY's and GATHER's extension: a barrier space in XC[44:43], its offset in IMM32 (Table 7.7). -/
def barrierExt (digest : Bool) : Option Ext → Bool
  | none => true
  | some e => e.xc.toNat ≤ 3 && (e.xc != 0 || e.imm == 0) && (digest || e.c == 0)

end FullE

namespace FullT

/-- PRED is 0 (R228). -/
def pred0 (w : FullT) : Bool := w.hd.pred == 0

/-- A relative branch's offset: OFF14, or IMM32 with OFF14 = 0 (R35). -/
def offset (w : FullT) : Bool :=
  match w.ext with
  | none => true
  | some e => w.off == 0 && e.xc == 0 && e.c == 0

/-- SPLIT (R234). -/
def split (w : FullT) : Bool :=
  w.d == 0 && 2 ≤ w.b.toNat &&
  match w.ext with
  | none => true
  | some e =>
    let nv := (e.xc.extractLsb' 0 5).toNat
    let s0 := (e.xc.extractLsb' 5 7).toNat
    let ns := (e.xc.extractLsb' 12 5).toNat
    e.imm == 0 && e.xc.toNat < 131072 && nv ≤ 16 && ns ≤ 16 && nv + ns ≤ 16 && s0 + ns ≤ 128 &&
    (ns != 0 || s0 == 0) && (if nv == 0 then e.c == 0 else e.c.toNat < 0x600)

end FullT

/-- The special registers that Tables 18.4 and 21.4 list. -/
def sregListed (n : Nat) : Bool :=
  n ≤ 4 || (0x008 ≤ n && n ≤ 0x00B) || (0x010 ≤ n && n ≤ 0x013) || n == 0x018 || (0x020 ≤ n && n ≤ 0x026) ||
  (0x100 ≤ n && n ≤ 0x107)

/-- The special registers that Table 18.4 marks RO. -/
def sregReadOnly (n : Nat) : Bool :=
  n == 3 || n == 4 || (0x008 ≤ n && n ≤ 0x00B) || (0x010 ≤ n && n ≤ 0x013)

/-- A special register as wide as the team: a lane mask (Table 18.1). -/
def sregIsMask (n : Nat) : Bool := n == 0x025 || n == 0x026

/-- A 64-bit special register (Tables 18.1, 18.4, 21.4). -/
def sregIsWide (n : Nat) : Bool :=
  n == 0x013 || n == 0x018 || n == 0x020 || n == 0x023 || (0x100 ≤ n && n ≤ 0x103)

namespace FullS

/-- An optional extension whose IMM32 replaces A. -/
def immForA (w : FullS) : Bool :=
  match w.ext with
  | none => true
  | some e => w.a == 0 && e.xc == 0 && e.c == 0

/-- GETSR (R358). -/
def getsr (w : FullS) : Bool :=
  w.hd.pred == 0 && w.a == 0 && w.b == 0 && w.sub == 0 && noExt w.ext && sregListed w.sreg.toNat

/-- SETSR (R359). IMM32 stands for a 32-bit or 64-bit register's value, not for a mask register's. -/
def setsr (w : FullS) : Bool :=
  w.hd.pred == 0 && w.d == 0 && w.b == 0 && w.sub == 0 && sregListed w.sreg.toNat && !sregReadOnly w.sreg.toNat &&
  w.immForA && (w.ext.isNone || !sregIsMask w.sreg.toNat)

/-- TRAP and BRK (R360). -/
def trap (w : FullS) : Bool := w.d == 0 && w.b == 0 && w.sreg == 0 && w.sub == 0 && w.immForA

/-- LANERD and LANEWR (R362). -/
def lane (w : FullS) : Bool := w.hd.pred == 0 && w.sreg == 0 && w.sub.toNat ≤ 1 && noExt w.ext

/-- MIGR, by SUB (R275). -/
def migr (w : FullS) (sub : Nat) : Bool :=
  w.sreg == 0 && w.d == 0 && w.b == 0 && w.sub.toNat == sub && noExt w.ext

/-- CAPQ, by SUB (R276). -/
def capq (w : FullS) (sub : Nat) : Bool := w.sreg == 0 && w.b == 0 && w.sub.toNat == sub && noExt w.ext

end FullS

/-- How a pair operation uses its slot's fields (R40). -/
inductive PopForm where
  | nop | regForm | immN | immI | shiftImm | constForm
deriving DecidableEq, Repr

/-- The form of each assigned POP (Table 2.8); none for 0x31–0x3F. -/
def popForm (p : Nat) : Option PopForm :=
  if p == 0x00 then some .nop
  else if p == 0x02 then some .immI
  else if [0x04, 0x06, 0x0D, 0x0F, 0x11].contains p then some .immN
  else if [0x15, 0x17, 0x19, 0x1A].contains p then some .shiftImm
  else if [0x21, 0x24, 0x2E].contains p then some .constForm
  else if p ≤ 0x30 then some .regForm
  else none

/-- A slot's fields are those its form uses; every other field is 0 (R40). -/
def Slot.wellFormed (t : Slot) : Bool :=
  match popForm t.pop.toNat with
  | none => false
  | some .nop => t.d == 0 && t.a == 0 && t.m == 0
  | some .regForm => t.m == 0
  | some .immN | some .immI => t.a == 0
  | some .shiftImm => t.a == 0 && t.m.toNat < 32
  | some .constForm => t.a == 0 && t.m.toNat < 64

/-- A head mark's declared figures are within their limits (R44). -/
def HeadMark.wellFormed (m : HeadMark) : Bool := m.ndest.toNat ≤ 64 && m.nshadow.toNat ≤ 8

/-- Step 1 of R49 for each row: every field value is one the row's entry lists. Event rows carry no encoding. -/
def Instr.wellFormed : Instr → Bool
  | .nop w => w.d == 0 && w.a == 0 && w.b == 0 && w.ty == 0 && w.noMods && w.sub == 0 && noExt w.ext
  | .mov w => w.intUn [0, 13]
  | .ldi w => tyIn w.ty [0, 13, 14] && w.noMods && w.sub == 0 && w.a == 0 && w.ext.isSome && immForB w.b w.ext
  | .sel w => tyIn w.ty [0, 13] && w.noMods && w.sub.toNat ≤ 7 && immForB w.b w.ext
  | .iadd w | .isub w | .imul w | .imad w | .imin w | .imax w | .iadds w => w.intBin [0, 1, 2, 3, 4, 5]
  | .imulh w => w.intBin [0, 1, 2, 3]
  | .iabs w => w.intUn [0, 2, 4]
  | .ineg w => w.intUn [0, 1, 2, 3, 4, 5]
  | .and w | .or w | .xor w | .andn w => w.intBin [0, 1, 13, 14]
  | .not w => w.intUn [0, 1, 13, 14]
  | .shl w | .shr w | .sar w => w.shift 1
  | .rotl w => w.shift 0
  | .bfx w | .bfi w | .permb w => w.intBin [0, 1]
  | .popc w | .clz w | .brev w => w.intUn [0, 1]
  | .icmp w =>
    w.noMods && immForB w.b w.ext && (w.sub.toNat % 8) ≤ 5 &&
    (if w.sub.toNat < 8 then tyIn w.ty [0, 1] else tyIn w.ty [0, 1, 2, 3, 4, 5])
  | .icmp64 w => tyIn w.ty [13, 14] && w.noMods && immForB w.b w.ext && w.sub.toNat ≤ 5
  | .lea w => tyIn w.ty [0, 1] && w.noMods && immForB w.b w.ext && w.sub.toNat ≤ 3
  | .iadd64 w | .isub64 w => w.intBin [13, 14]
  | .dot4 w => w.intBin [4, 5]
  | .fadd w | .fsub w | .fmul w => tyIn w.ty [6, 7, 8, 9] && w.sub == 0 && immForB w.b w.ext
  | .ffma w => tyIn w.ty [6, 7, 8, 9] && w.sub == 0 && noExt w.ext
  | .ffmax w =>
    tyIn w.ty [6, 7, 8, 9] && w.sub == 0 &&
    (match w.ext with
     | none => false
     | some e => e.xc.toNat ≤ 3 && e.imm == 0)
  | .fmin w | .fmax w => tyIn w.ty [6, 7, 8, 9] && w.rm == 0 && w.sub == 0 && immForB w.b w.ext
  | .fcmp w =>
    w.rm == 0 && immForB w.b w.ext && (if w.sub.toNat < 8 then tyIn w.ty [6, 9] else tyIn w.ty [6, 7, 8, 9])
  | .fclass w =>
    w.noMods && immForB w.b w.ext &&
    ((w.sub == 0 && tyIn w.ty [6, 9]) || (w.sub == 8 && tyIn w.ty [6, 7, 8, 9]))
  | .frcp w | .fsqrt w => w.transc [6, 7, 8, 9] true
  | .frsq w | .fex2 w | .flg2 w | .fsin w | .fcos w | .ftanh w => w.transc [6, 7, 8] false
  | .frnd w => tyIn w.ty [6, 7, 8, 9] && !w.nb && !w.ab && w.b == 0 && w.sub.toNat ≤ 1 && noExt w.ext
  | .cvt w => w.cvt
  | .cvtsr w => w.cvtsr
  | .bscale w =>
    tyIn w.dt [10, 11, 12] && tyIn w.st [6, 7, 8] && w.b == 0 && w.rm == 0 && !w.sat && w.sub == 0 && noExt w.ext
  | .shfl w => w.dt == w.st && tyIn w.dt [0, 13] && w.rm == 0 && !w.sat && w.sub.toNat ≤ 3 && noExt w.ext
  | .bcast w =>
    w.dt == w.st && tyIn w.dt [0, 13] && w.rm == 0 && !w.sat && w.sub.toNat ≤ 1 && (w.sub == 0 || w.b == 0) && noExt w.ext
  | .vote w => w.plain && w.b == 0 && w.sub.toNat ≤ 3 && (w.sub != 3 || !w.sat) && noExt w.ext
  | .redux w | .scan w => w.reduce
  | .elect w => w.plain && w.a == 0 && w.b == 0 && w.sub == 0 && noExt w.ext
  | .kand w | .kor w | .kxor w => w.plain && w.sub == 0 && !w.sat && noExt w.ext
  | .knot w => w.plain && w.b == 0 && w.sub == 0 && !w.sat && noExt w.ext
  | .kmov w => w.plain && w.b == 0 && w.sub.toNat ≤ 2 && !w.sat && noExt w.ext
  | .kpop w | .kfirst w =>
    w.plain && w.b == 0 && w.sub == 0 && noExt w.ext && (w.sat || !(0x700 ≤ w.d.toNat && w.d.toNat < 0x780))
  | .mma w => w.mma && noExt w.ext
  | .mmam w =>
    w.mma && (match w.ext with
      | none => false
      | some e => e.c == 0 && e.imm == 0 && e.xc.toNat < 512)
  | .mmq w =>
    w.fmt.toNat ≤ 5 && !w.any && !w.perm && !w.low && w.space == 0 && !(w.part && w.acc) && noExt w.ext
  | .qscale w =>
    w.zeroMod && (match w.ext with
      | none => false
      | some e => e.xc == 0 && e.imm == 0)
  | .qzero w => w.zeroMod && w.a == 0 && w.b == 0 && noExt w.ext
  | .qadd w => (w.fmt == 0 || w.fmt == 3) && !w.acc && !w.any && w.bare && w.set == 0 && w.space == 0 && noExt w.ext
  | .qcvt w =>
    w.fmt.toNat ≤ 5 && (w.fmt != 3 || !w.any) && !w.acc && w.bare && w.set == 0 && w.space == 0 && w.b == 0 && noExt w.ext
  | .qld w | .qst w => w.move
  | .qmov w => w.fmt == 0 && !w.acc && !w.any && w.bare && w.space == 0 && w.b == 0 && noExt w.ext
  | .ldf w => w.ldf
  | .ld w => w.plain 0 && !w.rp && w.sxOk
  | .lda w => w.plain 1 && w.rpOk && w.sxOk
  | .st w => w.plain 0 && !w.rp && w.sub == 0
  | .stl w => w.plain 2 && !w.rp && w.sub == 0
  | .atom w => w.atom
  | .cas w => w.cas
  | .fence w => w.fence
  | .pf w => w.pf
  | .tmov w => w.tmov
  | .sinv w => w.sinv
  | .copy w => w.d == 0 && w.a == 0 && w.b == 0 && w.sub == 0 && FullE.barrierExt true w.ext
  | .gather w => w.d == 0 && w.spaceTo 3 && FullE.barrierExt false w.ext
  | .waitc w => w.d == 0 && w.b == 0 && w.src == 0 && w.dst == 0 && w.sub == 0 && noExt w.ext
  | .plinit w =>
    w.d == 0 && w.bare && w.spaceTo 2 && (match w.ext with
      | none => false
      | some e => e.xc == 0 && e.imm.toNat < 2 ^ 24)
  | .plfill w => w.d == 0 && w.b == 0 && w.dst == 0 && w.spaceTo 2 && noExt w.ext
  | .plwait w => w.bare && w.spaceTo 2 && noExt w.ext
  | .plrel w => w.d == 0 && w.bare && w.spaceTo 2 && noExt w.ext
  | .arrive w | .binit w => w.d == 0 && w.bare && w.spaceTo 3 && noExt w.ext
  | .bwait w => w.bare && w.spaceTo 3 && noExt w.ext
  | .bra w => w.pred0 && w.d == 0 && w.a == 0 && w.b == 0 && w.offset
  | .brc w => w.pred0 && w.d == 0 && w.b.toNat ≤ 5 && w.offset
  | .brx w => w.pred0 && w.d == 0 && w.b == 0 && w.off == 0 && noExt w.ext
  | .call w => w.pred0 && w.a == 0 && w.b == 0 && w.offset
  | .ret w | .join w | .barg w | .exit w =>
    w.pred0 && w.d == 0 && w.a == 0 && w.b == 0 && w.off == 0 && noExt w.ext
  | .split w => w.pred0 && w.split
  | .barb w => w.pred0 && w.d == 0 && w.off == 0 && immForB w.b w.ext
  | .bard w | .yield w | .launch w => w.pred0 && w.d == 0 && w.b == 0 && w.off == 0 && noExt w.ext
  | .waitv w => w.pred0 && (w.off.toNat % 64) == 0 && (w.off.toNat / 64 % 8) ≤ 5 && immOnly w.ext
  | .spawn w => w.pred0 && w.d == 0 && 0x782 ≤ w.b.toNat && w.b.toNat ≤ 0x790 && w.offset
  | .rega w | .regr w => w.pred0 && w.d == 0 && w.b == 0 && w.off == 0 && immForB w.a w.ext
  | .getsr w => w.getsr
  | .setsr w => w.setsr
  | .trap w | .brk w => w.trap
  | .rte w => w.hd.pred == 0 && w.d == 0 && w.a == 0 && w.b == 0 && w.sreg == 0 && w.sub == 0 && noExt w.ext
  | .lanerd w | .lanewr w => w.lane
  | .capq w => w.capq 0
  | .capqPart w => w.capq 1
  | .migrCaps w => w.migr 0
  | .migrReq w => w.migr 1
  | .migrPin w => w.migr 2 && w.a == 0
  | .migrUnpin w => w.migr 3 && w.a == 0
  | .gdef w => w.cell 0
  | .gres w => w.cell 0
  | .gresSet w => w.cell 1
  | .gpsn w => w.cell 0
  | .gpsnSet w => w.cell 1
  | .gqry w =>
    w.space == 0 && w.width == 2 && w.scope.toNat ≤ 5 && w.ord == 0 && !w.rp && !w.nr && w.sub == 0 && immOnly w.ext
  | .ldn w => w.plain 0 && w.space == 0 && !w.rp && w.sxOk
  | .trace w => w.d == 0 && w.sreg == 0 && w.sub == 0 && immForB w.b w.ext
  | .pair w => w.s0.wellFormed && w.s1.wellFormed
  | .regionHead m | .regionHeadYield m => m.wellFormed
  | .padding _ => true
  | .issueSlot _ _ => true
  | .tick _ => true
  | .sensorDisturbance _ _ _ _ => true
  | .storageCheckError _ => true
  | .checkEvent _ _ _ _ => true
  | .noticeReceived _ _ => true
  | .clearThroughReceived _ _ _ => true
  | .outboundDrain _ _ => true
  | .clearanceTimeout _ => true
  | .tickCheck _ => true
  | .dieFailed _ => true
  | .linkFlitError _ _ => true
  | .atomPendingEnd _ => true
  | .memoryResponse _ _ _ _ => true
  | .laneReplay _ => true
  | .engineRequestStart _ => true
  | .chunkRead _ => true
  | .chunkCommit _ _ => true
  | .gourFillAccept _ => true
  | .gourReleaseApply _ => true
  | .plinitApply _ => true
  | .waitConditionMet _ => true
  | .continuationRun _ => true
  | .geodeWake _ _ => true
  | .openBufferRetry _ => true
  | .evaluatorPlace _ _ => true
  | .evalSlotTimeout _ => true
  | .taskTeamForm _ => true
  | .launchRecordRead _ => true
  | .blockPlace _ => true
  | .completionRecord _ => true
  | .preempt _ => true
  | .stopAcknowledged _ => true
  | .ackTimeout _ _ => true
  | .saveComplete _ => true
  | .blockRestore _ => true
  | .migrationPlace _ => true
  | .loadValueQueueTake _ => true
  | .signatureCompare _ => true
  | .fieldTestStep _ _ _ => true
  | .fieldTestQueue _ _ _ => true
  | .powerInterval _ => true
  | .leaseRecord _ _ => true
  | .leaseExpiry _ => true
  | .packageReset => true
  | .launchQueueEnable _ _ _ => true
  | .launchQueueDisable _ _ _ => true
  | .launchQueueWidx _ _ _ => true
  | .invalidate _ _ => true
  | .invalidationComplete _ => true
  | .atsInvalidate _ _ _ => true
  | .atsCompletion _ => true
  | .respMapped _ _ => true
  | .respFail _ _ => true
  | .faultTimeout _ _ => true
  | .apertureRead _ _ _ => true
  | .apertureWrite _ _ _ => true
  | .partitionEnable _ _ => true
  | .partitionDisable _ _ => true
  | .suspend _ _ => true
  | .suspendClear _ _ => true
  | .attestationRequest _ _ => true
  | .traceEnable _ _ => true
  | .dumpWrite _ => true
  | .checkpointGo _ => true
  | .checkpointAbort _ => true
  | .stepWordPoll => true
  | .stoppart _ _ => true
  | .stopclus _ _ => true
  | .resume _ _ => true
  | .step _ _ => true
  | .steptrap _ _ => true
  | .inspect _ _ => true
  | .save _ _ => true
  | .load _ _ => true
  | .debugDisable _ _ => true
  | .sampleRecord _ => true
  | .registerWrite _ _ _ => true
  | .longLatencyResult _ _ _ => true
  | .probeResponse _ _ => true
  | .remoteAccess _ => true
  | .correctableEccError _ => true

end Sys2Proof
end

