-- ==== Sys2Proof/Decode.lean ====
section
/-! DEFINITION. The decoder of Jeset words (02_encoding.md, R26, R30–R44, R49 step 1, R55), total on any bytes and rejecting
by name, and after it the encoder written from the same tables. -/

namespace Sys2Proof

/-- Why the bytes at a pc are no instruction: the cases of R49 step 1, and bytes that stop before the word ends. -/
inductive DecodeError where
  | strayExtension     -- a word of kind 10 reached by itself (R38)
  | missingExtension   -- X = 1 and the next word is no extension word (R38)
  | fixedBit           -- a non-zero fixed or reserved bit of a pair or mark word (R39, R44)
  | unassignedOp       -- an OP absent from Table 2.11 (R55)
  | reservedField      -- a field value its entry does not list (R32, R82)
  | reservedMk         -- MK 3–31 (R43)
  | short              -- fewer bytes than the word has
deriving DecidableEq, Repr

/-- Little-endian value of bytes (R3). -/
def leNat : List Byte → Nat
  | [] => 0
  | b :: bs => b.toNat + 256 * leNat bs

/-- The `n` little-endian bytes of a value (R3). -/
def leBytes : Nat → Nat → List Byte
  | 0, _ => []
  | n + 1, v => BitVec.ofNat 8 v :: leBytes n (v / 256)

/-- The field [lo+len-1 : lo] of a word (R3). -/
def fld (w : DWord) (lo len : Nat) : BitVec len := w.extractLsb' lo len

/-- One bit of a word. -/
def bitAt (w : DWord) (i : Nat) : Bool := w.getLsbD i

/-- The shared fields of a full instruction (Table 2.3). -/
def headOf (w : DWord) : Head := { sw := bitAt w 61, pred := fld w 49 3, pn := bitAt w 48 }

/-- An extension word's fields (Table 2.6). -/
def extOf (w : DWord) : Ext := { xc := fld w 43 19, c := fld w 32 11, imm := fld w 0 32 }

/-- Layout A's fields. -/
def fullA (w : DWord) (e : Option Ext) : FullA :=
  { hd := headOf w, d := fld w 37 11, a := fld w 26 11, b := fld w 15 11, ty := fld w 10 4, rm := fld w 8 2,
    na := bitAt w 7, aa := bitAt w 6, nb := bitAt w 5, ab := bitAt w 4, sub := fld w 0 4, ext := e }

/-- Layout C's fields. -/
def fullC (w : DWord) (e : Option Ext) : FullC :=
  { hd := headOf w, d := fld w 37 11, a := fld w 26 11, b := fld w 15 11, dt := fld w 10 4, st := fld w 6 4,
    rm := fld w 4 2, sat := bitAt w 3, sub := fld w 0 3, ext := e }

/-- Layout X's fields. -/
def fullX (w : DWord) (e : Option Ext) : FullX :=
  { hd := headOf w, d := fld w 37 11, a := fld w 26 11, b := fld w 15 11, fmt := fld w 10 4, acc := bitAt w 9,
    any := bitAt w 8, part := bitAt w 7, x2 := bitAt w 6, perm := bitAt w 5, set := fld w 3 2, space := fld w 1 2,
    low := bitAt w 0, ext := e }

/-- Layout M's fields. -/
def fullM (w : DWord) (e : Option Ext) : FullM :=
  { hd := headOf w, d := fld w 37 11, a := fld w 26 11, b := fld w 15 11, space := fld w 12 2, width := fld w 9 3,
    scope := fld w 6 3, ord := fld w 4 2, rp := bitAt w 3, nr := bitAt w 2, sub := fld w 0 2, ext := e }

/-- Layout E's fields. -/
def fullE (w : DWord) (e : Option Ext) : FullE :=
  { hd := headOf w, d := fld w 37 11, a := fld w 26 11, b := fld w 15 11, src := fld w 10 4, dst := fld w 6 4,
    cnt := fld w 4 2, sub := fld w 0 4, ext := e }

/-- Layout T's fields. -/
def fullT (w : DWord) (e : Option Ext) : FullT :=
  { hd := headOf w, d := fld w 37 11, a := fld w 26 11, b := fld w 15 11, off := fld w 0 14, ext := e }

/-- Layout S's fields. -/
def fullS (w : DWord) (e : Option Ext) : FullS :=
  { hd := headOf w, d := fld w 37 11, a := fld w 26 11, b := fld w 15 11, sreg := fld w 4 10, sub := fld w 0 4, ext := e }

/-- The opcode map (Table 2.11): the row an OP names, with the fields of its layout. CAPQ, MIGR, GRES and GPSN name their
row by SUB. -/
def instrOf (op : Nat) (w : DWord) (e : Option Ext) : Option Instr :=
  match op with
  | 0x000 => some (.nop (fullA w e))
  | 0x001 => some (.mov (fullA w e))
  | 0x002 => some (.ldi (fullA w e))
  | 0x003 => some (.sel (fullA w e))
  | 0x004 => some (.iadd (fullA w e))
  | 0x005 => some (.isub (fullA w e))
  | 0x006 => some (.imul (fullA w e))
  | 0x007 => some (.imulh (fullA w e))
  | 0x008 => some (.imad (fullA w e))
  | 0x009 => some (.imin (fullA w e))
  | 0x00A => some (.imax (fullA w e))
  | 0x00B => some (.iabs (fullA w e))
  | 0x00C => some (.ineg (fullA w e))
  | 0x00D => some (.and (fullA w e))
  | 0x00E => some (.or (fullA w e))
  | 0x00F => some (.xor (fullA w e))
  | 0x010 => some (.andn (fullA w e))
  | 0x011 => some (.not (fullA w e))
  | 0x012 => some (.shl (fullA w e))
  | 0x013 => some (.shr (fullA w e))
  | 0x014 => some (.sar (fullA w e))
  | 0x015 => some (.rotl (fullA w e))
  | 0x016 => some (.bfx (fullA w e))
  | 0x017 => some (.bfi (fullA w e))
  | 0x018 => some (.popc (fullA w e))
  | 0x019 => some (.clz (fullA w e))
  | 0x01A => some (.brev (fullA w e))
  | 0x01B => some (.icmp (fullA w e))
  | 0x01C => some (.lea (fullA w e))
  | 0x01D => some (.iadd64 (fullA w e))
  | 0x01E => some (.isub64 (fullA w e))
  | 0x01F => some (.icmp64 (fullA w e))
  | 0x020 => some (.iadds (fullA w e))
  | 0x021 => some (.dot4 (fullA w e))
  | 0x022 => some (.permb (fullA w e))
  | 0x040 => some (.fadd (fullA w e))
  | 0x041 => some (.fsub (fullA w e))
  | 0x042 => some (.fmul (fullA w e))
  | 0x043 => some (.ffma (fullA w e))
  | 0x044 => some (.fmin (fullA w e))
  | 0x045 => some (.fmax (fullA w e))
  | 0x046 => some (.fcmp (fullA w e))
  | 0x047 => some (.fclass (fullA w e))
  | 0x048 => some (.frcp (fullA w e))
  | 0x049 => some (.frsq (fullA w e))
  | 0x04A => some (.fsqrt (fullA w e))
  | 0x04B => some (.fex2 (fullA w e))
  | 0x04C => some (.flg2 (fullA w e))
  | 0x04D => some (.fsin (fullA w e))
  | 0x04E => some (.fcos (fullA w e))
  | 0x04F => some (.ftanh (fullA w e))
  | 0x050 => some (.frnd (fullA w e))
  | 0x052 => some (.ffmax (fullA w e))
  | 0x080 => some (.cvt (fullC w e))
  | 0x081 => some (.cvtsr (fullC w e))
  | 0x082 => some (.bscale (fullC w e))
  | 0x083 => some (.shfl (fullC w e))
  | 0x084 => some (.bcast (fullC w e))
  | 0x085 => some (.vote (fullC w e))
  | 0x086 => some (.redux (fullC w e))
  | 0x087 => some (.scan (fullC w e))
  | 0x088 => some (.elect (fullC w e))
  | 0x089 => some (.kand (fullC w e))
  | 0x08A => some (.kor (fullC w e))
  | 0x08B => some (.kxor (fullC w e))
  | 0x08C => some (.knot (fullC w e))
  | 0x08D => some (.kmov (fullC w e))
  | 0x08E => some (.kpop (fullC w e))
  | 0x08F => some (.kfirst (fullC w e))
  | 0x0C0 => some (.mma (fullX w e))
  | 0x0C1 => some (.mmam (fullX w e))
  | 0x0C2 => some (.mmq (fullX w e))
  | 0x0C4 => some (.qscale (fullX w e))
  | 0x0C5 => some (.qzero (fullX w e))
  | 0x0C6 => some (.qld (fullX w e))
  | 0x0C7 => some (.qst (fullX w e))
  | 0x0C8 => some (.qcvt (fullX w e))
  | 0x0C9 => some (.qmov (fullX w e))
  | 0x0CA => some (.ldf (fullX w e))
  | 0x0CB => some (.qadd (fullX w e))
  | 0x100 => some (.ld (fullM w e))
  | 0x101 => some (.st (fullM w e))
  | 0x102 => some (.lda (fullM w e))
  | 0x103 => some (.stl (fullM w e))
  | 0x104 => some (.atom (fullM w e))
  | 0x105 => some (.cas (fullM w e))
  | 0x106 => some (.fence (fullM w e))
  | 0x107 => some (.pf (fullM w e))
  | 0x108 => some (.tmov (fullM w e))
  | 0x10A => some (.sinv (fullM w e))
  | 0x140 => some (.copy (fullE w e))
  | 0x141 => some (.gather (fullE w e))
  | 0x142 => some (.waitc (fullE w e))
  | 0x143 => some (.plinit (fullE w e))
  | 0x144 => some (.plfill (fullE w e))
  | 0x145 => some (.plwait (fullE w e))
  | 0x146 => some (.plrel (fullE w e))
  | 0x147 => some (.arrive (fullE w e))
  | 0x148 => some (.bwait (fullE w e))
  | 0x149 => some (.binit (fullE w e))
  | 0x180 => some (.bra (fullT w e))
  | 0x181 => some (.brc (fullT w e))
  | 0x182 => some (.brx (fullT w e))
  | 0x183 => some (.call (fullT w e))
  | 0x184 => some (.ret (fullT w e))
  | 0x185 => some (.split (fullT w e))
  | 0x186 => some (.join (fullT w e))
  | 0x187 => some (.barb (fullT w e))
  | 0x188 => some (.bard (fullT w e))
  | 0x189 => some (.barg (fullT w e))
  | 0x18A => some (.waitv (fullT w e))
  | 0x18B => some (.yield (fullT w e))
  | 0x18C => some (.spawn (fullT w e))
  | 0x18D => some (.launch (fullT w e))
  | 0x18E => some (.exit (fullT w e))
  | 0x18F => some (.rega (fullT w e))
  | 0x190 => some (.regr (fullT w e))
  | 0x1C0 => some (.getsr (fullS w e))
  | 0x1C1 => some (.setsr (fullS w e))
  | 0x1C2 => some (.trap (fullS w e))
  | 0x1C3 => some (.rte (fullS w e))
  | 0x1C4 => some (.brk (fullS w e))
  | 0x1C5 => some (.lanerd (fullS w e))
  | 0x1C6 => some (.lanewr (fullS w e))
  | 0x1C7 =>
    match (fld w 0 4).toNat with
    | 0 => some (.capq (fullS w e))
    | 1 => some (.capqPart (fullS w e))
    | _ => none
  | 0x1C8 =>
    match (fld w 0 4).toNat with
    | 0 => some (.migrCaps (fullS w e))
    | 1 => some (.migrReq (fullS w e))
    | 2 => some (.migrPin (fullS w e))
    | 3 => some (.migrUnpin (fullS w e))
    | _ => none
  | 0x1C9 => some (.gdef (fullM w e))
  | 0x1CA =>
    match (fld w 0 2).toNat with
    | 0 => some (.gres (fullM w e))
    | 1 => some (.gresSet (fullM w e))
    | _ => none
  | 0x1CB => some (.gqry (fullM w e))
  | 0x1CC =>
    match (fld w 0 2).toNat with
    | 0 => some (.gpsn (fullM w e))
    | 1 => some (.gpsnSet (fullM w e))
    | _ => none
  | 0x1CD => some (.ldn (fullM w e))
  | 0x1CF => some (.trace (fullS w e))
  | _ => none

/-- An OP of Table 2.11. -/
def opAssigned (op : Nat) : Bool := (instrOf op 0 none).isSome

/-- A slot of a pair word, whose lowest bit is bit `lo` (R39). -/
def slotOf (w : DWord) (lo : Nat) : Slot :=
  { pop := fld w (lo + 24) 6, d := fld w (lo + 16) 8, a := fld w (lo + 8) 8, m := fld w lo 8 }

/-- A full instruction from its first word and, when X = 1, the word after it. -/
def decodeFull (w : DWord) (next : Option DWord) : Except DecodeError (Instr × Nat) :=
  let op := (fld w 52 9).toNat
  let x := bitAt w 14
  let pick (e : Option Ext) (len : Nat) : Except DecodeError (Instr × Nat) :=
    match instrOf op w e with
    | none => if opAssigned op then .error .reservedField else .error .unassignedOp
    | some i => if i.wellFormed then .ok (i, len) else .error .reservedField
  if !x then pick none 8
  else match next with
    | none => .error .short
    | some n => if fld n 62 2 == 2 then pick (some (extOf n)) 16 else .error .missingExtension

/-- A mark word (R43, R44). -/
def decodeMark (w : DWord) : Except DecodeError (Instr × Nat) :=
  let m : HeadMark := { sw := bitAt w 61, ndest := fld w 49 7, nshadow := fld w 45 4 }
  match (fld w 56 5).toNat with
  | 0 => if fld w 0 45 == 0 && m.wellFormed then .ok (.regionHead m, 8) else .error .fixedBit
  | 1 => if fld w 0 45 == 0 && m.wellFormed then .ok (.regionHeadYield m, 8) else .error .fixedBit
  | 2 => if fld w 0 56 == 0 then .ok (.padding (bitAt w 61), 8) else .error .fixedBit
  | _ => .error .reservedMk

/-- A pair word (R39, R40). -/
def decodePair (w : DWord) : Except DecodeError (Instr × Nat) :=
  let p : PairWord := { sw := bitAt w 61, s0 := slotOf w 31, s1 := slotOf w 1 }
  if bitAt w 0 then .error .fixedBit
  else if (Instr.pair p).wellFormed then .ok (.pair p, 8) else .error .reservedField

/-- The instruction in a first word and the word after it, with its length in bytes (R26). -/
def decodeWords (w : DWord) (next : Option DWord) : Except DecodeError (Instr × Nat) :=
  match (fld w 62 2).toNat with
  | 0 => decodeFull w next
  | 1 => decodePair w
  | 2 => .error .strayExtension
  | _ => decodeMark w

/-- The 64-bit little-endian word at the head of a byte list (R26). -/
def firstWord (bs : List Byte) : Option DWord :=
  if (bs.take 8).length = 8 then some (BitVec.ofNat 64 (leNat (bs.take 8))) else none

/-- The instruction at the head of a byte list, with its length. -/
def decode (bs : List Byte) : Except DecodeError (Instr × Nat) :=
  match firstWord bs with
  | none => .error .short
  | some w => decodeWords w (firstWord (bs.drop 8))

/-- What the decoder reads from an instruction whose bits are `w`, bit 0 the least significant bit of the first word. -/
def decodeTableWord (_nbits w : Nat) : Option Instr :=
  match decode (leBytes 16 w) with
  | .ok (i, _) => some i
  | .error _ => none

/-! ### The encoder -/

/-- An extension word's bits (Table 2.6). -/
def Ext.word (e : Ext) : DWord := 2#2 ++ e.xc ++ e.c ++ e.imm

/-- A full instruction's words: kind 00, the shared fields, X and MOD. -/
def fullWords (op : BitVec 9) (hd : Head) (d a b : BitVec 11) (m : BitVec 14) (e : Option Ext) : List DWord :=
  (0#2 ++ BitVec.ofBool hd.sw ++ op ++ hd.pred ++ BitVec.ofBool hd.pn ++ d ++ a ++ b ++ BitVec.ofBool e.isSome ++ m) ::
    match e with
    | none => []
    | some x => [x.word]

/-- MOD of layout A. -/
def FullA.words (op : BitVec 9) (w : FullA) : List DWord :=
  fullWords op w.hd w.d w.a w.b
    (w.ty ++ w.rm ++ BitVec.ofBool w.na ++ BitVec.ofBool w.aa ++ BitVec.ofBool w.nb ++ BitVec.ofBool w.ab ++ w.sub) w.ext

/-- MOD of layout C. -/
def FullC.words (op : BitVec 9) (w : FullC) : List DWord :=
  fullWords op w.hd w.d w.a w.b (w.dt ++ w.st ++ w.rm ++ BitVec.ofBool w.sat ++ w.sub) w.ext

/-- MOD of layout X. -/
def FullX.words (op : BitVec 9) (w : FullX) : List DWord :=
  fullWords op w.hd w.d w.a w.b
    (w.fmt ++ BitVec.ofBool w.acc ++ BitVec.ofBool w.any ++ BitVec.ofBool w.part ++ BitVec.ofBool w.x2 ++
      BitVec.ofBool w.perm ++ w.set ++ w.space ++ BitVec.ofBool w.low) w.ext

/-- MOD of layout M. -/
def FullM.words (op : BitVec 9) (w : FullM) : List DWord :=
  fullWords op w.hd w.d w.a w.b
    (w.space ++ w.width ++ w.scope ++ w.ord ++ BitVec.ofBool w.rp ++ BitVec.ofBool w.nr ++ w.sub) w.ext

/-- MOD of layout E. -/
def FullE.words (op : BitVec 9) (w : FullE) : List DWord :=
  fullWords op w.hd w.d w.a w.b (w.src ++ w.dst ++ w.cnt ++ w.sub) w.ext

/-- MOD of layout T. -/
def FullT.words (op : BitVec 9) (w : FullT) : List DWord := fullWords op w.hd w.d w.a w.b w.off w.ext

/-- MOD of layout S. -/
def FullS.words (op : BitVec 9) (w : FullS) : List DWord := fullWords op w.hd w.d w.a w.b (w.sreg ++ w.sub) w.ext

/-- A slot's 30 bits (R39). -/
def Slot.bits (t : Slot) : BitVec 30 := t.pop ++ t.d ++ t.a ++ t.m

/-- A pair word's bits (Table 2.7). -/
def PairWord.word (p : PairWord) : DWord := 1#2 ++ BitVec.ofBool p.sw ++ p.s0.bits ++ p.s1.bits ++ 0#1

/-- A head mark's bits (Table 2.10a). -/
def HeadMark.word (mk : BitVec 5) (m : HeadMark) : DWord :=
  3#2 ++ BitVec.ofBool m.sw ++ mk ++ m.ndest ++ m.nshadow ++ 0#45

/-- The words of an instruction; an event row has none. -/
def encode : Instr → List DWord
  | .nop w => w.words 0x000
  | .mov w => w.words 0x001
  | .ldi w => w.words 0x002
  | .sel w => w.words 0x003
  | .iadd w => w.words 0x004
  | .isub w => w.words 0x005
  | .imul w => w.words 0x006
  | .imulh w => w.words 0x007
  | .imad w => w.words 0x008
  | .imin w => w.words 0x009
  | .imax w => w.words 0x00A
  | .iabs w => w.words 0x00B
  | .ineg w => w.words 0x00C
  | .and w => w.words 0x00D
  | .or w => w.words 0x00E
  | .xor w => w.words 0x00F
  | .andn w => w.words 0x010
  | .not w => w.words 0x011
  | .shl w => w.words 0x012
  | .shr w => w.words 0x013
  | .sar w => w.words 0x014
  | .rotl w => w.words 0x015
  | .bfx w => w.words 0x016
  | .bfi w => w.words 0x017
  | .popc w => w.words 0x018
  | .clz w => w.words 0x019
  | .brev w => w.words 0x01A
  | .icmp w => w.words 0x01B
  | .lea w => w.words 0x01C
  | .iadd64 w => w.words 0x01D
  | .isub64 w => w.words 0x01E
  | .icmp64 w => w.words 0x01F
  | .iadds w => w.words 0x020
  | .dot4 w => w.words 0x021
  | .permb w => w.words 0x022
  | .fadd w => w.words 0x040
  | .fsub w => w.words 0x041
  | .fmul w => w.words 0x042
  | .ffma w => w.words 0x043
  | .fmin w => w.words 0x044
  | .fmax w => w.words 0x045
  | .fcmp w => w.words 0x046
  | .fclass w => w.words 0x047
  | .frcp w => w.words 0x048
  | .frsq w => w.words 0x049
  | .fsqrt w => w.words 0x04A
  | .fex2 w => w.words 0x04B
  | .flg2 w => w.words 0x04C
  | .fsin w => w.words 0x04D
  | .fcos w => w.words 0x04E
  | .ftanh w => w.words 0x04F
  | .frnd w => w.words 0x050
  | .ffmax w => w.words 0x052
  | .cvt w => w.words 0x080
  | .cvtsr w => w.words 0x081
  | .bscale w => w.words 0x082
  | .shfl w => w.words 0x083
  | .bcast w => w.words 0x084
  | .vote w => w.words 0x085
  | .redux w => w.words 0x086
  | .scan w => w.words 0x087
  | .elect w => w.words 0x088
  | .kand w => w.words 0x089
  | .kor w => w.words 0x08A
  | .kxor w => w.words 0x08B
  | .knot w => w.words 0x08C
  | .kmov w => w.words 0x08D
  | .kpop w => w.words 0x08E
  | .kfirst w => w.words 0x08F
  | .mma w => w.words 0x0C0
  | .mmam w => w.words 0x0C1
  | .mmq w => w.words 0x0C2
  | .qscale w => w.words 0x0C4
  | .qzero w => w.words 0x0C5
  | .qld w => w.words 0x0C6
  | .qst w => w.words 0x0C7
  | .qcvt w => w.words 0x0C8
  | .qmov w => w.words 0x0C9
  | .ldf w => w.words 0x0CA
  | .qadd w => w.words 0x0CB
  | .ld w => w.words 0x100
  | .st w => w.words 0x101
  | .lda w => w.words 0x102
  | .stl w => w.words 0x103
  | .atom w => w.words 0x104
  | .cas w => w.words 0x105
  | .fence w => w.words 0x106
  | .pf w => w.words 0x107
  | .tmov w => w.words 0x108
  | .sinv w => w.words 0x10A
  | .copy w => w.words 0x140
  | .gather w => w.words 0x141
  | .waitc w => w.words 0x142
  | .plinit w => w.words 0x143
  | .plfill w => w.words 0x144
  | .plwait w => w.words 0x145
  | .plrel w => w.words 0x146
  | .arrive w => w.words 0x147
  | .bwait w => w.words 0x148
  | .binit w => w.words 0x149
  | .bra w => w.words 0x180
  | .brc w => w.words 0x181
  | .brx w => w.words 0x182
  | .call w => w.words 0x183
  | .ret w => w.words 0x184
  | .split w => w.words 0x185
  | .join w => w.words 0x186
  | .barb w => w.words 0x187
  | .bard w => w.words 0x188
  | .barg w => w.words 0x189
  | .waitv w => w.words 0x18A
  | .yield w => w.words 0x18B
  | .spawn w => w.words 0x18C
  | .launch w => w.words 0x18D
  | .exit w => w.words 0x18E
  | .rega w => w.words 0x18F
  | .regr w => w.words 0x190
  | .getsr w => w.words 0x1C0
  | .setsr w => w.words 0x1C1
  | .trap w => w.words 0x1C2
  | .rte w => w.words 0x1C3
  | .brk w => w.words 0x1C4
  | .lanerd w => w.words 0x1C5
  | .lanewr w => w.words 0x1C6
  | .capq w => w.words 0x1C7
  | .capqPart w => w.words 0x1C7
  | .migrCaps w => w.words 0x1C8
  | .migrReq w => w.words 0x1C8
  | .migrPin w => w.words 0x1C8
  | .migrUnpin w => w.words 0x1C8
  | .gdef w => w.words 0x1C9
  | .gres w => w.words 0x1CA
  | .gresSet w => w.words 0x1CA
  | .gqry w => w.words 0x1CB
  | .gpsn w => w.words 0x1CC
  | .gpsnSet w => w.words 0x1CC
  | .ldn w => w.words 0x1CD
  | .trace w => w.words 0x1CF
  | .pair w => [w.word]
  | .regionHead m => [m.word 0]
  | .regionHeadYield m => [m.word 1]
  | .padding sw => [3#2 ++ BitVec.ofBool sw ++ 2#5 ++ 0#56]
  | .issueSlot _ _ => []
  | .tick _ => []
  | .sensorDisturbance _ _ _ _ => []
  | .storageCheckError _ => []
  | .checkEvent _ _ _ _ => []
  | .noticeReceived _ _ => []
  | .clearThroughReceived _ _ _ => []
  | .outboundDrain _ _ => []
  | .clearanceTimeout _ => []
  | .tickCheck _ => []
  | .dieFailed _ => []
  | .linkFlitError _ _ => []
  | .atomPendingEnd _ => []
  | .memoryResponse _ _ _ _ => []
  | .laneReplay _ => []
  | .engineRequestStart _ => []
  | .chunkRead _ => []
  | .chunkCommit _ _ => []
  | .gourFillAccept _ => []
  | .gourReleaseApply _ => []
  | .plinitApply _ => []
  | .waitConditionMet _ => []
  | .continuationRun _ => []
  | .geodeWake _ _ => []
  | .openBufferRetry _ => []
  | .evaluatorPlace _ _ => []
  | .evalSlotTimeout _ => []
  | .taskTeamForm _ => []
  | .launchRecordRead _ => []
  | .blockPlace _ => []
  | .completionRecord _ => []
  | .preempt _ => []
  | .stopAcknowledged _ => []
  | .ackTimeout _ _ => []
  | .saveComplete _ => []
  | .blockRestore _ => []
  | .migrationPlace _ => []
  | .loadValueQueueTake _ => []
  | .signatureCompare _ => []
  | .fieldTestStep _ _ _ => []
  | .fieldTestQueue _ _ _ => []
  | .powerInterval _ => []
  | .leaseRecord _ _ => []
  | .leaseExpiry _ => []
  | .packageReset => []
  | .launchQueueEnable _ _ _ => []
  | .launchQueueDisable _ _ _ => []
  | .launchQueueWidx _ _ _ => []
  | .invalidate _ _ => []
  | .invalidationComplete _ => []
  | .atsInvalidate _ _ _ => []
  | .atsCompletion _ => []
  | .respMapped _ _ => []
  | .respFail _ _ => []
  | .faultTimeout _ _ => []
  | .apertureRead _ _ _ => []
  | .apertureWrite _ _ _ => []
  | .partitionEnable _ _ => []
  | .partitionDisable _ _ => []
  | .suspend _ _ => []
  | .suspendClear _ _ => []
  | .attestationRequest _ _ => []
  | .traceEnable _ _ => []
  | .dumpWrite _ => []
  | .checkpointGo _ => []
  | .checkpointAbort _ => []
  | .stepWordPoll => []
  | .stoppart _ _ => []
  | .stopclus _ _ => []
  | .resume _ _ => []
  | .step _ _ => []
  | .steptrap _ _ => []
  | .inspect _ _ => []
  | .save _ _ => []
  | .load _ _ => []
  | .debugDisable _ _ => []
  | .sampleRecord _ => []
  | .registerWrite _ _ _ => []
  | .longLatencyResult _ _ _ => []
  | .probeResponse _ _ => []
  | .remoteAccess _ => []
  | .correctableEccError _ => []

/-- A row that an instruction word encodes; the others are events. -/
def Instr.isWord (i : Instr) : Bool := !(encode i).isEmpty

/-- The bytes of an instruction's words as memory holds them (R26). -/
def encodeBytes (i : Instr) : List Byte := (encode i).flatMap fun w => leBytes 8 w.toNat

end Sys2Proof
end

