-- ==== Sys2Proof/Config.lean ====
section
/-! DEFINITION. What one part fixes and the spec does not state, and the values the spec leaves open. Each is opaque:
nothing in this model depends on what it is. -/

namespace Sys2Proof.Config

/-- The serial number in an attestation report (R331, Table 16.9): 16 bytes the spec does not state. -/
opaque serialNumber : BitVec 128

/-- The SHA3-512 digests of firmware stages 1 to 3 (R331): 192 bytes the spec does not state. -/
opaque firmwareDigests : BitVec 1536

/-- The firmware's security version (R330, R331). -/
opaque securityVersion : Word

/-- The ML-DSA-87 signature of the device identity key over a 64-byte digest (R331). The private key never leaves the
root of trust, so the value is open. -/
opaque signature : BitVec 512 → BitVec 37016

/-- A sample record's measured figures (R400, Table 21.7: sectors, queueing ticks, the lane that returned last):
measurements of an implementation, by a running number. -/
opaque sampleFigure : Nat → Word

/-- Values that the spec says are not defined, one for each draw of State.free. -/
opaque freeWord : Nat → Word

end Sys2Proof.Config
end

