-- ==== Sys2Proof/Machine/State.lean ====
section
/-! DEFINITION. The state of a Chevoeno package as plain data, the reasons a step can stop, and the state after reset. -/

namespace Sys2Proof.Machine

/-- Memory: (address, byte) pairs with addresses strictly rising and no byte equal to what an unlisted address reads as,
which is 0 (DESIGN CHOICE, log 6: the spec gives no contents at reset). -/
abbrev Memory := List Host.Cell

/-- What an address that memory does not list reads as. -/
def Memory.fill : Byte := 0

/-- The canonical form of a memory. -/
def Memory.wf : Memory → Bool
  | [] => true
  | [c] => c.2 != Memory.fill
  | c :: d :: m => decide (c.1 < d.1) && c.2 != Memory.fill && Memory.wf (d :: m)

/-- The two variants (Table 0.1). -/
inductive Variant where
  | chevoeno8 | chevoeno6
deriving DecidableEq, Repr

/-- The causes of Table 18.3. -/
inductive Cause where
  | illegalOp | migrate | noCapable | badTarget | regBound | operandReserved | pairRule | pageFault | access | align
  | scratchRange | scratchUninit | shapeInvalid | gourMisuse | selfDep | evalDepth | poisonLoad | geodeState
  | syncMismatch | divergentCollective | joinUnderflow | arithExc | redundantLimit | residueLimit | strikeLimit
  | clearanceTimeout | watch | break_ | step | userTrap | preempt
deriving DecidableEq, Repr

/-- The tag of a 64-byte cell (R249); a cell not listed as another is VALUE. -/
inductive CellTag where
  | value | geode | forming | poison
deriving DecidableEq, Repr

/-- A place of a team: chiplet, cluster 0–3 on it, core (0 leader, 1 follower), issue partition 0–3, slot 0–31 (R7, R8). -/
structure Loc where
  chip    : Nat
  cluster : Nat
  core    : Nat
  part    : Nat
  slot    : Nat
deriving DecidableEq, Repr

/-- A continuation record (Table 10.3). `vFirst` and `sFirst` are the model's own: the first live-set registers that the
SPLIT's extension word named; `entry` is the model's own name of the join entry that JCTR points to; `raised` holds the flags
of the instruction that ended the continuation with STATUS 4, for the trap at the JOIN (R74). -/
structure ContRec where
  entry  : Nat
  pc     : DWord
  core   : Nat
  slot   : Nat
  gen    : Nat
  depth  : Nat
  lane   : Nat
  kind   : Nat
  nv     : Nat
  ns     : Nat
  kbits  : Byte
  enab   : BitVec 5
  sticky : BitVec 5
  status : Nat
  tenant : Nat
  prio   : Nat
  asid   : Nat
  regs   : List Word
  vFirst : Nat
  sFirst : Nat
  raised : BitVec 5
deriving DecidableEq, Repr

/-- A join entry (R232), under a name of the model's own, with the live set its SPLIT declared. `count` is the number of lanes
ejected: CTR is that less the records returned (`Team.returned`), so a squash that restores the entry keeps CTR (R340). -/
structure JoinEntry where
  name   : Nat
  jpc    : DWord
  reconv : Mask
  pend   : Mask
  ppc    : DWord
  ej     : Mask
  early  : Mask
  count  : Nat
  vFirst : Nat
  nv     : Nat
deriving DecidableEq, Repr

/-- An entry of the control stack (R232). -/
inductive StackEntry where
  | call (ret : DWord)
  | join (e : JoinEntry)
deriving DecidableEq, Repr

/-- The registers that a trap saves into (Table 18.1). -/
structure Banked where
  epc    : DWord
  ecause : Word
  estat  : Word
  eaddr  : DWord
  einfo  : Word
  emask  : Mask
  elive  : Mask
deriving DecidableEq, Repr

/-- The state of a team that a squash restores (R340, R355, R341): its newest values stand in `Team.arch`, and each
region in flight keeps the values at its head. `v` is register-major, one value a lane; `tiles` are row-major;
`stack` has its top first. -/
structure Arch where
  pc         : DWord
  s          : List Word
  v          : List (List Word)
  x          : List (BitVec 16)
  k          : List Mask
  live       : Mask
  exited     : Mask
  flags      : Word
  uninitcnt  : Word
  uninitaddr : Word
  uninitBy   : Option (Nat × Nat)        -- the instruction and lane whose word %uninitaddr names (R143); the model's own
  gdetail    : Word
  stack      : List StackEntry
  tiles      : List (List Word)
  esc        : List (List Byte)
  inHandler  : Bool
  tvec       : DWord
  bank       : Banked
  yield      : Nat
  scFence    : Option Nat
  wpaddr     : List DWord
  waitFrom   : Option Nat                -- the tick of the first read of the WAITV at the pc (R243)
  spawned    : Bool                      -- the first 512 lanes of the SPAWN at the pc are held (R245)
  issued     : Nat                       -- words issued, for the lead of R366
deriving DecidableEq, Repr

/-- An imported tag (R342, R174). -/
structure Tag where
  zone  : Nat
  first : Nat
  last  : Nat
deriving DecidableEq, Repr

/-- A set of imported tags: at most two zones, or one package-wide span (R342, R174). -/
structure Tags where
  tags : List Tag
  wide : Option (Nat × Nat)
deriving DecidableEq, Repr

/-- The kinds of cell-writing instruction (Table 11.6). -/
inductive CellOp where
  | gdef | gres | gresSet | gpsn | gpsnSet
deriving DecidableEq, Repr

/-- What one lane of an instruction puts into a store entry: its access, its instruction, the lane, and its bytes from an
offset in the 64-byte line on. -/
structure StorePart where
  acc  : Nat
  pc   : DWord
  lane : Nat
  off  : Nat
  data : List Byte
deriving DecidableEq, Repr

/-- What a held QSB entry does when it is performed (Table 17.4). Addresses are virtual in `.g`, offsets elsewhere.
A store's parts stand oldest first: later bytes replace earlier ones. -/
inductive EntryKind where
  | store (sp : Space) (line : Nat) (parts : List StorePart) (rel : Bool) (scope : Nat)
  | atom (sp : Space) (line op ty width : Nat) (lanes : List (Nat × Nat × DWord)) (rel : Bool) (scope : Nat)
  | fence (ord : Nat) (sc : Bool) (scope : Nat)
  | sinv (sp : Space) (off len : Nat)
  | engine (op : Nat)
  | plinit (sp : Space) (off base bytes nslot nrel : Nat)
  | plrel (sp : Space) (off seq : Nat)
  | binit (sp : Space) (off amt : Nat)
  | arrive (sp : Space) (off amt : Nat)
  | spawn (r : ContRec)
  | launch (addr : DWord)
  | cell (op : CellOp) (addr : Nat) (data : List Byte)
  | cont (r : ContRec)
  | trace (tag : BitVec 16) (payload : Word) (addr : DWord)
deriving DecidableEq, Repr

/-- A probe's state (R153): not needed, under way, or answered well; the answer keeps the translation of the line under which the entry
is performed, its place with the P bit of its page, or says that the line is another package's (R297, R305). -/
inductive Probe where
  | none
  | waiting
  | kept (host : Bool) (base : Nat) (priv : Bool)
  | far
deriving DecidableEq, Repr

/-- A probe has been answered well. -/
def Probe.good : Probe → Bool
  | .kept _ _ _ => true
  | .far => true
  | _ => false

/-- A held QSB entry: its number in the team's program order, its instruction, the access whose lanes it serves. -/
structure Entry where
  seq    : Nat
  pc     : DWord
  acc    : Nat
  probe  : Probe
  issueT : Nat
  lanes  : Mask
  kind   : EntryKind
deriving DecidableEq, Repr

/-- A tile that an `.x2` stages in its partner's hold buffer (R123): the partner, the tile and its staged value. `hit` are the quarters that
the partner has written itself while the issuer's region is uncleared, with the partner's regions (R132). -/
structure X2 where
  team  : Nat
  tile  : Nat
  value : List Word
  hit   : List (Nat × Nat)
deriving DecidableEq, Repr

/-- The residue check of a matrix instruction (R133, R134): its address, its number among the team's operations, what the checker computes for
each of its blocks, and the tick of its last array cycle. -/
structure ResidueCheck where
  pc    : DWord
  id    : Nat
  sums  : List Nat
  doneT : Option Nat
deriving DecidableEq, Repr

/-- A region of a team (R336–R340). `dests` are vector registers written, `scales` scale registers, `tiles` own tiles,
`quarters` the quarters of them it wrote, `x2` the partner's tiles. -/
structure Region where
  id      : Nat
  openT   : Nat
  closeT  : Option Nat
  head    : DWord
  ckpt    : Arch
  held    : List Entry
  fresh   : Bool                        -- no word but its head mark has been executed in it
  imports : Tags
  ndest   : Nat
  nshadow : Nat
  dests   : List Nat
  scales  : List Nat
  tiles   : List Nat
  quarters : List (Nat × Nat)           -- tile, quarter of its rows
  x2      : List X2
  checks  : List ResidueCheck                  -- of the matrix instructions in it
  folded  : List Byte                     -- operands of a returning atomic that enter the signature (R369)
  sig     : Option (BitVec 64)            -- the signature of the other copy's paired region, once equal (R368)
deriving DecidableEq, Repr

/-- Why a lane of an access is unfinished or failed (R152). -/
inductive LaneState where
  | waiting                              -- not performed yet
  | page                                 -- a missing translation is being serviced
  | cellWait (opener : Bool) (ticket : BitVec 64)   -- opened, or queued on, the evaluation of this ticket
  | bufferWait                           -- the stack's open buffer is full
  | done
  | fault (cause : Cause) (info : Nat) (detail : Nat)   -- reason code of %einfo[31:24], %gdetail code
deriving DecidableEq, Repr

/-- One lane of an access. -/
structure LaneAcc where
  lane : Nat
  addr : Nat
  st   : LaneState
deriving DecidableEq, Repr

/-- A register destination of a long-latency result (R28). -/
inductive Dest where
  | vec (base : Nat)
  | scal (base : Nat)
  | mask (k : Nat)
  | none
deriving DecidableEq, Repr

/-- What an access in flight does (R156, R124, R128, R153, R264, R266, R267). -/
inductive AccKind where
  | load (sp : Space) (width : Nat) (sx acq rp : Bool) (scope : Nat) (dest : Dest) (raw : Bool)
  | gqry (dest : Dest)
  | ldf (sp : Space) (fmt : Nat) (roleB perm : Bool) (base ez : Nat) (idx : List Nat) (unset : List (Nat × Nat)) (scale : Byte)   -- with `perm` the table's entries, and those never written with their words, read at issue
  | store (sp : Space)
  | probe (op : Option CellOp)
  | launch
  | acqFence (scope : Nat)
deriving DecidableEq, Repr

/-- An access in flight: its operands were captured at issue (R152). -/
structure Access where
  id     : Nat
  word   : Nat                           -- the count of words issued before its instruction
  pc     : DWord
  region : Nat
  once   : Bool
  kind   : AccKind
  lanes  : List LaneAcc
  susp   : Bool                          -- left for the RTE of a parking-point trap to replay (R152)
  lost   : List (Nat × Nat × Nat)        -- lanes whose data a die link lost, with the zone they came from and the tick (R304)
deriving DecidableEq, Repr

/-- A long-latency result under way (R28): `vals` are the register writes of each lane. Without a destination it is an array
operation that only retires, and `vals` names the registers it reads (R211). -/
structure Pending where
  id     : Nat
  pc     : DWord
  region : Nat
  dest   : Dest
  lanes  : Mask
  vals   : List (Nat × Nat × Word)       -- register, lane, value
  x2     : Bool                          -- the follower's array is driven too (R122)
deriving DecidableEq, Repr

/-- A deferred ARITH_EXC report (R74). -/
structure Deferred where
  id     : Nat
  pc     : DWord
  region : Nat
  flags  : BitVec 5
  lanes  : Mask
  once   : Bool
deriving DecidableEq, Repr

/-- Why a team is parked on wait (Table 9.4): each names the condition that ends it. -/
inductive WaitOn where
  | clearance                            -- a closing instruction (R229)
  | regionSlot                           -- four regions in flight (R336)
  | counter (cls thr : Nat)              -- WAITC, or a full counter (R182, R168)
  | gourSlot (sp : Space) (off seq : Nat)
  | phase (sp : Space) (off : Nat) (ph : Word)
  | word (sp : Space) (addr : Nat) (until_ : Option Nat) (seen : List Nat)   -- WAITV: the word's line as its read found it
  | qsb (bytes : Nat)
  | shadows (n : Nat)
  | rename (lanes : Nat)
  | bucket                               -- token bucket of the die and tenant (R139)
  | scFence (scope : Nat)                -- an access after FENCE .sc (R199)
  | array                                -- the follower's array is driven by an .x2 (R122)
  | arena                                -- the task arena is full (R225)
  | older                                -- older loads or an acquire that must return first (R156, R157, R163)
  | target (sp : Space) (addrs : List Nat) (n : Nat)   -- words pending at their targets (R160)
  | outbound (part : Bool)               -- entries of the core's outbound buffer, or of every core's of the partition, that must wait (R144, R156)
  | ownAtom                              -- an own held atomic or cell write under the accessed bytes
  | lvqRoom                              -- the leader's queue entry finds no room, or it is 1,024 words ahead (R366)
  | lvqEntry                             -- the trailer's next value is not there (R366)
  | drain                                -- EXIT waits for its counters (R188)
deriving DecidableEq, Repr

/-- The states of Table 9.4 that a resident team's own progress gives it; halted is `Team.frozen`. -/
inductive RunState where
  | ready
  | switch
  | memory (marker : Bool)               -- at a switch marker, or at an instruction that is executed again
  | fetch (va : Nat)                     -- parked on memory at a word that could not be fetched (R295)
  | landing (va : Nat)                   -- parked on memory at a transfer whose target's kind is not known yet (R50)
  | barrier (kind id len : Nat) (sw : Bool)   -- 0 BARB, 1 BARD, 2 BARG, with the waiting word's bytes and its switch bit
  | wait (c : WaitOn)
  | join
  | registers (n len : Nat) (sw : Bool)  -- registers wanted, with the REGA's bytes and its switch bit
  | migrating
deriving DecidableEq, Repr

/-- What a team is: a block's team, a geode's evaluator (R256), a task team (R246), the lantern's one-lane team (R212). -/
inductive TeamKind where
  | ordinary | evaluator | task | lantern
deriving DecidableEq, Repr

/-- A copy's role in a redundant pair (R364). -/
inductive Role where
  | single | leading | trailing
deriving DecidableEq, Repr

/-- A single step asked for by a function's debug page (R393): one word may issue, then the team freezes or takes the STEP
trap once its results are written; `pc` is the stepped word. -/
inductive StepMode where
  | off
  | armed (func : Nat) (trap : Bool)
  | ending (func : Nat) (trap : Bool) (pc : DWord)
deriving DecidableEq, Repr

/-- A watchpoint hit that a team has still to report (R395). -/
structure WatchHit where
  wp     : Nat
  kind   : Nat
  pc     : DWord
  region : Nat
  lanes  : Mask
deriving DecidableEq, Repr

/-- A stop of a cluster asked for by a watchpoint hit or a BRK (R390): trigger 3 or 4, with what its stop record names. -/
structure StopReq where
  cluster : Nat
  trigger : Nat
  instr   : DWord
  addr    : DWord
  wp      : Nat
  core    : Nat
  slot    : Nat
  kind    : Nat
  since   : Nat
deriving DecidableEq, Repr

/-- An entry of the load-value queue (R365, R384): `kind` 0 values, 1 a head, 2 a completion, 3 a trap at a parking point, with
the registers the trap left. `recs` are the records that a JOIN wrote back; `note` is the model's own. -/
structure LvqEntry where
  kind   : Nat
  word   : Nat                           -- the count of words issued before its word
  pc     : DWord
  region : Nat
  addrs  : List (Nat × Nat)              -- lane, address
  vals   : List (Nat × Nat × Word)       -- register, lane, value
  bytes  : Nat
  trap   : Option Banked
  recs   : List ContRec
  note   : Nat × Word × Nat              -- words never written that the leader logged, its %uninitaddr, and the lane that named it (R143)
deriving DecidableEq, Repr

/-- What a trap at a parking point or at a JOIN took from a team, and a squash that discards the handler's entry gives back: `region` is the
handler's first region (R355). -/
structure Recall where
  region   : Nat
  acc      : Option Access := none       -- the reported instruction
  deferred : List Deferred := []
  watch    : List WatchHit := []
  op       : Option Nat := none          -- the reported engine operation
  recs     : List (Nat × Nat) := []      -- records of STATUS 4 that a JOIN reported: join entry, lane
deriving DecidableEq, Repr

/-- A team. `uid` and the counters `nextRegion`, `nextId` are the model's own names for things. -/
structure Team where
  uid        : Nat
  kind       : TeamKind
  loc        : Loc
  grid       : Nat
  block      : Nat
  idx        : Nat
  tw         : Nat
  gw         : Nat
  regs       : Nat
  acc        : Nat
  arch       : Arch
  regions    : List Region
  needHead   : Bool
  nextRegion : Nat
  nextId     : Nat
  relq       : List Entry
  accs       : List Access
  pend       : List Pending
  deferred   : List Deferred
  run        : RunState
  frozen     : Bool
  stepMode   : StepMode
  cnts       : List (List Nat)           -- engine operations counted and not decremented, per class, oldest first
  returned   : List ContRec              -- records returned by the lantern and kept for JOIN (R236)
  waitSlots  : Nat
  yielded    : Bool
  age        : Nat
  prio       : Nat
  depth      : Nat
  ticket     : Option (BitVec 64)
  lineage    : List (BitVec 64)
  cell       : Option Nat                -- the physical cell an evaluator resolves
  strikes    : Nat
  residues   : Nat
  mismatches : Nat
  strikeHead : DWord                     -- the head of the last squash that `strikes` counts (R348)
  checkHead  : DWord                     -- the head of the last check event that `residues` counts (R134)
  missHead   : DWord                    -- the head of the last signature mismatch (R368)
  borrowed   : Nat
  cont       : Option ContRec            -- the record a lantern team runs
  role       : Role
  mate       : Nat
  lvq        : List LvqEntry             -- on the leading copy: what the trailing copy has not taken
  barbs      : Nat                       -- full-membership barriers passed (R274)
  watch      : List WatchHit
  recalls    : List Recall               -- of traps whose handler's first region has not cleared (R355)
  unread     : Option Nat                -- a target that cannot be fetched: the transfer at the pc goes there without its kind (R50)
  exiting    : Bool
deriving DecidableEq, Repr

/-- A scratch allocation (R136, R137, R142): `valid` holds the numbers of the valid 4-byte words, rising. -/
structure Scratch where
  size  : Nat
  mem   : Memory
  valid : List Nat
deriving DecidableEq, Repr

/-- A launch record's fields (Table 9.2). -/
structure LaunchRec where
  entry    : DWord
  args     : DWord
  compaddr : DWord
  compval  : DWord
  nblock   : Nat
  spanblk  : Nat
  tw       : Nat
  gw       : Nat
  teams    : Nat
  regs     : Nat
  acc      : Nat
  pocket   : Nat
  chamber  : Nat
  gallery  : Nat
  eject    : Nat
  spill    : Nat
  caps     : Nat
  prio     : Nat
  mode     : Byte
  gridtag  : DWord
deriving DecidableEq, Repr

/-- A barrier instance (R240, R241): `mask` is the denoted set of team indices, `arrived` the waiting teams' uids. -/
structure BarInst where
  isOpen  : Bool
  mask    : BitVec 16
  arrived : List Nat
deriving DecidableEq, Repr

/-- A core dump of an aborted grid: not decided yet, being written, or over or not asked for (R374). -/
inductive DumpState where
  | undecided | writing | ended
deriving DecidableEq, Repr

/-- A grid (R213–R220). `status`: none while it runs, else the completion status word. -/
structure Grid where
  uid     : Nat
  lrec    : LaunchRec
  tenant  : Nat
  func    : Nat
  queue   : Nat
  asid    : Nat
  fromQ   : Bool
  age     : Nat
  exited  : Nat                          -- blocks that have exited
  status  : Option Word
  aborted : Option (Nat × Nat)           -- the faulting team and the tick of an abort
  dump    : DumpState
  after   : Option Nat                   -- SERIAL: the grid that must complete first (R219)
  barg    : BarInst
deriving DecidableEq, Repr

/-- A die span (R137, R218). -/
structure Span where
  uid     : Nat
  grid    : Nat
  idx     : Nat
  die     : Option Nat
  gallery : Option Scratch
  start   : Nat                          -- where its gallery allocation starts (R137)
  blocks  : Nat                          -- blocks that have exited
  out     : Bool                         -- the gallery stands saved in the save area, its allocation freed (R316)
  place   : List (Nat × Nat)             -- where its stored span image lies, while it is saved
  bard    : List BarInst
deriving DecidableEq, Repr

/-- A queued action of the gour unit (R186): a fill's operation, or a release's sequence. -/
inductive GourAct where
  | fill (op : Nat)
  | rel (seq : Nat)
deriving DecidableEq, Repr

/-- The state of a block's placement. `stopping why`: 0 pre-empted, 1 migrating, 2 suspended, 3 partition disabled, 4 moved
by a barrier (R274), 5 step-boundary stop. -/
inductive BlockState where
  | pending
  | resident
  | stopping (why since : Nat)
  | saving (why : Nat)
  | saved
  | exited
deriving DecidableEq, Repr

/-- A block (R218, R269–R275, R311, R320). A saved block keeps its teams as the canonical image's contents. -/
structure Block where
  uid       : Nat
  grid      : Nat
  span      : Nat
  idx       : Nat
  kind      : TeamKind
  role      : Role
  mate      : Nat
  state     : BlockState
  chip      : Nat
  cluster   : Nat
  age       : Nat
  prio      : Nat
  caps      : Nat                        -- the sets a migrating block must find, with the grid's own
  teamSeed  : List Team                  -- teams as they start or as they were saved, while not resident
  pockets   : List Scratch               -- leader's, follower's
  starts    : List Nat                   -- where the leader's pocket, the follower's and the chamber allocation start (R137)
  chamber   : Scratch
  barb      : List BarInst
  gours     : List (ObjRef × List GourAct)
  exitedT   : List Nat                   -- team indices that have exited
  blockId   : Nat
  bound     : Nat
  place     : List (Nat × Nat)           -- where its stored image lies in device memory: ranges of the save area, while it is saved (R316)
  migrated  : Bool
  pin       : Bool
  req       : Option Nat
  move      : Nat                        -- a move under way: 0 none, 1 to a column (R269), 2 requested, 3 back to straw (R274)
  restoredT : Option Nat
  released  : List (Nat × Nat)           -- members of die and grid barriers that ended while it was saved: team, 0 or the mismatch's code (R242)
  claim     : Option Waiting             -- the evaluator or task team for whose slot it is stopped (R226)
deriving DecidableEq, Repr

/-- A tensor shape record (Table 7.3). -/
structure Shape where
  base   : Nat
  rowb   : Nat
  rows   : Nat
  rstr   : Nat
  planes : Nat
  pstr   : Nat
  flags  : Word
deriving DecidableEq, Repr

/-- What an engine operation moves (R165, R180, R181, R186). -/
inductive EngKind where
  | copy
  | gather (space : Space) (off count : Nat)
  | fill (obj : ObjRef)
  | tmov (len : Nat)
deriving DecidableEq, Repr

/-- An engine operation's state (R168, R170, R174, R177). -/
inductive EngState where
  | held | queued | running | finished
deriving DecidableEq, Repr

/-- A staged chunk (R174): its number, bytes with the valid bit of each byte's word, tags, and what the probes of its global destination
lines found. -/
structure Chunk where
  num    : Nat
  data   : List Byte
  valid  : List Bool
  dest   : List (Nat × Probe)
  tags   : Tags
  readT  : Nat
deriving DecidableEq, Repr

/-- Who owns an operation's destination (R188). -/
inductive OpOwner where
  | team | block | span
  | controller                           -- a shard copy of the management controller (R379)
deriving DecidableEq, Repr

/-- An engine operation (R167–R189). -/
structure EngOp where
  id        : Nat
  team      : Nat
  owner     : OpOwner
  block     : Nat
  core      : Nat                        -- whose pocket `.pk` names
  span      : Nat
  grid      : Nat
  asid      : Nat
  die       : Nat
  tenant    : Nat
  region    : Nat
  cls       : Nat
  pc        : DWord
  word      : Nat                        -- the count of words issued before its instruction
  told      : Bool                       -- its failure has been reported (R177)
  younger   : Nat                        -- operations of the team counted on its counter after it
  kind      : EngKind
  src       : Shape
  dst       : Shape
  state     : EngState
  index     : List Nat                   -- GATHER: the index words read at the start
  slot      : Option Nat                 -- PLFILL: the sequence number assigned
  nextRead  : Nat
  staged    : List Chunk
  committed : List Nat
  bytes     : Nat
  strikes   : List (Nat × Nat)           -- chunk, strikes in a row
  sha       : List (BitVec 64)           -- digest mode: the SHA3-512 state over the bytes committed
  barrier   : Option (Space × Nat)
  digest    : Option Nat
  digestOk  : Bool
  page      : Option Nat                 -- the address whose page's request it waits for (R177)
  fail      : Option (Cause × Nat × Nat) -- cause, address, reason code
deriving DecidableEq, Repr

/-- A line of the global cache at its owning slice (R144, R145). `base` is its physical or host address; a read that hits it needs no
translation (R10). -/
structure SliceLine where
  asid  : Nat
  line  : Nat
  data  : List Byte
  dirty : Bool
  host  : Bool
  base  : Nat
  priv  : Bool                           -- its page has P: only a handler's access may be served from it (R295)
deriving DecidableEq, Repr

/-- A line of a core's read cache, with its fill tags (R144, R342) and the bytes that a GRES wrote last (R205). -/
structure ReadLine where
  asid : Nat
  line : Nat
  data : List Byte
  tags : Tags
  gres : BitVec 64
deriving DecidableEq, Repr

/-- An entry of a core's outbound write buffer (R144). -/
structure OutEntry where
  team : Nat
  asid : Nat
  ent  : Entry
deriving DecidableEq, Repr

/-- One core: caches, lantern queue and generation counts of its slots. -/
structure Core where
  readCache : List ReadLine
  outbound  : List OutEntry
  lantern   : List ContRec
  woken     : List Nat                   -- continuations that have stepped aside and woken, the next first (R212)
  gens      : List Nat
deriving DecidableEq, Repr

/-- A spawned task's record in a bin, with its grid (R225). -/
structure TaskRec where
  crec : ContRec
  grid : Nat
  span : Nat
  gw   : Nat
deriving DecidableEq, Repr

/-- A waiter record on a cell's chain (R257), at an address of the die's task arena. -/
structure Waiter where
  addr : Nat
  team : Nat
  cell : Nat
  crec : ContRec
deriving DecidableEq, Repr

/-- One compute die. -/
structure Die where
  crecv   : List Nat
  tick    : Nat                          -- the die's own counter, and the count of its last agreement with the hub (R349)
  agreed  : Nat
  bins    : List (List TaskRec)
  lastBin : Nat
  engLast : Nat                          -- the tenant partition whose request the engines took last (R170)
  drain   : Nat                          -- records that the drain of bin `lastBin` may still take; 0 when it is over (R225)
  arena   : List Waiter
  arenaAt : DWord                        -- where the driver put the task arena, and its records' number (log 9)
  arenaCap : Nat
  taskWait : Option Nat                  -- since when a task team waits for a slot (R226)
  buckets : List Int
  failed  : Bool
  ports   : List Bool                    -- link ports that are down
deriving DecidableEq, Repr

/-- An open-buffer entry (R254). -/
structure OpenEnt where
  cell    : Nat
  va      : DWord
  record  : List Byte
  ticket  : BitVec 64
  depth   : Nat
  opener  : Nat
  pc      : DWord
  grid    : Nat
  chip    : Nat
  prio    : Nat
  asid    : Nat
  lineage : List (BitVec 64)
  since   : Nat
  tags    : Tags                         -- of its record on the way to the loader's core
deriving DecidableEq, Repr

/-- One memory stack's logic die (R11, R251, R254). -/
structure Stack where
  opens  : Nat
  buffer : List (Option OpenEnt)
  failed : Bool
deriving DecidableEq, Repr

/-- A TLB entry of a slice (R296). -/
structure TlbEnt where
  slice : Nat
  asid  : Nat
  va    : Nat
  bytes : Nat
  host  : Bool
  base  : Nat
  w     : Bool
  x     : Bool
  p     : Bool
deriving DecidableEq, Repr

/-- An outstanding fault of a slice (R299, R300): a 64 KiB page of the device half, or a 4 KiB page of the host half. -/
structure Miss where
  slice    : Nat
  entry    : Nat
  asid     : Nat
  func     : Nat
  slot     : Nat
  page     : Nat
  host     : Bool
  kind     : Nat
  since    : Nat
  gridtag  : DWord
  pri      : Bool                        -- a Page Request has followed a translation that returned no access (R298)
deriving DecidableEq, Repr

/-- Where a scratch or global word lies. -/
structure Place where
  space : Space
  owner : Nat                            -- ASID, block or die span
  core  : Nat
  addr  : Nat
deriving DecidableEq, Repr

/-- A pending atomic (R160): the issue tick, the issuing zone and the target's zones, its words with their pre-images, and each
lane's old value. `work` holds what is still to be performed when the hub sends a host AtomicOp (R161): lane, address, operand,
comparand; for a remote device the request is on its way and `work` says which replies are due. -/
structure PendAtom where
  id     : Nat
  team   : Nat
  region : Nat
  seq    : Nat
  word   : Nat                           -- the count of words issued before it
  pc     : DWord
  t      : Nat
  own    : Nat
  target : List Nat
  words  : List (Place × Nat × List Byte)
  olds   : List (Nat × DWord)
  dest   : Dest
  wide   : Bool
  acq    : Bool
  scope  : Nat
  op     : Option (Nat × Nat)            -- operation and type; none for CAS
  fresh  : List Place                    -- the 4-byte scratch words among them that had never been written (R142)
  work   : List (Nat × Nat × DWord × DWord)
  remote : Bool
  sigOk  : Bool
deriving DecidableEq, Repr

/-- A strike notice on its way: the dies it has not reached (R334). -/
structure Flying where
  n    : Notice
  sent : Nat
  dies : List Nat
deriving DecidableEq, Repr

/-- What the hub or a unit sends to the host besides memory writes. -/
inductive HostMsg where
  | readDone (func : Nat) (data : List Byte)
  | unsupported (func : Nat)
  | pageRequest (pasid va kind : Nat)
  | translationRequest (pasid va kind : Nat)
  | invalidated (pasid : Nat)
  | remoteRead (device asid va bytes : Nat)
  | remoteWrite (device asid va : Nat) (data : List Byte)
  | remoteAtom (device asid va op ty width : Nat) (operands : List DWord)
  | remoteProbe (device asid va : Nat)
  | remoteReply (device : Nat) (data : List Byte)
  | remoteRefused (device code : Nat)
deriving DecidableEq, Repr

/-- A request that waits at a device link for a token of its die's and partition's bucket (R139, R310). -/
structure LinkReq where
  die   : Nat
  part  : Nat
  bytes : Nat
  msg   : HostMsg
deriving DecidableEq, Repr

/-- What the management controller logs. -/
inductive LogEnt where
  | notice (n : Notice)
  | linkClearance (zone die port : Nat)
  | checkEvent (zone stamp : Nat) (addr : DWord) (block computed checked : Nat)
  | sensorTest (zone sensor : Nat)
  | rejected (gridtag : DWord) (status : Word)
  | compFault (gridtag : DWord)
  | dumpLost (gridtag : DWord)
  | dumpFault (func : Nat)
  | leaseIgnored (seq : DWord)
  | storage (addr : Nat)
  | ackMissing (block unit : Nat)
  | dieFailed (u : FailedUnit)
  | unitTest (cluster unit : Nat) (pass : Bool)
  | zoneTest (zone : Nat)
  | imageRejected (gridtag : DWord) (code offset : Nat)
deriving DecidableEq, Repr

/-- A sample whose instruction has issued (R400). -/
structure Sample where
  func    : Nat
  team    : Nat
  acc     : Nat
  region  : Nat
  pc      : DWord
  gridtag : DWord
  issueT  : Nat
  core    : Nat
  slot    : Nat
  part    : Nat
  lanes   : Nat
  remote  : Bool
  paged   : Bool
  geode   : Bool
  squashed : Bool
  replays : Nat
  doneT   : Option Nat                   -- when its last lane completed
deriving DecidableEq, Repr

/-- A released LAUNCH (R247). -/
structure LaunchReq where
  id     : Nat
  team   : Nat
  grid   : Nat
  tenant : Nat
  func   : Nat
  queue  : Nat
  asid   : Nat
  prio   : Nat
  addr   : DWord
deriving DecidableEq, Repr

/-- What waits for a missing translation of no team: reading a launch record, writing a completion record, or the management
controller's read of a step word (R213, R217, R379). -/
inductive DispJob where
  | record (src : LaunchSource)
  | completion (grid : Nat)
  | stepWord
deriving DecidableEq, Repr

/-- A job that waits for the answer on a page. -/
structure DispWait where
  job  : DispJob
  asid : Nat
  page : Nat
  va   : Nat                             -- the record whose read has begun, with its grid's partition (R213)
  part : Nat
  old  : Bool                            -- its queue has been enabled anew since
deriving DecidableEq, Repr

/-- The power controller's own state (R322, R325, R326, R329). `lastDraw` is in hundredths of a watt. -/
structure Power where
  ration   : List Nat                    -- level of each cluster
  rampFrom : Nat                         -- B when the ramp began, in W, and the tick
  rampT    : Nat
  lastDraw : Nat
  lastAt   : Nat                         -- the tick at which the last measured interval ended
  lastSeq  : Option Nat
  ballast  : List (Nat × Option Nat)     -- clusters that run ballast, with the tick at which one that must make room stops
deriving DecidableEq, Repr

/-- An invalidation command under way (R297, R298): of a function's register, or for an ATS Invalidate Request of a PASID. Addresses
lo up to, not including, hi. -/
structure Inval where
  func  : Nat
  ats   : Option Nat
  asids : List Nat
  lo    : Nat
  hi    : Nat
  flush : Bool
  since : Nat
deriving DecidableEq, Repr

/-- Who sends an access from outside the package's cores: a function's aperture (R302), or another package (R305). -/
inductive Origin where
  | aperture (func : Nat)
  | device (n : Nat)
deriving DecidableEq, Repr

/-- Such an access as it stands staged at its owning slice: a write of `data` under the hub's tag, a read of `want` bytes, whose
data leave once their tags have cleared, or an atomic or a probe of another package (R302, R305, R176). -/
structure Posted where
  src  : Origin
  asid : Nat
  va   : Nat
  want : Nat
  data : List Byte
  tags : Tags
  atom : Option (Nat × Nat × Nat × List DWord) := none   -- operation, type, width, operands
  probe : Bool := false
deriving DecidableEq, Repr

/-- The phase of a checkpoint request (R379): none, waiting for the step word, waiting for the partitions to be saved, copying. -/
inductive CkptPhase where
  | idle | waiting | suspending | copying
deriving DecidableEq, Repr

/-- A shard of a checkpoint (Table 18.16). -/
structure Shard where
  part : Nat
  slot : Nat
  src  : Nat
  dst  : Nat
  len  : Nat
deriving DecidableEq, Repr

/-- A checkpoint request: its shards, the digests of those copied, the copy under way, the tick from which the step word is read
again. -/
structure Ckpt where
  phase  : CkptPhase
  shards : List Shard
  sums   : List (List Byte)
  op     : Option Nat
  pollAt : Nat
deriving DecidableEq, Repr

/-- The firmware images that the boot ROM finds: whether each stage's signature verifies, and whether their security version reaches the
fused minimum (R330). -/
structure Boot where
  stages  : List Bool
  version : Bool
deriving DecidableEq, Repr

/-- Every stage runs (R330). -/
def Boot.good (b : Boot) : Bool := b.stages.all id && b.version

/-- The whole package. `issue`, `agenda`, `odd`, `free`, `nextUid` are the model's own (log 1). -/
structure State where
  variant  : Variant
  tick     : Nat
  issue    : Option Nat
  agenda   : List Instr
  odd      : Bool
  free     : Nat
  nextUid  : Nat
  recovery : Bool
  teams    : List Team
  blocks   : List Block
  spans    : List Span
  grids    : List Grid
  ops      : List EngOp
  cores    : List Core
  dies     : List Die
  memStacks : List Stack
  mem      : Memory                      -- device memory by physical address (R294)
  hostMem  : Memory                      -- host memory by host-half address
  hostBad  : List Nat                    -- 4 KiB pages of host memory that refuse the units' writes: the host's choice (log 66)
  cellTags : List (Nat × CellTag)        -- by physical cell number; VALUE when not listed
  gresBytes : List (Nat × BitVec 64)     -- the bytes of a physical cell that a GRES wrote last; none when not listed (R205)
  gresReads : List (Nat × Nat)           -- team and region of a load that read such a byte and has met no parking point yet (R205)
  badCells : List Nat                    -- physical cells whose data at rest is uncorrectable (R351)
  badChamb : List (Nat × Nat)            -- block, word
  badGall  : List (Nat × Nat)            -- span, word
  slices   : List SliceLine
  tlb      : List TlbEnt
  misses   : List Miss
  atoms    : List PendAtom
  stopReq  : List StopReq                -- cluster stops on their way (R390)
  wakes    : List (Nat × Nat)            -- wakes on their way: team, cell (R257)
  edges    : List (BitVec 64 × BitVec 64 × Nat × Nat)   -- wait-for edges with the team and region that made them
  flying   : List Flying
  stalled  : List (Nat × Nat)            -- (zone, die) whose echo path is down
  flits    : List (Link × Nat)           -- CRC failures in a row of the flit that failed last (R304)
  downDev  : List Nat                    -- device links that are down (R304)
  devNum   : Nat
  listed   : List (Nat × Nat)            -- the hub's table: device numbers with their links (R305)
  boot     : Boot
  ecc      : List (Nat × Nat)            -- correctable errors per zone
  log      : List LogEnt
  hostOut  : List HostMsg
  linkQ    : List LinkReq                -- requests that the device-link arbiter has not injected (R310)
  remoteIn : List (Nat × Nat × List Byte)   -- data frames that remote requests wait for: ASID, address, bytes
  launches : List LaunchReq
  waitPage : List DispWait               -- the dispatcher's jobs that wait for a page
  samples  : List Sample
  sampleN  : List (Nat × Nat)            -- instructions counted per (core, partition)
  stopped  : List (Nat × Nat)            -- clusters that a function has stopped: cluster, function (R389)
  bar      : List (Nat × Word)           -- BAR0 registers, key 0x10000·function + offset
  power    : Power
  invs     : List Inval
  posted   : List Posted
  closing  : List Nat                    -- partitions whose EN has been written 0 and whose grids are ending (R308)
  ckpt     : Ckpt
deriving DecidableEq, Repr

/-- Why a step stops the machine. -/
inductive Fault where
  /-- Raised by the meaning of a word row when no team holds the issue slot, or the team it names is not resident: a
  state that no run reaches. Safe: the machine stops where the spec gives no step. -/
  | noIssuer
deriving DecidableEq, Repr

/-- Why an instruction has no meaning. -/
inductive Refusal where
  /-- Raised by Dispatch for a row that is not modelled yet, by its mnemonic. Safe. -/
  | notModelled (mnemonic : String)
deriving DecidableEq, Repr

/-- One core at reset: empty caches and queues, generation counts 0. -/
def Core.reset : Core := { readCache := [], outbound := [], lantern := [], woken := [], gens := List.replicate 32 0 }

/-- Die c at reset. Bin 63 and partition 7 count as last served, so bin 0 and partition 0 are first (log 7); the task arenas stand one after another (log 9). -/
def Die.reset (c : Nat) : Die :=
  { crecv := List.replicate 57 0, tick := 0, agreed := 0, bins := List.replicate 64 [], lastBin := 63, engLast := 7, drain := 0, arena := [],
    arenaAt := BitVec.ofNat 64 (0x800000000ED80000 + 0x80000 * c), arenaCap := 4096,
    taskWait := none, buckets := List.replicate 8 0, failed := false, ports := List.replicate 4 false }

/-- One stack at reset: no opening yet (R251). -/
def Stack.reset : Stack := { opens := 0, buffer := List.replicate 64 none, failed := false }

/-- The power controller at reset (R326, R327). -/
def Power.reset : Power := { ration := List.replicate 32 0, rampFrom := 1200, rampT := 0, lastDraw := 0, lastAt := 0, lastSeq := none, ballast := [] }

/-- No checkpoint request. -/
def Ckpt.reset : Ckpt := { phase := .idle, shards := [], sums := [], op := none, pollAt := 0 }

/-- A package of a variant right after reset: the tick count is 0 (R22), every register at its reset value, nothing
placed, nothing cached. -/
def State.resetOf (v : Variant) : State :=
  { variant := v, tick := 0, issue := none, agenda := [], odd := false, free := 0, nextUid := 0, recovery := false,
    teams := [], blocks := [], spans := [], grids := [], ops := [],
    cores := List.replicate 64 Core.reset, dies := (List.range 8).map Die.reset, memStacks := List.replicate 16 Stack.reset,
    mem := [], hostMem := [], hostBad := [], cellTags := [], gresBytes := [], gresReads := [], badCells := [], badChamb := [], badGall := [],
    slices := [], tlb := [], misses := [], atoms := [], stopReq := [], wakes := [], edges := [], flying := [], stalled := [], flits := [],
    downDev := [], devNum := 0, listed := [], boot := { stages := [true, true, true], version := true }, ecc := [], log := [], hostOut := [], linkQ := [], remoteIn := [], launches := [], waitPage := [], samples := [],
    sampleN := [], stopped := [], bar := [], power := Power.reset, invs := [], posted := [],
    closing := [], ckpt := Ckpt.reset }

/-- The package right after reset: a Chevoeno 8 (DESIGN CHOICE, log 2). -/
def State.reset : State := State.resetOf .chevoeno8

end Sys2Proof.Machine
end

