-- ==== Sys2Proof/Machine/Flags.lean ====
section
/-! DEFINITION. Number formats, rounding and the exception flags (03_number_formats.md): every arithmetic result is the
exact real result rounded once, computed here on exact integers. -/

namespace Sys2Proof.Machine

/-- The five flags of one element: NV, DZ, OF, UF, NX from bit 0 up (Table 3.7). -/
abbrev Flags := BitVec 5

def flagNone : Flags := 0
def flagNV : Flags := 1
def flagDZ : Flags := 2
def flagOF : Flags := 4
def flagUF : Flags := 8
def flagNX : Flags := 16

/-- A flag when a condition holds. -/
def flagIf (c : Bool) (f : Flags) : Flags := if c then f else 0

/-- The seven floating-point formats (Table 3.1). -/
inductive Fmt where
  | f64 | f32 | f16 | bf16 | e4m3 | e5m2 | mk8
deriving DecidableEq, Repr

/-- Width in bits. -/
def Fmt.width : Fmt → Nat
  | .f64 => 64 | .f32 => 32 | .f16 => 16 | .bf16 => 16 | .e4m3 => 8 | .e5m2 => 8 | .mk8 => 8

/-- Width of the trailing significand; 0 for MK8, which has none. -/
def Fmt.mbits : Fmt → Nat
  | .f64 => 52 | .f32 => 23 | .f16 => 10 | .bf16 => 7 | .e4m3 => 3 | .e5m2 => 2 | .mk8 => 0

/-- Width of the exponent field. -/
def Fmt.ebits : Fmt → Nat
  | .f64 => 11 | .f32 => 8 | .f16 => 5 | .bf16 => 8 | .e4m3 => 4 | .e5m2 => 5 | .mk8 => 0

/-- The exponent bias. -/
def Fmt.bias : Fmt → Nat
  | .f64 => 1023 | .f32 => 127 | .f16 => 15 | .bf16 => 127 | .e4m3 => 7 | .e5m2 => 15 | .mk8 => 0

/-- The greatest finite code with a clear sign bit. -/
def Fmt.maxCode : Fmt → Nat
  | .f64 => 0x7FEFFFFFFFFFFFFF | .f32 => 0x7F7FFFFF | .f16 => 0x7BFF | .bf16 => 0x7F7F
  | .e4m3 => 0x7E | .e5m2 => 0x7B | .mk8 => 0x01

/-- The canonical NaN. -/
def Fmt.nan : Fmt → Nat
  | .f64 => 0x7FF8000000000000 | .f32 => 0x7FC00000 | .f16 => 0x7E00 | .bf16 => 0x7FC0
  | .e4m3 => 0x7F | .e5m2 => 0x7E | .mk8 => 0x80

/-- The sign bit's weight. -/
def Fmt.signBit (f : Fmt) : Nat := 2 ^ (f.width - 1)

/-- The value of a code: a NaN, an infinity, or (−1)^neg · m · 2^e exactly. -/
inductive FVal where
  | nan (signalling : Bool)
  | inf (neg : Bool)
  | fin (neg : Bool) (m : Nat) (e : Int)
deriving DecidableEq, Repr

/-- The fraction width of a non-zero MK8 code below 0x80, and its exponent in units of 2^−10 (Table 3.2). -/
def mk8Shape (c : Nat) : Nat × Nat :=
  let top := Nat.log2 c
  let below := c - 2 ^ top
  match 6 - top with
  | 0 => (5, 9 + below / 32)
  | 1 => (3, (match below / 8 with | 0 => 7 | 1 => 8 | 2 => 11 | _ => 12))
  | 2 => (2, (match below / 4 with | 0 => 5 | 1 => 6 | 2 => 13 | _ => 14))
  | 3 => (1, (match below / 2 with | 0 => 3 | 1 => 4 | 2 => 15 | _ => 16))
  | 4 => (0, (match below with | 0 => 1 | 1 => 2 | 2 => 17 | _ => 18))
  | 5 => (0, (if below = 0 then 0 else 19))
  | _ => (0, 20)

/-- The significand 2^F + f of a non-zero MK8 code below 0x80 (R62, R133). -/
def mk8Sig (c : Nat) : Nat := 2 ^ (mk8Shape c).1 + c % 2 ^ (mk8Shape c).1

/-- The magnitude of an MK8 code below 0x80, in units of 2^−10 (Table 3.2). -/
def mk8Mag (c : Nat) : Nat := if c = 0 then 0 else mk8Sig c * 2 ^ (mk8Shape c).2 / 2 ^ (mk8Shape c).1

/-- Reads a code of a format (R58–R62). -/
def Fmt.read (f : Fmt) (bits : Nat) : FVal :=
  let neg := bits.testBit (f.width - 1)
  match f with
  | .mk8 => if bits = 0x80 then .nan false else .fin neg (mk8Mag (bits % 128)) (-10)
  | _ =>
    let m := bits % 2 ^ f.mbits
    let e := bits / 2 ^ f.mbits % 2 ^ f.ebits
    let qmin : Int := 1 - (f.bias : Int) - f.mbits
    if f == .e4m3 && bits % 128 == 127 then .nan false
    else if f != .e4m3 && e = 2 ^ f.ebits - 1 then
      if m = 0 then .inf neg
      else .nan (f != .e5m2 && m < 2 ^ (f.mbits - 1))
    else if e = 0 then .fin neg m qmin
    else .fin neg (2 ^ f.mbits + m) (qmin + (e - 1 : Nat))

/-- An exact magnitude m · 2^e, or, when `sticky`, a value strictly between that and (m + 1) · 2^e. -/
structure Exact where
  neg    : Bool
  m      : Nat
  e      : Int
  sticky : Bool
deriving DecidableEq, Repr

/-- A rounding mode's choice between a magnitude's two neighbours: whether to take the upper one.
`half`: the part beyond the lower neighbour against half a step, 0 less, 1 equal, 2 more; `any`: it is not zero. -/
def roundUp (rm : Nat) (neg odd any : Bool) (half : Nat) : Bool :=
  match rm with
  | 0 => half == 2 || (half == 1 && odd)
  | 1 => false
  | 2 => any && !neg
  | _ => any && neg

/-- Rounds a magnitude to an integer multiple of 2^q: the multiple, and whether that is inexact. -/
def roundAt (rm : Nat) (x : Exact) (q : Int) : Nat × Bool :=
  if q ≤ x.e then (x.m * 2 ^ (x.e - q).toNat, x.sticky)
  else
    let s := (q - x.e).toNat
    let k := x.m >>> s
    let r := x.m - k <<< s
    let h := 2 ^ (s - 1)
    let any := r != 0 || x.sticky
    let half := if r < h then 0 else if r = h && !x.sticky then 1 else 2
    (if roundUp rm x.neg (k % 2 == 1) any half then k + 1 else k, any)

/-- floor(log2) of a non-zero magnitude. -/
def Exact.log (x : Exact) : Int := (Nat.log2 x.m : Int) + x.e

/-- The overflow result by mode (Table 3.6, R67): infinity is wanted, or the maximum finite value. -/
def overflowToInf (rm : Nat) (neg : Bool) : Bool :=
  match rm with
  | 0 => true | 1 => false | 2 => !neg | _ => neg

/-- A signed code. -/
def Fmt.signed (f : Fmt) (neg : Bool) (code : Nat) : Nat := if neg then f.signBit + code else code

/-- The code of an infinite result: with `sat` the maximum finite value; E4M3 has the NaN 0x7F (R67, R68). -/
def Fmt.infinity (f : Fmt) (neg sat : Bool) : Nat :=
  if sat || f == .mk8 then f.signed neg f.maxCode
  else if f == .e4m3 then f.nan else f.signed neg (f.maxCode + 1)

/-- An overflow's result and flags (R67, R68). -/
def Fmt.overflow (f : Fmt) (rm : Nat) (neg sat : Bool) : Nat × Flags :=
  if f == .mk8 then (f.signed neg 1, flagOF ||| flagNX)
  else if overflowToInf rm neg then
    (f.infinity neg sat, flagOF ||| flagNX ||| flagIf (f == .e4m3 && !sat) flagNV)
  else (f.signed neg f.maxCode, flagOF ||| flagNX)

/-- The MK8 codes 1–127 in the order of their magnitudes are searched for the two that bracket a magnitude:
`lo` the greatest not above x, `hi` the least not below it, as (code, magnitude) in units of 2^−10 (R63). -/
def mk8Bracket (x : Exact) : Nat × Nat :=
  let below (c : Nat) : Bool :=          -- magnitude of c ≤ x
    if x.e ≤ -10 then mk8Mag c * 2 ^ (-10 - x.e).toNat ≤ x.m
    else mk8Mag c ≤ x.m * 2 ^ (x.e + 10).toNat
  let same (c : Nat) : Bool :=           -- magnitude of c = x
    !x.sticky && (if x.e ≤ -10 then mk8Mag c * 2 ^ (-10 - x.e).toNat == x.m
    else mk8Mag c == x.m * 2 ^ (x.e + 10).toNat)
  (List.range 128).foldl (fun (lo, hi) c =>
    (if below c && mk8Mag lo ≤ mk8Mag c then c else lo,
     if (!below c || same c) && mk8Mag c ≤ mk8Mag hi then c else hi)) (0, 1)

/-- A magnitude at least 1,024: above it when the second component holds. -/
def mk8Over (x : Exact) : Bool :=
  if x.e ≤ 10 then let t := 2 ^ (10 - x.e).toNat; x.m > t || (x.m == t && x.sticky)
  else x.m != 0

/-- A non-zero magnitude below 2^−10 (R71). -/
def mk8Tiny (x : Exact) : Bool := (x.m != 0 || x.sticky) && (if x.e ≤ -10 then x.m < 2 ^ (-10 - x.e).toNat else x.m == 0)

/-- The MK8 code and flags of an exact value (R63, R67, R71). -/
def roundMk8 (x : Exact) : Nat × Flags :=
  if x.m == 0 && !x.sticky then (0, 0)
  else if mk8Over x then Fmt.mk8.overflow 0 x.neg true
  else
    let (lo, hi) := mk8Bracket x
    if lo = hi then (Fmt.mk8.signed x.neg lo, 0)
    else
      -- twice the value against the two candidates' sum, in units of 2^−10
      let s := mk8Mag lo + mk8Mag hi
      let (two, sum) := if x.e ≤ -10 then (2 * x.m, s * 2 ^ (-10 - x.e).toNat) else (2 * x.m * 2 ^ (x.e + 10).toNat, s)
      let c :=
        if two < sum then lo
        else if two > sum || x.sticky then hi
        else if lo % 2 = 0 && hi % 2 = 1 then lo
        else if lo % 2 = 1 && hi % 2 = 0 then hi
        else lo
      (if c = 0 then 0 else Fmt.mk8.signed x.neg c, flagNX ||| flagIf (mk8Tiny x) flagUF)

/-- An exact value rounded once to a format other than MK8 (R66, R67, R71). -/
def roundIeee (f : Fmt) (rm : Nat) (sat : Bool) (x : Exact) : Nat × Flags :=
  if x.m = 0 && !x.sticky then (f.signed x.neg 0, 0)
  else
    let qmin : Int := 1 - (f.bias : Int) - f.mbits
    let qfree : Int := x.log - f.mbits
    let q := if qfree < qmin then qmin else qfree
    let (k, inexact) := roundAt rm x q
    let code := k + (q - qmin).toNat * 2 ^ f.mbits
    if code > f.maxCode then f.overflow rm x.neg sat
    else
      let tiny :=                          -- rounded with unbounded exponent range, below the minimum normal
        qfree < qmin && (let (kf, _) := roundAt rm x qfree; (Nat.log2 kf : Int) + qfree < qmin + f.mbits)
      (f.signed x.neg code, flagIf inexact flagNX ||| flagIf (inexact && tiny) flagUF)

/-- An exact value rounded once to a format. -/
def Fmt.round (f : Fmt) (rm : Nat) (sat : Bool) (x : Exact) : Nat × Flags :=
  if f == .mk8 then roundMk8 x else roundIeee f rm sat x

/-- A NaN result: canonical, NV when the operand was signalling or the NaN is new. -/
def Fmt.nanResult (f : Fmt) (nv : Bool) : Nat × Flags := (f.nan, flagIf nv flagNV)

/-- An exact signed value. -/
def Exact.ofVal (neg : Bool) (m : Nat) (e : Int) : Exact := { neg := neg, m := m, e := e, sticky := false }

/-- Delivers a value in a format: conversions and results of special values (R68, R69, Table 4.8). -/
def Fmt.convert (f : Fmt) (rm : Nat) (sat : Bool) (v : FVal) : Nat × Flags :=
  match v with
  | .nan s => f.nanResult s
  | .inf neg => (f.infinity neg sat, flagIf (f == .e4m3 || f == .mk8) flagNV)
  | .fin neg m e => f.round rm sat (.ofVal neg m e)

/-- A signalling NaN. -/
def FVal.snan : FVal → Bool
  | .nan s => s
  | _ => false

/-- A NaN. -/
def FVal.isNan : FVal → Bool
  | .nan _ => true
  | _ => false

/-- An infinity. -/
def FVal.isInf : FVal → Bool
  | .inf _ => true
  | _ => false

/-- The sign, false for a NaN. -/
def FVal.neg : FVal → Bool
  | .nan _ => false
  | .inf n => n
  | .fin n _ _ => n

/-- A zero. -/
def FVal.isZero : FVal → Bool
  | .fin _ m _ => m == 0
  | _ => false

/-- The exact product; `none` where it is a NaN (∞ · 0, or a NaN operand). -/
def FVal.mul (a b : FVal) : Option FVal :=
  match a, b with
  | .nan _, _ => none
  | _, .nan _ => none
  | .inf s, .inf t => some (.inf (s != t))
  | .inf s, .fin t m _ => if m = 0 then none else some (.inf (s != t))
  | .fin s m _, .inf t => if m = 0 then none else some (.inf (s != t))
  | .fin s m e, .fin t n g => some (.fin (s != t) (m * n) (e + g))

/-- A signed integer times 2^e. -/
structure Dy where
  m : Int
  e : Int
deriving DecidableEq, Repr

/-- The dyadic of a finite value. -/
def Dy.of (neg : Bool) (m : Nat) (e : Int) : Dy := { m := if neg then -(m : Int) else m, e := e }

/-- The exact sum. -/
def Dy.add (a b : Dy) : Dy :=
  if a.e ≤ b.e then { m := a.m + b.m * 2 ^ (b.e - a.e).toNat, e := a.e }
  else { m := a.m * 2 ^ (a.e - b.e).toNat + b.m, e := b.e }

/-- The exact sum of finite terms, each a sign, a magnitude and an exponent, as a signed magnitude. An exact zero is −0
when every term is −0, or when some term differs and RM is RDN; it is +0 otherwise (R66). -/
def sumExact (rm : Nat) (ts : List (Bool × Nat × Int)) : Exact :=
  let s : Dy := ts.foldl (fun (acc : Dy) (n, m, e) => acc.add (Dy.of n m e)) { m := 0, e := (ts.head?.map (·.2.2)).getD 0 }
  if s.m = 0 then
    let allNegZero := ts.all (fun (n, m, _) => n && m == 0)
    let allPosZero := ts.all (fun (n, m, _) => !n && m == 0)
    { neg := !allPosZero && (allNegZero || rm == 3), m := 0, e := s.e, sticky := false }
  else { neg := s.m < 0, m := s.m.natAbs, e := s.e, sticky := false }

/-- The sum of values rounded once: NaNs, opposite infinities, infinities, else the exact sum. `nvQuiet`: NV rises for
every NaN term, as in the window sum; otherwise only for a signalling one (R71, R107). -/
def Fmt.sum (f : Fmt) (rm : Nat) (vs : List FVal) : Nat × Flags :=
  if vs.any (·.isNan) then f.nanResult (vs.any (·.snan))
  else if vs.any (fun v => v.isInf && v.neg) && vs.any (fun v => v.isInf && !v.neg) then f.nanResult true
  else match vs.find? (·.isInf) with
    | some v => (f.infinity v.neg false, 0)
    | none =>
      f.round rm false (sumExact rm (vs.filterMap fun
        | .fin n m e => some (n, m, e)
        | _ => none))

/-- The bits with the sign flipped: a value's negation. -/
def FVal.negate : FVal → FVal
  | .nan s => .nan s
  | .inf n => .inf (!n)
  | .fin n m e => .fin (!n) m e

/-- FADD (R95, Table 4.4). -/
def fAdd (f : Fmt) (rm : Nat) (a b : Nat) : Nat × Flags := f.sum rm [f.read a, f.read b]

/-- FSUB (R95). -/
def fSub (f : Fmt) (rm : Nat) (a b : Nat) : Nat × Flags := f.sum rm [f.read a, (f.read b).negate]

/-- FMUL (R95, Table 4.4). -/
def fMul (f : Fmt) (rm : Nat) (a b : Nat) : Nat × Flags :=
  let x := f.read a
  let y := f.read b
  if x.isNan || y.isNan then f.nanResult (x.snan || y.snan)
  else match x.mul y with
    | none => f.nanResult true
    | some p => f.convert rm false p

/-- FFMA and FFMAX: a · b + c with one rounding (R95, Table 4.4). ∞ · 0 raises NV whatever the addend. -/
def fFma (f : Fmt) (rm : Nat) (a b c : Nat) : Nat × Flags :=
  let x := f.read a
  let y := f.read b
  let z := f.read c
  if x.isNan || y.isNan then f.nanResult (x.snan || y.snan || z.snan)
  else match x.mul y with
    | none => f.nanResult true
    | some p => if z.isNan then f.nanResult z.snan else f.sum rm [p, z]

/-- Exact order of two values that are not NaNs, −0 below +0: a < b. -/
def FVal.lt (a b : FVal) (zeroSigned : Bool) : Bool :=
  match a, b with
  | .inf s, .inf t => s && !t
  | .inf s, _ => s
  | _, .inf t => !t
  | .fin s m e, .fin t n g =>
    let d := (Dy.of s m e).add (Dy.of (!t) n g)
    d.m < 0 || (zeroSigned && m == 0 && n == 0 && s && !t)
  | _, _ => false

/-- FMIN and FMAX (R96). -/
def fMinMax (f : Fmt) (isMax : Bool) (a b : Nat) : Nat × Flags :=
  let x := f.read a
  let y := f.read b
  let fl := flagIf (x.snan || y.snan) flagNV
  if x.isNan && y.isNan then (f.nan, fl)
  else if x.isNan then (b, fl)
  else if y.isNan then (a, fl)
  else if isMax then (if x.lt y true then b else a, fl)
  else (if y.lt x true then b else a, fl)

/-- FCMP's condition (Table 4.5). -/
def fCmp (f : Fmt) (cond : Nat) (a b : Nat) : Bool × Flags :=
  let x := f.read a
  let y := f.read b
  let un := x.isNan || y.isNan
  let lt := x.lt y false
  let gt := y.lt x false
  let sig := x.snan || y.snan
  let res := match cond with
    | 0 => !un && !lt && !gt
    | 1 => un || lt || gt
    | 2 => !un && lt
    | 3 => !un && !gt
    | 4 => !un && gt
    | 5 => !un && !lt
    | 6 => un
    | _ => !un
  (res, flagIf (if 2 ≤ cond && cond ≤ 5 then un else sig) flagNV)

/-- FCLASS's class word (R98). -/
def fClass (f : Fmt) (a : Nat) : Nat :=
  match f.read a with
  | .nan true => 1
  | .nan false => 2
  | .inf true => 4
  | .inf false => 512
  | .fin neg m _ =>
    if m = 0 then (if neg then 32 else 64)
    else if m < 2 ^ f.mbits then (if neg then 16 else 128)
    else if neg then 8 else 256

/-- FRND: an integral value of the same format; NX only when asked (R100). -/
def fRnd (f : Fmt) (rm : Nat) (exact : Bool) (a : Nat) : Nat × Flags :=
  match f.read a with
  | .nan s => f.nanResult s
  | .inf n => (f.infinity n false, 0)
  | .fin n m e =>
    let (k, inexact) := roundAt rm (.ofVal n m e) 0
    ((f.round 0 false (.ofVal n k 0)).1, flagIf (exact && inexact) flagNX)

/-- Widens an FP32 pattern to FP64 keeping the bits' meaning whole (R37). -/
def widen32 (b : Nat) : Nat :=
  match Fmt.f32.read b with
  | .fin n m e => (Fmt.f64.round 0 false (.ofVal n m e)).1
  | _ => (b / 2 ^ 31 % 2) * 2 ^ 63 + 0x7FF * 2 ^ 52 + (b % 2 ^ 23) * 2 ^ 29

/-- A two's-complement or unsigned reading of w bits. -/
def intOf (signed : Bool) (w x : Nat) : Int := if signed && x.testBit (w - 1) then (x : Int) - 2 ^ w else x

/-- The w-bit pattern of an integer. -/
def wrapTo (w : Nat) (i : Int) : Nat := (i % 2 ^ w).toNat

/-- The limits of an integer type (R64). -/
def intLo (signed : Bool) (w : Nat) : Int := if signed then -(2 ^ (w - 1)) else 0
def intHi (signed : Bool) (w : Nat) : Int := if signed then 2 ^ (w - 1) - 1 else 2 ^ w - 1

/-- Float to integer (R69). -/
def toInt (f : Fmt) (rm : Nat) (signed : Bool) (w : Nat) (a : Nat) : Nat × Flags :=
  match f.read a with
  | .nan _ => (0, flagNV)
  | .inf n => (wrapTo w (if n then intLo signed w else intHi signed w), flagNV)
  | .fin n m e =>
    let (k, inexact) := roundAt rm (.ofVal n m e) 0
    let i : Int := if n then -(k : Int) else k
    if i < intLo signed w then (wrapTo w (intLo signed w), flagNV)
    else if i > intHi signed w then (wrapTo w (intHi signed w), flagNV)
    else (wrapTo w i, flagIf inexact flagNX)

/-- Integer to float (R69). -/
def ofInt (f : Fmt) (rm : Nat) (sat : Bool) (i : Int) : Nat × Flags := f.convert rm sat (.fin (i < 0) i.natAbs 0)

/-- The least value of a magnitude not representable: the two codes that bracket a finite magnitude, for stochastic
rounding, as (lower code, lower magnitude, upper magnitude) in units of 2^u (R70). -/
def bracket (f : Fmt) (x : Exact) : Nat × Nat × Nat × Nat × Int :=
  if f == .mk8 then
    let (lo, hi) := mk8Bracket x
    (lo, hi, mk8Mag lo, mk8Mag hi, -10)
  else
    let qmin : Int := 1 - (f.bias : Int) - f.mbits
    let q := max qmin (x.log - f.mbits)
    let (k, _) := roundAt 1 x q
    let code := k + (q - qmin).toNat * 2 ^ f.mbits
    (code, code + 1, k, k + 1, q)

/-- Stochastic rounding of a value with n random bits r (R70). -/
def Fmt.stochastic (f : Fmt) (sat : Bool) (n r : Nat) (v : FVal) : Nat × Flags :=
  match v with
  | .fin neg m e =>
    let x := Exact.ofVal neg m e
    let (nearest, fl) := f.round 0 sat x
    if !fl.getLsbD 4 then (nearest, fl)                        -- representable
    else
      let maxOver : Bool := match f.read f.maxCode with
        | .fin _ mm me => (Dy.of true mm me |>.add (Dy.of false m e)).m > 0
        | _ => false
      if maxOver then f.overflow 0 neg sat
      else
        let (lo, hi, lom, him, q) := bracket f x
        -- t · 2^n > r · g with t = |x| − |lo| and g = |hi| − |lo|, in a common unit
        let t := (Dy.of false m e).add { m := -(lom : Int), e := q }
        let lhs : Dy := { m := t.m * 2 ^ n, e := t.e }
        let rhs : Dy := { m := -(((him - lom) * r : Nat) : Int), e := q }
        let code := if (lhs.add rhs).m > 0 then hi else lo
        (if f == .mk8 && code = 0 then 0 else f.signed neg code, fl)
  | v => f.convert 0 sat v

/-- The integer square root, bit by bit from bit k − 1 down. -/
def isqrtFrom (n : Nat) : Nat → Nat → Nat
  | 0, acc => acc
  | k + 1, acc => isqrtFrom n k (if (acc + 2 ^ k) * (acc + 2 ^ k) ≤ n then acc + 2 ^ k else acc)

/-- floor(√n). -/
def isqrt (n : Nat) : Nat := isqrtFrom n (Nat.log2 n / 2 + 1) 0

/-- Bits after the point in the fixed-point evaluation of the transcendentals. -/
def fxBits : Nat := 448

/-- One in fixed point. -/
def fxOne : Nat := 2 ^ fxBits

/-- Product in fixed point. -/
def fxMul (a b : Nat) : Nat := (a * b) >>> fxBits

/-- Σ over k of the terms (±) t / (2k + 1), t multiplied by sq each time: atan and atanh series. -/
def oddSeries (alt : Bool) (sq : Nat) : Nat → Nat → Nat → Nat → Nat → Nat
  | 0, _, _, pos, neg => pos - neg
  | n + 1, k, t, pos, neg =>
    let u := t / (2 * k + 1)
    if alt && k % 2 == 1 then oddSeries alt sq n (k + 1) (fxMul t sq) pos (neg + u)
    else oddSeries alt sq n (k + 1) (fxMul t sq) (pos + u) neg

/-- atan(1/q) in fixed point. -/
def fxAtanInv (q : Nat) : Nat := oddSeries true (fxOne / (q * q)) 110 0 (fxOne / q) 0 0

/-- π in fixed point (Machin's formula). -/
def fxPi : Nat := 16 * fxAtanInv 5 - 4 * fxAtanInv 239

/-- atanh(z) in fixed point for z at most 1/3. -/
def fxAtanh (z : Nat) : Nat := oddSeries false (fxMul z z) 150 0 z 0 0

/-- ln 2 in fixed point. -/
def fxLn2 : Nat := 2 * fxAtanh (fxOne / 3)

/-- Σ y^k / k! from term t = y^k / k!. -/
def expSeries (y : Nat) : Nat → Nat → Nat → Nat → Nat
  | 0, _, _, acc => acc
  | n + 1, k, t, acc => expSeries y n (k + 1) (fxMul t y / (k + 1)) (acc + t)

/-- e^y in fixed point, for y below about 1. -/
def fxExp (y : Nat) : Nat := expSeries y 110 0 fxOne 0

/-- Σ ± θ^(2k+1) / (2k+1)! from term t. -/
def sinSeries (sq : Nat) : Nat → Nat → Nat → Nat → Nat → Nat
  | 0, _, _, pos, neg => pos - neg
  | n + 1, k, t, pos, neg =>
    let t' := fxMul t sq / ((2 * k + 2) * (2 * k + 3))
    if k % 2 == 1 then sinSeries sq n (k + 1) t' pos (neg + t) else sinSeries sq n (k + 1) t' (pos + t) neg

/-- sin θ in fixed point for θ from 0 to π/2. -/
def fxSin (th : Nat) : Nat := sinSeries (fxMul th th) 70 0 th 0 0

/-- A fixed-point magnitude as a value that is not representable: the exact value is irrational. -/
def fxValue (neg : Bool) (m : Nat) (scale : Int) : Exact := { neg := neg, m := m, e := scale - fxBits, sticky := true }

/-- A dyadic magnitude in fixed point, truncated. -/
def fxOf (m : Nat) (e : Int) : Nat :=
  let s := e + fxBits
  if 0 ≤ s then m * 2 ^ s.toNat else m >>> (-s).toNat

/-- FRCP of a finite value (Table 4.6). -/
def fRcp (f : Fmt) (rm a : Nat) : Nat × Flags :=
  match f.read a with
  | .nan s => f.nanResult s
  | .inf n => (f.signed n 0, 0)
  | .fin n m e =>
    if m = 0 then (f.infinity n false, flagDZ)
    else
      let num := 2 ^ (Nat.log2 m + 128)
      f.round rm false { neg := n, m := num / m, e := -(e + (Nat.log2 m + 128 : Nat)), sticky := num % m != 0 }

/-- The square root of m · 2^e with at least 128 bits, e made even. -/
def sqrtExact (m : Nat) (e : Int) : Exact :=
  let (m, e) := if e % 2 = 0 then (m, e) else (2 * m, e - 1)
  let n := m * 2 ^ 256
  let r := isqrt n
  { neg := false, m := r, e := e / 2 - 128, sticky := r * r != n }

/-- FSQRT (Table 4.6). -/
def fSqrt (f : Fmt) (rm a : Nat) : Nat × Flags :=
  match f.read a with
  | .nan s => f.nanResult s
  | .inf n => if n then f.nanResult true else (f.infinity false false, 0)
  | .fin n m e =>
    if m = 0 then (f.signed n 0, 0)
    else if n then f.nanResult true
    else f.round rm false (sqrtExact m e)

/-- FRSQ (Table 4.6): 1/√x = √(2^2k / m) scaled. -/
def fRsq (f : Fmt) (a : Nat) : Nat × Flags :=
  match f.read a with
  | .nan s => f.nanResult s
  | .inf n => if n then f.nanResult true else (f.signed false 0, 0)
  | .fin n m e =>
    if m = 0 then (f.infinity n false, flagDZ)
    else if n then f.nanResult true
    else
      let (m, e) := if e % 2 = 0 then (m, e) else (2 * m, e - 1)
      let k := Nat.log2 m + 256
      let num := 2 ^ (2 * k)
      let r := isqrt (num / m)
      f.round 0 false { neg := false, m := r, e := -(k : Int) - e / 2, sticky := r * r * m != num }

/-- FEX2 (Table 4.6): 2^x for x = ±m · 2^e; integers are exact. -/
def fEx2 (f : Fmt) (a : Nat) : Nat × Flags :=
  match f.read a with
  | .nan s => f.nanResult s
  | .inf n => if n then (0, 0) else (f.infinity false false, 0)
  | .fin n m e =>
    if m = 0 then f.round 0 false (.ofVal false 1 0)
    else if (Nat.log2 m : Int) + e > 12 then
      f.round 0 false { neg := false, m := 1, e := if n then -9000 else 9000, sticky := false }
    else
      let fx := fxOf m e
      let i := fx / fxOne
      let fr := fx % fxOne
      if fr = 0 then f.round 0 false (.ofVal false 1 (if n then -(i : Int) else i))
      else
        let (ip, fp) : Int × Nat := if n then (-(i : Int) - 1, fxOne - fr) else (i, fr)
        f.round 0 false (fxValue false (fxExp (fxMul fp fxLn2)) ip)

/-- FLG2 (Table 4.6): log2 of m · 2^e; powers of two are exact. -/
def fLg2 (f : Fmt) (a : Nat) : Nat × Flags :=
  match f.read a with
  | .nan s => f.nanResult s
  | .inf n => if n then f.nanResult true else (f.infinity false false, 0)
  | .fin n m e =>
    if m = 0 then (f.infinity true false, flagDZ)
    else if n then f.nanResult true
    else
      let l := Nat.log2 m
      let k : Int := l + e
      if m = 2 ^ l then f.round 0 false (.ofVal (k < 0) k.natAbs 0)
      else
        -- m / 2^l in (1, 2): log2 = 2 atanh((x − 1)/(x + 1)) / ln 2
        let z := (m - 2 ^ l) * fxOne / (m + 2 ^ l)
        let lg := 2 * fxAtanh z * fxOne / fxLn2
        if 0 ≤ k then f.round 0 false (fxValue false (k.toNat * fxOne + lg) 0)
        else f.round 0 false (fxValue true (k.natAbs * fxOne - lg) 0)

/-- The fraction of a turn of a finite magnitude, in fixed point: (m · 2^e) mod 1. Exact, since e ≥ −149. -/
def turnFrac (m : Nat) (e : Int) : Nat := if 0 ≤ e then 0 else fxOf m e % fxOne

/-- sin of a fraction of a turn t / 2^448: sign and fixed-point magnitude, and whether it is exact. -/
def sinTurn (t : Nat) : Bool × Nat × Bool :=
  let q := t / (fxOne / 4)               -- quarter
  let r := t % (fxOne / 4)
  let neg := 2 ≤ q
  if r = 0 then (neg, if q % 2 = 1 then fxOne else 0, true)
  else
    let u := if q % 2 = 0 then r else fxOne / 4 - r
    (neg, fxSin (fxMul (2 * fxPi) u), false)

/-- FSIN (Table 4.6). -/
def fSin (f : Fmt) (a : Nat) : Nat × Flags :=
  match f.read a with
  | .nan s => f.nanResult s
  | .inf _ => f.nanResult true
  | .fin n m e =>
    let (s, v, ex) := sinTurn (turnFrac m e)
    if ex then (if v = 0 then (f.signed n 0, 0) else f.round 0 false (.ofVal (s != n) 1 0))
    else f.round 0 false (fxValue (s != n) v 0)

/-- FCOS (Table 4.6): the sine a quarter turn on. -/
def fCos (f : Fmt) (a : Nat) : Nat × Flags :=
  match f.read a with
  | .nan s => f.nanResult s
  | .inf _ => f.nanResult true
  | .fin _ m e =>
    let (s, v, ex) := sinTurn ((turnFrac m e + fxOne / 4) % fxOne)
    if ex then (if v = 0 then (f.signed false 0, 0) else f.round 0 false (.ofVal s 1 0))
    else f.round 0 false (fxValue s v 0)

/-- FTANH (Table 4.6): (E − 1)/(E + 1) with E = e^2x. -/
def fTanh (f : Fmt) (a : Nat) : Nat × Flags :=
  match f.read a with
  | .nan s => f.nanResult s
  | .inf n => f.round 0 false (.ofVal n 1 0)
  | .fin n m e =>
    if m = 0 then (f.signed n 0, 0)
    else if (Nat.log2 m : Int) + e ≥ 6 then f.round 0 false (fxValue n (fxOne - 1) 0)
    else
      let y := 2 * fxOf m e
      let i := y / fxLn2
      let ex := fxExp (y % fxLn2) <<< i
      f.round 0 false (fxValue n ((ex - fxOne) * fxOne / (ex + fxOne)) 0)

/-- floor(log2 |t|) of a non-zero finite value. -/
def FVal.log (v : FVal) : Option Int :=
  match v with
  | .fin _ m e => if m = 0 then none else some ((Nat.log2 m : Int) + e)
  | _ => none

/-- A term of the window sum truncated to a multiple of 2^q: the signed multiple and whether bits were lost (R75). -/
def windowTerm (q : Int) (v : FVal) : Int × Bool :=
  match v with
  | .fin n m e =>
    let (k, lost) := roundAt 1 (.ofVal n m e) q
    (if n then -(k : Int) else k, lost)
  | _ => (0, false)

/-- The window sum of a block's products and an incoming value; a product is `none` where it is a NaN (R75). -/
def windowSum (products : List (Option FVal)) (incoming : Option FVal) : Nat × Flags :=
  let terms := products.map (·.getD (.nan false)) ++ incoming.toList
  let pinf := terms.any (fun v => v.isInf && !v.neg)
  let ninf := terms.any (fun v => v.isInf && v.neg)
  if terms.any (·.isNan) || (pinf && ninf) then (Fmt.f32.nan, flagNV)
  else if pinf || ninf then (Fmt.f32.infinity ninf false, 0)
  else
    match (terms.filterMap (·.log)).max? with
    | none => (Fmt.f32.signed (!terms.isEmpty && terms.all (·.neg)) 0, 0)
    | some emax =>
      let q := emax - 60
      let parts := terms.map (windowTerm q)
      let s := parts.foldl (fun acc p => acc + p.1) 0
      let lost := parts.any (·.2)
      let (r, fl) := Fmt.f32.round 0 false (.ofVal (s < 0) s.natAbs q)
      (r, fl ||| flagIf lost flagNX)

/-- A scale byte's exponent; none is a NaN scale (R65). -/
def scaleExp (b : Nat) : Option Int := if b % 256 = 255 then none else some ((b % 256 : Nat) - 127)

/-- A value times a scale (R65). -/
def FVal.scale (v : FVal) (k : Option Int) : FVal :=
  match k with
  | none => .nan false
  | some k => match v with
    | .fin n m e => .fin n m (e + k)
    | v => v

/-- The block scale byte of the values of a block (R103); `etop` is the format's. -/
def scaleByte (etop : Int) (vs : List FVal) : Nat × Flags :=
  if vs.any (fun v => v.isNan || v.isInf) then (255, flagIf (vs.any (·.snan)) flagNV)
  else match (vs.filterMap (·.log)).max? with
    | none => (127, 0)
    | some l => ((min (max (l - etop + 127) 0) 254).toNat, 0)

end Sys2Proof.Machine
end

