-- ==== Sys2Proof/Machine/Ops.lean ====
section
/-! DEFINITION. The named operations that meanings are written over: lanes and masks, memory, registers, where a team
stands, regions (17_quarantine.md), taking a trap and returning from one (18_traps_faults_redundancy.md). -/

namespace Sys2Proof.Machine

/-! ### Lanes and masks -/

/-- The mask of the lanes below n that satisfy p. -/
def maskOf (n : Nat) (p : Nat → Bool) : Mask :=
  BitVec.ofNat 1024 ((List.range n).foldl (fun acc l => if p l then acc + 2 ^ l else acc) 0)

/-- Bit l of a mask. -/
def Mask.has (m : Mask) (l : Nat) : Bool := m.getLsbD l

/-- The lanes of a mask below n, ascending. -/
def lanesOf (n : Nat) (m : Mask) : List Nat := (List.range n).filter (fun l => Mask.has m l)

/-- The mask of a list of lanes. -/
def maskOfList (ls : List Nat) : Mask := ls.foldl (fun acc l => acc ||| (1 <<< l)) 0

/-- The lanes of a team of width n. -/
def fullMask (n : Nat) : Mask := maskOf n (fun _ => true)

/-! ### Bytes -/

/-- n bytes of a number, least significant first. -/
def natBytes (n x : Nat) : List Byte := (List.range n).map (fun i => BitVec.ofNat 8 (x >>> (8 * i)))

/-- The number that bytes stand for, least significant first. -/
def bytesNat (bs : List Byte) : Nat := bs.foldr (fun b acc => b.toNat + 256 * acc) 0

/-- n bytes of a list from an offset, zero beyond its end. -/
def sliceBytes (bs : List Byte) (off n : Nat) : List Byte := (List.range n).map (fun i => bs.getD (off + i) 0)

/-- A little-endian field of a list of bytes. -/
def fieldAt (bs : List Byte) (off n : Nat) : Nat := bytesNat (sliceBytes bs off n)

/-- Overwrites bytes of a list. -/
def patch (bs : List Byte) (off : Nat) (new : List Byte) : List Byte := bs.take off ++ new ++ bs.drop (off + new.length)

/-! ### Memory -/

/-- One byte. -/
def Memory.get (m : Memory) (a : Nat) : Byte :=
  match m with
  | [] => Memory.fill
  | c :: rest => if c.1 = a then c.2 else if a < c.1 then Memory.fill else Memory.get rest a

/-- Writes one byte, keeping the canonical form. -/
def Memory.set (m : Memory) (a : Nat) (b : Byte) : Memory :=
  match m with
  | [] => if b = Memory.fill then [] else [(a, b)]
  | c :: rest =>
    if c.1 < a then c :: Memory.set rest a b
    else if c.1 = a then (if b = Memory.fill then rest else (a, b) :: rest)
    else (if b = Memory.fill then c :: rest else (a, b) :: c :: rest)

/-- n bytes from an address. -/
def Memory.bytes (m : Memory) (a n : Nat) : List Byte := (List.range n).map (fun i => m.get (a + i))

/-- Writes bytes from an address on. -/
def Memory.put (m : Memory) (a : Nat) (bs : List Byte) : Memory :=
  match bs with
  | [] => m
  | b :: rest => Memory.put (m.set a b) (a + 1) rest

/-- Writes the bytes that a mask selects. -/
def Memory.putMasked (m : Memory) (a : Nat) (mask : BitVec 64) (bs : List Byte) (i : Nat) : Memory :=
  match bs with
  | [] => m
  | b :: rest => Memory.putMasked (if mask.getLsbD i then m.set (a + i) b else m) a mask rest (i + 1)

/-! ### Pieces of the state -/

/-- The team of a uid. -/
def State.team? (s : State) (u : Nat) : Option Team := s.teams.find? (fun t => t.uid == u)

/-- Replaces the team with this uid. -/
def State.setTeam (s : State) (t : Team) : State :=
  { s with teams := s.teams.map (fun x => if x.uid = t.uid then t else x) }

/-- Changes the team with a uid. -/
def State.updTeam (s : State) (u : Nat) (f : Team → Team) : State :=
  { s with teams := s.teams.map (fun x => if x.uid = u then f x else x) }

def State.block? (s : State) (u : Nat) : Option Block := s.blocks.find? (fun b => b.uid == u)
def State.updBlock (s : State) (u : Nat) (f : Block → Block) : State :=
  { s with blocks := s.blocks.map (fun x => if x.uid = u then f x else x) }

def State.grid? (s : State) (u : Nat) : Option Grid := s.grids.find? (fun g => g.uid == u)
def State.updGrid (s : State) (u : Nat) (f : Grid → Grid) : State :=
  { s with grids := s.grids.map (fun x => if x.uid = u then f x else x) }

def State.span? (s : State) (u : Nat) : Option Span := s.spans.find? (fun x => x.uid == u)
def State.updSpan (s : State) (u : Nat) (f : Span → Span) : State :=
  { s with spans := s.spans.map (fun x => if x.uid = u then f x else x) }

def State.op? (s : State) (i : Nat) : Option EngOp := s.ops.find? (fun o => o.id == i)
def State.updOp (s : State) (i : Nat) (f : EngOp → EngOp) : State :=
  { s with ops := s.ops.map (fun x => if x.id = i then f x else x) }

def State.core (s : State) (n : Nat) : Core := s.cores.getD n Core.reset
def State.updCore (s : State) (n : Nat) (f : Core → Core) : State := { s with cores := s.cores.modify n f }
def State.die (s : State) (d : Nat) : Die := s.dies.getD d (Die.reset d)
def State.updDie (s : State) (d : Nat) (f : Die → Die) : State := { s with dies := s.dies.modify d f }
def State.stack (s : State) (k : Nat) : Stack := s.memStacks.getD k Stack.reset
def State.updStack (s : State) (k : Nat) (f : Stack → Stack) : State := { s with memStacks := s.memStacks.modify k f }

/-- A fresh uid. -/
def State.fresh (s : State) : Nat × State := (s.nextUid, { s with nextUid := s.nextUid + 1 })

/-- A value that the spec leaves undefined: a free value, one for each draw. -/
def State.draw (s : State) : Word × State := (Config.freeWord s.free, { s with free := s.free + 1 })

/-! ### The package (01_machine.md) -/

/-- Device links of a variant (Table 0.1). -/
def Variant.deviceLinks : Variant → Nat
  | .chevoeno8 => 8
  | .chevoeno6 => 4

/-- Chiplets of a variant: 8, or 0–5 (Table 0.1). -/
def Variant.chips : Variant → Nat
  | .chevoeno8 => 8
  | .chevoeno6 => 6

/-- Stacks of a variant. -/
def Variant.stackCount (v : Variant) : Nat := 2 * v.chips

/-- A chiplet that is present and has not failed. -/
def State.chipOk (s : State) (c : Nat) : Bool := c < s.variant.chips && !(s.die c).failed

/-- A column chiplet (R6). -/
def isColumn (chip : Nat) : Bool := chip < 4

/-- The capability sets a chiplet implements: bit 0 JB, 1 JF, 2 JP (R20, Table 1.9). -/
def chipCaps (chip : Nat) : Nat := if isColumn chip then 7 else 1

/-- The sensor zone of a cluster (Table 1.10). -/
def clusterZone (chip cluster : Nat) : Nat := 5 * chip + cluster

/-- The die-common zone of a chiplet. -/
def dieZone (chip : Nat) : Nat := 5 * chip + 4

/-- The hub's zone. -/
def hubZone : Nat := 40

/-- A stack's zone. -/
def stackZone (k : Nat) : Nat := 41 + k

/-- The zones of the units that are present (R23). -/
def Variant.zones (v : Variant) : List Nat :=
  List.range (5 * v.chips) ++ [hubZone] ++ (List.range v.stackCount).map stackZone

/-- The own die of a zone; the hub has none (R334). -/
def ownDie (z : Nat) : Option Nat :=
  if z < 40 then some (z / 5) else if z = 40 then none else some ((z - 41) / 2)

/-- A place's zone. -/
def Loc.zone (l : Loc) : Nat := clusterZone l.chip l.cluster

/-- A place's core on its chiplet, 0–7, and in the package, 0–63 (R7). -/
def Loc.coreOn (l : Loc) : Nat := 2 * l.cluster + l.core
def Loc.pkgCore (l : Loc) : Nat := 8 * l.chip + l.coreOn

/-- The rename store of a partition, in register-lanes (R339). -/
def renameStore (chip : Nat) : Nat := if isColumn chip then 65536 else 32768

/-- The register file of a partition, in register-lanes (R224). -/
def registerFile (chip : Nat) : Nat := if isColumn chip then 393216 else 196608

/-- The emergency reserve of a partition (R224). -/
def reserveLanes : Nat := 16384

/-! ### Registers of a team (R45) -/

/-- The value of a vector register in a lane. -/
def Arch.vget (a : Arch) (r l : Nat) : Word := (a.v.getD r []).getD l 0

/-- Writes a vector register in the lanes where a value is given. -/
def Arch.vset (a : Arch) (r : Nat) (val : Nat → Option Word) : Arch :=
  { a with v := a.v.modify r (fun row => row.mapIdx (fun l old => (val l).getD old)) }

def Arch.sget (a : Arch) (r : Nat) : Word := a.s.getD r 0
def Arch.sset (a : Arch) (r : Nat) (w : Word) : Arch := { a with s := a.s.set r w }

def Arch.xget (a : Arch) (r : Nat) : BitVec 16 := a.x.getD r 0

/-- k0 reads as all ones (R45). -/
def Arch.kget (a : Arch) (r : Nat) : Mask := if r = 0 then BitVec.allOnes 1024 else a.k.getD r 0

/-- Writes the bits of a mask in the given lanes; a write to k0 is ignored (R45, R83). -/
def Arch.kset (a : Arch) (r : Nat) (lanes val : Mask) : Arch :=
  if r = 0 then a else { a with k := a.k.modify r (fun old => (old &&& ~~~lanes) ||| (val &&& lanes)) }

/-- The pair r, r + 1 as 64 bits. -/
def Arch.vpair (a : Arch) (r l : Nat) : Nat := (a.vget r l).toNat + 2 ^ 32 * (a.vget (r + 1) l).toNat
def Arch.spair (a : Arch) (r : Nat) : Nat := (a.sget r).toNat + 2 ^ 32 * (a.sget (r + 1)).toNat
def Arch.ssetPair (a : Arch) (r x : Nat) : Arch := (a.sset r (BitVec.ofNat 32 x)).sset (r + 1) (BitVec.ofNat 32 (x >>> 32))

/-- Gathers flags into the sticky bits (R73). -/
def Arch.orFlags (a : Arch) (f : Flags) : Arch := { a with flags := a.flags ||| f.zeroExtend 32 }

/-- The enables, `%flags`[12:8]. -/
def Arch.enables (a : Arch) : BitVec 5 := a.flags.extractLsb' 8 5

/-- The join entries of the stack, top first. -/
def Arch.joins (a : Arch) : List JoinEntry :=
  a.stack.filterMap (fun e => match e with | .join j => some j | .call _ => none)

/-- The join counter: ejected lanes not yet returned (R232). -/
def Team.ctr (t : Team) (j : JoinEntry) : Nat := j.count - (t.returned.filter (fun r => r.entry == j.name)).length

/-- The lanes out on the lantern (R232). -/
def Arch.ejected (a : Arch) : Mask := a.joins.foldl (fun acc j => acc ||| j.ej) 0

/-- One vector or scalar register of a long-latency result, in one lane. -/
def Arch.deliver (a : Arch) (d : Dest) (reg lane : Nat) (w : Word) : Arch :=
  match d with
  | .vec _ => a.vset reg (fun l => if l = lane then some w else none)
  | .scal _ => a.sset reg w
  | .mask k => a.kset k (1 <<< lane) (if w.getLsbD 0 then 1 <<< lane else 0)
  | .none => a

/-! ### Teams -/

/-- The team's grid. -/
def State.gridOf (s : State) (t : Team) : Option Grid := s.grid? t.grid

/-- A grid that has ended holds its teams still (R352). -/
def State.gridLive (s : State) (t : Team) : Bool :=
  match s.gridOf t with
  | some g => g.status.isNone
  | none => false

/-- The tenant partition of a team, by its grid. -/
def State.tenantOf (s : State) (t : Team) : Nat := ((s.gridOf t).map (·.tenant)).getD 0

/-- The address space of a team, by its grid. -/
def State.asidOf (s : State) (t : Team) : Nat := ((s.gridOf t).map (·.asid)).getD 0

/-- The open region, which is the last. -/
def Team.openRegion (t : Team) : Option Region := t.regions.getLast?.filter (fun r => r.closeT.isNone)

/-- The id of the open region, or of the next one when none is open. -/
def Team.regionId (t : Team) : Nat := (t.openRegion.map (·.id)).getD t.nextRegion

/-- Changes the open region. -/
def Team.updOpen (t : Team) (f : Region → Region) : Team :=
  { t with regions := t.regions.map (fun r => if r.closeT.isNone then f r else r) }

/-- Changes the region with an id. -/
def Team.updRegion (t : Team) (id : Nat) (f : Region → Region) : Team :=
  { t with regions := t.regions.map (fun r => if r.id = id then f r else r) }

/-- A number in the team's program order. -/
def Team.freshId (t : Team) : Nat × Team := (t.nextId, { t with nextId := t.nextId + 1 })

/-- Closes the open region at a tick (R336). -/
def Team.closeRegion (t : Team) (tick : Nat) : Team := t.updOpen (fun r => { r with closeT := some tick })

/-- Regions in flight, the open one counted (R336). -/
def Team.inFlight (t : Team) : Nat := t.regions.length

/-- No imported tags. -/
def Tags.empty : Tags := { tags := [], wide := none }

/-- Opens a region at the team's pc, with its checkpoint (R336, R340). -/
def Team.openAt (t : Team) (tick ndest nshadow : Nat) : Team :=
  { t with
    regions := t.regions ++ [{ id := t.nextRegion, openT := tick, closeT := none, head := t.arch.pc, ckpt := t.arch,
                               held := [], fresh := true, imports := Tags.empty, ndest := ndest, nshadow := nshadow,
                               dests := [], scales := [], tiles := [], quarters := [], x2 := [], checks := [], folded := [], sig := none }]
    nextRegion := t.nextRegion + 1
    needHead := false }

/-- Places an implicit head at the team's pc: the open region closes and the next opens at the same tick, or, with four in
flight, waits at issue (R336, R337). -/
def Team.implicitHead (t : Team) (tick : Nat) : Team :=
  let t := t.closeRegion tick
  if t.inFlight < 4 then t.openAt tick 64 8 else { t with needHead := true }

/-! ### Tags (R342) -/

/-- Adds a contribution from a zone, first stamp f, last stamp l. A third zone merges all into one package-wide tag. -/
def Tags.add (g : Tags) (z f l : Nat) : Tags :=
  match g.wide with
  | some (a, b) => { g with wide := some (min a f, max b l) }
  | none =>
    if g.tags.any (fun t => t.zone == z) then
      { g with tags := g.tags.map (fun t => if t.zone = z then { t with first := min t.first f, last := max t.last l } else t) }
    else if g.tags.length < 2 then { g with tags := g.tags ++ [{ zone := z, first := f, last := l }] }
    else
      { tags := [],
        wide := some (g.tags.foldl (fun (a : Nat) t => min a t.first) f, g.tags.foldl (fun (a : Nat) t => max a t.last) l) }

/-- Adds all of another set. -/
def Tags.merge (g h : Tags) : Tags :=
  let g := h.tags.foldl (fun acc t => acc.add t.zone t.first t.last) g
  match h.wide, g.wide with
  | none, _ => g
  | some (a, b), none =>
    { tags := [], wide := some (g.tags.foldl (fun (x : Nat) t => min x t.first) a, g.tags.foldl (fun (x : Nat) t => max x t.last) b) }
  | some (a, b), some (c, d) => { g with wide := some (min a c, max b d) }

/-- Adds a zone stamp to a region's imported tags; the own zone adds none (R342). -/
def Region.gather (r : Region) (own : Nat) (tags : List (Nat × Nat)) : Region :=
  { r with imports := tags.foldl (fun acc (z, n) => if z = own then acc else acc.add z n n) r.imports }

/-- The window W (R23). -/
def windowW : Nat := 64

/-- The ticks within which the checker reports (R134). -/
def checkTicks : Nat := 32

/-- The reporting bound L (R333). -/
def latencyL : Nat := 48

/-- The clear-through a die has received from a zone (R334). -/
def State.recv (s : State) (die z : Nat) : Nat := (s.die die).crecv.getD z 0

/-- Every imported tag has cleared at a die (R343). -/
def State.tagsClear (s : State) (die : Nat) (g : Tags) : Bool :=
  g.tags.all (fun t => t.last + windowW ≤ s.recv die t.zone) &&
  match g.wide with
  | none => true
  | some (_, l) => s.variant.zones.all (fun z => l + windowW ≤ s.recv die z)

/-- A notice strikes data that are held until each tag has cleared: the tag that names its zone has not (R175, R342). -/
def State.strikesHeld (s : State) (die : Nat) (g : Tags) (z t : Nat) : Bool :=
  g.tags.any (fun x => x.zone == z && x.first ≤ t && t ≤ x.last + windowW && s.recv die z < x.last + windowW) ||
  match g.wide with
  | none => false
  | some (f, l) => f ≤ t && t ≤ l + windowW && s.variant.zones.any (fun z => s.recv die z < l + windowW)

/-- A notice strikes a tag set (R344). -/
def Tags.struck (g : Tags) (z t : Nat) : Bool :=
  g.tags.any (fun x => x.zone == z && x.first ≤ t && t ≤ x.last + windowW) ||
  match g.wide with
  | none => false
  | some (f, l) => f ≤ t && t ≤ l + windowW

/-! ### Traps (R352–R356) -/

/-- Cause codes (Table 18.3). -/
def Cause.code : Cause → Nat
  | .illegalOp => 0x01 | .migrate => 0x02 | .noCapable => 0x03 | .badTarget => 0x04 | .regBound => 0x05
  | .operandReserved => 0x06 | .pairRule => 0x07 | .pageFault => 0x10 | .access => 0x11 | .align => 0x12
  | .scratchRange => 0x13 | .scratchUninit => 0x14 | .shapeInvalid => 0x18 | .gourMisuse => 0x19 | .selfDep => 0x20
  | .evalDepth => 0x21 | .poisonLoad => 0x22 | .geodeState => 0x23 | .syncMismatch => 0x28 | .divergentCollective => 0x29
  | .joinUnderflow => 0x2A | .arithExc => 0x30 | .redundantLimit => 0x38 | .residueLimit => 0x39 | .strikeLimit => 0x3A
  | .clearanceTimeout => 0x3B | .watch => 0x40 | .break_ => 0x41 | .step => 0x42 | .userTrap => 0x48 | .preempt => 0x50

/-- What a raising rule gives the handler. `epc = none` is the word itself. -/
structure Trap where
  cause    : Cause
  epc      : Option DWord := none
  eaddr    : DWord := 0
  einfo    : Word := 0
  emask    : Mask := 0
  once     : Bool := false
  deferred : Bool := false
  detail   : Option Word := none          -- a value for %gdetail (R263)
deriving DecidableEq, Repr

/-- %estat (Table 18.2). -/
def Trap.estat (tr : Trap) (role : Role) : Word :=
  (if tr.deferred then 1 else 0) + (if tr.once then 2 else 0) + (if role == .trailing then 4 else 0)

/-- A trap that a trailing copy takes from the queue: one reported at a parking point, and one that rests on scratch objects, engines
or barriers, which the leading copy alone acts on. -/
def Trap.reported (tr : Trap) : Bool :=
  tr.deferred || tr.cause == .syncMismatch || tr.cause == .gourMisuse || tr.cause == .shapeInvalid

/-- The registers a handled trap leaves (R352): the banked registers, every lane neither exited nor ejected live, the pc at
%tvec, the in-handler bit set. A WAITV that it interrupts begins anew (R243). Nothing else changes. -/
def Arch.enterHandler (a : Arch) (tw : Nat) (role : Role) (tr : Trap) : Arch :=
  { a with
    bank := { epc := tr.epc.getD a.pc, ecause := BitVec.ofNat 32 tr.cause.code, estat := tr.estat role, eaddr := tr.eaddr,
              einfo := tr.einfo, emask := tr.emask, elive := a.live }
    gdetail := tr.detail.getD a.gdetail
    live := fullMask tw &&& ~~~(a.exited ||| a.ejected)
    inHandler := true
    waitFrom := none
    pc := a.tvec }

/-- A trap is unhandled when %tvec is 0 or the team is in its handler (R352). -/
def Arch.unhandled (a : Arch) : Bool := a.tvec == 0 || a.inHandler

/-- The status word of an aborted grid (R217, Table 9.3). -/
def abortStatus (c : Cause) : Word := BitVec.ofNat 32 (0x10 + 256 * c.code)

/-- The host takes a write of n bytes at a host address (R331, R376, R392; log 66). -/
def State.hostTakes (s : State) (a n : Nat) : Bool := !s.hostBad.any (fun p => a / 4096 ≤ p && p ≤ (a + n - 1) / 4096)

/-- A unit's write to host memory; one that the host refuses is lost. -/
def State.hostPut (s : State) (a : Nat) (bs : List Byte) : State :=
  if s.hostTakes a bs.length then { s with hostMem := s.hostMem.put a bs } else s

/-- Drops read-cache lines. -/
def State.dropRead (s : State) (core : Nat) (p : ReadLine → Bool) : State :=
  s.updCore core (fun c => { c with readCache := c.readCache.filter (fun l => !p l) })

/-- An acquire of scope .clus or wider: every line of the team's address space (R144). -/
def State.invalidateRead (s : State) (core asid : Nat) : State := s.dropRead core (fun l => l.asid == asid)

/-- Ends a grid with status ABORTED; the first end stands. -/
def State.abortGrid (s : State) (gid team : Nat) (c : Cause) : State :=
  s.updGrid gid (fun g => if g.status.isNone then { g with status := some (abortStatus c), aborted := some (team, s.tick) } else g)

/-- A POISON_LOAD trap is an acquire of the cell's poisoning (R205). -/
def State.poisonAcquire (s : State) (t : Team) (tr : Trap) : State :=
  if tr.cause = .poisonLoad ∧ t.role ≠ .trailing then s.invalidateRead t.loc.pkgCore (s.asidOf t) else s

/-- Taking a trap: the one operation every raising rule goes through (R352). A handled trap enters the handler at an implicit
head; an unhandled one ends the grid, and the team takes no further step. -/
def State.takeTrap (s : State) (t : Team) (tr : Trap) : State :=
  let s := { s with issue := if s.issue = some t.uid then none else s.issue }.poisonAcquire t tr
  if t.arch.unhandled then
    let bank : Banked :=
      { epc := tr.epc.getD t.arch.pc, ecause := BitVec.ofNat 32 tr.cause.code, estat := tr.estat t.role, eaddr := tr.eaddr,
        einfo := tr.einfo, emask := tr.emask, elive := t.arch.live }
    (s.setTeam { t with arch := { t.arch with bank := bank, gdetail := tr.detail.getD t.arch.gdetail }
                        run := .ready }).abortGrid t.grid t.uid tr.cause
  else
    let a := t.arch.enterHandler t.tw t.role tr
    -- a leading copy reports to its trailing copy a trap taken at a parking point, and one that only it can raise (R365, log 18)
    let e : LvqEntry :=
      { kind := 3, word := t.arch.issued, pc := t.arch.pc, region := t.regionId, addrs := [], vals := [], bytes := 32 + t.tw / 8,
        trap := some a.bank, recs := [], note := (0, 0, 0) }
    let t := { t with arch := a, run := .ready, waitSlots := 0, lvq := if tr.reported && t.role == Role.leading then t.lvq ++ [e] else t.lvq }
    s.setTeam (t.implicitHead s.tick)

/-- Returning from a trap (R361): the live mask of %elive less the exited lanes, the in-handler bit clear, the pc at %epc. -/
def Arch.returnFromTrap (a : Arch) : Arch :=
  { a with live := a.bank.elive &&& ~~~a.exited, inHandler := false, pc := a.bank.epc }

end Sys2Proof.Machine
end

