-- ==== Sys2Proof/Machine/Bar.lean ====
section
/-! DEFINITION. The registers of the nine functions' BAR0 pages (Table 15.7) as words, their reset values, and the fields
that other units read: context slots, partitions, fault queues, traces. -/

namespace Sys2Proof.Machine

/-- Reset values other than 0 (Table 16.8). -/
def barReset (key : Nat) : Word :=
  if key = 0x6000 then 0x04B004B0
  else if key = 0x6018 then 0x03E804B0
  else if key = 0x601C then 2
  else 0

/-- A register word of function f. -/
def State.reg (s : State) (f off : Nat) : Word :=
  match s.bar.find? (fun x => x.1 == 0x10000 * f + off) with
  | some x => x.2
  | none => barReset (0x10000 * f + off)

/-- Sets a register word of function f. -/
def State.setReg (s : State) (f off : Nat) (v : Word) : State :=
  let key := 0x10000 * f + off
  if s.bar.any (fun x => x.1 == key) then
    { s with bar := s.bar.map (fun x => if x.1 = key then (key, v) else x) }
  else { s with bar := s.bar ++ [(key, v)] }

/-- A field of a register word. -/
def State.regField (s : State) (f off lo n : Nat) : Nat := ((s.reg f off).toNat >>> lo) % 2 ^ n

/-- Sets a field of a register word. -/
def State.setField (s : State) (f off lo n x : Nat) : State :=
  let old := (s.reg f off).toNat
  let cur := (old >>> lo) % 2 ^ n
  s.setReg f off (BitVec.ofNat 32 (old - cur * 2 ^ lo + (x % 2 ^ n) * 2 ^ lo))

/-- Two register words as 64 bits, low word first. -/
def State.reg64 (s : State) (f off : Nat) : Nat := (s.reg f off).toNat + 2 ^ 32 * (s.reg f (off + 4)).toNat

/-! ### Context slots (Table 15.1) -/

/-- Context slot q of function f. -/
structure Ctx where
  func   : Nat
  slot   : Nat
  root   : Nat
  pasid  : Nat
  remote : Bool
  host   : Bool
  valid  : Bool
  asid   : Nat
deriving DecidableEq, Repr

def State.ctx (s : State) (f q : Nat) : Ctx :=
  let off := 0x4000 + 0x80 * f + 0x20 * q
  let w := s.reg 0 (off + 12)
  { func := f, slot := q, root := (s.reg 0 off).toNat + 2 ^ 32 * ((s.reg 0 (off + 4)).toNat % 256),
    pasid := (s.reg 0 (off + 8)).toNat % 2 ^ 20, remote := w.getLsbD 18, host := w.getLsbD 17, valid := w.getLsbD 16,
    asid := w.toNat % 2 ^ 16 }

/-- Every slot of the package. -/
def State.ctxs (s : State) : List Ctx := (List.range 9).flatMap (fun f => (List.range 4).map (fun q => s.ctx f q))

/-- The slot whose address space an ASID names: that of the queue from which its grids were launched (R290), else a valid slot that holds it, one with its
queue enabled before any other. -/
def State.ctxOf (s : State) (asid : Nat) : Option Ctx :=
  let holds (c : Ctx) : Bool := c.valid && c.asid == asid && asid != 0
  match (s.grids.find? (fun g => g.asid == asid)).map (fun g => s.ctx g.func g.queue) with
  | some c => if holds c then some c else none
  | none => match s.ctxs.find? (fun c => holds c && s.regField c.func (0x40 * c.slot + 8) 0 1 == 1) with
    | some c => some c
    | none => s.ctxs.find? holds

/-! ### Partitions (Table 16.1) -/

def partOff (p : Nat) : Nat := 0x5000 + 0x40 * p
def State.partEn (s : State) (p : Nat) : Bool := p < 8 && s.regField 0 (partOff p + 0x1C) 0 1 == 1
def State.partSuspend (s : State) (p : Nat) : Bool := s.regField 0 (partOff p + 0x1C) 1 1 == 1

/-- Cluster k of chiplet c belongs to partition p. -/
def State.inPart (s : State) (p c k : Nat) : Bool := s.partEn p && (s.reg 0 (partOff p)).getLsbD (4 * c + k)

/-- The save area of a partition: base and bytes. -/
def State.saveBase (s : State) (p : Nat) : Nat :=
  (s.reg 0 (partOff p + 4)).toNat / 65536 * 65536 + 2 ^ 32 * ((s.reg 0 (partOff p + 8)).toNat % 256)
def State.saveSize (s : State) (p : Nat) : Nat := 65536 * (s.reg 0 (partOff p + 12)).toNat
def State.bucketSize (s : State) (p : Nat) : Nat := (s.reg 0 (partOff p + 0x10)).toNat % 2 ^ 24
def State.bucketRate (s : State) (p : Nat) : Nat := (s.reg 0 (partOff p + 0x14)).toNat % 2 ^ 12

/-- The field-test word of a cluster (Table 18.10). -/
def testOff (chip cluster : Nat) : Nat := 0xB000 + 4 * (4 * chip + cluster)
def State.clusterDisabled (s : State) (chip cluster : Nat) : Bool := s.regField 0 (testOff chip cluster) 2 1 == 1
def State.clusterDraining (s : State) (chip cluster : Nat) : Bool := s.regField 0 (testOff chip cluster) 1 1 == 1

/-- Queues a cluster for field test (R373). -/
def State.queueTest (s : State) (chip cluster : Nat) : State :=
  (s.setField 0 (testOff chip cluster) 0 1 1).setField 0 (testOff chip cluster) 1 1 1

/-- Queues the cluster of a zone for field test; a zone of no cluster is only logged (R348, R373). -/
def State.queueZone (s : State) (z : Nat) : State :=
  if z < 40 && z % 5 < 4 then s.queueTest (z / 5) (z % 5) else { s with log := s.log ++ [.zoneTest z] }

/-! ### Writes by the host (R4) -/

/-- Stores the writable bits of a register write; W1C bits that are written 1 clear; the others keep their value. -/
def State.writeMasked (s : State) (f off : Nat) (rw w1c val : Word) : State :=
  let old := s.reg f off
  s.setReg f off (((old &&& ~~~rw) ||| (val &&& rw)) &&& ~~~(val &&& w1c))

end Sys2Proof.Machine
end

