-- ==== Sys2Proof/Machine/Cells.lean ====
section
/-! DEFINITION. Translation (15_translation_and_host.md), the lines of the global cache and of the read caches, cell tags and
the geode state machine at the logic dies (11_geodes_and_migration.md). -/

namespace Sys2Proof.Machine

/-! ### Addresses -/

/-- The line number and cell number of an address. -/
def lineOf (a : Nat) : Nat := a / 64

/-- Splits a run of bytes at 64-byte lines. -/
def linePieces : Nat → Nat → Nat → List (Nat × Nat)
  | 0, _, _ => []
  | fuel + 1, a, n =>
    if n = 0 then [] else
      let k := min n (64 - a % 64)
      (a, k) :: linePieces fuel (a + k) (n - k)

/-- A device-half address (R139). -/
def deviceHalf (va : Nat) : Bool := va.testBit 63

/-- The device number of a device-half address. -/
def deviceOf (va : Nat) : Nat := va / 2 ^ 55 % 256

/-- The owning slice of a virtual address (R145): 2c + m on chiplet c. -/
def owningSlice (v : Variant) (va : Nat) : Nat :=
  let h := (va / 2 ^ 21 % 4096) ^^^ (va / 2 ^ 33 % 4096) ^^^ (va / 2 ^ 45 % 4096) ^^^ (va / 2 ^ 57 % 64)
  h % (2 * v.chips)

/-- The die of an address's owning slice. -/
def State.sliceDie (s : State) (va : Nat) : Nat := owningSlice s.variant va / 2

/-- A device number is listed with a link that is up (R304, R305). -/
def State.deviceUp (s : State) (n : Nat) : Bool :=
  s.listed.any (fun x => x.1 == n && x.2 < s.variant.deviceLinks && !s.downDev.contains x.2)

/-- A physical address of a present stack (R294). -/
def State.physOk (s : State) (pa : Nat) : Bool :=
  pa / 2 ^ 36 < s.variant.stackCount && pa % 2 ^ 36 < 48 * 2 ^ 30 && pa < 2 ^ 40

/-- A page that overlaps the save area of an enabled partition (R309). -/
def State.inSaveArea (s : State) (pa bytes : Nat) : Bool :=
  (List.range 8).any (fun p => s.partEn p && pa < s.saveBase p + s.saveSize p && s.saveBase p < pa + bytes)

/-! ### Device links (R139, R305, R310) -/

/-- The partition for which an address space's traffic counts: that of its grids, else that of its slot's queue (R290). -/
def State.partOf (s : State) (asid : Nat) : Nat :=
  match s.grids.find? (fun g => g.asid == asid) with
  | some g => g.tenant
  | none => match s.ctxOf asid with
    | some c => if c.func = 0 then s.regField 0 (0x40 * c.slot + 8) 8 3 else c.func - 1
    | none => 0

/-- The level of the bucket of a die and a partition. -/
def State.bucket (s : State) (die part : Nat) : Int := (s.die die).buckets.getD part 0

/-- A request enters its device link and takes its tokens. -/
def State.inject (s : State) (x : LinkReq) : State :=
  { s.updDie x.die (fun d => { d with buckets := d.buckets.modify x.part (fun b => b - x.bytes) }) with hostOut := s.hostOut ++ [x.msg] }

/-- A request may be injected: its bucket's level is above 0, and no earlier one of its die and partition waits. -/
def State.mayInject (s : State) (ahead : List LinkReq) (x : LinkReq) : Bool :=
  0 < s.bucket x.die x.part && !ahead.any (fun y => y.die == x.die && y.part == x.part)

/-- A request of n bytes from a die in an address space is injected, or waits for its bucket. -/
def State.sendLink (s : State) (die asid n : Nat) (m : HostMsg) : State :=
  let x : LinkReq := { die := die, part := s.partOf asid, bytes := n, msg := m }
  if s.mayInject s.linkQ x then s.inject x else { s with linkQ := s.linkQ ++ [x] }

/-- The requests that wait are injected in order as far as their buckets allow. -/
def State.arbitrate (s : State) : State :=
  let r := s.linkQ.foldl (fun (acc : State × List LinkReq) x =>
    if acc.1.mayInject acc.2 x then (acc.1.inject x, acc.2) else (acc.1, acc.2 ++ [x])) (s, [])
  { r.1 with linkQ := r.2 }

/-- A request that is on its way is not sent again. -/
def State.askLink (s : State) (die asid n : Nat) (m : HostMsg) : State :=
  if s.hostOut.contains m || s.linkQ.any (fun x => x.msg == m) then s else s.sendLink die asid n m

/-- The data frame that has come from another package for an address. -/
def State.frame? (s : State) (asid va : Nat) : Option (List Byte) :=
  (s.remoteIn.find? (fun f => f.1 == asid && f.2.1 == va && !f.2.2.isEmpty)).map (·.2.2)

/-- A frame has been taken: the first of its address. -/
def State.dropFrame (s : State) (asid va : Nat) : State :=
  { s with remoteIn := s.remoteIn.eraseP (fun f => f.1 == asid && f.2.1 == va && !f.2.2.isEmpty) }

/-- Another package has answered well to a probe of a line. -/
def State.farGood (s : State) (asid va : Nat) : Bool := s.remoteIn.any (fun f => f.1 == asid && f.2.1 == va && f.2.2.isEmpty)

/-- The answers to probes of some lines have been taken. -/
def State.dropGood (s : State) (asid : Nat) (vas : List Nat) : State :=
  { s with remoteIn := s.remoteIn.filter (fun f => !(f.1 == asid && f.2.2.isEmpty && vas.contains f.2.1)) }

/-- A write's or an atomic's probe of a line of another package: it is asked for once; whether the answer is there (R153, R305). -/
def State.askFar (s : State) (die asid va device : Nat) : State × Bool :=
  let first := va / 64 * 64
  if s.farGood asid first then (s, true) else (s.askLink die asid 0 (.remoteProbe device asid first), false)

/-! ### Translation (R292–R298) -/

/-- What a translation gives: an address with its permissions, another package's device, no entry, or a refusal by its
reason code (Table 15.4). -/
inductive Xlate where
  | ok (host : Bool) (base : Nat) (w x p : Bool)
  | remote (device : Nat)
  | absent
  | bad (code : Nat)
deriving DecidableEq, Repr

/-- One level of the walk: the low index bit, the index width, and whether a leaf may stand there (Table 15.2). -/
def walkLevels : List (Nat × Nat × Bool × Bool) :=
  [(48, 7, false, true), (39, 9, false, true), (30, 9, true, true), (21, 9, true, true), (16, 5, true, false)]

/-- The walk from a table (R292, R293): the leaf's page base, its bytes and permissions. -/
def State.walk (s : State) (va : Nat) : Nat → List (Nat × Nat × Bool × Bool) → Xlate × Nat
  | _, [] => (.bad 0x05, 0)
  | table, (lo, n, leafOk, tableOk) :: rest =>
    let pa := table + 8 * (va / 2 ^ lo % 2 ^ n)
    if !s.physOk pa then (.bad 0x05, 0)
    else
      let e := bytesNat (s.mem.bytes pa 8)
      let addr := e / 256 % 2 ^ 32 * 256
      if e % 2 = 0 then (.absent, 0)
      else if e / 2 ^ 40 != 0 || e / 32 % 8 != 0 || !s.physOk addr then (.bad 0x05, 0)
      else if e.testBit 1 then
        if !leafOk || addr % 2 ^ lo != 0 || s.inSaveArea addr (2 ^ lo) then (.bad 0x05, 0)
        else (.ok false addr (e.testBit 2) (e.testBit 3) (e.testBit 4), 2 ^ lo)
      else if !tableOk || e / 4 % 8 != 0 then (.bad 0x05, 0)
      else s.walk va addr rest

/-- The TLB entries of a slice (R296). -/
def tlbSize : Nat := 4096

/-- An entry enters its slice's TLB; a full one drops an entry first, any of them (DESIGN CHOICE, log 116). -/
def State.addTlb (s : State) (e : TlbEnt) : State :=
  let mine := s.tlb.filter (fun x => x.slice == e.slice)
  if mine.length < tlbSize then { s with tlb := s.tlb ++ [e] }
  else
    let out := mine.getD ((Config.freeWord s.free).toNat % mine.length) e
    { s with tlb := s.tlb.filter (fun x => x != out) ++ [e], free := s.free + 1 }

/-- Translates an address in an address space; a walk fills the owning slice's TLB (R295, R296). The result's base is the
address's own place. -/
def State.translate (s : State) (asid va : Nat) : State × Xlate :=
  match s.ctxOf asid with
  | none => (s, .bad 0x05)
  | some c =>
    let slice := owningSlice s.variant va
    let hit := s.tlb.find? (fun e => e.slice == slice && e.asid == asid && e.va ≤ va && va < e.va + e.bytes)
    let found (e : TlbEnt) : Xlate := .ok e.host (e.base + (va - e.va)) e.w e.x e.p
    if deviceHalf va then
      if deviceOf va != s.devNum then
        if s.deviceUp (deviceOf va) && c.remote then (s, .remote (deviceOf va))
        else (s, .bad 0x06)
      else if (s.die (slice / 2)).failed then (s, .bad 0x06)
      else match hit with
        | some e => (s, if (s.stack (e.base / 2 ^ 36)).failed then .bad 0x06 else found e)
        | none =>
          if !s.physOk c.root then (s, .bad 0x05)
          else match s.walk (va % 2 ^ 55) c.root walkLevels with
            | (.ok h base w x p, bytes) =>
              if (s.stack (base / 2 ^ 36)).failed then (s, .bad 0x06)
              else
                let first := va / bytes * bytes
                let e : TlbEnt := { slice := slice, asid := asid, va := first, bytes := bytes, host := h, base := base,
                                    w := w, x := x, p := p }
                (s.addTlb e, found e)
            | (r, _) => (s, r)
    else if (s.die (slice / 2)).failed then (s, .bad 0x06)
    else if !c.host then (s, .bad 0x07)
    else match hit with
      | some e => (s, found e)
      | none => (s, .absent)

/-- What an access needs of its leaf (R295). -/
inductive Need where
  | read | write | fetch
deriving DecidableEq, Repr

/-- The permission checks, in the order of R295. -/
def Xlate.check (x : Xlate) (need : Need) (privileged : Bool) : Xlate :=
  match x with
  | .ok h b w ex p =>
    if p && !privileged then .bad 0x08
    else match need with
      | .read => .ok h b w ex p
      | .write => if w then .ok h b w ex p else .bad 0x03
      | .fetch => if ex then .ok h b w ex p else .bad 0x04
  | r => r

/-- The page of a miss: 64 KiB of the device half, 4 KiB of the host half (R300). -/
def missPage (va : Nat) : Nat := if deviceHalf va then va / 65536 * 65536 else va / 4096 * 4096

/-- An outstanding fault is one of an address space: of the device half by its ASID, of the host half by its PASID (R300). -/
def State.missOf (s : State) (asid : Nat) (m : Miss) : Bool :=
  m.asid == asid || (m.host && (match s.ctxOf asid, s.ctxOf m.asid with
    | some c, some d => c.pasid == d.pasid
    | _, _ => false))

/-- An outstanding fault on an address's page. -/
def State.missOn (s : State) (asid va : Nat) : Option Miss :=
  s.misses.find? (fun m => m.page == missPage va && m.host == !deviceHalf va && s.missOf asid m)

/-- The fault record's bytes (Table 15.6). -/
def faultRecord (m : Miss) : List Byte :=
  natBytes 8 m.page ++ natBytes 2 (m.slice * 1024 + m.entry) ++ natBytes 1 m.slot ++ natBytes 1 m.kind ++ natBytes 4 0 ++
    natBytes 8 m.since ++ natBytes 8 m.gridtag.toNat

/-- Starts a fault on a missing translation (R298–R300), in the host half with an ATS Translation Request: `false` when it is answered FAIL at once. A miss on an outstanding
page joins it; with the slice's table or the fault queue full it is not recorded, and the access retries. -/
def State.startMiss (s : State) (asid va kind : Nat) (gridtag : DWord) : State × Bool :=
  match s.missOn asid va, s.ctxOf asid with
  | some _, _ => (s, true)
  | none, none => (s, false)
  | none, some c =>
    let slice := owningSlice s.variant va
    let used := (s.misses.filter (fun m => m.slice == slice)).map (·.entry)
    let host := !deviceHalf va
    let m (entry : Nat) : Miss :=
      { slice := slice, entry := entry, asid := asid, func := c.func, slot := c.slot, page := missPage va, host := host,
        kind := kind, since := s.tick, gridtag := gridtag, pri := false }
    let size := s.regField c.func 0x1008 0 4
    let widx := (s.reg c.func 0x100C).toNat
    let ridx := (s.reg c.func 0x1010).toNat
    if !host && (size < 6 || 14 < size) then (s, false)
    else match (List.range 1024).find? (fun e => !used.contains e) with
      | none => (s, true)
      | some entry =>
        if host then
          ({ s with misses := s.misses ++ [m entry], hostOut := s.hostOut ++ [.translationRequest c.pasid (missPage va) kind] }, true)
        else if (widx + 2 ^ 32 - ridx) % 2 ^ 32 = 2 ^ size then (s, true)
        else
          let at_ := s.reg64 c.func 0x1000 / 4096 * 4096 + 32 * (widx % 2 ^ size)
          let s := { s with misses := s.misses ++ [m entry] }.hostPut at_ (faultRecord (m entry))
          (s.setReg c.func 0x100C (BitVec.ofNat 32 (widx + 1)), true)

/-! ### Cells and lines -/

/-- The tag of a physical cell (R249). -/
def State.tag (s : State) (cell : Nat) : CellTag :=
  match s.cellTags.find? (fun x => x.1 == cell) with
  | some x => x.2
  | none => .value

/-- Sets a tag; only tags other than VALUE are listed. -/
def State.setTag (s : State) (cell : Nat) (t : CellTag) : State :=
  let rest := s.cellTags.filter (fun x => x.1 != cell)
  { s with cellTags := if t = .value then rest else rest ++ [(cell, t)] }

/-- The tag of the cell an address lies in; every host-half cell reads as VALUE. -/
def State.tagAt (s : State) (host : Bool) (base : Nat) : CellTag := if host then .value else s.tag (lineOf base)

/-- Bytes at rest. -/
def State.rawBytes (s : State) (host : Bool) (base n : Nat) : List Byte :=
  if host then s.hostMem.bytes base n else s.mem.bytes base n

def State.putRaw (s : State) (host : Bool) (base : Nat) (bs : List Byte) : State :=
  if host then { s with hostMem := s.hostMem.put base bs } else { s with mem := s.mem.put base bs }

/-- The line of the global cache for an address. -/
def State.slice? (s : State) (asid va : Nat) : Option SliceLine :=
  s.slices.find? (fun l => l.asid == asid && l.line == lineOf va)

/-- Lines of one die's part of the global cache (Table 1.3). -/
def globalLines (die : Nat) : Nat := if die < 4 then 48 * 2 ^ 20 / 64 else 32 * 2 ^ 20 / 64

/-- The state at an access's slice, and what its address names: a read that hits a line there needs no translation (R10). -/
def State.reached (s : State) (asid va : Nat) : State × Xlate :=
  match s.slice? asid va, s.ctxOf asid with
  | some l, some c =>
    if (if deviceHalf va then deviceOf va == s.devNum && !(s.stack (l.base / 2 ^ 36)).failed else c.host) && !(s.die (s.sliceDie va)).failed
    then (s, .ok l.host (l.base + va % 64) true true l.priv)
    else s.translate asid va
  | _, _ => s.translate asid va

/-- What a write that waits for its release meets at its slice: its probe's answer (R153), else a translation. -/
def State.keptAt (s : State) (p : Probe) (asid va : Nat) : State × Xlate :=
  match p with
  | .kept h base priv => (s, .ok h (base + va % 64) true true priv)
  | .far => (s, .remote (deviceOf va))
  | _ => s.translate asid va

/-- Bytes of a line at the point of coherence, without regard to pending words. -/
def State.lineBytes (s : State) (asid va : Nat) (host : Bool) (base n : Nat) : List Byte :=
  match s.slice? asid va with
  | some l => sliceBytes l.data (va % 64) n
  | none => s.rawBytes host base n

/-- Writes back and drops lines of the global cache (R146, R297, R145). -/
def State.dropSlices (s : State) (p : SliceLine → Bool) : State :=
  let s' := s.slices.foldl (fun acc l => if p l && l.dirty then acc.putRaw l.host l.base l.data else acc) s
  { s' with slices := s.slices.filter (fun l => !p l) }

/-- Brings a VALUE line into its owning slice (R145, R249); a full die drops a line first, any of them (DESIGN CHOICE, log 116). -/
def State.fillSlice (s : State) (asid va : Nat) (host : Bool) (base : Nat) (priv : Bool) : State :=
  match s.slice? asid va with
  | some _ => s
  | none =>
    let die := s.sliceDie va
    let mine := s.slices.filter (fun l => s.sliceDie (64 * l.line) == die)
    let s := if mine.length < globalLines die then s
      else
        let out := mine[(Config.freeWord s.free).toNat % mine.length]?
        { s.dropSlices (fun l => some l == out) with free := s.free + 1 }
    { s with slices := s.slices ++ [{ asid := asid, line := lineOf va, data := s.rawBytes host (base / 64 * 64) 64, dirty := false,
                                      host := host, base := base / 64 * 64, priv := priv }] }

/-- Writes bytes at the point of coherence. -/
def State.sliceWrite (s : State) (asid va : Nat) (host : Bool) (base : Nat) (priv : Bool) (bs : List Byte) : State :=
  let s := s.fillSlice asid va host base priv
  { s with slices := s.slices.map (fun l =>
      if l.asid = asid ∧ l.line = lineOf va then { l with data := patch l.data (va % 64) bs, dirty := true } else l) }

/-! ### The bytes that a GRES wrote last (R205) -/

/-- Bytes off to off + n - 1 of a line. -/
def byteMask (off n : Nat) : BitVec 64 := BitVec.ofNat 64 ((2 ^ n - 1) * 2 ^ off)

/-- The bytes of a physical cell that a GRES wrote last. -/
def State.gresMask (s : State) (cell : Nat) : BitVec 64 := ((s.gresBytes.find? (fun x => x.1 == cell)).map (·.2)).getD 0

/-- Sets them. -/
def State.setGres (s : State) (cell : Nat) (m : BitVec 64) : State :=
  let rest := s.gresBytes.filter (fun x => x.1 != cell)
  { s with gresBytes := if m = 0 then rest else rest ++ [(cell, m)] }

/-- Another write covers n bytes at a physical address. An atomic's write does not count: it continues GRES's release sequence (R195). -/
def State.unmark (s : State) (host : Bool) (base n : Nat) : State :=
  if host then s else s.setGres (lineOf base) (s.gresMask (lineOf base) &&& ~~~(byteMask (base % 64) n))

/-- A load of a team in a region has read a byte that a GRES wrote last: an acquire at the next parking point (R205). -/
def State.noteGres (s : State) (team region : Nat) (read : Bool) : State :=
  if read && !s.gresReads.contains (team, region) then { s with gresReads := s.gresReads ++ [(team, region)] } else s

/-- Writes back dirty lines and keeps them clean. -/
def State.cleanSlices (s : State) (p : SliceLine → Bool) : State :=
  let s' := s.slices.foldl (fun acc l => if p l && l.dirty then acc.putRaw l.host l.base l.data else acc) s
  { s' with slices := s.slices.map (fun l => if p l then { l with dirty := false } else l) }

/-- The pre-images of pending words laid over bytes that a load reads; of several lanes on one word the first found it as it was
(R160). -/
def State.overlayPending (s : State) (sp : Space) (owner core a : Nat) (bs : List Byte) : List Byte :=
  (s.atoms.flatMap (·.words)).reverse.foldl (fun acc w =>
    if w.1.space = sp ∧ w.1.owner = owner ∧ w.1.core = core then
      acc.mapIdx (fun i b => if w.1.addr ≤ a + i ∧ a + i < w.1.addr + w.2.1 then w.2.2.getD (a + i - w.1.addr) b else b)
    else acc) bs

/-- A pending scratch word that had never been written (R142, R160). -/
def State.freshAt (s : State) (p : Place) : Bool := s.atoms.any (fun x => x.fresh.contains p)

/-- A byte range meets a pending word (R160). -/
def State.pendingAt (s : State) (sp : Space) (owner core a n : Nat) : Bool :=
  s.atoms.any (fun at_ => at_.words.any (fun w =>
    w.1.space == sp && w.1.owner == owner && w.1.core == core && a < w.1.addr + w.2.1 && w.1.addr < a + n))

/-! ### Scratch allocations (R136, R137, R142) -/

/-- No allocation. -/
def Scratch.empty : Scratch := { size := 0, mem := [], valid := [] }

/-- A fresh allocation: every valid bit clear. -/
def Scratch.alloc (n : Nat) : Scratch := { size := n, mem := [], valid := [] }

/-- The allocation that a team reaches in a scratch space. -/
def State.scratchOf (s : State) (t : Team) (sp : Space) : Scratch :=
  match sp with
  | .glob => Scratch.empty
  | .gallery => ((s.block? t.block).bind (fun b => if b.kind = .ordinary then (s.span? b.span).bind (·.gallery) else none)).getD Scratch.empty
  | .pocket => ((s.block? t.block).map (fun b => b.pockets.getD t.loc.core Scratch.empty)).getD Scratch.empty
  | .chamber => ((s.block? t.block).map (·.chamber)).getD Scratch.empty

/-- Changes it. -/
def State.updScratch (s : State) (t : Team) (sp : Space) (f : Scratch → Scratch) : State :=
  match sp with
  | .glob => s
  | .gallery =>
    match s.block? t.block with
    | some b => s.updSpan b.span (fun x => { x with gallery := x.gallery.map f })
    | none => s
  | .pocket => s.updBlock t.block (fun b => { b with pockets := b.pockets.modify t.loc.core f })
  | .chamber => s.updBlock t.block (fun b => { b with chamber := f b.chamber })

/-- Inserts a number into a rising list. -/
def insertNat (l : List Nat) (n : Nat) : List Nat :=
  match l with
  | [] => [n]
  | a :: rest => if a < n then a :: insertNat rest n else if a = n then l else n :: l

/-- A scratch word's valid bit. -/
def Scratch.isValid (c : Scratch) (off : Nat) : Bool := c.valid.contains (off / 4)

/-- Writes bytes and sets the valid bit of every word they touch. -/
def Scratch.write (c : Scratch) (off : Nat) (bs : List Byte) : Scratch :=
  { c with mem := c.mem.put off bs
           valid := (List.range bs.length).foldl (fun acc i => insertNat acc ((off + i) / 4)) c.valid }

/-- Writes the bytes that a mask selects. -/
def Scratch.writeMasked (c : Scratch) (off : Nat) (mask : BitVec 64) (bs : List Byte) : Scratch :=
  { c with mem := c.mem.putMasked off mask bs 0
           valid := (List.range bs.length).foldl
             (fun acc i => if mask.getLsbD i then insertNat acc ((off + i) / 4) else acc) c.valid }

/-- Clears a range: words never written, holding zero (R166). -/
def Scratch.clear (c : Scratch) (off len : Nat) : Scratch :=
  { c with mem := c.mem.put off (List.replicate len 0), valid := c.valid.filter (fun w => !(off ≤ 4 * w && 4 * w < off + len)) }

/-- The owner of a scratch location, for races and pending words: its block, or its die span. -/
def State.scratchOwner (s : State) (t : Team) (sp : Space) : Nat :=
  match sp with
  | .glob => s.asidOf t
  | .gallery => ((s.block? t.block).map (·.span)).getD 0
  | _ => t.block

/-- The die that holds a team's gallery (R218). -/
def State.galleryDie (s : State) (t : Team) : Nat :=
  ((s.block? t.block).bind (fun b => (s.span? b.span).bind (·.die))).getD t.loc.chip

/-- The place of a location that a team names. -/
def State.placeOf (s : State) (t : Team) (sp : Space) (a : Nat) : Place :=
  { space := sp, owner := s.scratchOwner t sp, core := if sp = .pocket then t.loc.core else 0, addr := a }

/-- Changes the allocation that a scratch place lies in. -/
def State.updPlace (s : State) (p : Place) (f : Scratch → Scratch) : State :=
  match p.space with
  | .glob => s
  | .gallery => s.updSpan p.owner (fun x => { x with gallery := x.gallery.map f })
  | .pocket => s.updBlock p.owner (fun b => { b with pockets := b.pockets.modify p.core f })
  | .chamber => s.updBlock p.owner (fun b => { b with chamber := f b.chamber })

/-- A range that a team names in a space meets a pending word (R160, R201). -/
def State.pendingHere (s : State) (t : Team) (sp : Space) (a n : Nat) : Bool :=
  let p := s.placeOf t sp a
  s.pendingAt sp p.owner p.core a n

/-- Puts bytes back at a place (R160): a cache line of the place's address space, or a scratch word. -/
def State.putPlace (s : State) (p : Place) (bs : List Byte) : State :=
  match p.space with
  | .glob =>
    match s.reached p.owner p.addr with
    | (s, .ok h base _ _ pr) => s.sliceWrite p.owner p.addr h base pr bs
    | (s, _) => s
  | _ => s.updPlace p (fun c => c.write p.addr bs)

/-- Restores the pre-images of a pending atomic, last written first, and forgets it (R160); a word that it found never written is so
again. -/
def State.undoAtom (s : State) (x : PendAtom) : State :=
  let s := x.words.reverse.foldl (fun s w => s.putPlace w.1 w.2.2) s
  let s := x.fresh.foldl (fun s p => s.updPlace p (fun c => c.clear p.addr 4)) s
  { s with atoms := s.atoms.filter (fun y => y.id != x.id) }

/-! ### Geodes (R249–R260) -/

/-- The forming record (Table 11.2). -/
def formingRecord (ticket : BitVec 64) (depth : Nat) (evloc : Nat) (entry : Nat) : List Byte :=
  natBytes 8 ticket.toNat ++ natBytes 1 depth ++ natBytes 7 0 ++ natBytes 8 0 ++ natBytes 4 0 ++ natBytes 4 evloc ++
    natBytes 8 entry ++ natBytes 24 0

/-- The poison record (Table 11.3). -/
def poisonRecord (reason source ticket entry : Nat) : List Byte :=
  natBytes 4 reason ++ natBytes 1 source ++ natBytes 3 0 ++ natBytes 8 ticket ++ natBytes 8 entry ++ natBytes 40 0

/-- The ticket of a FORMING cell. -/
def State.ticketOf (s : State) (cell : Nat) : BitVec 64 := BitVec.ofNat 64 (bytesNat (s.mem.bytes (64 * cell) 8))

/-- A cell that still waits for the evaluation of a ticket. -/
def State.formingUnder (s : State) (cell : Nat) (ticket : BitVec 64) : Bool :=
  s.tag cell == .forming && s.ticketOf cell == ticket

/-- Waiter records of a cell, over every die. -/
def State.waiters (s : State) (cell : Nat) : List Waiter := s.dies.flatMap (fun d => d.arena.filter (fun w => w.cell == cell))

/-- A waiter record's ORIGIN still stands: its team holds the slot under the record's generation count (R257). -/
def State.originStands (s : State) (w : Waiter) : Bool :=
  (s.team? w.team).any (fun t => t.loc.pkgCore == w.crec.core && 8 * t.loc.part + t.loc.slot == w.crec.slot &&
    (s.core w.crec.core).gens.getD w.crec.slot 0 == w.crec.gen)

/-- The cell leaves FORMING: the chain is walked, each record freed and its team sent a wake, the opener's entry freed and the
opener woken, and the edges into the ticket removed (R257, R259). -/
def State.wakeChain (s : State) (cell : Nat) : State :=
  let ticket := s.ticketOf cell
  let chain := (s.waiters cell).filter s.originStands
  let openers := s.memStacks.flatMap (fun st => st.buffer.filterMap (fun e => e.bind (fun e => if e.cell = cell then some e.opener else none)))
  { s with
    wakes := s.wakes ++ chain.map (fun w => (w.team, cell)) ++ openers.map (fun u => (u, cell))
    dies := s.dies.map (fun d => { d with arena := d.arena.filter (fun w => w.cell != cell) })
    memStacks := s.memStacks.map (fun st => { st with buffer := st.buffer.map (fun e => e.filter (fun e => e.cell != cell)) })
    edges := s.edges.filter (fun e => e.2.1 != ticket) }

/-- Moves a FORMING cell to VALUE or POISON with a line (Table 11.4). -/
def State.resolve (s : State) (cell : Nat) (t : CellTag) (line : List Byte) : State :=
  let s := s.wakeChain cell
  (({ s with mem := s.mem.put (64 * cell) line }).setGres cell (if t == CellTag.value then BitVec.allOnes 64 else 0)).setTag cell t

/-- Poisons a FORMING cell (R252, R260). -/
def State.poison (s : State) (cell reason source : Nat) : State :=
  let entry := bytesNat (s.mem.bytes (64 * cell + 0x20) 8)
  s.resolve cell .poison (poisonRecord reason source (s.ticketOf cell).toNat entry)

/-- u is reached from t through the wait-for table, in at most as many hops as there are edges (R259). -/
def reaches (edges : List (BitVec 64 × BitVec 64 × Nat × Nat)) (goal : BitVec 64) : Nat → List (BitVec 64) → Bool
  | 0, _ => false
  | n + 1, at_ =>
    at_.contains goal ||
    let next := (edges.filter (fun e => at_.contains e.1)).map (·.2.1)
    !next.isEmpty && reaches edges goal n next.eraseDups

/-- The wait-for table's size (R259). -/
def edgeLimit : Nat := 8192

/-- How a load of a cell that is not VALUE ends for its lane (Table 11.4). -/
def State.openCell (s : State) (t : Team) (region : Nat) (pc : DWord) (cell va asid : Nat) : State × LaneState :=
  let k := cell / 2 ^ 30
  let st := s.stack k
  if 16 ≤ t.depth then (s, .fault .evalDepth 0 6)
  else if t.ticket.isSome && edgeLimit ≤ s.edges.length then (s, .fault .evalDepth 0 7)
  else match (List.range 64).find? (fun i => (st.buffer.getD i none).isNone) with
    | none => (s, .bufferWait)
    | some i =>
      let ticket : BitVec 64 := BitVec.ofNat 64 (k + 16 * i + 2 ^ 16 * (st.opens % 2 ^ 48))
      let record := s.mem.bytes (64 * cell) 64
      let prio := ((s.gridOf t).map (·.lrec.prio)).getD 0
      let e : OpenEnt :=
        { cell := cell, va := BitVec.ofNat 64 (va / 64 * 64), record := record, ticket := ticket, depth := t.depth + 1,
          opener := t.uid, pc := pc, grid := t.grid, chip := t.loc.chip, prio := max prio t.prio, asid := asid,
          lineage := t.lineage ++ t.ticket.toList, since := s.tick,
          tags := (Tags.empty.add (stackZone k) s.tick s.tick).add (dieZone t.loc.chip) s.tick s.tick }
      let s := s.updStack k (fun st => { st with opens := st.opens + 1, buffer := st.buffer.set i (some e) })
      let s := { s with mem := s.mem.put (64 * cell) (formingRecord ticket (t.depth + 1) 0x800 (fieldAt record 0 8)) }
      let s := s.setTag cell .forming
      let s := match t.ticket with
        | some own => { s with edges := s.edges ++ [(own, ticket, t.uid, region)] }
        | none => s
      (s, .cellWait true ticket)

/-- A continuation record (Table 10.3). -/
def ContRec.image (r : ContRec) : List Byte :=
  natBytes 8 r.pc.toNat ++ natBytes 8 (r.core + 64 * r.slot + 2 ^ 32 * r.gen) ++
    natBytes 4 (if r.kind = 1 then r.core + 64 * r.slot + 2048 * r.depth else 0xFFFFFFFF) ++ natBytes 2 r.lane ++ natBytes 1 r.kind ++
    natBytes 1 r.nv ++ natBytes 1 r.ns ++ [r.kbits] ++ natBytes 1 r.enab.toNat ++ natBytes 1 r.sticky.toNat ++ natBytes 1 r.status ++
    natBytes 1 (r.tenant + 8 * r.prio) ++ natBytes 2 r.asid ++ (List.range 16).flatMap (fun i => natBytes 4 (r.regs.getD i 0).toNat)

/-- Writes bytes at the point of coherence, a line at a time; where no mapping stands nothing is written. -/
def State.writeMapped (s : State) (asid va : Nat) (bs : List Byte) : State :=
  (linePieces (bs.length + 1) va bs.length).foldl (fun s p => match s.translate asid p.1 with
    | (s, .ok h base _ _ pr) => (s.unmark h base p.2).sliceWrite asid p.1 h base pr (sliceBytes bs (p.1 - va) p.2)
    | (s, _) => s) s

/-- A team's record on a cell names the lowest of its lanes left unfinished there (R257). -/
def State.lowerLane (s : State) (team asid cell lane : Nat) : State :=
  match (s.waiters cell).find? (fun w => w.team == team && lane < w.crec.lane) with
  | none => s
  | some w =>
    let r := { w.crec with lane := lane }
    { s with dies := s.dies.map (fun (d : Die) => { d with arena := d.arena.map (fun x => if x = w then { x with crec := r } else x) }) }.writeMapped
      asid w.addr r.image

/-- A load queues on a FORMING cell, or finds a cycle (R257–R259). `first`: the team has no record for the cell yet at this
parking point. -/
def State.queueOn (s : State) (t : Team) (region : Nat) (pc : DWord) (lane cell va : Nat) (first : Bool) : State × LaneState :=
  let u := s.ticketOf cell
  let push (s : State) : State :=
    if !first then s.lowerLane t.uid (s.asidOf t) cell lane
    else
      let d := s.die t.loc.chip
      let used := d.arena.map (·.addr)
      let i := ((List.range (used.length + 1)).find? (fun i => !used.contains (d.arenaAt.toNat + 96 * i))).getD 0
      let addr := d.arenaAt.toNat + 96 * i
      let g := (s.gridOf t)
      let next := bytesNat (s.mem.bytes (64 * cell + 0x10) 8)
      let r : ContRec :=
        { entry := 0, pc := pc, core := t.loc.pkgCore, slot := 8 * t.loc.part + t.loc.slot,
          gen := (s.core t.loc.pkgCore).gens.getD (8 * t.loc.part + t.loc.slot) 0, depth := 0, lane := lane, kind := 3, nv := 0,
          ns := 0, kbits := 0, enab := 0, sticky := 0, status := 3, tenant := (g.map (·.tenant)).getD 0,
          prio := (g.map (·.lrec.prio)).getD 0, asid := (g.map (·.asid)).getD 0,
          regs := [BitVec.ofNat 32 (va / 64 * 64), BitVec.ofNat 32 (va / 2 ^ 32), BitVec.ofNat 32 next, BitVec.ofNat 32 (next / 2 ^ 32)] ++
            List.replicate 12 0, vFirst := 0, sFirst := 0, raised := 0 }
      let s := s.updDie t.loc.chip (fun d => { d with arena := d.arena ++ [{ addr := addr, team := t.uid, cell := cell, crec := r }] })
      let s := s.writeMapped ((g.map (·.asid)).getD 0) addr r.image
      let n := bytesNat (s.mem.bytes (64 * cell + 0x18) 4)
      { s with mem := (s.mem.put (64 * cell + 0x10) (natBytes 8 addr)).put (64 * cell + 0x18) (natBytes 4 (n + 1)) }
  match t.ticket with
  | none => (push s, .cellWait false u)
  | some own =>
    if u = own ∨ t.lineage.contains u then (s, .fault .selfDep 0 4)
    else if reaches s.edges own (s.edges.length + 1) [u] then (s, .fault .selfDep 0 5)
    else if s.edges.any (fun e => e.1 == own && e.2.1 == u) then
      (push { s with edges := s.edges.map (fun e => if e.1 = own ∧ e.2.1 = u then (own, u, t.uid, min region e.2.2.2) else e) }, .cellWait false u)
    else if edgeLimit ≤ s.edges.length then (s, .fault .evalDepth 0 7)
    else (push { s with edges := s.edges ++ [(own, u, t.uid, region)] }, .cellWait false u)

end Sys2Proof.Machine
end

