-- ==== Sys2Proof/Machine/Operands.lean ====
section
/-! DEFINITION. Every operand form: operand fields (R46), allotment bounds (R47), inline constants (R48), immediates (R37),
element layout (R64, R80) and source modifiers (R81). -/

namespace Sys2Proof.Machine

/-- What an 11-bit operand field names (Table 2.10c). -/
inductive Opd where
  | vec (n : Nat)
  | ind (k off : Nat)
  | scal (n : Nat)
  | con (c : Nat)
  | reserved
deriving DecidableEq, Repr

/-- Reads an operand field. -/
def opd (f : BitVec 11) : Opd :=
  let n := f.toNat
  if n < 0x600 then .vec n
  else if n < 0x700 then .ind (n / 64 % 4) (n % 64)
  else if n < 0x780 then .scal (n - 0x700)
  else if n < 0x7C0 then .con (n - 0x780)
  else .reserved

/-- A vector operand, direct or indirect. -/
def Opd.isVec : Opd → Bool
  | .vec _ => true
  | .ind _ _ => true
  | _ => false

def Opd.isScal : Opd → Bool
  | .scal _ => true
  | _ => false

def Opd.isCon : Opd → Bool
  | .con _ => true
  | _ => false

/-- The vector register number that an operand names; 17 bits when indirect (R47). -/
def Opd.vecNum (a : Arch) : Opd → Option Nat
  | .vec n => some n
  | .ind k off => some ((a.xget k).toNat + off)
  | _ => none

/-! ### Types -/

/-- A 64-bit type code (R80). -/
def wideTy (ty : Nat) : Bool := ty == 9 || ty == 13 || ty == 14

/-- Elements of a register under a type code. -/
def tyCount (ty : Nat) : Nat := elemCount (BitVec.ofNat 4 ty)

/-- Element width. -/
def tyWidth (ty : Nat) : Nat := if wideTy ty then 64 else 32 / tyCount ty

/-- The float format of a type code, if it has one (Table 2.5). -/
def tyFmt (ty : Nat) : Option Fmt :=
  match ty with
  | 6 => some .f32 | 7 => some .f16 | 8 => some .bf16 | 9 => some .f64
  | 10 => some .mk8 | 11 => some .e4m3 | 12 => some .e5m2
  | _ => none

/-- A signed integer type code. -/
def tySigned (ty : Nat) : Bool := ty == 0 || ty == 2 || ty == 4 || ty == 13

/-- Element j of a register value (R64). -/
def elemAt (w v j : Nat) : Nat := (v >>> (w * j)) % 2 ^ w

/-- The register value of elements, element 0 lowest. -/
def joinElems (w : Nat) (es : List Nat) : Nat := es.foldr (fun e acc => e % 2 ^ w + 2 ^ w * acc) 0

/-- n copies of an element. -/
def replElem (w n e : Nat) : Nat := joinElems w (List.replicate n e)

/-! ### Inline constants and immediates -/

/-- The FP32 patterns of the entries 0x7B0–0x7BF (Table 2.10d). -/
def constPatterns : List Nat :=
  [0x3F000000, 0x3F800000, 0x40000000, 0x40800000, 0xBF000000, 0xBF800000, 0xC0000000, 0xC0800000,
   0x3E800000, 0xBE800000, 0x41000000, 0xC1000000, 0x3F317218, 0x3FB8AA3B, 0x3E22F983, 0x7F800000]

/-- The integer of an integer entry (Table 2.10d). -/
def constInt (c : Nat) : Int := if c < 32 then (c : Int) else 31 - (c : Int)

/-- An FP32 entry may stand under these types only (R48). -/
def constOk (ty c : Nat) : Bool := c < 48 || [0, 1, 6, 7, 8, 9].contains ty

/-- The value an inline constant supplies in a type (R48). -/
def constVal (ty c : Nat) : Nat :=
  if c < 48 then
    match tyFmt ty with
    | some f => replElem (tyWidth ty) (tyCount ty) (ofInt f 0 false (constInt c)).1
    | none => if wideTy ty then wrapTo 64 (constInt c) else replElem (tyWidth ty) (tyCount ty) (wrapTo (tyWidth ty) (constInt c))
  else
    let p := constPatterns.getD (c - 48) 0
    match ty with
    | 7 => replElem 16 2 (Fmt.f16.convert 0 false (Fmt.f32.read p)).1
    | 8 => replElem 16 2 (Fmt.bf16.convert 0 false (Fmt.f32.read p)).1
    | 9 => widen32 p
    | _ => p

/-- IMM32 read as an operand type (R37). -/
def immVal (ty : Nat) (imm : Word) : Nat :=
  match ty with
  | 9 => widen32 imm.toNat
  | 13 => (imm.signExtend 64).toNat
  | _ => imm.toNat

/-! ### Reading operands -/

/-- A source operand: a register or constant, or an immediate. -/
inductive Src where
  | op (o : Opd)
  | imm (w : Word)
deriving DecidableEq, Repr

/-- The B operand of an entry whose extension word replaces it (R37). -/
def srcB (b : BitVec 11) (e : Option Ext) : Src :=
  match e with
  | some x => .imm x.imm
  | none => .op (opd b)

def Src.isVec : Src → Bool
  | .op o => o.isVec
  | .imm _ => false

/-- The value of a source in a lane, as 32 bits, or 64 for a 64-bit type. -/
def Src.read (a : Arch) (ty lane : Nat) : Src → Nat
  | .imm w => immVal ty w
  | .op (.con c) => constVal ty c
  | .op (.scal n) => if wideTy ty then a.spair n else (a.sget n).toNat
  | .op o =>
    match o.vecNum a with
    | some n => if wideTy ty then a.vpair n lane else (a.vget n lane).toNat
    | none => 0

/-- The source modifiers: absolute value, then negation, of every element's sign bit (R81). -/
def modify (ty : Nat) (neg abs : Bool) (v : Nat) : Nat :=
  match tyFmt ty with
  | none => v
  | some f =>
    let w := f.width
    joinElems w ((List.range (tyCount ty)).map fun j =>
      let e := elemAt w v j
      let e := if abs then e % 2 ^ (w - 1) else e
      if neg then (e + 2 ^ (w - 1)) % 2 ^ w else e)

/-! ### Operand checks (R46–R49) -/

/-- OPERAND_RESERVED at decode. -/
def reservedTrap : Trap := { cause := .operandReserved }

/-- REG_BOUND with a register number. -/
def boundTrap (n : Nat) : Trap := { cause := .regBound, einfo := BitVec.ofNat 32 n }

/-- ILLEGAL_OP found by an entry's own rule. -/
def illegalTrap : Trap := { cause := .illegalOp }

/-- The first trap of a list of checks. -/
def firstTrap (cs : List (Option Trap)) : Option Trap := cs.findSome? id

/-- A trap when a condition holds. -/
def trapIf (c : Bool) (t : Trap) : Option Trap := if c then some t else none

/-- How many registers an operand covers, and from which multiple: 1, an even pair, or 4. -/
def alignOk (n regs : Nat) : Bool := n % regs == 0

/-- A source operand's value is allowed: not reserved, an aligned first register, an FP32 entry only where R48 has one. -/
def srcCheck (ty : Nat) (o : Opd) : Option Trap :=
  match o with
  | .reserved => some reservedTrap
  | .con c => trapIf (!constOk ty c) reservedTrap
  | .vec n => trapIf (wideTy ty && n % 2 == 1) reservedTrap
  | .scal n => trapIf (wideTy ty && n % 2 == 1) reservedTrap
  | .ind _ _ => none

/-- A source that may be an immediate. -/
def Src.check (ty : Nat) : Src → Option Trap
  | .imm _ => none
  | .op o => srcCheck ty o

/-- A register destination: never a constant, an aligned first register, a scalar one only with no vector source (R47). -/
def dstCheck (pair vecSource : Bool) (o : Opd) : Option Trap :=
  match o with
  | .reserved => some reservedTrap
  | .con _ => some reservedTrap
  | .vec n => trapIf (pair && n % 2 == 1) reservedTrap
  | .scal n => trapIf (vecSource || (pair && n % 2 == 1)) reservedTrap
  | .ind _ _ => none

/-- A field that names a register of a class of n by its number (R46). -/
def classCheck (n : Nat) (f : BitVec 11) : Option Trap := trapIf (n ≤ f.toNat) reservedTrap

/-- A vector operand's bound at issue: an odd computed pair, then a number not below the allotment (R47). -/
def boundCheck (t : Team) (cover : Nat) (o : Opd) : Option Trap :=
  match o.vecNum t.arch with
  | none => none
  | some n =>
    if n % cover != 0 then some { cause := .operandReserved, einfo := BitVec.ofNat 32 n }
    else if t.regs ≤ n then some (boundTrap n)
    else if t.regs < n + cover then some (boundTrap t.regs)
    else none

def Src.bound (t : Team) (cover : Nat) : Src → Option Trap
  | .imm _ => none
  | .op o => boundCheck t cover o

/-- A tile's bound (R47). -/
def tileCheck (t : Team) (q : Nat) : Option Trap := trapIf (t.acc ≤ q) (boundTrap (0x10000 + q))

/-- Registers of a 64-bit type cover two. -/
def cover (ty : Nat) : Nat := if wideTy ty then 2 else 1

/-- The lanes an instruction acts on: live and passing its predicate (R31). -/
def Arch.acting (a : Arch) (tw : Nat) (h : Head) : Mask :=
  let k := a.kget h.pred.toNat
  a.live &&& (if h.pn then ~~~k else k) &&& fullMask tw

/-- The defined no-op (R31). -/
def isNop (h : Head) : Bool := h.pred == 0 && h.pn

/-- Reads one 32-bit source as an unsigned number: a scalar, a constant or an immediate of the system and control groups. -/
def Src.word (a : Arch) : Src → Nat
  | s => s.read a 1 0

end Sys2Proof.Machine
end

