-- ==== Sys2Proof/Machine/Watch.lean ====
section
/-! DEFINITION. The debug page as the core sees it and the watchpoints (21_debug_and_watchpoint.md, R389, R394, R395). -/

namespace Sys2Proof.Machine

/-- Cluster number 4c + k of a place. -/
def Loc.cl (l : Loc) : Nat := 4 * l.chip + l.cluster

/-- A function reaches a cluster: the physical function all, a virtual function those of its partition (R389). -/
def State.dbgReach (s : State) (f cl : Nat) : Bool := f == 0 || (f < 9 && s.inPart (f - 1) (cl / 4) (cl % 4))

/-- The function whose debug session covers a cluster: the first with EN set that reaches it (log 14). -/
def State.dbgFunc (s : State) (cl : Nat) : Option Nat :=
  (List.range 9).find? (fun f => s.regField f 0xC000 0 1 == 1 && s.dbgReach f cl)

/-- The first register of watchpoint w of a cluster, kept in function 0's page. -/
def watchOff (cl w : Nat) : Nat := 0xC100 + 0x40 * cl + 0x10 * w

/-- A watchpoint's registers (Table 21.3). -/
structure WatchReg where
  addr  : Nat
  asid  : Nat
  host  : Bool
  blk   : Nat
  core  : Nat
  act   : Bool
  space : Nat
  kinds : Nat                            -- bit 0 reads, 1 writes, 2 atomics
  en    : Bool
deriving DecidableEq, Repr

def State.watchReg (s : State) (cl w : Nat) : WatchReg :=
  let off := watchOff cl w
  let c := (s.reg 0 (off + 8)).toNat
  { addr := s.reg64 0 off / 8 * 8, asid := c / 65536, host := c.testBit 14, blk := c / 256 % 64, core := c / 128 % 2,
    act := c.testBit 6, space := c / 16 % 4, kinds := c / 2 % 8, en := c.testBit 0 }

/-- The SPACE code of a space (Table 6.1). -/
def spaceCode : Space → Nat
  | .glob => 0
  | .pocket => 1
  | .chamber => 2
  | .gallery => 3

/-- An access as a watchpoint compares it: `core` is the pocket's core, `kind` 1 read, 2 write, 3 atomic. -/
structure WatchAcc where
  cl   : Nat
  sp   : Space
  asid : Nat
  blk  : Nat
  core : Nat
  a    : Nat
  n    : Nat
  kind : Nat
deriving DecidableEq, Repr

/-- A watchpoint selects an access and the access overlaps its word. -/
def WatchReg.hits (r : WatchReg) (x : WatchAcc) : Bool :=
  r.en && r.space == spaceCode x.sp && r.kinds.testBit (x.kind - 1) && x.a < r.addr + 8 && r.addr < x.a + x.n &&
  (match x.sp with
   | .glob => r.asid == 0 || r.asid == x.asid
   | .pocket => r.blk == x.blk && r.core == x.core
   | .chamber => r.blk == x.blk
   | .gallery => true)

/-- The watchpoints of a cluster that an access hits. -/
def State.watchHits (s : State) (x : WatchAcc) : List Nat :=
  if s.bar.any (fun b => 0xC100 ≤ b.1 && b.1 < 0xD000) then (List.range 4).filter (fun w => (s.watchReg x.cl w).hits x) else []

/-- Counts a hit in HIT, saturating. -/
def State.countHit (s : State) (cl w : Nat) : State :=
  let off := watchOff cl w + 12
  s.setReg 0 off (BitVec.ofNat 32 (min ((s.reg 0 off).toNat + 1) 0xFFFFFFFF))

/-- Adds a lane's hit to what a team must report. -/
def Team.addHit (t : Team) (w kind : Nat) (pc : DWord) (region lane : Nat) : Team :=
  let same (h : WatchHit) : Bool := h.wp == w && h.kind == kind && h.pc == pc && h.region == region
  if t.watch.any same then
    { t with watch := t.watch.map (fun h => if same h then { h with lanes := h.lanes ||| (1 <<< lane) } else h) }
  else { t with watch := t.watch ++ [{ wp := w, kind := kind, pc := pc, region := region, lanes := 1 <<< lane }] }

/-- An access by a team is performed: hits are counted, and stop the cluster or are kept for the team (R394, R395). `region` is
none for a write performed after its region has cleared. -/
def State.watchTeam (s : State) (u : Nat) (sp : Space) (a n kind lane : Nat) (pc : DWord) (region : Option Nat) : State :=
  match s.team? u with
  | none => s
  | some t =>
    let x : WatchAcc :=
      { cl := t.loc.cl, sp := sp, asid := s.asidOf t, blk := ((s.block? t.block).map (·.blockId)).getD 0,
        core := t.loc.core, a := a, n := n, kind := kind }
    (s.watchHits x).foldl (fun s w =>
      let s := s.countHit x.cl w
      if (s.watchReg x.cl w).act && (s.dbgFunc x.cl).isSome then
        { s with stopReq := s.stopReq ++ [{ cluster := x.cl, trigger := 3, instr := pc, addr := BitVec.ofNat 64 (s.watchReg x.cl w).addr,
                                            wp := w, core := t.loc.pkgCore, slot := 8 * t.loc.part + t.loc.slot, kind := kind, since := s.tick }] }
      else if t.kind == .lantern then
        -- a continuation's hit is its team's to report
        let own (x : Team) : Bool := x.kind != .lantern && t.cont.any (fun r => x.arch.joins.any (fun j => j.name == r.entry))
        match s.teams.find? own with
        | some o => s.updTeam o.uid (fun o => o.addHit w kind pc 0 ((t.cont.map (·.lane)).getD 0))
        | none => s
      else if t.exiting then s
      else s.updTeam u (fun t => t.addHit w kind pc (region.getD 0) lane)) s

/-- An engine arrival in a pocket or chamber of a block (R394, R395). -/
def State.watchEngine (s : State) (b : Block) (sp : Space) (core a n : Nat) : State :=
  let x : WatchAcc := { cl := 4 * b.chip + b.cluster, sp := sp, asid := 0, blk := b.blockId, core := core, a := a, n := n, kind := 2 }
  (s.watchHits x).foldl (fun s w =>
    let s := s.countHit x.cl w
    if (s.watchReg x.cl w).act && (s.dbgFunc x.cl).isSome then
      { s with stopReq := s.stopReq ++ [{ cluster := x.cl, trigger := 3, instr := 0, addr := BitVec.ofNat 64 (s.watchReg x.cl w).addr,
                                          wp := w, core := 0xFF, slot := 0, kind := 2, since := s.tick }] }
    else s) s

end Sys2Proof.Machine
end

