-- ==== Sys2Proof/Machine/Access.lean ====
section
/-! DEFINITION. How loads, probes and writes meet their targets: forwarding from a team's own writes, read caches, outbound
buffers, parking points and replay (06_memory_instructions.md). -/

namespace Sys2Proof.Machine

/-! ### A team's own writes (R149) -/

/-- Entries of a team that are not performed yet, oldest first: outbound, awaiting release, held. -/
def State.ownEntries (s : State) (t : Team) : List Entry :=
  ((s.core t.loc.pkgCore).outbound.filter (fun o => o.team == t.uid)).map (·.ent) ++ t.relq ++ t.regions.flatMap (·.held)

/-- The bytes of a store entry's parts older than a number, laid over bytes read from an address. -/
def EntryKind.overlay (k : EntryKind) (before : Nat) (sp : Space) (a : Nat) (bs : List (Option Byte)) : List (Option Byte) :=
  match k with
  | .store sp' line parts _ _ =>
    if sp' = sp then
      parts.foldl (fun acc p =>
        let at_ := 64 * line + p.off
        if before ≤ p.acc then acc
        else acc.mapIdx (fun i b => if at_ ≤ a + i ∧ a + i < at_ + p.data.length then some (p.data.getD (a + i - at_) 0) else b)) bs
    else bs
  | .sinv sp' off len =>
    if sp' = sp then bs.mapIdx (fun i b => if off ≤ a + i ∧ a + i < off + len then some 0 else b) else bs
  | _ => bs

/-- The tag that a held cell write gives its cell (Table 11.6). -/
def CellOp.tag : CellOp → CellTag
  | .gdef => .geode
  | .gres => .value
  | .gresSet => .value
  | .gpsn => .poison
  | .gpsnSet => .poison

/-- The tag that a team's own held writes older than a number give the cell of an address: to its probes and loads they count as
performed (R264). -/
def State.ownTag (s : State) (t : Team) (before va : Nat) : Option CellTag :=
  (s.ownEntries t).foldl (fun acc e => match e.kind with
    | .cell op addr _ => if e.seq < before && addr / 64 == va / 64 then some op.tag else acc
    | _ => acc) none

/-- A cell's tag as a team's probe or load older than a number sees it. -/
def State.tagSeen (s : State) (t : Team) (before va : Nat) (h : Bool) (base : Nat) : CellTag :=
  (s.ownTag t before va).getD (s.tagAt h base)

/-- The line that a held cell write will leave; an owner's poison record names the ticket and the ENTRY of its record (Table 11.6). -/
def State.cellData (s : State) (t : Team) (op : CellOp) (addr : Nat) (data : List Byte) : List Byte :=
  match op, t.cell with
  | .gpsn, some c => poisonRecord (fieldAt data 0 4) 0 (s.ticketOf c).toNat (bytesNat (s.mem.bytes (64 * c + 0x20) 8))
  | _, _ => sliceBytes data (addr % 64) 64

/-- For each byte of a range, the youngest older write of the team that is not performed yet. -/
def State.forward (s : State) (t : Team) (before : Nat) (sp : Space) (a n : Nat) : List (Option Byte) :=
  (s.ownEntries t).foldl (fun acc e =>
    if before ≤ e.seq then acc
    else match e.kind with
      | .cell op addr data =>
        if sp = .glob then
          let bs := s.cellData t op addr data
          acc.mapIdx (fun i b => if addr ≤ a + i ∧ a + i < addr + 64 then some (bs.getD (a + i - addr) 0) else b)
        else acc
      | k => k.overlay before sp a acc) (List.replicate n none)

/-- The global lines that a held entry writes, by address. -/
def EntryKind.globalLines : EntryKind → List Nat
  | .store .glob line _ _ _ => [64 * line]
  | .atom .glob line _ _ _ _ _ _ => [64 * line]
  | .cell _ a _ => [a / 64 * 64]
  | _ => []

/-- A held write of the team lies under a range. -/
def EntryKind.under (k : EntryKind) (sp : Space) (a n : Nat) : Bool :=
  match k with
  | .atom sp' line _ _ _ _ _ _ => sp' == sp && a / 64 ≤ line && line ≤ (a + n - 1) / 64
  | .cell _ addr _ => sp == .glob && addr / 64 ≤ (a + n - 1) / 64 && a / 64 ≤ addr / 64
  | .plinit sp' off _ _ _ _ => sp' == sp && off < a + n && a < off + 64
  | .plrel sp' off _ => sp' == sp && off < a + n && a < off + 64
  | .binit sp' off _ => sp' == sp && off < a + n && a < off + 16
  | .arrive sp' off _ => sp' == sp && off < a + n && a < off + 16
  | _ => false

/-- A held write whose value is not known before it is performed: an atomic, a gour or barrier action (log 10). -/
def EntryKind.isOpaque : EntryKind → Bool
  | .atom _ _ _ _ _ _ _ _ => true
  | .plinit _ _ _ _ _ _ => true
  | .plrel _ _ _ => true
  | .binit _ _ _ => true
  | .arrive _ _ _ => true
  | _ => false

/-- What a load waits for: also its own GDEF, whose cell no logic die can open yet (log 10). -/
def EntryKind.stopsLoad : EntryKind → Bool
  | .cell .gdef _ _ => true
  | k => k.isOpaque

/-- What GQRY waits for: also every own cell write (log 10). -/
def EntryKind.stopsQuery : EntryKind → Bool
  | .cell _ _ _ => true
  | k => k.isOpaque

/-- What a write waits for: nothing. -/
def EntryKind.stopsWrite (_ : EntryKind) : Bool := false

/-- Lays forwarded bytes over bytes read at the target. -/
def mergeForward (fw : List (Option Byte)) (bs : List Byte) : List Byte := (fw.zip bs).map (fun (f, b) => f.getD b)

/-! ### Outbound buffers (R144) -/

/-- A part's bytes laid over a line. -/
def applyParts (parts : List StorePart) (data : List Byte) : List Byte := parts.foldl (fun d p => patch d p.off p.data) data

/-- Performs one store entry at its slice, part by part, under the translation that its probe found, and compares it with the
watchpoints. -/
def State.performStore (s : State) (die : Nat) (pr : Probe) (team asid : Nat) (line : Nat) (parts : List StorePart) : State :=
  let va := 64 * line
  let s := parts.foldl (fun s p => s.watchTeam team .glob (va + p.off) p.data.length 2 p.lane p.pc none) s
  match s.keptAt pr asid va with
  | (s, .ok h base _ _ p) =>
    let s := parts.foldl (fun s p => s.unmark h (base / 64 * 64 + p.off) p.data.length) (s.fillSlice asid va h base p)
    { s with slices := s.slices.map (fun l =>
        if l.asid = asid ∧ l.line = line then { l with dirty := true, data := applyParts parts l.data } else l) }
  | (s, .remote d) => parts.foldl (fun s p => s.sendLink die asid p.data.length (.remoteWrite d asid (va + p.off) p.data)) s
  | (s, _) => s

/-- A store entry waits at its target while a byte of it is pending (R160). -/
def State.storeBlocked (s : State) (asid line : Nat) (parts : List StorePart) : Bool :=
  parts.any (fun p => s.pendingAt .glob asid 0 (64 * line + p.off) p.data.length)

/-- Drains the first n entries of a core's outbound buffer in the order they entered; stops at one that must wait. -/
def State.drainOut (s : State) (core : Nat) : Nat → State
  | 0 => s
  | n + 1 =>
    match (s.core core).outbound with
    | [] => s
    | o :: rest =>
      match o.ent.kind with
      | .store _ line parts _ _ =>
        if s.storeBlocked o.asid line parts then s
        else ((s.updCore core (fun c => { c with outbound := rest })).performStore (core / 8) o.ent.probe o.team o.asid line parts).drainOut core n
      | _ => (s.updCore core (fun c => { c with outbound := rest })).drainOut core n

/-- The first entry of a core's outbound buffer waits at its target. -/
def State.outboundStuck (s : State) (core : Nat) : Bool :=
  match (s.core core).outbound with
  | [] => false
  | o :: _ => match o.ent.kind with
    | .store _ line parts _ _ => s.storeBlocked o.asid line parts
    | _ => false

/-- Drains a core's whole outbound buffer. -/
def State.drainAll (s : State) (core : Nat) : State := s.drainOut core (s.core core).outbound.length

/-- A release of scope `.clus` or wider drains the core's outbound buffer first (R144); `none` while an entry of it must wait. -/
def State.releaseAt (s : State) (t : Team) (scope : Nat) : Option State :=
  if scope < 2 then some s
  else
    let s := s.drainAll t.loc.pkgCore
    if (s.core t.loc.pkgCore).outbound.isEmpty then some s else none

/-- The outbound buffer of a core holds bytes of a line. -/
def State.outboundHas (s : State) (core asid line : Nat) : Bool :=
  (s.core core).outbound.any (fun o => o.asid == asid && match o.ent.kind with
    | .store _ l _ _ _ => l == line
    | _ => false)

/-! ### Read caches (R144, R342) -/

def State.readLine? (s : State) (core asid va : Nat) : Option ReadLine :=
  (s.core core).readCache.find? (fun l => l.asid == asid && l.line == lineOf va)

/-- A store that enters the outbound buffer updates the core's read-cache copy at once. -/
def State.updateRead (s : State) (core asid line : Nat) (parts : List StorePart) : State :=
  s.updCore core (fun c => { c with readCache := c.readCache.map (fun l =>
    if l.asid = asid ∧ l.line = line then
      { l with data := applyParts parts l.data, gres := parts.foldl (fun m p => m &&& ~~~(byteMask p.off p.data.length)) l.gres }
    else l) })

/-! ### Loads -/

/-- How a lane's read ends. -/
inductive ReadEnd where
  | bytes (bs : List Byte) (tags : List (Nat × Nat)) (invalid : List (Space × Nat))   -- words never written: space, offset
  | stuck (st : LaneState)
deriving DecidableEq, Repr

/-- The zones that data served at an address's slice carries (Table 6.4, R342): the slice's die, the stack's zone on a miss,
and the receiving die when it came over a die link. -/
def State.serveTags (s : State) (t : Team) (va : Nat) (host miss : Bool) (base : Nat) : List (Nat × Nat) :=
  let d := s.sliceDie va
  [(dieZone d, s.tick)] ++ (if miss && !host then [(stackZone (base / 2 ^ 36), s.tick)] else []) ++
    (if d = t.loc.chip then [] else [(dieZone t.loc.chip, s.tick)])

/-- The zones that data of another package carries: the hub's, where it came in, and the receiving die's (R342). -/
def State.remoteTags (s : State) (t : Team) : List (Nat × Nat) := [(hubZone, s.tick), (dieZone t.loc.chip, s.tick)]

/-- An uncorrectable error in the data at rest that an access meets (R351): the stack, or a dirty line over it; a clean line
is fetched again. -/
def State.badData (s : State) (host : Bool) (base : Nat) : Bool := !host && s.badCells.contains (lineOf base)

/-- A tag set as single contributions; a package-wide one names every zone. -/
def State.tagList (s : State) (g : Tags) : List (Nat × Nat) :=
  g.tags.flatMap (fun x => [(x.zone, x.first), (x.zone, x.last)]) ++ (match g.wide with
    | some (f, l) => s.variant.zones.flatMap (fun z => [(z, f), (z, l)])
    | none => [])

/-- Lines of a core's read cache (Table 1.2). -/
def readLines : Nat := 256 * 1024 / 64

/-- A full read cache drops a line, any of them (R8; DESIGN CHOICE, log 116). -/
def State.roomRead (s : State) (core : Nat) : State :=
  let ls := (s.core core).readCache
  if ls.length < readLines then s
  else
    let out := ls[(Config.freeWord s.free).toNat % ls.length]?
    { s.dropRead core (fun l => some l == out) with free := s.free + 1 }

/-- The line of an address leaves the core's read cache, and a fresh copy with its fill tags enters when `fill` holds and no
byte of the line is pending (R144, R160); a fill keeps all its tags, whatever their number (R342). -/
def State.fillRead (s : State) (t : Team) (asid va : Nat) (h : Bool) (base : Nat) (fill : Bool) (tags : List (Nat × Nat)) : State :=
  let core := t.loc.pkgCore
  let s := s.dropRead core (fun l => l.asid == asid && l.line == lineOf va)
  if fill && !s.pendingAt .glob asid 0 (64 * lineOf va) 64 then
    (s.roomRead core).updCore core (fun c => { c with readCache := c.readCache ++ [{
      asid := asid, line := lineOf va, data := s.lineBytes asid (64 * lineOf va) h (base / 64 * 64) 64,
      tags := { Tags.empty with tags := (tags.filter (fun g => g.1 != t.loc.zone)).map (fun g => { zone := g.1, first := g.2, last := g.2 }) }
      gres := if h then 0 else s.gresMask (lineOf base) }] })
  else s

/-- A byte that a load takes from a line, and not from the team's own held writes, was last written by a GRES. -/
def gresTaken (m : BitVec 64) (off : Nat) (fw : List (Option Byte)) : Bool :=
  fw.zipIdx.any (fun x => x.1.isNone && m.getLsbD (off + x.2))

/-- One lane's global read. `raw`: LDN and aperture reads, which take a cell's bytes whatever its tag. `fill`: the line enters
the core's read cache. `cell`: the state of a lane that meets a GEODE or FORMING cell. -/
def State.readGlobal (s : State) (t : Team) (seq region : Nat) (pc : DWord) (lane va n : Nat) (raw useCache fill first : Bool) : State × ReadEnd :=
  let asid := s.asidOf t
  let core := t.loc.pkgCore
  let fw := s.forward t seq .glob va n
  if !raw && s.ownTag t seq va == some .poison then (s, .stuck (.fault .poisonLoad 0 9))
  else if fw.all (·.isSome) then (s, .bytes (fw.map (·.getD 0)) [] [])
  else
    let hit := if useCache then s.readLine? core asid va else none
    match hit with
    | some l => ((s.noteGres t.uid region (gresTaken l.gres (va % 64) fw)).watchTeam t.uid .glob va n 1 lane pc (some region), .bytes (mergeForward fw (sliceBytes l.data (va % 64) n))
        (if s.tagsClear t.loc.chip l.tags then [] else s.tagList l.tags) [])
    | none =>
      let s := if s.outboundHas core asid (lineOf va) then s.drainAll core else s
      -- a store of the core that still waits behind a pending word goes first: it is older at this line (R135, R144)
      if s.outboundHas core asid (lineOf va) then (s, .stuck .waiting)
      else match s.reached asid va with
      | (s, x) =>
        match x.check .read t.arch.inHandler with
        | .bad code => (s, .stuck (.fault .access code 0))
        | .absent =>
          match s.startMiss asid va 0 (((s.gridOf t).map (·.lrec.gridtag)).getD 0) with
          | (s, true) => (s, .stuck .page)
          | (s, false) => (s, .stuck (.fault .pageFault 0x10 0))
        | .remote d =>
          match s.frame? asid va with
          | some f => (s.dropFrame asid va, .bytes (mergeForward fw f) (s.remoteTags t) [])
          | none =>
            let m := HostMsg.remoteRead d asid va n
            (s.askLink t.loc.chip asid n m, .stuck .waiting)
        | .ok h base _ _ p =>
          let tag := s.tagAt h base
          -- a copy that the core still keeps of a cell now deferred is older than what the lane must read (R205)
          let s := if raw || tag == .value then s else s.dropRead core (fun l => l.asid == asid && l.line == lineOf va)
          if raw || s.tagSeen t seq va h base == .value then
            if s.badData h base then ({ s with log := s.log ++ [.storage base] }, .stuck (.fault .access 0x09 0))
            else
              let miss := (s.slice? asid va).isNone
              let tags := s.serveTags t va h miss base
              let s := if tag == .value then s.fillSlice asid va h base p else s
              let bs := s.overlayPending .glob asid 0 va (s.lineBytes asid va h base n)
              let s := s.fillRead t asid va h base (fill && tag == .value) tags
              let s := s.noteGres t.uid region (!raw && !h && gresTaken (s.gresMask (lineOf base)) (va % 64) fw)
              let s := s.watchTeam t.uid .glob va n 1 lane pc (some region)
              (s, .bytes (mergeForward fw bs) tags [])
          else match tag with
            | .poison => (s, .stuck (.fault .poisonLoad 0 9))
            | .geode => match s.openCell t region pc (lineOf base) va asid with
              | (s, st) => (s, .stuck st)
            | _ => match s.queueOn t region pc lane (lineOf base) va first with
              | (s, st) => (s, .stuck st)

/-- One lane's scratch read (R142, R143, R149): bytes, and which of its words were never written. -/
def State.readScratch (s : State) (t : Team) (seq : Nat) (sp : Space) (off n : Nat) : State × ReadEnd :=
  let c := s.scratchOf t sp
  let fw := s.forward t seq sp off n
  let place := s.placeOf t sp off
  let bs := s.overlayPending sp place.owner place.core off (c.mem.bytes off n)
  let words := (List.range ((off % 4 + n + 3) / 4)).map (fun i => off / 4 + i)
  -- the youngest own write over a word decides: a store makes it count as valid, SINV as never written
  let own (w : Nat) : Option Bool := (s.ownEntries t).foldl (fun acc e =>
    if seq ≤ e.seq then acc else match e.kind with
      | .store sp' line parts _ _ =>
        if sp' == sp && line == w / 16 &&
            parts.any (fun p => p.acc < seq && p.off < 4 * (w % 16) + 4 && 4 * (w % 16) < p.off + p.data.length) then some true
        else acc
      | .sinv sp' o len => if sp' == sp && o ≤ 4 * w && 4 * w < o + len then some false else acc
      | _ => acc) none
  let here (w : Nat) : Bool := c.valid.contains w && !s.freshAt { place with addr := 4 * w }
  let invalid := (words.filter (fun w => !((own w).getD (here w)))).map (fun w => (sp, 4 * w))
  let bad := match sp with
    | .chamber => s.badChamb.any (fun b => b.1 == t.block && words.contains b.2)
    | .gallery => s.badGall.any (fun b => b.1 == place.owner && words.contains b.2)
    | _ => false
  if bad then ({ s with log := s.log ++ [.storage off] }, .stuck (.fault .access 0x09 0))
  else
    let tags := if sp = .gallery then
        [(dieZone (s.galleryDie t), s.tick)] ++ (if s.galleryDie t = t.loc.chip then [] else [(dieZone t.loc.chip, s.tick)])
      else []
    (s, .bytes (mergeForward fw bs) tags invalid)

/-- Widths in bytes of the WIDTH codes. -/
def widthBytes (w : Nat) : Nat := 2 ^ w

/-- Registers of a WIDTH's run. -/
def widthRegs (w : Nat) : Nat := if w ≤ 2 then 1 else if w = 3 then 2 else 4

/-- The run of registers that loaded bytes fill: sub-word values zero- or sign-extended (R156). -/
def loadRun (width : Nat) (sx : Bool) (bs : List Byte) : List Word :=
  let x := bytesNat bs
  if width < 2 then
    let w := 8 * 2 ^ width
    [BitVec.ofInt 32 (intOf sx w x)]
  else (List.range (widthRegs width)).map (fun i => BitVec.ofNat 32 (x >>> (32 * i)))

/-! ### Delivering results -/

/-- Writes a long-latency value into the newest state and into the checkpoints of the regions younger than its own, so that a
restart from one of them finds it. -/
def Team.deliverWith (t : Team) (region : Nat) (f : Arch → Arch) : Team :=
  { t with arch := f t.arch
           regions := t.regions.map (fun r => if region < r.id then { r with ckpt := f r.ckpt } else r) }

/-- Adds tags to a region still in flight. -/
def Team.gather (t : Team) (region : Nat) (tags : List (Nat × Nat)) : Team :=
  t.updRegion region (fun r => r.gather t.loc.zone tags)

/-! ### Parking points (R152) -/

/-- A lane still to be performed: not performed, or waiting for a page, a cell or an open-buffer entry. -/
def LaneState.unfinished : LaneState → Bool
  | .waiting => true | .page => true | .cellWait _ _ => true | .bufferWait => true
  | .done => false | .fault _ _ _ => false

/-- A lane left unfinished by a page or a cell. -/
def LaneState.left : LaneState → Bool
  | .page => true | .cellWait _ _ => true | .bufferWait => true
  | _ => false

def LaneState.isFault : LaneState → Bool
  | .fault _ _ _ => true
  | _ => false

/-- An access whose result a marker waits for: one with a register or tile destination. -/
def AccKind.returns : AccKind → Bool
  | .load .. => true | .gqry .. => true | .ldf .. => true
  | .store _ => false | .probe _ => false | .launch => false | .acqFence _ => false

/-- An access that probes a target and returns nothing; a continuation waits for it before its next word. -/
def AccKind.probes : AccKind → Bool
  | .store _ => true | .probe _ => true
  | .load .. => false | .gqry .. => false | .ldf .. => false | .launch => false | .acqFence _ => false

/-- Ranks of the causes that one instruction's lanes may raise together (R152). -/
def causeRank : Cause → Nat
  | .geodeState => 0 | .access => 1 | .pageFault => 2 | .selfDep => 3 | .evalDepth => 4 | .noCapable => 5
  | .poisonLoad => 6 | .scratchUninit => 7 | _ => 8

/-- The space of a load. -/
def AccKind.space : AccKind → Space
  | .load sp _ _ _ _ _ _ _ => sp
  | .ldf sp _ _ _ _ _ _ _ _ => sp
  | _ => .glob

/-- The element addresses of an LDF lane, as pieces with the scale byte last (R124, R125). -/
def ldfPieces (sp : Space) (roleB perm : Bool) (lane addr : Nat) (idx : List Nat) : List (Nat × Nat) :=
  let k0 := if !roleB && 128 ≤ lane % 256 then 16 else 0
  let n := if roleB then 32 else 16
  let wrap := 2 ^ (if sp = .glob then 64 else 32)
  if perm then ((idx.drop k0).take n).map (fun i => ((addr + i) % wrap, 1))
  else if sp = .glob then linePieces 4 ((addr + k0) % wrap) n ++ (if roleB || lane % 256 < 128 then [((addr + 32) % wrap, 1)] else [])
  else if roleB then [(addr, 33)]
  else (addr + k0, 16) :: (if lane % 256 < 128 then [(addr + 32, 1)] else [])

/-- The bytes that one lane of a load reads: pieces, address and length. -/
def Access.pieces (a : Access) (l : LaneAcc) : List (Nat × Nat) :=
  match a.kind with
  | .load _ w _ _ _ _ _ _ => [(l.addr, 2 ^ w)]
  | .ldf sp _ roleB perm _ _ idx _ _ => ldfPieces sp roleB perm l.lane l.addr idx
  | _ => [(l.addr, 1)]

/-- The lines that one lane of a load reads. -/
def Access.linesAt (a : Access) (l : LaneAcc) : List Nat :=
  ((a.pieces l).flatMap (fun p => [lineOf p.1, lineOf (p.1 + p.2 - 1)])).eraseDups

/-- An access that keeps younger ones from being performed: an acquire that has not returned (R156, R163). -/
def Access.holds (a : Access) : Bool :=
  (match a.kind with
   | .load _ _ _ acq _ _ _ _ => acq
   | .acqFence _ => true
   | _ => false) && a.lanes.any (·.st.unfinished)

/-- An older load of the team has a lane still to be performed on a line of a range (R157, R197). -/
def Team.olderOn (t : Team) (acc : Nat) (sp : Space) (addr n : Nat) : Bool :=
  t.accs.any (fun a => a.id < acc && (match a.kind with
    | .load sp2 _ _ _ _ _ _ _ => sp2 == sp
    | .ldf sp2 _ _ _ _ _ _ _ _ => sp2 == sp
    | _ => false) && a.lanes.any (fun l => l.st.unfinished && (a.linesAt l).any (fun x => lineOf addr ≤ x && x ≤ lineOf (addr + n - 1))))

/-- The faulting lanes of an access: lane, address, cause, reason code, detail. -/
def Access.faults (a : Access) : List (Nat × Nat × Cause × Nat × Nat) :=
  a.lanes.filterMap (fun l => match l.st with
    | .fault c i d => some (l.lane, l.addr, c, i, d)
    | _ => none)

/-- The cause an access reports: the first of R152's list that some lane raised. -/
def Access.cause (a : Access) : Option Cause :=
  (a.faults.map (fun f => f.2.2.1)).foldl (fun (best : Option Cause) c =>
    match best with
    | none => some c
    | some b => if causeRank c < causeRank b then some c else some b) none

/-- The %gdetail of a geode-related trap (Table 11.5). -/
def gdetailOf (depth code : Nat) : Word := BitVec.ofNat 32 (256 * depth + code)

/-- The trap that a parking point takes for an access: %epc is where the team stands (R152). -/
def Access.trap (a : Access) (t : Team) (cause : Cause) : Trap :=
  let fs := a.faults.filter (fun f => f.2.2.1 == cause)
  let first := fs.foldl (fun (best : Option (Nat × Nat × Cause × Nat × Nat)) f => match best with
    | none => some f
    | some b => if f.1 < b.1 then some f else some b) none
  let dist : BitVec 24 := BitVec.ofInt 24 ((t.arch.pc.toNat : Int) - a.pc.toNat)
  let code := (first.map (·.2.2.2.1)).getD 0
  let det := (first.map (·.2.2.2.2)).getD 0
  { cause := cause, eaddr := BitVec.ofNat 64 ((first.map (·.2.1)).getD 0),
    -- an opener's NO_CAPABLE names the sets in [2:0], below the distance (Table 18.2)
    einfo := if cause = .noCapable then (0#8 ++ dist : BitVec 32) ||| BitVec.ofNat 32 (code % 8) else (BitVec.ofNat 8 code ++ dist : BitVec 32),
    emask := maskOfList (fs.map (·.1)), once := a.once, deferred := true,
    detail := if det = 0 then none else some (gdetailOf t.depth det) }

/-- Drops what faulting lanes of an access put into held entries. -/
def dropPart (acc : Nat) (e : Entry) : Option Entry :=
  match e.kind with
  | .store sp line parts rel scope =>
    let parts' := parts.filter (fun p => p.acc != acc)
    if parts'.isEmpty then none else some { e with kind := .store sp line parts' rel scope }
  | _ => if e.acc = acc then none else some e

/-- Drops the entries and parts of an access, or only those under given addresses. -/
def Team.dropEntries (t : Team) (acc : Nat) (lines : List Nat) (all : Bool) : Team :=
  let keep (e : Entry) : Option Entry :=
    let hit := match e.kind with
      | .store _ line _ _ _ => lines.contains line
      | .atom _ line _ _ _ _ _ _ => lines.contains line
      | _ => e.acc == acc
    if all || hit then dropPart acc e else some e
  { t with regions := t.regions.map (fun r => { r with held := r.held.filterMap keep }), relq := t.relq.filterMap keep }

/-- What a parking point finds. -/
inductive ParkEnd where
  | clear
  | unfinished
  | trap (acc : Access) (cause : Cause)
  | arith (d : Deferred)
  | watch (h : WatchHit)
deriving DecidableEq, Repr

/-- Examines the team at a parking point: unfinished lanes keep it; else the oldest faulting instruction is reported, an older
deferred ARITH_EXC before it (R152, R354). `marker`: results not yet returned keep it too, and ARITH_EXC is due. -/
def Team.park (t : Team) (marker : Bool) : ParkEnd :=
  let live := t.accs.filter (fun a => !a.susp)
  if live.any (fun a => a.lanes.any (fun l => l.st.left || (marker && (a.kind.returns || t.kind == .lantern && a.kind.probes) && l.st.unfinished)))
  then .unfinished
  else if marker && !t.pend.isEmpty then .unfinished
  else
    let bad := (live.filter (fun a => !a.faults.isEmpty)).foldl (fun (best : Option Access) a => match best with
      | none => some a
      | some b => if a.id < b.id then some a else some b) none
    let def? := if marker then t.deferred.head? else none
    match bad, def? with
    | none, none => match t.watch.head? with
      | some h => .watch h
      | none => .clear
    | none, some d => .arith d
    | some a, none => match a.cause with
      | some c => .trap a c
      | none => .clear
    | some a, some d => if d.id < a.id then .arith d else match a.cause with
      | some c => .trap a c
      | none => .clear

/-- The trap of a deferred ARITH_EXC (R74): the union of the span's deferred reports. -/
def Team.arithTrap (t : Team) (d : Deferred) : Trap :=
  { cause := .arithExc, eaddr := d.pc, deferred := true, once := d.once,
    einfo := (1 <<< 31) ||| (t.deferred.foldl (fun acc x => acc ||| x.flags) (0 : BitVec 5)).zeroExtend 32,
    emask := t.deferred.foldl (fun acc x => acc ||| x.lanes) 0 }

/-- The trap of a watchpoint hit (R395). -/
def WatchHit.trap (h : WatchHit) : Trap :=
  { cause := .watch, eaddr := h.pc, einfo := BitVec.ofNat 32 (h.wp + 4 * h.kind), emask := h.lanes, deferred := true }

/-- After a parking-point trap: the reported instruction's faulting lanes are done with; lanes of a later cause, and younger
faulted instructions, are left for RTE to replay (R152). What is merely under way goes on. -/
def Team.reported (t : Team) (a : Access) (cause : Cause) : Team :=
  let lines := (a.faults.filter (fun f => f.2.2.1 == cause)).map (fun f => lineOf f.2.1)
  let t := match cause with
    | .geodeState => t.dropEntries a.id [] true
    | .scratchUninit => t
    | _ => t.dropEntries a.id lines false
  let rest (x : Access) : Option Access :=
    if x.id = a.id then
      if cause = .geodeState then none
      else
        let ls := x.lanes.filter (fun l => match l.st with
          | .fault c _ _ => c != cause
          | .done => false
          | _ => true)
        if ls.isEmpty then none else some { x with lanes := ls, susp := ls.any (·.st.isFault) }
    else if x.faults.isEmpty then some x
    else some { x with susp := true }
  { t with accs := t.accs.filterMap rest, deferred := t.deferred.filter (fun d => d.id < a.id) }

/-- The trap that is about to be taken keeps what it takes from the team, for a squash that discards the handler's entry (R355). -/
def Team.remember (t : Team) (r : Recall) : Team := { t with recalls := t.recalls ++ [{ r with region := t.nextRegion }] }

/-- A failed engine operation of the team that its counter no longer counts and that no trap has reported, among those that a wait needs
(R177). -/
def State.failedFor (s : State) (t : Team) (p : EngOp → Bool) : Option EngOp :=
  s.ops.find? (fun o => p o && o.team == t.uid && o.owner == OpOwner.team && o.state == EngState.finished && o.fail.isSome && !o.told &&
    !t.cnts.any (fun c => c.contains o.id))

/-- Any such operation. -/
def State.failedOp (s : State) (t : Team) : Option EngOp := s.failedFor t (fun _ => true)

/-- The trap of a failed engine operation (R177). -/
def EngOp.trap (o : EngOp) (depth : Nat) : Trap :=
  let f := o.fail.getD (.access, 0, 0)
  { cause := f.1, eaddr := BitVec.ofNat 64 f.2.1, einfo := BitVec.ofNat 32 (min o.bytes 0xFFFFFFFF), once := true, deferred := true,
    detail := if f.1 = .geodeState then some (gdetailOf depth 8) else if f.1 = .poisonLoad then some (gdetailOf depth 9) else none }

/-- The report of a failed operation is made: no later wait reports it. -/
def State.tellOp (s : State) (id : Nat) : State := s.updOp id (fun o => { o with told := true })

/-- The record that a continuation leaves, from the one-lane team that runs it. -/
def contResult (t : Team) (r : ContRec) (status : Nat) : ContRec :=
  { r with
    pc := t.arch.pc
    kbits := BitVec.ofNat 8 ((List.range 8).foldl (fun acc k => if k != 0 && (t.arch.kget k).getLsbD 0 then acc + 2 ^ k else acc) 0)
    sticky := t.arch.flags.extractLsb' 0 5
    status := status
    regs := (List.range r.nv).map (fun j => t.arch.vget (r.vFirst + j) 0) ++
      (List.range r.ns).map (fun j => t.arch.sget (r.sFirst + j)) ++ List.replicate (16 - r.nv - r.ns) 0 }

/-- The record of a continuation as it stands: its PC, registers and flags as it has run so far; one that waits has STATUS 3 (R73, R237). -/
def Team.contRecord (t : Team) : Option ContRec :=
  t.cont.map (fun r => if t.exiting then r else contResult t r (match t.run with
    | .ready => 0
    | .switch => 0
    | _ => 3))

/-- A continuation ends: its regions close, and its record returns when they have cleared (R238). -/
def State.lanternEnd (s : State) (t : Team) (status : Nat) : State :=
  let s := { s with issue := none }
  let t := t.closeRegion s.tick
  s.setTeam { t with cont := t.cont.map (fun r => contResult t r status), run := .wait .clearance, exiting := true }

/-- A continuation whose access faulted ends early at its instruction, as if it had not issued (R352). -/
def Team.abandon (t : Team) (a : Access) : Team :=
  { t.dropEntries a.id [] true with accs := [], arch := { t.arch with pc := a.pc } }

/-- The lanes that a parking point reports, with their addresses; under GEODE_STATE every lane of the instruction (R152). -/
def Access.reports (a : Access) (c : Cause) : List (Nat × Nat) :=
  if c = .geodeState then a.lanes.map (fun l => (l.lane, l.addr)) else (a.faults.filter (fun f => f.2.2.1 == c)).map (fun f => (f.1, f.2.1))

/-- A leading copy tells its trailing copy which lanes it has reported (R365). -/
def Team.tellLanes (ls : List (Nat × Nat)) (t : Team) : Team :=
  { t with lvq := match t.lvq.getLast? with
      | some e => if e.kind = 3 then t.lvq.dropLast ++ [{ e with addrs := ls }] else t.lvq
      | none => t.lvq }

/-- The trap that a parking point takes for an access, or a continuation's end. -/
def State.parkTrap (s : State) (t : Team) (a : Access) (c : Cause) : State :=
  match t.kind with
  | .lantern => s.lanternEnd (t.abandon a) 2
  | _ => (s.takeTrap (({ t with run := .ready }.reported a c).remember { region := 0, acc := some a, deferred := t.deferred }) (a.trap t c)).updTeam t.uid (Team.tellLanes (a.reports c))

/-- What a trailing copy at a marker knows of its leading copy: it took a trap there, it went on, or neither yet (R365). -/
def State.leaderAt (s : State) (t : Team) : Option Bool :=
  if t.role != .trailing then some false
  else match s.team? t.mate with
    | none => some false
    | some m =>
      if m.lvq.any (fun e => e.kind == 3 && e.pc == t.arch.pc && e.word == t.arch.issued) then some true
      else if t.arch.issued < m.arch.issued || m.exiting then some false
      else none

/-- A parking point after a load that read what a GRES wrote: the team's lines leave the read cache (R205). -/
def State.parkAcquire (s : State) (t : Team) : State :=
  if s.gresReads.any (fun x => x.1 == t.uid) then
    { s.invalidateRead t.loc.pkgCore (s.asidOf t) with gresReads := s.gresReads.filter (fun x => x.1 != t.uid) }
  else s

/-- Brings a team that waits at a marker, or for its memory, on: ready, into its handler, or no change (R27, R152, R177). A trailing
copy goes on to take its leading copy's trap, and reports an ARITH_EXC of its own only once that copy has passed the marker (R365). -/
def State.passPark (s : State) (t : Team) (marker : Bool) : State :=
  if s.leaderAt t = some true then s.setTeam { t with run := .ready, waitSlots := 0 }
  else
    let s := if marker && t.park marker != .unfinished then s.parkAcquire t else s
    match t.park marker with
  | .unfinished => s.setTeam t
  | .clear => match s.failedOp t with
    | some o => (s.tellOp o.id).takeTrap ({ t with run := .ready, waitSlots := 0 }.remember { region := 0, op := some o.id }) (o.trap t.depth)
    | none => s.setTeam { t with run := .ready, deferred := if marker then [] else t.deferred, waitSlots := 0 }
  | .arith d => if (s.leaderAt t).isNone then s.setTeam t else s.takeTrap ({ t with deferred := [], run := .ready }.remember { region := 0, deferred := t.deferred }) (t.arithTrap d)
  | .watch h => s.takeTrap ({ t with run := .ready, watch := t.watch.drop 1 }.remember { region := 0, watch := [h] }) h.trap
  | .trap a c => s.parkTrap t a c

/-- Re-examines a parked team after something returned. -/
def State.resume (s : State) (u : Nat) : State :=
  match s.team? u with
  | none => s
  | some t =>
    match t.run with
    | .switch => s.passPark t true
    | .memory m =>
      -- every replay completes first (R152)
      if t.accs.any (fun a => !a.susp && !(match a.kind with | .acqFence _ => true | _ => false) &&
          a.lanes.any (·.st.unfinished)) then s
      else s.passPark t m
    | _ => s

end Sys2Proof.Machine
end

