-- ==== Sys2Proof/Machine/Redundant.lean ====
section
/-! DEFINITION. Redundant execution as words meet it (18_traps_faults_redundancy.md, R364–R369; 20_program_redundant_dot.md,
R384): the load-value queue and the signatures. The queue stands with the leading copy. -/

namespace Sys2Proof.Machine

/-- The other copy of a team. -/
def State.mateOf (s : State) (u : Nat) : Option Nat :=
  match s.team? u with
  | some t => if t.role = .single || t.kind == .lantern then none else some t.mate
  | none => none

/-- Bytes of a queue (R384). -/
def lvqUsed (q : List LvqEntry) : Nat := (q.map (·.bytes)).foldl (· + ·) 0

/-- The queue's size (R365). -/
def lvqSize : Nat := 16384

/-- The size of an entry (Table 20.1). -/
def lvqBytes (lanes addrs vals : Nat) (trapTw : Option Nat) : Nat :=
  let n := 16 + (if addrs = 0 then 0 else 8 * lanes) + 4 * vals + (match trapTw with
    | some tw => 16 + tw / 8
    | none => 0)
  (n + 3) / 4 * 4

/-- An entry with no part but its header. -/
def lvqHeader (kind word : Nat) (pc : DWord) (region : Nat) : LvqEntry :=
  { kind := kind, word := word, pc := pc, region := region, addrs := [], vals := [], bytes := 16, trap := none, recs := [], note := (0, 0, 0) }

/-- An entry of values. -/
def lvqValues (word : Nat) (pc : DWord) (region : Nat) (addrs : List (Nat × Nat)) (vals : List (Nat × Nat × Word)) : LvqEntry :=
  { kind := 0, word := word, pc := pc, region := region, addrs := addrs, vals := vals,
    bytes := lvqBytes (max addrs.length 1) addrs.length vals.length none, trap := none, recs := [], note := (0, 0, 0) }

/-- Lane l of the instruction after `word` words comes before the lane that %uninitaddr was taken from: an older instruction, or a lower lane of it. -/
def Arch.uninitFirst (a : Arch) (word lane : Nat) : Bool := match a.uninitBy with
  | some (i, l) => word < i || (word == i && lane < l)
  | none => a.uninitcnt == 0

/-- A trailing copy logs the words never written that its leading copy met (R143). -/
def Arch.noteWords (a : Arch) (word : Nat) (n : Nat × Word × Nat) : Arch :=
  if n.1 = 0 then a
  else
    let first := a.uninitFirst word n.2.2
    { a with uninitaddr := if first then n.2.1 else a.uninitaddr
             uninitBy := if first then some (word, n.2.2) else a.uninitBy
             uninitcnt := BitVec.ofNat 32 (min (a.uninitcnt.toNat + n.1) 0xFFFFFFFF) }

/-- What a leading copy logged between two of its states. -/
def Arch.noted (before after : Arch) (word : Nat) : Nat × Word × Nat :=
  (after.uninitcnt.toNat - before.uninitcnt.toNat, after.uninitaddr, match after.uninitBy with
    | some (w, l) => if w = word then l else 1024
    | none => 1024)

/-- The leading copy's queue has room for an entry (R366); any other team needs none. -/
def Team.lvqRoom (t : Team) (e : LvqEntry) : Bool := t.role != .leading || lvqUsed t.lvq + e.bytes ≤ lvqSize

/-- The leading copy pushes an entry. -/
def Team.lvqPush (t : Team) (e : LvqEntry) : Team := if t.role = .leading then { t with lvq := t.lvq ++ [e] } else t

/-- The first entry of a trailing copy's queue that a test accepts. -/
def State.lvqFind (s : State) (t : Team) (p : LvqEntry → Bool) : Option LvqEntry :=
  (s.team? t.mate).bind (fun m => m.lvq.find? p)

/-- Takes the first entry that a test accepts off a trailing copy's queue. -/
def State.lvqDrop (s : State) (t : Team) (p : LvqEntry → Bool) : State :=
  s.updTeam t.mate (fun m => { m with lvq := m.lvq.takeWhile (fun e => !p e) ++ (m.lvq.dropWhile (fun e => !p e)).drop 1 })

/-- An entry of a kind for the word that a team stands at. -/
def atWord (kind : Nat) (a : Arch) (e : LvqEntry) : Bool := e.kind == kind && e.pc == a.pc && e.word == a.issued

/-- One byte folded into a CRC-64 with the ECMA-182 polynomial (R367). -/
def crc64Byte (c : BitVec 64) (b : Byte) : BitVec 64 :=
  (List.range 8).foldl (fun (c : BitVec 64) _ => if c.getLsbD 63 then (c <<< 1) ^^^ 0x42F0E1EBA9EA3693 else c <<< 1)
    (c ^^^ (b.zeroExtend 64 <<< 56))

def crc64 (c : BitVec 64) (bs : List Byte) : BitVec 64 := bs.foldl crc64Byte c

/-- The target of an entry: a virtual address, or an offset with its space in bits [63:62] (R367). -/
def foldTarget (sp : Space) (a : Nat) : List Byte :=
  natBytes 8 (match sp with
    | .glob => a
    | .pocket => a + 2 ^ 62
    | .chamber => a + 2 * 2 ^ 62
    | .gallery => a + 3 * 2 ^ 62)

/-- The captured operands of an engine operation. -/
def Shape.bytes (x : Shape) : List Byte :=
  natBytes 8 x.base ++ natBytes 8 x.rowb ++ natBytes 8 x.rows ++ natBytes 8 x.rstr ++ natBytes 8 x.planes ++ natBytes 8 x.pstr ++
    natBytes 4 x.flags.toNat

/-- The captured state of a continuation record, apart from where its team runs. -/
def ContRec.bytes (r : ContRec) : List Byte :=
  natBytes 8 r.pc.toNat ++ natBytes 2 r.lane ++ natBytes 2 r.kind ++ [r.kbits] ++ natBytes 1 r.enab.toNat ++
    r.regs.flatMap (fun w => natBytes 4 w.toNat)

/-- The byte mask of runs within a line: offset and length of each. -/
def lineMask (runs : List (Nat × Nat)) : Nat :=
  runs.foldl (fun acc r => (List.range r.2).foldl (fun acc i => acc ||| 2 ^ (r.1 + i)) acc) 0

/-- What a held entry folds into its region's signature (R367). -/
def State.foldEntry (s : State) (e : Entry) : List Byte :=
  match e.kind with
  | .store sp line parts _ _ =>
    foldTarget sp (64 * line) ++ natBytes 8 (lineMask (parts.map (fun p => (p.off, p.data.length)))) ++ parts.flatMap (·.data)
  | .atom sp line _ _ width lanes _ _ =>
    foldTarget sp (64 * line) ++ natBytes 8 (lineMask (lanes.map (fun l => (l.2.1 % 64, width)))) ++
      lanes.flatMap (fun l => natBytes width l.2.2.toNat)
  | .fence ord sc scope => natBytes 8 (ord + (if sc then 4 else 0) + 8 * scope)
  | .sinv sp off len => foldTarget sp off ++ natBytes 8 len
  | .engine op => match s.op? op with
    | some o => natBytes 8 o.cls ++ o.src.bytes ++ o.dst.bytes ++ (match o.kind with
      | .gather sp off n => foldTarget sp off ++ natBytes 8 n
      | .fill obj => foldTarget obj.space obj.off
      | .copy => natBytes 8 (o.digest.getD 0) ++ (match o.barrier with
        | some (sp, off) => foldTarget sp off
        | none => [])
      | .tmov len => natBytes 8 len)
    | none => []
  | .plinit sp off base bytes nslot nrel => foldTarget sp off ++ [base, bytes, nslot, nrel].flatMap (natBytes 8)
  | .plrel sp off seq => foldTarget sp off ++ natBytes 8 seq
  | .binit sp off amt => foldTarget sp off ++ natBytes 8 amt
  | .arrive sp off amt => foldTarget sp off ++ natBytes 8 amt
  | .spawn r => r.bytes
  | .launch addr => natBytes 8 addr.toNat
  | .cell _ addr data => natBytes 8 addr ++ data
  | .cont r => r.bytes
  | .trace tag payload addr => natBytes 2 tag.toNat ++ natBytes 4 payload.toNat ++ natBytes 8 addr.toNat

/-- The signature of a region (R367). -/
def State.signature (s : State) (r : Region) : BitVec 64 := crc64 (crc64 0 r.folded) (r.held.flatMap s.foldEntry)

/-- The lanes that a leading copy has reported have no effect in its trailing copy either: they leave the oldest access of the reported
instruction, and the oldest entries that it holds (R152). -/
def Team.forgetLanes (t : Team) (pc : DWord) (all : Bool) (ls : List (Nat × Nat)) : Team :=
  if ls.isEmpty then t
  else
    let mine (a : Access) : Bool := a.pc == pc && a.lanes.any (fun l => ls.contains (l.lane, l.addr))
    let accs := match t.accs.find? mine with
      | some a => (t.accs.map (fun (x : Access) =>
          if x.id = a.id then { x with lanes := x.lanes.filter (fun l => !ls.contains (l.lane, l.addr)) } else x)).filter (fun x => !x.lanes.isEmpty)
      | none => t.accs
    let lines := ls.map (fun x => lineOf x.2)
    let from_ (e : Entry) : Option Nat := match e.kind with
      | .store .glob line parts _ _ => (parts.find? (fun p => p.pc == pc && lines.contains line)).map (·.acc)
      | .atom .glob line _ _ _ _ _ _ => if e.pc = pc ∧ lines.contains line then some e.acc else none
      | .cell _ _ _ => if e.pc = pc then some e.acc else none
      | .launch _ => if e.pc = pc then some e.acc else none
      | _ => none
    let t := { t with accs := accs }
    match ((t.regions.flatMap (·.held)).filterMap from_).min? with
    | some acc => t.dropEntries acc lines all
    | none => t

/-- A trailing copy takes the trap that its leading copy took at a parking point (R365): the same registers, with TRAILING set. -/
def State.trailTrap (s : State) (t : Team) (e : LvqEntry) : State :=
  let b := e.trap.getD t.arch.bank
  let bank : Banked := { b with estat := b.estat ||| 4, elive := t.arch.live }
  let t := t.forgetLanes (b.epc - BitVec.ofInt 64 (b.einfo.extractLsb' 0 24).toInt) (b.ecause.toNat == Cause.geodeState.code)
    (if b.ecause.toNat = Cause.scratchUninit.code then [] else e.addrs)
  let a := { t.arch with bank := bank, live := fullMask t.tw &&& ~~~(t.arch.exited ||| t.arch.ejected), inHandler := true, pc := t.arch.tvec }
  let t := { t with arch := a, run := .ready, deferred := [], accs := t.accs.map (fun (x : Access) => { x with susp := true }) }
  s.setTeam (t.implicitHead s.tick)

end Sys2Proof.Machine
end

