-- ==== Sys2Proof/Machine/Quarantine.lean ====
section
/-! DEFINITION. Squash and stop: a team returned to a region's head (R344–R348), and a block brought to cleared state
(R269, R314). -/

namespace Sys2Proof.Machine

/-- What a squash from region g gives back of the traps whose handler entries it discards: reported lanes of older instructions are
unreported again, and so are deferred reports, watchpoint hits and records (R355). -/
def Team.recall (t : Team) (g : Nat) : Team :=
  let back := t.recalls.filter (fun r => g < r.region)
  let accs := back.filterMap (fun r => r.acc.bind (fun a => if a.region < g then some a else none))
  let join (x : Access) : Access := match accs.find? (fun a => a.id == x.id) with
    | some a => { x with lanes := a.lanes.filter (fun l => l.st.isFault && !x.lanes.any (fun y => y.lane == l.lane)) ++ x.lanes }
    | none => x
  { t with
    accs := (t.accs.map (fun x => let y := join x; if back.isEmpty then y else { y with susp := false })) ++
      (accs.filter (fun a => !t.accs.any (fun x => x.id == a.id))).map (fun a => { a with lanes := a.lanes.filter (·.st.isFault), susp := false })
    deferred := (back.flatMap (·.deferred)).filter (fun d => d.region < g && !t.deferred.contains d) ++ t.deferred
    watch := (back.flatMap (·.watch)).filter (fun h => h.region < g) ++ t.watch
    returned := t.returned.map (fun x => if back.any (fun r => r.recs.contains (x.entry, x.lane)) then { x with status := 4 } else x)
    recalls := t.recalls.filter (fun r => r.region ≤ g) }

/-- Restores a region's checkpoint and discards what the region and the younger ones hold (R346); a team is ready then, but for one that
migrates (R221). -/
def Team.squash (t : Team) (g : Nat) : Team :=
  match t.regions.find? (fun r => r.id == g) with
  | none => t
  | some r =>
    { t.recall g with
      arch := r.ckpt
      regions := t.regions.filter (fun x => x.id < g)
      nextRegion := g
      needHead := true
      accs := (t.recall g).accs.filter (fun a => a.region < g)
      pend := t.pend.filter (fun p => p.region < g)
      deferred := (t.recall g).deferred.filter (fun d => d.region < g)
      watch := (t.recall g).watch.filter (fun h => h.region < g)
      run := if t.run = .migrating then .migrating else .ready
      waitSlots := 0
      unread := none, exiting := false }

/-- Everything outside one team that a squash of it discards: its pending atomics with their pre-images restored, engine
operations issued in the squashed regions, the edges they made, and queue entries; samples of them say so (R160, R169, R346, R259, R368, R400). -/
def State.squashOne (s : State) (u g : Nat) : State :=
  match s.team? u with
  | none => s
  | some t =>
    let dead (i : Nat) : Bool := s.ops.any (fun o => o.id == i && o.team == u && g ≤ o.region && o.state == EngState.held)
    let s := (s.atoms.filter (fun x => x.team == u && g ≤ x.region)).foldl (fun s x => s.undoAtom x) s
    let t' := t.squash g
    let t' := { t' with cnts := t.cnts.map (fun (c : List Nat) => c.filter (fun i => !dead i)),
                        lvq := t.lvq.filter (fun e => e.region < g) }
    let back := (t.recalls.filter (fun r => g < r.region)).filterMap (·.op)
    ({ s with
      ops := (s.ops.filter (fun (o : EngOp) => !(o.team == u && g ≤ o.region && o.state == EngState.held))).map (fun (o : EngOp) =>
        { o with told := o.told && !back.contains o.id
                 younger := o.younger - s.ops.countP (fun (x : EngOp) => x.team == u && o.team == u && x.cls == o.cls && o.id < x.id && g ≤ x.region &&
                   x.state == EngState.held) })
      gresReads := s.gresReads.filter (fun x => !(x.1 == u && g ≤ x.2))
      teams := s.teams.map (fun (v : Team) => { v with regions := v.regions.map (fun (r : Region) =>
        { r with x2 := r.x2.map (fun (x : X2) => if x.team = u then { x with hit := x.hit.filter (fun h => h.1 < g) } else x) }) })
      edges := s.edges.filter (fun e => !(e.2.2.1 == u && g ≤ e.2.2.2))
      samples := s.samples.map (fun (x : Sample) => if x.team = u ∧ g ≤ x.region ∧ x.doneT = none then { x with squashed := true } else x) }).setTeam t'

/-- A squash of a team, and of the same regions of its copy (R370). -/
def State.squashPair (s : State) (u g : Nat) : State :=
  match s.mateOf u with
  | some m => (s.squashOne u g).squashOne m g
  | none => s.squashOne u g

/-- The teams of a block. -/
def State.teamsOf (s : State) (b : Nat) : List Team := s.teams.filter (fun t => t.block == b)

/-- Stops a block: the open region of a team at its migrate trap closes at its pc, every other team's open region is squashed;
closed regions drain and clear (R269, R314). `why` is the reason kept with the block; a move chosen before it is dropped by a stop for another
reason, and what asked for it stays. -/
def State.stopBlock (s : State) (b why : Nat) : State :=
  let s := (s.teamsOf b).foldl (fun s t =>
    if t.run == .migrating then s.setTeam { (t.closeRegion s.tick) with needHead := true, run := .ready }
    else match t.openRegion with
      | some r => s.squashPair t.uid r.id
      | none => s) s
  s.updBlock b (fun x => { x with state := .stopping why s.tick, move := if why = 1 || why = 4 then x.move else 0 })

/-- A block whose team takes the migrate trap is stopped to be moved, with its other copy (R269, R370). -/
def State.moveAway (s : State) (b : Nat) : State :=
  let stop (s : State) (b : Nat) : State := (s.updBlock b (fun x => { x with move := 1 })).stopBlock b 1
  match (s.block? b).bind (fun b => if b.role = .single then none else some b.mate) with
  | some m => stop (stop s b) m
  | none => stop s b

/-- A squash of a team and its copy. Where one of them waits at its migrate trap for the other, both now stand at one head, and the pair
moves from there: the squash does not end the migration (R221). -/
def State.squashTeam (s : State) (u g : Nat) : State :=
  let waits := ((s.team? u).toList ++ ((s.mateOf u).bind s.team?).toList).find? (fun t => t.run == .migrating)
  match waits with
  | some t => (s.squashPair u g).moveAway t.block
  | none => s.squashPair u g

/-- The mismatches in a row at one head that trap instead of restarting (R368). -/
def mismatchLimit : Nat := 4

/-- A team takes REDUNDANT_LIMIT at the head to which it has been squashed, and its cluster is queued for field test (R368). -/
def State.pairTrap (s : State) (u : Nat) (info : Word) : State :=
  match s.team? u with
  | none => s
  | some t => ((s.setTeam { t with mismatches := 0, needHead := false }).queueZone t.loc.zone).takeTrap { t with mismatches := 0, needHead := false }
      { cause := .redundantLimit, einfo := info }

/-- A mismatch of a pair at region g: both copies squash it and every younger one and restart at its head; the fourth in a row there
traps both (R368). `lead` and `trail` are the copies, `info` the low bits of the signatures' XOR. -/
def State.mismatch (s : State) (lead trail g : Nat) (info : Word) : State :=
  match (s.team? lead).bind (fun t => t.regions.find? (fun r => r.id == g)) with
  | none => s
  | some r =>
    let count (t : Team) : Team := { t with mismatches := if t.missHead = r.head then t.mismatches + 1 else 1, missHead := r.head }
    let s := ((s.updTeam lead count).updTeam trail count).squashTeam lead g
    if (((s.team? lead).map (·.mismatches)).getD 0) < mismatchLimit then s
    else (s.pairTrap lead info).pairTrap trail info

/-- Bits [31:0] of the XOR of the two signatures of a region. -/
def State.sigDiff (s : State) (a b : Team) (g : Nat) : Word :=
  let sig (t : Team) : BitVec 64 := ((t.regions.find? (fun r => r.id == g)).map s.signature).getD 0
  (sig a ^^^ sig b).setWidth 32

/-- A trailing copy's word computed another address than its queue entry holds: a mismatch at once, in the word's own region (R365). -/
def State.wordDiffers (s : State) (t : Team) : State :=
  let s := { s with issue := none }.setTeam t
  match s.team? t.mate with
  | some m => s.mismatch m.uid t.uid t.regionId (s.sigDiff m t t.regionId)
  | none => s

/-- Some present cluster of a partition implements the sets (R269). -/
def State.partHas (s : State) (p sets : Nat) : Bool :=
  (List.range 8).any (fun c => s.chipOk c && (List.range 4).any (fun k => s.inPart p c k && !s.clusterDisabled c k) &&
    (chipCaps c &&& sets) == sets)

/-- The other copy of a team has not reached the migrate trap that this one takes (R365, R368). -/
def State.mateBehind (s : State) (t : Team) : Bool :=
  match (s.mateOf t.uid).bind s.team? with
  | some m => m.run != .migrating
  | none => false

/-- The migrate trap (R268, R269): the block is stopped to be moved, or the team traps NO_CAPABLE with nothing moved. A copy of a
redundant pair closes its region there and waits until the other copy has reached the trap too. `extra` are the sets of the trapping
word. -/
def State.migrateTrap (s : State) (t : Team) (extra : Nat) (once : Bool) : State :=
  let g := s.gridOf t
  let need := ((g.map (·.lrec.caps)).getD 1) ||| extra
  if s.partHas (s.tenantOf t) need then
    let s := { s with issue := if s.issue = some t.uid then none else s.issue }
    let s := s.setTeam { (t.closeRegion s.tick) with needHead := true, run := .migrating }
    let both := (s.block? t.block).map (fun b => [t.block] ++ (if b.role = .single then [] else [b.mate]))
    let s := (both.getD []).foldl (fun s b => s.updBlock b (fun x => { x with caps := x.caps ||| extra })) s
    if s.mateBehind t then s else s.moveAway t.block
  else s.takeTrap t { cause := .noCapable, einfo := BitVec.ofNat 32 need, once := once }

/-- The squash in a row, and the check event in a row, that trap instead of restarting the team (R348, R134). -/
def strikeLimit : Nat := 8
def residueLimit : Nat := 3

/-- Squashes a team from a region for a notice or a time-out, counting squashes at one head: check events apart from the others, and neither
count resets the other (R134, R346, R348). `kind` 7 is a time-out, 3 a residue check event. -/
def State.strike (s : State) (u g z stamp kind : Nat) : State :=
  match s.team? u with
  | none => s
  | some t =>
    match t.regions.find? (fun r => r.id == g) with
    | none => s
    | some r =>
      let t1 : Team :=
        if kind = 3 then { t with checkHead := r.head, residues := if t.checkHead = r.head then t.residues + 1 else 1 }
        else { t with strikeHead := r.head, strikes := if t.strikeHead = r.head then t.strikes + 1 else 1 }
      let s := (s.setTeam t1).squashTeam u g
      match s.team? u with
      | none => s
      | some t =>
        let hit := if kind = 3 then residueLimit ≤ t.residues else strikeLimit ≤ t.strikes
        if !hit then s
        else
          let cause : Cause := if kind = 3 then .residueLimit else if kind = 7 then .clearanceTimeout else .strikeLimit
          let info : Word := if kind = 3 then BitVec.ofNat 32 (stamp % 65536 * 65536 + z)
            else BitVec.ofNat 32 (stamp % 65536 * 65536 + kind * 64 + z)
          let s := (s.setTeam { t with strikes := 0, residues := 0, needHead := false }).queueZone z
          match s.team? u with
          | none => s
          | some t => s.takeTrap t { cause := cause, einfo := info }

end Sys2Proof.Machine
end

