-- ==== Sys2Proof/Machine/Issue.lean ====
section
/-! DEFINITION. The one path every word takes: the decode-order checks left after decoding (R49), capability (R20), closing
instructions (R229), heads and region limits (R336–R339), the word's effect, and the switch marker (R27). -/

namespace Sys2Proof.Machine

/-- What a word asks of its region: vector registers, scale registers and tiles it writes, tiles it stages in the partner's
hold buffer, and QSB entries it adds (Table 17.3). -/
structure Demand where
  dests   : List Nat := []
  scales  : List Nat := []
  tiles   : List Nat := []
  quarter : Option Nat := none           -- of its tiles; none means all four
  x2      : List Nat := []
  entries : Nat := 0
deriving DecidableEq, Repr

/-- How a word's effect ends: done with a next pc, a precise trap, a wait that places a head before the word and executes it
again, or a state in which nothing of the team is left to do. -/
inductive WordEnd where
  | done (s : State) (t : Team) (pc : Option DWord)
  | trap (tr : Trap)
  | wait (s : State) (w : RunState)
  | act (s : State)

/-- What the lantern must know of a word: whether it runs there, the destination operand, and every operand it names with the
registers it covers (R212, R238). -/
structure LanternUse where
  runs : Bool
  dst  : Option Opd
  ops  : List (Opd × Nat)
deriving DecidableEq, Repr

/-- A word that never runs on the lantern. -/
def LanternUse.never : LanternUse := { runs := false, dst := none, ops := [] }

/-- Everything the shared path needs of one word. -/
structure Word1 where
  len     : Nat
  hd      : Head
  caps    : Nat := 1
  check   : State → Team → Option Trap := fun _ _ => none
  bounds  : State → Team → Option Trap := fun _ _ => none
  closing : State → Team → Bool := fun _ _ => false
  demand  : State → Team → Demand := fun _ _ => {}
  targets : State → Team → List Nat := fun _ _ => []   -- the addresses that it is about to land on (R50)
  lantern : LanternUse := LanternUse.never
  once    : Bool := false                -- executes once for the team, by R47, its entry or its group
  sample  : Bool := false                -- a memory instruction that samples count (R400)
  effect  : State → Team → WordEnd

/-- The length of a full instruction. -/
def extLen (e : Option Ext) : Nat := if e.isSome then 16 else 8

/-! ### Room (R148, R339, R131) -/

/-- QSB entries that one entry takes (R148). -/
def Entry.weight (e : Entry) : Nat :=
  match e.kind with
  | .spawn _ => 2
  | .cont _ => 2
  | _ => 1

/-- Entries of a region's share. -/
def Region.share (r : Region) : Nat := (r.held.map Entry.weight).foldl (· + ·) 0

/-- Teams of one core. -/
def State.teamsOnCore (s : State) (core : Nat) : List Team := s.teams.filter (fun t => t.loc.pkgCore == core)

/-- Entries of a core's QSB in use. -/
def State.qsbUsed (s : State) (core : Nat) : Nat :=
  ((s.teamsOnCore core).map (fun t =>
    (t.regions.map Region.share).foldl (· + ·) 0 + (t.relq.map Entry.weight).foldl (· + ·) 0)).foldl (· + ·) 0

/-- Register-lanes of a partition's rename store in use (R339); a renamed scale register takes none (DESIGN CHOICE, log 114). -/
def State.renameUsed (s : State) (l : Loc) : Nat :=
  ((s.teams.filter (fun t => t.loc.pkgCore == l.pkgCore && t.loc.part == l.part)).map (fun t =>
    t.tw * (t.regions.map (·.dests.length)).foldl (· + ·) 0)).foldl (· + ·) 0

/-- Shadow tiles of a core's hold buffer in use: its teams' own, and those that leaders stage there (R130). -/
def State.shadowsUsed (s : State) (core : Nat) : Nat :=
  ((s.teams.map (fun t =>
    (if t.loc.pkgCore = core then (t.regions.map (·.tiles.length)).foldl (· + ·) 0 else 0) +
    (if t.loc.pkgCore + 1 = core then (t.regions.map (·.x2.length)).foldl (· + ·) 0 else 0)))).foldl (· + ·) 0

/-- Members of a list that another does not hold. -/
def newOf (have_ want : List Nat) : List Nat := want.eraseDups.filter (fun x => !have_.contains x)

/-- The least of 64, the declared figure and ⌊S / TW⌋ (Table 17.3). -/
def destLimit (t : Team) (ndest : Nat) : Nat := min (min 64 ndest) (renameStore t.loc.chip / max 1 t.tw)

/-- A word's destinations would pass its region's limit of them (Table 17.3). -/
def pastDests (t : Team) (r : Region) (d : Demand) : Bool :=
  destLimit t r.ndest < r.dests.length + r.scales.length + (newOf r.dests d.dests).length + (newOf r.scales d.scales).length

/-- A word's tiles would pass its region's limit of them (Table 17.3). -/
def pastTiles (r : Region) (d : Demand) : Bool :=
  min 8 r.nshadow < r.tiles.length + r.x2.length + (newOf r.tiles d.tiles).length + d.x2.length

/-- A word that would pass a limit of its region (R338). -/
def overLimit (t : Team) (r : Region) (d : Demand) : Bool :=
  pastDests t r d || pastTiles r d || (d.entries != 0 && 256 < r.share + d.entries)

/-- At a head, a declared figure that a word's own demand passes gives way to the architectural one; the other figure stays
(R44, R338). -/
def Team.raiseFor (t : Team) (d : Demand) : Team :=
  t.updOpen (fun r => { r with ndest := if pastDests t r d then 64 else r.ndest, nshadow := if pastTiles r d then 8 else r.nshadow })

/-- Why a word must wait for room: the rename store, the hold buffers, or the QSB. -/
def State.noRoom (s : State) (t : Team) (r : Region) (d : Demand) : Option WaitOn :=
  let regs := (newOf r.dests d.dests).length * t.tw
  if regs != 0 && renameStore t.loc.chip < s.renameUsed t.loc + regs then some (.rename regs)
  else
    let own := (newOf r.tiles d.tiles).length
    let far := d.x2.length
    if own != 0 && 8 < s.shadowsUsed t.loc.pkgCore + own then some (.shadows own)
    else if far != 0 && 8 < s.shadowsUsed (t.loc.pkgCore + 1) + far then some (.shadows far)
    else if d.entries != 0 && 1024 < s.qsbUsed t.loc.pkgCore + d.entries then some (.qsb (64 * d.entries))
    else none

/-- The quarters of tiles that a word writes. -/
def Demand.quarters (d : Demand) : List (Nat × Nat) :=
  d.tiles.flatMap (fun q => match d.quarter with
    | some k => [(q, k)]
    | none => (List.range 4).map (fun k => (q, k)))

/-- Records in the open region what the word wrote. -/
def Team.note (t : Team) (d : Demand) : Team :=
  t.updOpen (fun r => { r with fresh := false, dests := r.dests ++ newOf r.dests d.dests, scales := r.scales ++ newOf r.scales d.scales,
                               tiles := r.tiles ++ newOf r.tiles d.tiles
                               quarters := r.quarters ++ d.quarters.filter (fun x => !r.quarters.contains x) })

/-- What a team writes into its tiles while an `.x2` of its partner stages them meets that `.x2` (R132). -/
def X2.meets (x : X2) (team region : Nat) (qs : List (Nat × Nat)) : X2 :=
  if x.team = team then
    { x with hit := x.hit ++ ((qs.filter (fun q => q.1 == x.tile)).map (fun q => (region, q.2))).filter (fun h => !x.hit.contains h) }
  else x

/-- A word's tile writes meet the staged tiles of other teams. -/
def State.markHits (s : State) (t : Team) (d : Demand) : State :=
  if d.tiles.isEmpty then s
  else { s with teams := s.teams.map (fun u => { u with regions := u.regions.map (fun r =>
    { r with x2 := r.x2.map (fun x => x.meets t.uid t.regionId d.quarters) }) }) }

/-! ### The lantern (R212, R238) -/

/-- A register of a continuation's live set. -/
def ContRec.names (r : ContRec) (o : Opd) (cover : Nat) : Bool :=
  match o with
  | .vec n => r.vFirst ≤ n && n + cover ≤ r.vFirst + r.nv
  | .scal n => r.sFirst ≤ n && n + cover ≤ r.sFirst + r.ns
  | .con _ => true
  | .ind _ _ => false
  | .reserved => true

/-- A word at which a continuation ends early. -/
def endsEarly (r : ContRec) (u : LanternUse) : Bool :=
  !u.runs || (match u.dst with | some o => o.isScal | none => false) || !u.ops.all (fun (o, n) => r.names o n)

/-! ### Finishing a word -/

/-- A function's debug command ends well: BUSY clears and DONE sets (R389). -/
def State.dbgDone (s : State) (f : Nat) : State := (s.setField f 0xC004 31 1 0).setField f 0xC008 0 1 1

/-- A team freezes: its open region closes at an implicit head before its next word (R391). -/
def Team.freeze (t : Team) (tick : Nat) : Team :=
  { t.closeRegion tick with needHead := true, frozen := true, stepMode := .off, waitSlots := 0 }

/-- The end of a single step (R393): the team waits as at a switch marker, then freezes, or takes the STEP trap; a team that the
word parked freezes in that state. -/
def State.stepSettle (s : State) (u : Nat) : State :=
  match s.team? u with
  | none => s
  | some t0 =>
    match t0.stepMode with
    | .ending f tr pc =>
      let s := if t0.run = .ready ∨ t0.run = .switch then (s.setTeam { t0 with run := .switch }).resume u else s
      match s.team? u with
      | none => s
      | some t =>
        match t.run with
        | .switch => s
        | .ready =>
          if tr then (s.takeTrap { t with stepMode := .off } { cause := .step, eaddr := pc }).dbgDone f
          else (s.setTeam (t.freeze s.tick)).dbgDone f
        | _ => if tr then s else (s.setTeam (t.freeze s.tick)).dbgDone f
    | _ => s

/-- After a word of a team that is being stepped: a closing word that waits for clearance, and a word that took no slot, leave
the step under way (R393). -/
def State.afterStep (s : State) (u : Nat) (pc : DWord) : State :=
  match s.team? u with
  | none => s
  | some t =>
    match t.stepMode with
    | .armed f tr =>
      if s.issue = some u || t.run = .wait .clearance then s
      else (s.setTeam { t with stepMode := .ending f tr pc }).stepSettle u
    | _ => s

/-- Counts a memory instruction of a partition, and keeps every 2^PERIOD-th as a sample (R400). -/
def State.noteSample (s : State) (t : Team) (lanes : Nat) : State :=
  match (List.range 9).find? (fun f => s.regField f 0xC020 0 1 == 1 && s.dbgReach f t.loc.cl) with
  | none => s
  | some f =>
    let key := 4 * t.loc.pkgCore + t.loc.part
    let n := (((s.sampleN.find? (fun x => x.1 == key)).map (·.2)).getD 0) + 1
    let s := { s with sampleN := s.sampleN.filter (fun x => x.1 != key) ++ [(key, n)] }
    if n % 2 ^ s.regField f 0xC020 1 5 != 0 then s
    else
      { s with samples := s.samples ++ [{
          func := f, team := t.uid, acc := t.nextId - 1, region := t.regionId, pc := t.arch.pc,
          gridtag := ((s.gridOf t).map (·.lrec.gridtag)).getD 0, issueT := s.tick, core := t.loc.pkgCore,
          slot := 8 * t.loc.part + t.loc.slot, part := t.loc.part, lanes := lanes, remote := false, paged := false, geode := false,
          squashed := false, replays := 0, doneT := none }] }

/-- The team has issued a word: its pc advances, and after a switch marker it parks for the results still out (R27); with none out it
goes on at its next slot. -/
def State.finish (s : State) (t : Team) (w : Word1) (pc : Option DWord) : State :=
  let next := pc.getD (t.arch.pc + BitVec.ofNat 64 w.len)
  let n := if isNop w.hd then 0 else if w.once then 1 else (lanesOf t.tw (t.arch.acting t.tw w.hd)).length
  let s := if w.sample && n != 0 then s.noteSample t n else s
  let t := { t with unread := none, arch := { t.arch with pc := next, issued := t.arch.issued + 1 } }
  let s := { s with issue := none }
  -- a continuation waits for each access before its next word, so that one that faults ends it at its instruction
  if w.hd.sw || (t.kind == .lantern && t.park true == .unfinished) then
      match t.run with
      | .ready => s.setTeam { t with run := if (t.accs.any (fun a => a.lanes.any (·.st.left))) then .memory true else .switch }
      | _ => s.setTeam t
  else s.setTeam t

/-- A word's precise trap: one that a word raises which executes once for the team says so (Table 18.2). -/
def Word1.report (w : Word1) (tr : Trap) : Trap := { tr with once := tr.once || w.once }

/-- A team whose word traps precisely: a switch marker's own deferred report is discarded (R355). -/
def Team.quiet (t : Team) (w : Word1) : Team :=
  if w.hd.sw then { t with deferred := [] }.remember { region := 0, deferred := t.deferred } else t

/-- A word traps precisely: a continuation ends there, a marker's own deferred report is discarded (R354, R355). -/
def State.wordTrap (s : State) (t : Team) (w : Word1) (tr : Trap) : State :=
  match t.kind with
  | .lantern =>
    let t := { t with cont := t.cont.map (fun r => { r with raised := tr.einfo.extractLsb' 0 5 }) }
    s.lanternEnd t (if tr.cause = .arithExc then 4 else 2)
  | _ => s.takeTrap (t.quiet w) (w.report tr)

/-- A word must wait: a head stands before it, and it is executed again (R229, R179). -/
def State.wordWait (s : State) (t : Team) (run : RunState) : State :=
  let s := { s with issue := none }
  let fresh := match t.openRegion with
    | some r => r.fresh
    | none => true
  let t := if fresh || t.role == .trailing then t else (t.lvqPush (lvqHeader 1 t.arch.issued t.arch.pc t.regionId)).implicitHead s.tick
  s.setTeam { t with run := run, waitSlots := 0 }

/-- A word waits for the team's own held writes to be performed. It is a parking point: what its team's older accesses have met would
keep those writes from ever being released (log 10). -/
def State.waitOwn (s : State) (t : Team) : State :=
  match t.park false with
  | .unfinished => { s with issue := none }.setTeam { t with run := .memory false }
  | .trap a c => { s with issue := none }.parkTrap t a c
  | _ => s.wordWait t (.wait .ownAtom)

/-- Team t at the head it needs: a region opens before the word when none is open (R337); with four in flight it waits. -/
def Team.withHead (t : Team) (tick : Nat) : Option Team :=
  if t.needHead || t.openRegion.isNone then
    if t.inFlight < 4 then some (t.openAt tick 64 8) else none
  else some t

/-- Everything a team has held or released is performed (R160, R229). -/
def State.drained (s : State) (t : Team) : Bool :=
  t.regions.isEmpty && t.relq.isEmpty && (s.core t.loc.pkgCore).outbound.all (fun o => o.team != t.uid)

/-- The ordinary word: its head, its limits, its room, its effect. -/
def State.runOpen (s : State) (t : Team) (w : Word1) : State :=
  match t.withHead s.tick with
  | none => s.wordWait t (.wait .regionSlot)
  | some t1 =>
    let d := w.demand s t1
    let r1 := t1.openRegion
    let past := match r1 with
      | some r => overLimit t1 r d
      | none => false
    -- past a limit: a head before the word, unless the word stands at a fresh one, which takes the architectural figure
    let t2 :=
      if !past then t1
      else if (r1.map (·.fresh)).getD false then t1.raiseFor d
      else t1.implicitHead s.tick
    if t2.needHead then s.wordWait t2 (.wait .regionSlot)
    else
      let d := w.demand s t2
      match t2.openRegion.bind (fun r => s.noRoom t2 r d) with
      | some c => s.wordWait t2 (.wait c)
      | none =>
        match w.effect s t2 with
        | .done s t pc => (s.markHits t d).finish (t.note d) w pc
        | .trap tr => s.wordTrap t2 w tr
        | .wait s run => s.wordWait t2 run
        | .act s => s

/-- A closing word: a parking point; then it waits until every older region has cleared and its entries are performed; then
its effect, with no region open (R229). -/
def State.runClosing (s : State) (t : Team) (w : Word1) : State :=
  let s := if t.park false = .unfinished then s else s.parkAcquire t
  match t.park false with
  | .unfinished => { s with issue := none }.setTeam { t with run := .memory false }
  | .trap a c => { s with issue := none }.parkTrap t a c
  | .watch h => { s with issue := none }.takeTrap ({ t with watch := t.watch.drop 1 }.remember { region := 0, watch := [h] }) h.trap
  | _ => match s.failedOp t with
    | some o => (({ s with issue := none }).tellOp o.id).takeTrap (t.remember { region := 0, op := some o.id }) (o.trap t.depth)
    | none =>
    if !s.drained t then
      { s with issue := none }.setTeam { (t.closeRegion s.tick) with run := .wait .clearance, needHead := true }
    else
      let t := { t with needHead := true }
      match w.effect s t with
      | .done s t pc => s.finish t w pc
      | .trap tr => s.wordTrap t w tr
      | .wait s run => { s with issue := none }.setTeam { t with run := run }
      | .act s => s

/-! ### Words read from memory (R295, R50) -/

/-- How the fetch of one 64-bit word ends. -/
inductive FetchWord where
  | word (w : DWord)
  | miss (va : Nat)
  | bad (cause : Cause) (code : Nat)

/-- Fetches one word at the point of coherence; `keep` leaves a remote frame for the fetch proper. -/
def State.fetchWord (s : State) (t : Team) (keep : Bool) (va : Nat) : State × FetchWord :=
  let asid := s.asidOf t
  match s.translate asid va with
  | (s, x) =>
    match x.check .fetch t.arch.inHandler with
    | .ok h base _ _ _ =>
      if s.badData h base then ({ s with log := s.log ++ [.storage base] }, .bad .access 0x09)
      else (s, .word (BitVec.ofNat 64 (bytesNat (s.overlayPending .glob asid 0 va (s.lineBytes asid va h base 8)))))
    | .bad code => (s, .bad .access code)
    | .absent =>
      match s.startMiss asid va 2 (((s.gridOf t).map (·.lrec.gridtag)).getD 0) with
      | (s, true) => (s, .miss va)
      | (s, false) => (s, .bad .pageFault 0x10)
    | .remote d =>
      match s.frame? asid va with
      | some f => (if keep then s else s.dropFrame asid va, .word (BitVec.ofNat 64 (bytesNat (f.take 8))))
      | none =>
        let m := HostMsg.remoteRead d asid va 8
        (s.askLink t.loc.chip asid 8 m, .miss va)

/-- A team parks on memory at a word that could not be fetched, or at a transfer whose target could not; a continuation steps aside (R212, R295). -/
def State.fetchMiss (s : State) (t : Team) (run : RunState) : State :=
  { s with issue := none }.setTeam { t with run := run, waitSlots := 0 }

/-- A transfer needs the kind of the word that it lands on before it has any effect: while that word is on its way, it waits (R50).
A target whose fetch has failed is not waited for: its fault belongs to the target word. -/
def State.awaitTarget (s : State) (t : Team) : List Nat → Option State
  | [] => none
  | va :: rest =>
    if va % 8 = 0 ∧ t.unread ≠ some va then
      match s.fetchWord t true va with
      | (s', .miss _) => some (s'.fetchMiss t (.landing va))
      | _ => s.awaitTarget t rest
    else s.awaitTarget t rest

/-- The words that a leading copy may be ahead of its trailing copy (R366). -/
def lvqLead : Nat := 1024

/-- A copy of a redundant pair before a word: a leading copy too far ahead waits; a trailing copy waits for its leader's word, opens
the head that its leader opened there, and takes the trap that its leader took there (R365, R366, R368). Before a closing word the leader
itself waits for its older regions, which clear only once the trailing copy has closed them too. `none` when the word may run. -/
def State.beforeWord (s : State) (t : Team) : Option State :=
  match t.role, (s.team? t.mate) with
  | .single, _ => none
  | _, none => none
  | .leading, some m =>
    if m.arch.issued + lvqLead ≤ t.arch.issued || lvqSize < lvqUsed t.lvq + 16 then
      some ({ s with issue := none }.setTeam { t with run := .wait .lvqRoom, waitSlots := 0 })
    else none
  | .trailing, some m =>
    if m.lvq.any (atWord 1 t.arch) then
      some ((s.lvqDrop t (atWord 1 t.arch)).setTeam (t.implicitHead s.tick))
    else match m.lvq.find? (atWord 3 t.arch) with
      | some e => some ((({ s with issue := none }).lvqDrop t (atWord 3 t.arch)).trailTrap t e)
      | none =>
        if m.arch.issued ≤ t.arch.issued && !m.lvq.any (atWord 2 t.arch) && !m.exiting &&
            m.run != .wait .clearance && m.run != .migrating then
          some ({ s with issue := none }.setTeam { t with run := .wait .lvqEntry, waitSlots := 0 })
        else none

/-- One word of a team (R49, R84). Under PRED = 0 with PN = 1 every word is the defined no-op once steps 1 to 4 of R49 have passed, MMA and
MMAM with `.any` among them, and REG_BOUND, step 5, is not raised by it (DESIGN CHOICE, log 112). -/
def State.runWord (s : State) (t : Team) (w : Word1) : State :=
  match s.beforeWord t with
  | some s => s
  | none =>
  if t.kind == .lantern && (match t.cont with | some r => endsEarly r w.lantern | none => true) then s.lanternEnd t 2
  else if (w.caps &&& chipCaps t.loc.chip) != w.caps then
    (if t.kind == .lantern then s.lanternEnd t 2 else s.migrateTrap t w.caps w.once)
  else match w.check s t with
    | some tr => s.wordTrap t w tr
    | none =>
      if isNop w.hd then
        match t.withHead s.tick with
        | none => s.wordWait t (.wait .regionSlot)
        | some t => s.finish (t.note {}) w none
      else match w.bounds s t with
        | some tr => s.wordTrap t w tr
        | none => match s.awaitTarget t (w.targets s t) with
          | some s => s
          | none => if w.closing s t then s.runClosing t w else s.runOpen t w

/-- The team that holds the granted issue slot and can use it. -/
def State.issuer (s : State) : Option Team :=
  match s.issue with
  | none => none
  | some u => s.team? u

/-- A word row's meaning: the issuing team executes it. -/
def issueWord (w : Word1) (s : State) : Host.Outcome State Fault Refusal :=
  match s.issuer with
  | none => .fault .noIssuer
  | some t => .next ((s.runWord t w).afterStep t.uid t.arch.pc)

end Sys2Proof.Machine
end

