-- ==== Sys2Proof/Machine/Alu.lean ====
section
/-! DEFINITION. The integer-logic group (04_vector_instructions.md, R78–R94) and the shared form of every instruction that
computes in registers lane by lane. -/

namespace Sys2Proof.Machine

/-- Where a lane-by-lane instruction writes: one register, a pair, or a bit of a mask. -/
inductive DstKind where
  | one | pair | mask
deriving DecidableEq, Repr

/-- A lane-by-lane instruction: its destination, its sources with the type each is read in, whether its result is
long-latency, and its function of the lane, the old destination and the source values. -/
structure AluOp where
  hd   : Head
  ext  : Option Ext
  caps : Nat := 1
  d    : BitVec 11
  kind : DstKind
  srcs : List (Src × Nat)
  long : Bool := false
  f    : Nat → Nat → List Nat → Nat × Flags

/-- Executes once for the team (R47). -/
def AluOp.once (o : AluOp) : Bool := o.kind != .mask && (opd o.d).isScal

/-- One result: lane, value, flags. -/
abbrev LaneResult := Nat × Nat × Flags

/-- The old destination in a lane. -/
def AluOp.old (o : AluOp) (a : Arch) (l : Nat) : Nat :=
  match o.kind with
  | .mask => 0
  | .one => (Src.op (opd o.d)).read a 1 l
  | .pair => (Src.op (opd o.d)).read a 14 l

/-- Every acting lane's result, read before any destination is written (R79). -/
def AluOp.results (o : AluOp) (t : Team) : List LaneResult :=
  let a := t.arch
  let lanes := if o.once then [0] else lanesOf t.tw (a.acting t.tw o.hd)
  lanes.map (fun l => let r := o.f l (o.old a l) (o.srcs.map (fun (x, ty) => x.read a ty l)); (l, r.1, r.2))

/-- The union of the results' flags (R73). -/
def unionFlags (rs : List LaneResult) : Flags := rs.foldl (fun acc r => acc ||| r.2.2) 0

/-- The result of a lane, if it has one. -/
def resultAt (rs : List LaneResult) (l : Nat) : Option Nat := (rs.find? (fun r => r.1 == l)).map (·.2.1)

/-- Writes results to a destination. -/
def Arch.writeResults (a : Arch) (d : BitVec 11) (kind : DstKind) (rs : List LaneResult) : Arch :=
  match kind with
  | .mask => a.kset d.toNat (maskOfList (rs.map (·.1))) (maskOfList ((rs.filter (fun r => r.2.1 != 0)).map (·.1)))
  | k =>
    match opd d with
    | .scal n =>
      match rs with
      | [] => a
      | r :: _ => if k = .pair then a.ssetPair n r.2.1 else a.sset n (BitVec.ofNat 32 r.2.1)
    | o =>
      match o.vecNum a with
      | none => a
      | some n =>
        let a' := a.vset n (fun l => (resultAt rs l).map (fun x => BitVec.ofNat 32 x))
        if k = .pair then a'.vset (n + 1) (fun l => (resultAt rs l).map (fun x => BitVec.ofNat 32 (x >>> 32))) else a'

/-- The registers a destination operand covers. -/
def destRegs (a : Arch) (d : BitVec 11) (kind : DstKind) : List Nat :=
  if kind = .mask then []
  else match (opd d).vecNum a with
    | none => []
    | some n => if kind = .pair then [n, n + 1] else [n]

/-- The precise ARITH_EXC of a short-latency instruction: an enabled flag was raised (R74). -/
def arithTrapOf (a : Arch) (once : Bool) (rs : List LaneResult) : Option Trap :=
  let en := a.enables
  if unionFlags rs &&& en = 0 then none
  else some { cause := .arithExc, eaddr := a.pc, once := once, einfo := (unionFlags rs).zeroExtend 32,
              emask := if once then 0 else maskOfList ((rs.filter (fun r => r.2.2 &&& en != 0)).map (·.1)) }

/-- The long-latency write of results: values captured now, delivered later (R28). -/
def pendingOf (a : Arch) (id region : Nat) (d : BitVec 11) (kind : DstKind) (rs : List LaneResult) : Pending :=
  let two := kind = .pair
  let dest : Dest := match opd d with
    | .scal n => .scal n
    | o => match o.vecNum a with
      | some n => .vec n
      | none => .none
  let base := match dest with
    | .scal n => n
    | .vec n => n
    | _ => 0
  { id := id, pc := a.pc, region := region, dest := dest, x2 := false, lanes := maskOfList (rs.map (·.1)),
    vals := rs.flatMap (fun r => [(base, r.1, BitVec.ofNat 32 r.2.1)] ++
      (if two then [(base + 1, r.1, BitVec.ofNat 32 (r.2.1 >>> 32))] else [])) }

/-- Finishes a lane-by-lane instruction's effect from its results. -/
def aluEffect (s : State) (t : Team) (d : BitVec 11) (kind : DstKind) (once long : Bool) (rs : List LaneResult) : WordEnd :=
  if long then
    let (id, t) := t.freshId
    let en := t.arch.enables
    let fl := unionFlags rs
    if t.kind = .lantern ∧ fl &&& en ≠ 0 then .trap { cause := .arithExc, eaddr := t.arch.pc, einfo := fl.zeroExtend 32 }
    else
    let p := pendingOf t.arch id t.regionId d kind rs
    let t := { t with pend := if rs.isEmpty then t.pend else t.pend ++ [p], arch := t.arch.orFlags fl }
    let t := if fl &&& en = 0 then t
      else { t with deferred := t.deferred ++ [{ id := id, pc := t.arch.pc, region := t.regionId, flags := fl, once := once,
                                                 lanes := if once then 0 else maskOfList ((rs.filter (fun r => r.2.2 &&& en != 0)).map (·.1)) }] }
    .done s t none
  else match arithTrapOf t.arch once rs with
    | some tr => .trap tr
    | none => .done s { t with arch := (t.arch.writeResults d kind rs).orFlags (unionFlags rs) } none

/-- The operand checks of step 3 of R49. -/
def AluOp.check (o : AluOp) : Option Trap :=
  let vec := o.srcs.any (fun x => x.1.isVec)
  firstTrap ((match o.kind with
    | .mask => classCheck 8 o.d
    | .one => dstCheck false vec (opd o.d)
    | .pair => dstCheck true vec (opd o.d)) :: o.srcs.map (fun (x, ty) => x.check ty))

/-- The bounds of step 5 of R49. -/
def AluOp.bounds (o : AluOp) (t : Team) : Option Trap :=
  firstTrap ((match o.kind with
    | .mask => none
    | .one => boundCheck t 1 (opd o.d)
    | .pair => boundCheck t 2 (opd o.d)) :: o.srcs.map (fun (x, ty) => x.bound t (cover ty)))

/-- The operands a source names. -/
def Src.opds (ty : Nat) : Src → List (Opd × Nat)
  | .imm _ => []
  | .op o => [(o, cover ty)]

/-- The word of a lane-by-lane instruction. -/
def AluOp.word (o : AluOp) : Word1 :=
  { len := extLen o.ext, hd := o.hd, caps := o.caps, once := o.once && !o.srcs.any (fun x => x.1.isVec),
    check := fun _ _ => o.check,
    bounds := fun _ t => o.bounds t,
    demand := fun _ t => { dests := destRegs t.arch o.d o.kind },
    lantern := { runs := true, dst := if o.kind = .mask then none else some (opd o.d),
                 ops := (if o.kind = .mask then [] else [(opd o.d, if o.kind = .pair then 2 else 1)]) ++
                   o.srcs.flatMap (fun (x, ty) => x.opds ty) },
    effect := fun s t => aluEffect s t o.d o.kind o.once o.long (o.results t) }

/-- One or two registers by a type. -/
def kindOf (ty : Nat) : DstKind := if wideTy ty then .pair else .one

/-- A function of elements without flags, over one, two or three operands of a type. -/
def elems1 (ty : Nat) (f : Nat → Nat) (a : Nat) : Nat :=
  joinElems (tyWidth ty) ((List.range (tyCount ty)).map (fun j => f (elemAt (tyWidth ty) a j)))
def elems2 (ty : Nat) (f : Nat → Nat → Nat) (a b : Nat) : Nat :=
  joinElems (tyWidth ty) ((List.range (tyCount ty)).map (fun j => f (elemAt (tyWidth ty) a j) (elemAt (tyWidth ty) b j)))
def elems3 (ty : Nat) (f : Nat → Nat → Nat → Nat) (a b d : Nat) : Nat :=
  joinElems (tyWidth ty) ((List.range (tyCount ty)).map (fun j =>
    f (elemAt (tyWidth ty) a j) (elemAt (tyWidth ty) b j) (elemAt (tyWidth ty) d j)))

/-- An integer function of two elements read by signedness, wrapped (R87). -/
def intElem2 (ty : Nat) (f : Int → Int → Int) (a b : Nat) : Nat :=
  let w := tyWidth ty
  let sg := tySigned ty
  elems2 ty (fun x y => wrapTo w (f (intOf sg w x) (intOf sg w y))) a b

def intElem1 (ty : Nat) (f : Int → Int) (a : Nat) : Nat :=
  let w := tyWidth ty
  elems1 ty (fun x => wrapTo w (f (intOf (tySigned ty) w x))) a

/-- The two-operand word of layout A. -/
def bin (w : FullA) (kind : DstKind) (f : Nat → Nat → Nat → Nat) : AluOp :=
  let ty := w.ty.toNat
  { hd := w.hd, ext := w.ext, d := w.d, kind := kind, srcs := [(.op (opd w.a), ty), (srcB w.b w.ext, ty)],
    f := fun _ old xs => (f old (xs.getD 0 0) (xs.getD 1 0), 0) }

/-- The one-operand word of layout A. -/
def un (w : FullA) (kind : DstKind) (f : Nat → Nat) : AluOp :=
  let ty := w.ty.toNat
  { hd := w.hd, ext := w.ext, d := w.d, kind := kind, srcs := [(.op (opd w.a), ty)],
    f := fun _ _ xs => (f (xs.getD 0 0), 0) }

/-! ### Element functions -/

/-- floor(a · b / 2^w) (R87). -/
def mulHigh (ty a b : Nat) : Nat := intElem2 ty (fun x y => x * y / 2 ^ tyWidth ty) a b

/-- A saturating sum (R87). -/
def addSat (ty a b : Nat) : Nat :=
  intElem2 ty (fun x y => min (max (x + y) (intLo (tySigned ty) (tyWidth ty))) (intHi (tySigned ty) (tyWidth ty))) a b

/-- The shift count after the wrap bit (R89). -/
def shiftCount (wrap : Bool) (w c : Nat) : Nat := if wrap then c % w else c

def shlElem (w : Nat) (wrap : Bool) (a c : Nat) : Nat :=
  let c := shiftCount wrap w c
  if w ≤ c then 0 else (a <<< c) % 2 ^ w

def shrElem (w : Nat) (wrap : Bool) (a c : Nat) : Nat :=
  let c := shiftCount wrap w c
  if w ≤ c then 0 else a >>> c

def sarElem (w : Nat) (wrap : Bool) (a c : Nat) : Nat :=
  let c := min (shiftCount wrap w c) w
  wrapTo w (intOf true w a / 2 ^ c)

def rotlElem (w a c : Nat) : Nat :=
  let c := c % w
  (a <<< c) % 2 ^ w + a >>> (w - c)

/-- BFX (R90). -/
def bfx (signed : Bool) (a b : Nat) : Nat :=
  let pos := b % 32
  let n := min (b / 256 % 64) (32 - pos)
  if n = 0 then 0 else wrapTo 32 (intOf signed n ((a >>> pos) % 2 ^ n))

/-- BFI (R90). -/
def bfi (old a b : Nat) : Nat :=
  let pos := b % 32
  let n := min (b / 256 % 64) (32 - pos)
  old - ((old >>> pos) % 2 ^ n) <<< pos + (a % 2 ^ n) <<< pos

def popCount (a : Nat) : Nat := ((List.range 32).filter (fun i => a.testBit i)).length
def leadZeros (a : Nat) : Nat := if a = 0 then 32 else 31 - Nat.log2 a
def bitReverse (a : Nat) : Nat := (List.range 32).foldl (fun acc i => if a.testBit i then acc + 2 ^ (31 - i) else acc) 0

/-- A condition of ICMP (R92). -/
def intCond (cond : Nat) (a b : Int) : Bool :=
  match cond with
  | 0 => a == b | 1 => a != b | 2 => a < b | 3 => a ≤ b | 4 => a > b | _ => a ≥ b

/-- DOT4 (R94). -/
def dot4 (ty old a b : Nat) : Nat :=
  wrapTo 32 ((List.range 4).foldl (fun acc j =>
    acc + intOf (tySigned ty) 8 (elemAt 8 a j) * intOf (tySigned ty) 8 (elemAt 8 b j)) (old : Int))

/-- PERMB (R94). -/
def permb (old a b : Nat) : Nat :=
  joinElems 8 ((List.range 4).map fun j =>
    let sel := (b >>> (4 * j)) % 16
    let i := sel % 8
    let byte := if i < 4 then elemAt 8 a i else elemAt 8 old (i - 4)
    if 8 ≤ sel then (if byte.testBit 7 then 255 else 0) else byte)

/-! ### Meanings -/

/-- NOP (R86). -/
def execNop (w : FullA) (s : State) : Host.Outcome State Fault Refusal :=
  issueWord { len := extLen w.ext, hd := w.hd, lantern := { runs := true, dst := none, ops := [] }, effect := fun s t => .done s t none } s

/-- MOV (R86). -/
def execMov (w : FullA) (s : State) : Host.Outcome State Fault Refusal :=
  issueWord (un w (kindOf w.ty.toNat) id).word s

/-- LDI (R86). -/
def execLdi (w : FullA) (s : State) : Host.Outcome State Fault Refusal :=
  issueWord ({ hd := w.hd, ext := w.ext, d := w.d, kind := kindOf w.ty.toNat, srcs := [(srcB w.b w.ext, w.ty.toNat)],
               f := fun _ _ xs => (xs.getD 0 0, 0) } : AluOp).word s

/-- The bit that chooses for a scalar SEL: the mask's where it is the same in every lane of the team; else the spec names no
lane, and the choice is a free value (log 11). -/
def scalarBit (s : State) (t : Team) (m : Nat) : Bool × State :=
  let k := t.arch.kget m &&& fullMask t.tw
  if k = 0 then (false, s)
  else if k = fullMask t.tw then (true, s)
  else let (w, s) := s.draw; (w.getLsbD 0, s)

/-- SEL (R86): the mask register of SUB[2:0] chooses per lane. -/
def execSel (w : FullA) (s : State) : Host.Outcome State Fault Refusal :=
  let o := bin w (kindOf w.ty.toNat) (fun _ a _ => a)
  let m := w.sub.toNat % 8
  let eff : State → Team → WordEnd := fun s t =>
    let (one, s) := if o.once then scalarBit s t m else (false, s)
    let pick (l : Nat) : Bool := if o.once then one else Mask.has (t.arch.kget m) l
    let o1 : AluOp := { o with f := fun l _ xs => (if pick l then xs.getD 0 0 else xs.getD 1 0, 0) }
    aluEffect s t o1.d o1.kind o1.once false (o1.results t)
  issueWord { o.word with effect := eff } s

def execIadd (w : FullA) (s : State) : Host.Outcome State Fault Refusal :=
  issueWord (bin w .one (fun _ a b => intElem2 w.ty.toNat (· + ·) a b)).word s

def execIsub (w : FullA) (s : State) : Host.Outcome State Fault Refusal :=
  issueWord (bin w .one (fun _ a b => intElem2 w.ty.toNat (· - ·) a b)).word s

def execImul (w : FullA) (s : State) : Host.Outcome State Fault Refusal :=
  issueWord (bin w .one (fun _ a b => intElem2 w.ty.toNat (· * ·) a b)).word s

def execImulh (w : FullA) (s : State) : Host.Outcome State Fault Refusal :=
  issueWord (bin w .one (fun _ a b => mulHigh w.ty.toNat a b)).word s

/-- IMAD (R87): a · b added to the old destination. -/
def execImad (w : FullA) (s : State) : Host.Outcome State Fault Refusal :=
  issueWord (bin w .one (fun old a b => elems3 w.ty.toNat (fun x y z => (x * y + z) % 2 ^ tyWidth w.ty.toNat) a b old)).word s

def execImin (w : FullA) (s : State) : Host.Outcome State Fault Refusal :=
  issueWord (bin w .one (fun _ a b => intElem2 w.ty.toNat (fun x y => if x ≤ y then x else y) a b)).word s

def execImax (w : FullA) (s : State) : Host.Outcome State Fault Refusal :=
  issueWord (bin w .one (fun _ a b => intElem2 w.ty.toNat (fun x y => if x ≥ y then x else y) a b)).word s

def execIabs (w : FullA) (s : State) : Host.Outcome State Fault Refusal :=
  issueWord (un w .one (fun a => intElem1 w.ty.toNat (fun x => (x.natAbs : Int)) a)).word s

def execIneg (w : FullA) (s : State) : Host.Outcome State Fault Refusal :=
  issueWord (un w .one (fun a => intElem1 w.ty.toNat (fun x => -x) a)).word s

def execIadds (w : FullA) (s : State) : Host.Outcome State Fault Refusal :=
  issueWord (bin w .one (fun _ a b => addSat w.ty.toNat a b)).word s

def execAnd (w : FullA) (s : State) : Host.Outcome State Fault Refusal :=
  issueWord (bin w (kindOf w.ty.toNat) (fun _ a b => a &&& b)).word s

def execOr (w : FullA) (s : State) : Host.Outcome State Fault Refusal :=
  issueWord (bin w (kindOf w.ty.toNat) (fun _ a b => a ||| b)).word s

def execXor (w : FullA) (s : State) : Host.Outcome State Fault Refusal :=
  issueWord (bin w (kindOf w.ty.toNat) (fun _ a b => a ^^^ b)).word s

/-- ANDN: the bits of a that b lacks (R88). -/
def execAndn (w : FullA) (s : State) : Host.Outcome State Fault Refusal :=
  issueWord (bin w (kindOf w.ty.toNat) (fun _ a b => a ^^^ (a &&& b))).word s

def execNot (w : FullA) (s : State) : Host.Outcome State Fault Refusal :=
  let n := if wideTy w.ty.toNat then 64 else 32
  issueWord (un w (kindOf w.ty.toNat) (fun a => 2 ^ n - 1 - a)).word s

def execShl (w : FullA) (s : State) : Host.Outcome State Fault Refusal :=
  issueWord (bin w (kindOf w.ty.toNat) (fun _ a b => elems2 w.ty.toNat (shlElem (tyWidth w.ty.toNat) (w.sub.getLsbD 0)) a b)).word s

def execShr (w : FullA) (s : State) : Host.Outcome State Fault Refusal :=
  issueWord (bin w (kindOf w.ty.toNat) (fun _ a b => elems2 w.ty.toNat (shrElem (tyWidth w.ty.toNat) (w.sub.getLsbD 0)) a b)).word s

def execSar (w : FullA) (s : State) : Host.Outcome State Fault Refusal :=
  issueWord (bin w (kindOf w.ty.toNat) (fun _ a b => elems2 w.ty.toNat (sarElem (tyWidth w.ty.toNat) (w.sub.getLsbD 0)) a b)).word s

def execRotl (w : FullA) (s : State) : Host.Outcome State Fault Refusal :=
  issueWord (bin w (kindOf w.ty.toNat) (fun _ a b => elems2 w.ty.toNat (rotlElem (tyWidth w.ty.toNat)) a b)).word s

def execBfx (w : FullA) (s : State) : Host.Outcome State Fault Refusal :=
  issueWord (bin w .one (fun _ a b => bfx (w.ty == 0) a b)).word s

def execBfi (w : FullA) (s : State) : Host.Outcome State Fault Refusal :=
  issueWord (bin w .one (fun old a b => bfi old a b)).word s

def execPopc (w : FullA) (s : State) : Host.Outcome State Fault Refusal := issueWord (un w .one popCount).word s

def execClz (w : FullA) (s : State) : Host.Outcome State Fault Refusal := issueWord (un w .one leadZeros).word s

def execBrev (w : FullA) (s : State) : Host.Outcome State Fault Refusal := issueWord (un w .one bitReverse).word s

/-- ICMP (R92): SUB[3] chooses a mask or a vector of all ones and zeros. A scalar D of the vector form
traps OPERAND_RESERVED (DESIGN CHOICE, log 111). -/
def execIcmp (w : FullA) (s : State) : Host.Outcome State Fault Refusal :=
  let ty := w.ty.toNat
  let cond := w.sub.toNat % 8
  let word :=
    if w.sub.getLsbD 3 then
      (bin w .one (fun _ a b => intElem2 ty (fun x y => if intCond cond x y then -1 else 0) a b)).word
    else
      (bin w .mask (fun _ a b => if intCond cond (intOf (tySigned ty) 32 a) (intOf (tySigned ty) 32 b) then 1 else 0)).word
  let chk : State → Team → Option Trap := fun s t =>
    firstTrap [trapIf (w.sub.getLsbD 3 && !(opd w.d).isVec) reservedTrap, word.check s t]
  issueWord { word with check := chk } s

/-- ICMP64 (R92). -/
def execIcmp64 (w : FullA) (s : State) : Host.Outcome State Fault Refusal :=
  let sg := w.ty == 13
  issueWord (bin w .mask (fun _ a b => if intCond (w.sub.toNat % 8) (intOf sg 64 a) (intOf sg 64 b) then 1 else 0)).word s

/-- LEA (R93): a 64-bit base plus a scaled, extended 32-bit index. -/
def execLea (w : FullA) (s : State) : Host.Outcome State Fault Refusal :=
  issueWord ({ hd := w.hd, ext := w.ext, d := w.d, kind := .pair, srcs := [(.op (opd w.a), 13), (srcB w.b w.ext, w.ty.toNat)],
               f := fun _ _ xs =>
                 (wrapTo 64 ((xs.getD 0 0 : Int) + intOf (w.ty == 0) 32 (xs.getD 1 0) * 2 ^ (w.sub.toNat % 4)), 0) } : AluOp).word s

def execIadd64 (w : FullA) (s : State) : Host.Outcome State Fault Refusal :=
  issueWord (bin w .pair (fun _ a b => wrapTo 64 ((a : Int) + b))).word s

def execIsub64 (w : FullA) (s : State) : Host.Outcome State Fault Refusal :=
  issueWord (bin w .pair (fun _ a b => wrapTo 64 ((a : Int) - b))).word s

def execDot4 (w : FullA) (s : State) : Host.Outcome State Fault Refusal :=
  issueWord (bin w .one (fun old a b => dot4 w.ty.toNat old a b)).word s

def execPermb (w : FullA) (s : State) : Host.Outcome State Fault Refusal :=
  issueWord (bin w .one (fun old a b => permb old a b)).word s

end Sys2Proof.Machine
end

