-- ==== Sys2Proof/Machine/Fetch.lean ====
section
/-! DEFINITION. Fetch: the words at a team's pc, translated as a load is and needing X (15_translation_and_host.md, R295), decoded,
or the trap or wait that they end in (02_encoding.md, R38, R49). -/

namespace Sys2Proof.Machine

/-- A word has an extension word after it: a full instruction with X = 1 (R36). -/
def wantsExt (w : DWord) : Bool := fld w 62 2 == 0 && bitAt w 14

/-- What a team's fetch gives: an instruction to execute, or the state in which the word has no effect. -/
inductive Fetched where
  | instr (i : Instr) (s : State)
  | ended (s : State)

/-- A word that traps at fetch or at decode step 1: precise at its first word; a continuation ends there (R238, R295). -/
def State.fetchTrap (s : State) (t : Team) (cause : Cause) (code : Nat) : State :=
  match t.kind with
  | .lantern => s.lanternEnd t 2
  | _ =>
    if cause = .illegalOp then s.takeTrap t illegalTrap
    else s.takeTrap t { cause := cause, eaddr := t.arch.pc, einfo := BitVec.ofNat 32 (code * 2 ^ 24) }

/-- The instruction of two words at a team's pc. -/
def State.decodeAt (s : State) (t : Team) (w : DWord) (next : Option DWord) : Fetched :=
  match decodeWords w next with
  | .ok (i, _) => .instr i s
  | .error _ => .ended (s.fetchTrap t .illegalOp 0)

/-- Fetches and decodes the word at a team's pc (R26, R295). A word with X = 1 has its next word fetched before either is checked, so a
fault of that fetch stands before an illegal first word (DESIGN CHOICE, log 113). -/
def State.fetchInstr (s : State) (t : Team) : Fetched :=
  let pc := t.arch.pc.toNat
  match s.fetchWord t false pc with
  | (s, .miss va) => .ended (s.fetchMiss t (.fetch va))
  | (s, .bad c code) => .ended (s.fetchTrap t c code)
  | (s, .word w) =>
    if wantsExt w then
      match s.fetchWord t false ((pc + 8) % 2 ^ 64) with
      | (s, .miss va) => .ended (s.fetchMiss t (.fetch va))
      | (s, .bad c code) => .ended (s.fetchTrap t c code)
      | (s, .word n) => s.decodeAt t w (some n)
    else s.decodeAt t w none

/-- A landing of a branch, call, return or RTE: BAD_TARGET for a misaligned address or a word that reads as kind 10; a target that
cannot be read is left to the target word (R50). The word waited for a target that was on its way (`State.awaitTarget`). -/
def State.landing (s : State) (t : Team) (target : Nat) : State × Option Trap :=
  let bad : Trap := { cause := .badTarget, eaddr := BitVec.ofNat 64 target }
  if target % 8 != 0 then (s, some bad)
  else match s.fetchWord t true target with
    | (s, .word w) => (s, trapIf (fld w 62 2 == 2) bad)
    | _ => (s, none)

end Sys2Proof.Machine
end

