-- ==== Sys2Proof/Machine/Float.lean ====
section
/-! DEFINITION. The float group (04_vector_instructions.md, R95–R100). -/

namespace Sys2Proof.Machine

/-- The capability sets of a form: JB, and JF for a 64-bit float (Table 1.9). -/
def floatCaps (ty : Nat) : Nat := if ty = 9 then 3 else 1

/-- A function of float elements with flags, over one, two or three register values of a type. -/
def floats1 (ty : Nat) (g : Fmt → Nat → Nat × Flags) (a : Nat) : Nat × Flags :=
  match tyFmt ty with
  | none => (0, 0)
  | some f =>
    let rs := (List.range (tyCount ty)).map (fun j => g f (elemAt f.width a j))
    (joinElems f.width (rs.map (·.1)), rs.foldl (fun acc r => acc ||| r.2) 0)

def floats2 (ty : Nat) (g : Fmt → Nat → Nat → Nat × Flags) (a b : Nat) : Nat × Flags :=
  match tyFmt ty with
  | none => (0, 0)
  | some f =>
    let rs := (List.range (tyCount ty)).map (fun j => g f (elemAt f.width a j) (elemAt f.width b j))
    (joinElems f.width (rs.map (·.1)), rs.foldl (fun acc r => acc ||| r.2) 0)

def floats3 (ty : Nat) (g : Fmt → Nat → Nat → Nat → Nat × Flags) (a b c : Nat) : Nat × Flags :=
  match tyFmt ty with
  | none => (0, 0)
  | some f =>
    let rs := (List.range (tyCount ty)).map (fun j => g f (elemAt f.width a j) (elemAt f.width b j) (elemAt f.width c j))
    (joinElems f.width (rs.map (·.1)), rs.foldl (fun acc r => acc ||| r.2) 0)

/-- The A and B operands after their modifiers (R81). -/
def modA (w : FullA) (x : Nat) : Nat := modify w.ty.toNat w.na w.aa x
def modB (w : FullA) (x : Nat) : Nat := modify w.ty.toNat w.nb w.ab x

/-- The two-operand float word. -/
def fbin (w : FullA) (g : Fmt → Nat → Nat → Nat × Flags) : AluOp :=
  let ty := w.ty.toNat
  { hd := w.hd, ext := w.ext, caps := floatCaps ty, d := w.d, kind := kindOf ty,
    srcs := [(.op (opd w.a), ty), (srcB w.b w.ext, ty)],
    f := fun _ _ xs => floats2 ty g (modA w (xs.getD 0 0)) (modB w (xs.getD 1 0)) }

/-- The one-operand float word; `long` marks the transcendentals (R28, R99). -/
def fun1 (w : FullA) (long : Bool) (g : Fmt → Nat → Nat × Flags) : AluOp :=
  let ty := w.ty.toNat
  { hd := w.hd, ext := w.ext, caps := floatCaps ty, d := w.d, kind := kindOf ty, srcs := [(.op (opd w.a), ty)], long := long,
    f := fun _ _ xs => floats1 ty g (modA w (xs.getD 0 0)) }

/-- FADD (R95). -/
def execFadd (w : FullA) (s : State) : Host.Outcome State Fault Refusal :=
  issueWord (fbin w (fun f a b => fAdd f w.rm.toNat a b)).word s

/-- FSUB (R95). -/
def execFsub (w : FullA) (s : State) : Host.Outcome State Fault Refusal :=
  issueWord (fbin w (fun f a b => fSub f w.rm.toNat a b)).word s

/-- FMUL (R95). -/
def execFmul (w : FullA) (s : State) : Host.Outcome State Fault Refusal :=
  issueWord (fbin w (fun f a b => fMul f w.rm.toNat a b)).word s

/-- FFMA (R95): a · b plus the old destination. -/
def execFfma (w : FullA) (s : State) : Host.Outcome State Fault Refusal :=
  let ty := w.ty.toNat
  issueWord ({ hd := w.hd, ext := w.ext, caps := floatCaps ty, d := w.d, kind := kindOf ty,
               srcs := [(.op (opd w.a), ty), (.op (opd w.b), ty)],
               f := fun _ old xs => floats3 ty (fun f a b c => fFma f w.rm.toNat a b c)
                 (modA w (xs.getD 0 0)) (modB w (xs.getD 1 0)) old } : AluOp).word s

/-- FFMAX (R95): a · b + c with c the extension word's C operand, under NC and AC. -/
def execFfmax (w : FullA) (s : State) : Host.Outcome State Fault Refusal :=
  let ty := w.ty.toNat
  let e := w.ext.getD { xc := 0, c := 0, imm := 0 }
  issueWord ({ hd := w.hd, ext := w.ext, caps := floatCaps ty, d := w.d, kind := kindOf ty,
               srcs := [(.op (opd w.a), ty), (.op (opd w.b), ty), (.op (opd e.c), ty)],
               f := fun _ _ xs => floats3 ty (fun f a b c => fFma f w.rm.toNat a b c)
                 (modA w (xs.getD 0 0)) (modB w (xs.getD 1 0))
                 (modify ty (e.xc.getLsbD 0) (e.xc.getLsbD 1) (xs.getD 2 0)) } : AluOp).word s

/-- FMIN (R96). -/
def execFmin (w : FullA) (s : State) : Host.Outcome State Fault Refusal :=
  issueWord (fbin w (fun f a b => fMinMax f false a b)).word s

/-- FMAX (R96). -/
def execFmax (w : FullA) (s : State) : Host.Outcome State Fault Refusal :=
  issueWord (fbin w (fun f a b => fMinMax f true a b)).word s

/-- FCMP (R97): SUB[3] chooses a mask or a vector of all ones and zeros. A scalar D of the vector form traps OPERAND_RESERVED (DESIGN
CHOICE, log 111). -/
def execFcmp (w : FullA) (s : State) : Host.Outcome State Fault Refusal :=
  let ty := w.ty.toNat
  let cond := w.sub.toNat % 8
  let vec := w.sub.getLsbD 3
  let o := fbin w (fun f a b => let r := fCmp f cond a b; (if r.1 then 2 ^ f.width - 1 else 0, r.2))
  let word := ({ o with kind := if vec then kindOf ty else .mask } : AluOp).word
  let chk : State → Team → Option Trap := fun s t => firstTrap [trapIf (vec && !(opd w.d).isVec) reservedTrap, word.check s t]
  issueWord { word with check := chk } s

/-- FCLASS (R98): the class word ANDed with b, which is read as bits. A scalar D of the vector form traps OPERAND_RESERVED (DESIGN CHOICE,
log 111). -/
def execFclass (w : FullA) (s : State) : Host.Outcome State Fault Refusal :=
  let ty := w.ty.toNat
  let vec := w.sub.getLsbD 3
  let packed := ty == 7 || ty == 8
  let b := srcB w.b w.ext
  let o : AluOp :=
    { hd := w.hd, ext := w.ext, caps := floatCaps ty, d := w.d, kind := if vec then .one else .mask,
      srcs := [(.op (opd w.a), ty), (b, if packed then 3 else 1)],
      f := fun _ _ xs => ((floats1 ty (fun f a => (fClass f a, 0)) (xs.getD 0 0)).1 &&& xs.getD 1 0, 0) }
  let fp32 : Bool := match b with
    | .op (.con c) => 48 ≤ c
    | _ => false
  let word := o.word
  let chk : State → Team → Option Trap := fun s t =>
    firstTrap [trapIf (vec && !(opd w.d).isVec) reservedTrap, trapIf fp32 reservedTrap, word.check s t]
  issueWord { word with check := chk } s

/-- FRCP (R99). -/
def execFrcp (w : FullA) (s : State) : Host.Outcome State Fault Refusal :=
  issueWord (fun1 w true (fun f a => fRcp f w.rm.toNat a)).word s

/-- FRSQ (R99). -/
def execFrsq (w : FullA) (s : State) : Host.Outcome State Fault Refusal := issueWord (fun1 w true fRsq).word s

/-- FSQRT (R99). -/
def execFsqrt (w : FullA) (s : State) : Host.Outcome State Fault Refusal :=
  issueWord (fun1 w true (fun f a => fSqrt f w.rm.toNat a)).word s

/-- FEX2 (R99). -/
def execFex2 (w : FullA) (s : State) : Host.Outcome State Fault Refusal := issueWord (fun1 w true fEx2).word s

/-- FLG2 (R99). -/
def execFlg2 (w : FullA) (s : State) : Host.Outcome State Fault Refusal := issueWord (fun1 w true fLg2).word s

/-- FSIN (R99). -/
def execFsin (w : FullA) (s : State) : Host.Outcome State Fault Refusal := issueWord (fun1 w true fSin).word s

/-- FCOS (R99). -/
def execFcos (w : FullA) (s : State) : Host.Outcome State Fault Refusal := issueWord (fun1 w true fCos).word s

/-- FTANH (R99). -/
def execFtanh (w : FullA) (s : State) : Host.Outcome State Fault Refusal := issueWord (fun1 w true fTanh).word s

/-- FRND (R100): to an integral value; SUB[0] asks for NX. -/
def execFrnd (w : FullA) (s : State) : Host.Outcome State Fault Refusal :=
  issueWord (fun1 w false (fun f a => fRnd f w.rm.toNat (w.sub.getLsbD 0) a)).word s

end Sys2Proof.Machine
end

