-- ==== Sys2Proof/Machine/Mem.lean ====
section
/-! DEFINITION. Issue of the memory instructions (06_memory_instructions.md): operand checks, addresses, the traps at issue, the
gates that park a team, captured loads, and held stores, fences and SINV. -/

namespace Sys2Proof.Machine

/-! ### Operands -/

/-- The space of a SPACE field (Table 6.1). -/
def spaceOf (b : Nat) : Space :=
  match b with
  | 0 => .glob
  | 1 => .pocket
  | 2 => .chamber
  | _ => .gallery

/-- The scope that an access acts with: no wider than its space's widest (R140). -/
def scopeIn (sp : Space) (scope : Nat) : Nat :=
  match sp with
  | .glob => scope
  | .pocket => min scope 1
  | .chamber => min scope 2
  | .gallery => min scope 3

/-- The memory operand of an instruction: its space, base, offset and immediate. -/
structure MemOpd where
  sp  : Space
  a   : BitVec 11
  b   : BitVec 11
  imm : Int
deriving DecidableEq, Repr

/-- IMM32 read signed, 0 without an extension word. -/
def immOf (e : Option Ext) : Int := match e with
  | some x => x.imm.toInt
  | none => 0

def memOf (w : FullM) : MemOpd := { sp := spaceOf w.space.toNat, a := w.a, b := w.b, imm := immOf w.ext }

/-- The base field's check: an even pair in global, scalar or vector; a 32-bit operand in scratch (Table 6.5). -/
def MemOpd.check (m : MemOpd) : Option Trap :=
  firstTrap [if m.sp = .glob then dstCheck true false (opd m.a) else srcCheck 1 (opd m.a), srcCheck 1 (opd m.b)]

def MemOpd.bound (m : MemOpd) (t : Team) : Option Trap :=
  firstTrap [boundCheck t (if m.sp = .glob then 2 else 1) (opd m.a), boundCheck t 1 (opd m.b)]

/-- The effective address in a lane (R138). -/
def MemOpd.addr (m : MemOpd) (a : Arch) (l : Nat) : Nat :=
  if m.sp = .glob then
    wrapTo 64 (((Src.op (opd m.a)).read a 14 l : Int) + intOf true 32 ((Src.op (opd m.b)).read a 1 l) + m.imm)
  else wrapTo 32 (((Src.op (opd m.a)).read a 1 l : Int) + ((Src.op (opd m.b)).read a 1 l : Int) + m.imm)

def MemOpd.isVec (m : MemOpd) : Bool := (opd m.a).isVec || (opd m.b).isVec

/-- A run of registers by WIDTH: an aligned first register, a scalar destination only without vector sources (R155). -/
def runCheck (n : Nat) (o : Opd) (vecSource : Bool) : Option Trap :=
  match o with
  | .reserved => some reservedTrap
  | .con _ => some reservedTrap
  | .vec k => trapIf (!alignOk k n) reservedTrap
  | .scal k => trapIf (vecSource || !alignOk k n) reservedTrap
  | .ind _ _ => none

/-- The destination of a run. -/
def destOf (a : Arch) (d : BitVec 11) : Dest :=
  match opd d with
  | .scal n => .scal n
  | o => match o.vecNum a with
    | some n => .vec n
    | none => .none

/-- The registers a run destination covers. -/
def runDests (a : Arch) (d : BitVec 11) (n : Nat) : List Nat :=
  match (opd d).vecNum a with
  | some k => (List.range n).map (k + ·)
  | none => []

/-- The bytes that a data run supplies in a lane, w of them. -/
def runBytes (a : Arch) (d : BitVec 11) (w l : Nat) : List Byte :=
  let word (i : Nat) : Word := match opd d with
    | .scal k => a.sget (k + i)
    | o => match o.vecNum a with
      | some k => a.vget (k + i) l
      | none => 0
  ((List.range ((w + 3) / 4)).flatMap (fun i => natBytes 4 (word i).toNat)).take w

/-! ### Traps at issue (R151) -/

/-- A lane and the address it forms. -/
abbrev LaneAddr := Nat × Nat

/-- A precise trap over the lanes that fail a check. -/
def lanesTrap (cause : Cause) (once : Bool) (bad : List LaneAddr) : Option Trap :=
  match bad with
  | [] => none
  | b :: _ => some { cause := cause, eaddr := BitVec.ofNat 64 b.2, emask := if once then 0 else maskOfList (bad.map (·.1)), once := once }

/-- ALIGN, then SCRATCH_RANGE, over accesses of n bytes (R138, R151). -/
def accessTrap (sp : Space) (size align n : Nat) (once : Bool) (ls : List LaneAddr) : Option Trap :=
  firstTrap [lanesTrap .align once (ls.filter (fun x => x.2 % align != 0)),
             if sp = .glob then none else lanesTrap .scratchRange once (ls.filter (fun x => size < x.2 + n))]

/-! ### Gates: what parks a team at issue -/

/-- Writes of a team that are still to be performed at a scope (R199): at `.unit` and narrower, those that have not left the QSB. -/
def State.writesOut (s : State) (t : Team) (scope : Nat) : Bool :=
  let isWrite (e : Entry) : Bool := match e.kind with
    | .fence _ _ _ => false
    | .engine _ => false
    | .spawn _ => false
    | .cont _ => false
    | .launch _ => false
    | .trace _ _ _ => false
    | _ => true
  ((if 2 ≤ scope then s.ownEntries t else t.relq ++ t.regions.flatMap (·.held))).any isWrite

/-- A device-half address of another device (R139). -/
def State.isRemote (s : State) (va : Nat) : Bool := deviceHalf va && deviceOf va != s.devNum

/-- An older acquire of the team has not returned: no younger access of it is performed (R156, R158, R163). -/
def State.acquiring (s : State) (t : Team) : Bool :=
  t.accs.any Access.holds || s.atoms.any (fun x => x.team == t.uid && x.acq)

/-- A load that is performed at its issue must wait there: for an older acquire, or for an older load of its bytes (R156, R157, R197). -/
def State.loadMustWait (s : State) (t : Team) (sp : Space) (ls : List LaneAddr) (n : Nat) : Bool :=
  s.acquiring t || (t.accs.any (fun a => a.kind.returns && a.lanes.any (·.st.unfinished)) && ls.any (fun x => t.olderOn t.nextId sp x.2 n))

/-- An instruction that reads at its issue waits for older loads there, its region still open. -/
def State.waitOlder (s : State) (t : Team) : WordEnd := .act ({ s with issue := none }.setTeam { t with run := .wait .older, waitSlots := 0 })

/-- Own held writes that `stops` names (log 10), then the token bucket of the die and tenant (R139). -/
def State.gateRest (s : State) (t : Team) (sp : Space) (ls : List LaneAddr) (n : Nat) (stops : EntryKind → Bool) : Option WaitOn :=
  if (s.ownEntries t).any (fun e => stops e.kind && ls.any (fun x => e.kind.under sp x.2 n)) then some .ownAtom
  else if sp = .glob && ls.any (fun x => s.isRemote x.2) && (s.die t.loc.chip).buckets.getD (s.tenantOf t) 0 ≤ 0 then some .bucket
  else none

/-- Why a memory access of a team must wait at issue, if it must; an SC fence's wait comes first (R199). -/
def State.gate (s : State) (t : Team) (sp : Space) (ls : List LaneAddr) (n : Nat) (stops : EntryKind → Bool) : Option WaitOn :=
  if t.role == .trailing then none
  else match t.arch.scFence with
  | some sc => if s.writesOut t sc then some (.scFence sc) else s.gateRest t sp ls n stops
  | none => s.gateRest t sp ls n stops

/-- What an acquire does to caches when it is performed (R144, R146): at `.clus` and wider the core's read cache loses the address
space; at `.sys` every slice loses its clean lines too, of either half, so that another name of the same bytes is read afresh. -/
def State.acquireAt (s : State) (t : Team) (scope : Nat) : State :=
  let asid := s.asidOf t
  let s := if 2 ≤ scope then s.invalidateRead t.loc.pkgCore asid else s
  if scope = 5 then { s with slices := s.slices.filter (fun l => !(l.asid == asid && !l.dirty)) } else s

/-- The gate is passed: the older writes that an SC fence waits for are performed, so it takes its place in the order of R198 here, with its
acquire (R199). A remote request takes its tokens when its device link takes it (R310). -/
def State.passGate (s : State) (t : Team) : State × Team :=
  let s := match t.arch.scFence with
    | some sc => if t.role == .trailing then s else s.acquireAt t sc
    | none => s
  let t := { t with arch := { t.arch with scFence := none } }
  (s, t)

/-! ### Valid bits (R143) -/

/-- The kernel's mode for words never written: 1 trap, 2 log, 0 neither. -/
def State.uninitMode (s : State) (t : Team) : Nat :=
  let m := ((s.gridOf t).map (·.lrec.mode)).getD 0
  if m.getLsbD 1 then 1 else if m.getLsbD 2 then 2 else 0

/-- Counts the words never written that lane l of the instruction after `word` words read in %uninitcnt, and records the first in %uninitaddr, which names the
word of the lowest lane of the first instruction, in whatever order the lanes answer (R143, Tables 6.2, 6.3). -/
def Arch.noteUninit (a : Arch) (word lane : Nat) (bad : List (Space × Nat)) : Arch :=
  match bad with
  | [] => a
  | (sp, off) :: _ =>
    let first := a.uninitFirst word lane
    { a with
      uninitaddr := if first then BitVec.ofNat 32 (spaceCode sp * 2 ^ 30 + off / 4 * 4 % 2 ^ 25) else a.uninitaddr
      uninitBy := if first then some (word, lane) else a.uninitBy
      uninitcnt := BitVec.ofNat 32 (min (a.uninitcnt.toNat + bad.length) 0xFFFFFFFF) }

/-! ### Captured accesses -/

/-- Adds an access with its lanes still to be performed. -/
def Team.addAccess (t : Team) (id : Nat) (once : Bool) (kind : AccKind) (ls : List LaneAddr) : Team :=
  { t with accs := t.accs ++ [{ id := id, word := t.arch.issued, pc := t.arch.pc, region := t.regionId, once := once, kind := kind, susp := false, lost := [],
                                lanes := ls.map (fun x => { lane := x.1, addr := x.2, st := .waiting }) }] }

/-- The lanes an instruction acts on: lane 0 when it executes once for the team. -/
def memLanes (t : Team) (hd : Head) (once : Bool) : List Nat := if once then [0] else lanesOf t.tw (t.arch.acting t.tw hd)

/-- A captured load: the checks at issue, the gate, and an access whose lanes are performed later (R152, R156). -/
def loadEffect (m : MemOpd) (hd : Head) (once : Bool) (align n : Nat) (stops : EntryKind → Bool) (kind : Arch → AccKind) (s : State) (t : Team) : WordEnd :=
  let ls : List LaneAddr := (memLanes t hd once).map (fun l => (l, m.addr t.arch l))
  match accessTrap m.sp (s.scratchOf t m.sp).size align n once ls with
  | some tr => .trap tr
  | none =>
    if ls.isEmpty then .done s t none
    else match s.gate t m.sp ls n stops with
      | some c => .wait s (.wait c)
      | none =>
        match s.passGate t with
        | (s, t) =>
          let (id, t) := t.freshId
          .done s (t.addAccess id once (kind t.arch) ls) none

/-- A memory instruction on the lantern: it runs with every operand in the live set, and writes no scalar (R212, R238). -/
def MemOpd.lantern (m : MemOpd) (dst : Option (BitVec 11)) (more : List (Opd × Nat)) : LanternUse :=
  { runs := true, dst := dst.map opd, ops := (opd m.a, if m.sp = .glob then 2 else 1) :: (opd m.b, 1) :: more }

/-- The word of LD, LDA and LDN. -/
def loadWord (w : FullM) (raw : Bool) : Word1 :=
  let m := memOf w
  let n := widthBytes w.width.toNat
  let regs := widthRegs w.width.toNat
  let once := !(opd w.d).isVec && !m.isVec
  { len := extLen w.ext, hd := w.hd, once := once, sample := true,
    check := fun _ _ => firstTrap [runCheck regs (opd w.d) m.isVec, m.check],
    bounds := fun _ t => firstTrap [boundCheck t regs (opd w.d), m.bound t],
    demand := fun _ t => { dests := runDests t.arch w.d regs },
    lantern := if raw then LanternUse.never else m.lantern (some w.d) [(opd w.d, regs)],
    effect := loadEffect m w.hd once n n (if raw then EntryKind.isOpaque else EntryKind.stopsLoad) (fun a =>
      .load m.sp w.width.toNat (w.sub.getLsbD 0) (w.ord == 1) w.rp (scopeIn m.sp w.scope.toNat) (destOf a w.d) raw) }

/-- LD (R156). -/
def execLd (w : FullM) (s : State) : Host.Outcome State Fault Refusal := issueWord (loadWord w false) s

/-- LDA (R156): the acquire bit is ORD 1. -/
def execLda (w : FullM) (s : State) : Host.Outcome State Fault Refusal := issueWord (loadWord w false) s

/-- LDN (R267). -/
def execLdn (w : FullM) (s : State) : Host.Outcome State Fault Refusal := issueWord (loadWord w true) s

/-- GQRY (R266): one cell a lane; the result is 32 bits. -/
def execGqry (w : FullM) (s : State) : Host.Outcome State Fault Refusal :=
  let m := memOf w
  let once := !(opd w.d).isVec && !m.isVec
  issueWord
    { len := extLen w.ext, hd := w.hd, once := once, sample := true,
      check := fun _ _ => firstTrap [runCheck 1 (opd w.d) m.isVec, m.check],
      bounds := fun _ t => firstTrap [boundCheck t 1 (opd w.d), m.bound t],
      demand := fun _ t => { dests := runDests t.arch w.d 1 },
      effect := loadEffect m w.hd once 1 1 EntryKind.stopsQuery (fun a => .gqry (destOf a w.d)) } s

/-! ### Held stores -/

/-- The parts of a store, a line at a time in the order the lines are first met. -/
def linesOf (ps : List (Nat × StorePart)) : List (Nat × List StorePart) :=
  (ps.map (·.1)).eraseDups.map (fun l => (l, (ps.filter (fun p => p.1 == l)).map (·.2)))

/-- An entry that is a plain store. -/
def Entry.isSt (e : Entry) : Bool := match e.kind with
  | .store _ _ _ rel _ => !rel
  | _ => false

/-- A plain store entry of a line of a space. -/
def Entry.isStAt (e : Entry) (sp : Space) (line : Nat) : Bool := match e.kind with
  | .store sp' l _ rel _ => sp' == sp && l == line && !rel
  | _ => false

/-- The entry of a region that a store to a line merges into: the youngest for that line, with only plain stores after it (R148). -/
def mergeTarget (held : List Entry) (sp : Space) (line : Nat) : Option Nat :=
  match (held.reverse.takeWhile Entry.isSt).find? (fun e => e.isStAt sp line) with
  | some e => some e.seq
  | none => none

/-- A write's probe: needed in the global space (R153); a trailing copy sends none (R365). -/
def Team.probeOf (t : Team) (sp : Space) : Probe := if sp = .glob && t.role != .trailing then .waiting else .none

/-- Adds parts to an entry; a global line is probed anew for them (R153), and what it was probed under before stands until the entry has been
performed. -/
def Entry.addParts (e : Entry) (ps : List StorePart) (scope : Nat) : Entry :=
  match e.kind with
  | .store sp line parts rel sc =>
    { e with kind := .store sp line (parts ++ ps) rel (max sc scope)
             lanes := e.lanes ||| maskOfList (ps.map (·.lane)) }
  | _ => e

/-- Holds one entry in the open region. -/
def Team.hold (t : Team) (kind : EntryKind) (acc : Nat) (probe : Probe) (lanes : Mask) (tick : Nat) : Team :=
  let (seq, t) := t.freshId
  t.updOpen (fun r => { r with held := r.held ++ [{ seq := seq, pc := t.arch.pc, acc := acc, probe := probe, issueT := tick,
                                                    lanes := lanes, kind := kind }] })

/-- Holds the parts of a store line by line (R148). -/
def Team.holdStore (t : Team) (sp : Space) (rel : Bool) (scope acc tick : Nat) (ps : List (Nat × StorePart)) : Team :=
  let probe : Probe := t.probeOf sp
  (linesOf ps).foldl (fun t (line, parts) =>
    match if rel then none else t.openRegion.bind (fun r => mergeTarget r.held sp line) with
    | some q => t.updOpen (fun r => { r with held := r.held.map (fun e => if e.seq = q then e.addParts parts scope else e) })
    | none => t.hold (.store sp line parts rel scope) acc probe
        (maskOfList (parts.map (·.lane))) tick) t

/-- Entries that a store of these lines takes. -/
def newEntries (t : Team) (sp : Space) (rel : Bool) (lines : List Nat) : Nat :=
  (lines.eraseDups.filter (fun l => rel || ((t.openRegion.bind (fun r => mergeTarget r.held sp l)).isNone))).length

/-- The word of ST and STL. -/
def storeWord (w : FullM) (rel : Bool) : Word1 :=
  let m := memOf w
  let n := widthBytes w.width.toNat
  let regs := widthRegs w.width.toNat
  let once := !(opd w.d).isVec && !m.isVec
  let addrs (t : Team) : List LaneAddr := (memLanes t w.hd once).map (fun l => (l, m.addr t.arch l))
  { len := extLen w.ext, hd := w.hd, once := once, sample := true,
    check := fun _ _ => firstTrap [runCheck regs (opd w.d) false, m.check],
    bounds := fun _ t => firstTrap [boundCheck t regs (opd w.d), m.bound t],
    demand := fun _ t => { entries := newEntries t m.sp rel ((addrs t).map (fun x => lineOf x.2)) },
    lantern := m.lantern none [(opd w.d, regs)],
    effect := fun s t =>
      let ls := addrs t
      match accessTrap m.sp (s.scratchOf t m.sp).size n n once ls with
      | some tr => .trap tr
      | none =>
        if ls.isEmpty then .done s t none
        else match s.gate t m.sp ls n EntryKind.stopsWrite with
          | some c => .wait s (.wait c)
          | none =>
            match s.passGate t with
            | (s, t) =>
              let (id, t) := t.freshId
              let ps := ls.map (fun x => (lineOf x.2, ({ acc := id, pc := t.arch.pc, lane := x.1, off := x.2 % 64,
                                                         data := runBytes t.arch w.d n x.1 } : StorePart)))
              let t := t.holdStore m.sp rel (scopeIn m.sp w.scope.toNat) id s.tick ps
              .done s (if t.probeOf m.sp = .waiting then t.addAccess id once (.store .glob) ls else t) none }

/-- ST (R156). -/
def execSt (w : FullM) (s : State) : Host.Outcome State Fault Refusal := issueWord (storeWord w false) s

/-- STL (R156). -/
def execStl (w : FullM) (s : State) : Host.Outcome State Fault Refusal := issueWord (storeWord w true) s

/-! ### Fences, prefetch, SINV -/

/-- A load or atomic of the team that has not returned (R163). -/
def State.unreturned (s : State) (t : Team) (before : Nat) : Bool :=
  t.accs.any (fun a => a.id < before && a.kind.returns && a.lanes.any (·.st.unfinished)) ||
  s.atoms.any (fun x => x.team == t.uid && x.seq < before)

/-- FENCE (R163): an ordering entry for its release part; for its acquire part younger accesses wait for the older ones; `.sc`
makes the next access wait for the older writes (R199). -/
def execFence (w : FullM) (s : State) : Host.Outcome State Fault Refusal :=
  let rel := 2 ≤ w.ord.toNat
  let acq := w.ord.toNat % 2 == 1
  let scope := w.scope.toNat
  issueWord
    { len := 8, hd := w.hd, once := true, sample := true,
      demand := fun _ _ => { entries := if rel then 1 else 0 },
      lantern := { runs := true, dst := none, ops := [] },
      effect := fun s t =>
        let t := if rel then t.hold (.fence w.ord.toNat (w.sub.getLsbD 0) scope) 0 .none 0 s.tick else t
        let t := if w.sub.getLsbD 0 then { t with arch := { t.arch with scFence := some (max scope (t.arch.scFence.getD 0)) } } else t
        let (id, t) := t.freshId
        if !acq then .done s t none
        else if s.unreturned t id then .done s (t.addAccess id true (.acqFence scope) [(0, 0)]) none
        else .done (if t.role = .trailing then s else s.acquireAt t scope) t none } s

/-- PF on one line: it enters the owning slice and, without `.gc`, the core's read cache; whatever fails drops it (R164). -/
def State.prefetch (s : State) (t : Team) (gc : Bool) (va : Nat) : State :=
  let asid := s.asidOf t
  if s.isRemote va || t.role == .trailing then s
  else match s.reached asid va with
    | (s, x) =>
      match x.check .read t.arch.inHandler with
      | .ok h base _ _ p =>
        if s.tagAt h base != .value || s.badData h base then s
        else
          let tags := s.serveTags t va h (s.slice? asid va).isNone base
          let s := s.fillSlice asid va h base p
          if gc || (s.readLine? t.loc.pkgCore asid va).isSome || s.outboundHas t.loc.pkgCore asid (lineOf va) then s
          else s.fillRead t asid va h base true tags
      | _ => s

/-- PF (R164). -/
def execPf (w : FullM) (s : State) : Host.Outcome State Fault Refusal :=
  let m := memOf w
  let once := !m.isVec
  issueWord
    { len := extLen w.ext, hd := w.hd, once := once, sample := true,
      check := fun _ _ => m.check, bounds := fun _ t => m.bound t, lantern := m.lantern none [],
      effect := fun s t =>
        .done ((memLanes t w.hd once).foldl (fun s l => s.prefetch t (w.sub.getLsbD 0) (m.addr t.arch l)) s) t none } s

/-- A scalar or constant operand: anything else is reserved. -/
def scalCheck (f : BitVec 11) : Option Trap :=
  match opd f with
  | .scal _ => none
  | .con _ => none
  | _ => some reservedTrap

/-- A scalar register. -/
def scalReg (f : BitVec 11) : Option Trap :=
  match opd f with
  | .scal _ => none
  | _ => some reservedTrap

/-- An even scalar pair. -/
def scalPair (f : BitVec 11) : Option Trap :=
  match opd f with
  | .scal n => trapIf (n % 2 == 1) reservedTrap
  | _ => some reservedTrap

/-- The value of a scalar or constant operand. -/
def scalVal (a : Arch) (f : BitVec 11) : Nat := (Src.op (opd f)).read a 1 0

/-- The ALIGN and then the SCRATCH_RANGE checks of an instruction that executes once over ranges of one length: allocation size and offset
of each (R151). -/
def rangesTrap (rs : List (Nat × Nat)) (len : Nat) : Option Trap :=
  firstTrap (rs.map (fun r => trapIf (r.2 % 4 != 0 || len % 4 != 0) { cause := .align, eaddr := BitVec.ofNat 64 r.2, once := true }) ++
             rs.map (fun r => trapIf (r.1 < r.2 + len) { cause := .scratchRange, eaddr := BitVec.ofNat 64 r.2, once := true }))

/-- The same over one range. -/
def rangeTrap (size off len : Nat) : Option Trap := rangesTrap [(size, off)] len

/-- SINV (R166). -/
def execSinv (w : FullM) (s : State) : Host.Outcome State Fault Refusal :=
  let sp := spaceOf w.space.toNat
  let off (a : Arch) : Nat := wrapTo 32 ((scalVal a w.a : Int) + immOf w.ext)
  issueWord
    { len := extLen w.ext, hd := w.hd, once := true, sample := true,
      check := fun _ _ => firstTrap [scalCheck w.a, scalCheck w.b],
      demand := fun _ _ => { entries := 1 },
      lantern := { runs := true, dst := none, ops := [(opd w.a, 1), (opd w.b, 1)] },
      effect := fun s t =>
        let o := off t.arch
        let len := scalVal t.arch w.b
        match rangeTrap (s.scratchOf t sp).size o len with
        | some tr => .trap tr
        | none => match s.gate t sp [(0, o)] len EntryKind.stopsWrite with
          | some c => .wait s (.wait c)
          | none =>
            match s.passGate t with
            | (s, t) => .done s (t.hold (.sinv sp o len) 0 .none 0 s.tick) none } s

end Sys2Proof.Machine
end

