-- ==== Sys2Proof/Machine/Place.lean ====
section
/-! DEFINITION. Resources and placement (09_execution_and_scheduling.md, R216, R218, R223, R224, R226; R311): what a cluster has free,
which clusters a block fits, where its teams go, and what a team starts with. -/

namespace Sys2Proof.Machine

/-! ### What is in use -/

/-- A block that holds its cluster. -/
def Block.placed (b : Block) : Bool := match b.state with
  | .resident => true
  | .stopping _ _ => true
  | .saving _ => true
  | _ => false

/-- Teams that hold a slot of a partition of a core; a lantern's one-lane team holds none. -/
def State.partTeams (s : State) (core part : Nat) : List Team :=
  s.teams.filter (fun t => t.kind != .lantern && t.loc.pkgCore == core && t.loc.part == part)

/-- Register-lanes of a partition's file free to allotments outside the reserve (R224). -/
def State.lanesFree (s : State) (core part : Nat) : Nat :=
  registerFile (core / 8) - reserveLanes - ((s.partTeams core part).map (fun t => t.tw * t.regs - t.borrowed)).foldl (· + ·) 0

/-- The reserve of a partition is lent. -/
def State.reserveLent (s : State) (core part : Nat) : Bool := (s.partTeams core part).any (fun t => t.borrowed != 0)

/-- Free ordinary slots of a partition: 8, but 7 in partition 3 (R19, R223). -/
def State.freeSlots (s : State) (core part : Nat) : List Nat :=
  (List.range (if part = 3 then 7 else 8)).filter (fun i => !(s.partTeams core part).any (fun t => t.loc.slot == i))

/-- Free ordinary slots of a cluster. -/
def State.clusterFree (s : State) (chip cluster : Nat) : Nat :=
  ((List.range 2).flatMap (fun c => (List.range 4).map (fun p => (s.freeSlots (8 * chip + 2 * cluster + c) p).length))).foldl (· + ·) 0

/-- Blocks that hold a cluster. -/
def State.blocksOn (s : State) (chip cluster : Nat) : List Block :=
  s.blocks.filter (fun b => b.placed && b.chip == chip && b.cluster == cluster)

/-- Spill entries of a team (R210): only a grid's own teams have any. -/
def State.spillOf (s : State) (t : Team) : Nat :=
  if t.kind = .ordinary then ((s.gridOf t).map (·.lrec.spill)).getD 0 else 0

/-- Pocket bytes of a core in use: allocations and spill areas (R210, R218). A spill area has no alignment of its own. -/
def State.pocketUsed (s : State) (chip cluster core : Nat) : Nat :=
  ((s.blocksOn chip cluster).map (fun b => (b.pockets.getD core Scratch.empty).size)).foldl (· + ·) 0 +
    ((s.teams.filter (fun t => t.kind != .lantern && t.loc.pkgCore == 8 * chip + 2 * cluster + core)).map
      (fun t => 16 * s.spillOf t)).foldl (· + ·) 0

/-- The lowest start, a multiple of `align`, of a free range of a scratch memory beside the ranges in use (R137; the lowest is the model's
choice, log 30). -/
def freeStart (cap align size : Nat) (used : List (Nat × Nat)) : Option Nat :=
  let free (a : Nat) : Bool := a + size ≤ cap && used.all (fun u => u.2 == 0 || size == 0 || a + size ≤ u.1 || u.1 + u.2 ≤ a)
  ((0 :: used.map (fun u => (u.1 + u.2 + align - 1) / align * align)).filter free).foldl (fun (best : Option Nat) a => some (min a (best.getD a))) none

/-- The start of a pocket allocation on a core (R137). -/
def State.pocketStart (s : State) (chip cluster core size : Nat) : Option Nat :=
  freeStart 393216 256 size ((s.blocksOn chip cluster).map (fun b => (b.starts.getD core 0, (b.pockets.getD core Scratch.empty).size)))

/-- The start of a chamber allocation in a cluster (R137). -/
def State.chamberStart (s : State) (chip cluster size : Nat) : Option Nat :=
  freeStart 2097152 2048 size ((s.blocksOn chip cluster).map (fun b => (b.starts.getD 2 0, b.chamber.size)))

/-- Where the allocations of a block that takes a cluster start: the leader's pocket, the follower's, the chamber. -/
def State.startsOn (s : State) (chip cluster : Nat) (pockets : List Nat) (chamber : Nat) : List Nat :=
  pockets.mapIdx (fun c n => (s.pocketStart chip cluster c n).getD 0) ++ [(s.chamberStart chip cluster chamber).getD 0]

/-- Gallery bytes of a die (Table 1.3). -/
def gallerySize (chip : Nat) : Nat := if isColumn chip then 33554432 else 16777216

/-- The start of a gallery allocation on a die (R137). -/
def State.galleryStart (s : State) (die size : Nat) : Option Nat :=
  freeStart (gallerySize die) 4096 size
    ((s.spans.filter (fun x => x.die == some die && !x.out)).map (fun x => (x.start, (x.gallery.map (·.size)).getD 0)))

/-! ### Fitting a block -/

/-- What a block needs of a cluster: its teams as (index, width, allotment, tiles), and its scratch. -/
structure Needs where
  teams    : List (Nat × Nat × Nat × Nat)
  leadOnly : Bool
  pocket   : Nat
  spill    : Nat
  chamber  : Nat
  conts    : Nat := 0                    -- continuation records that a team's image may hold: one a lane, where SPLIT may eject
  lend     : List (Nat × Nat) := []      -- register-lanes that a saved team had of its partition's reserve, by team index (R270)
deriving DecidableEq, Repr

/-- The needs of one block of a launch record. -/
def LaunchRec.needs (r : LaunchRec) : Needs :=
  { teams := (List.range r.teams).map (fun i => (i, r.tw, r.regs, r.acc)), leadOnly := r.mode.getLsbD 5, pocket := r.pocket,
    spill := r.spill, chamber := r.chamber, conts := if r.eject = 0 then 0 else r.tw }

/-- The needs of a pending or saved block. -/
def State.blockNeeds (s : State) (b : Block) : Needs :=
  let base := ((s.grid? b.grid).map (·.lrec.needs)).getD { teams := [], leadOnly := false, pocket := 0, spill := 0, chamber := 0 }
  if b.kind != .ordinary then
    { teams := b.teamSeed.map (fun t => (t.idx, t.tw, t.regs, t.acc)), leadOnly := true, pocket := 0, spill := 0, chamber := 0 }
  else if b.teamSeed.isEmpty then { base with teams := base.teams.filter (fun x => !b.exitedT.contains x.1) }
  else { base with teams := b.teamSeed.map (fun t => (t.idx, t.tw, t.regs, t.acc))
                   lend := (b.teamSeed.filter (fun t => t.borrowed != 0)).map (fun t => (t.idx, t.borrowed)) }

/-- A team's place taken so far on a cluster: its place, register-lanes and tiles. -/
abbrev Taken := Loc × Nat × Nat

/-- The partition of a core for the next team (R218): the fewest teams, then the most free register-lanes, then the lowest number. -/
def State.pickPart (s : State) (chip cluster core need lend : Nat) (taken : List Taken) : Option (Nat × Nat) :=
  let pk := 8 * chip + 2 * cluster + core
  let info (p : Nat) : Option (Nat × Nat × Nat × Nat) :=
    let here := taken.filter (fun x => x.1.core == core && x.1.part == p)
    let slots := (s.freeSlots pk p).filter (fun i => !here.any (fun x => x.1.slot == i))
    let lanes := (here.map (fun x => x.2.1)).foldl (· + ·) 0
    let free := s.lanesFree pk p
    match slots with
    | [] => none
    | i :: _ => if need - lend + lanes ≤ free && (lend == 0 || (p != 3 && !s.reserveLent pk p)) then some ((s.partTeams pk p).length + here.length, free - lanes, p, i) else none
  ((List.range 4).filterMap info).foldl (fun (best : Option (Nat × Nat × Nat × Nat)) x => match best with
    | none => some x
    | some b => if x.1 < b.1 || (x.1 == b.1 && b.2.1 < x.2.1) then some x else some b) none |>.map (fun b => (b.2.2.1, b.2.2.2))

/-- Where each team of a block goes on a cluster that it fits (R218). -/
def State.assign (s : State) (chip cluster : Nat) (leadOnly : Bool) (lend : List (Nat × Nat)) :
    List (Nat × Nat × Nat × Nat) → List Taken → Option (List Taken)
  | [], taken => some taken
  | (idx, tw, regs, acc) :: rest, taken =>
    let core := if leadOnly then 0 else idx % 2
    let borrow := ((lend.find? (fun x => x.1 == idx)).map (·.2)).getD 0
    match s.pickPart chip cluster core (tw * regs) borrow taken with
    | none => none
    | some (p, i) =>
      s.assign chip cluster leadOnly lend rest
        (taken ++ [({ chip := chip, cluster := cluster, core := core, part := p, slot := i }, tw * regs - borrow, acc)])

/-- A block fits a cluster: the places of its teams (R218). -/
def State.fits (s : State) (n : Needs) (chip cluster : Nat) : Option (List Loc) :=
  match s.assign chip cluster n.leadOnly n.lend n.teams [] with
  | none => none
  | some taken =>
    let onCore (c : Nat) : List Taken := taken.filter (fun x => x.1.core == c)
    let tiles (c : Nat) : Nat :=
      ((onCore c).map (fun x => x.2.2)).foldl (· + ·) 0 +
        ((s.teams.filter (fun t => t.loc.pkgCore == 8 * chip + 2 * cluster + c)).map (·.acc)).foldl (· + ·) 0
    let pocketOk (c : Nat) : Bool :=
      (onCore c).isEmpty || ((s.pocketStart chip cluster c n.pocket).isSome &&
        s.pocketUsed chip cluster c + n.pocket + 16 * n.spill * (onCore c).length ≤ 393216)
    if (List.range 2).all (fun c => tiles c ≤ 32 && pocketOk c) && (s.chamberStart chip cluster n.chamber).isSome
    then some (taken.map (·.1)) else none

/-- A package with nothing placed and nothing draining, for the checks of R215. -/
def State.emptied (s : State) : State :=
  { s with teams := [], blocks := [], spans := s.spans.map (fun x => { x with die := none })
           bar := s.bar.map (fun x => if 0xB000 ≤ x.1 && x.1 < 0xB080 then (x.1, x.2 &&& ~~~2) else x) }

/-- A present cluster of a partition that takes new blocks and implements sets. -/
def State.usable (s : State) (p sets chip cluster : Nat) : Bool :=
  s.chipOk chip && s.inPart p chip cluster && !s.clusterDisabled chip cluster && !s.clusterDraining chip cluster &&
    (chipCaps chip &&& sets) == sets

/-- Every cluster of the package. -/
def allClusters : List (Nat × Nat) := (List.range 8).flatMap (fun c => (List.range 4).map (fun k => (c, k)))

/-- PLACE of a launch record (Table 9.2): 0 prefers straw, 1 prefers column, 2 allows column only. -/
def LaunchRec.place (r : LaunchRec) : Nat := r.mode.toNat / 64

/-- Clusters for which a block is eligible: the partition's, with its sets, of a kind that PLACE allows, columns only when it has migrated,
on its span's die once there is one, unless it is being restored (R218, R320). -/
def State.eligible (s : State) (b : Block) (g : Grid) (sp : Span) (chip cluster : Nat) : Bool :=
  s.usable g.tenant (if b.kind = .ordinary then g.lrec.caps ||| b.caps else b.caps) chip cluster &&
  (b.kind != .ordinary || g.lrec.place != 2 || isColumn chip) && (!b.migrated || isColumn chip) &&
  (b.kind != .ordinary || match sp.die with
    | some d => b.state == BlockState.saved || d == chip
    | none => true)

/-- What a die must offer a die span beside a cluster: a first block's die holds no other span of the grid, and the gallery has room
(R218, R320). -/
def State.spanRoom (s : State) (b : Block) (g : Grid) (sp : Span) (chip : Nat) : Bool :=
  b.kind != .ordinary || match sp.die with
    | some d => !sp.out || (s.galleryStart d g.lrec.gallery).isSome
    | none => !s.spans.any (fun x => x.grid == g.uid && x.uid != sp.uid && x.die == some chip) &&
        (s.galleryStart chip g.lrec.gallery).isSome

/-- Clusters that a block may take now. -/
def State.mayTake (s : State) (b : Block) (g : Grid) (sp : Span) (chip cluster : Nat) : Bool :=
  s.eligible b g sp chip cluster && s.spanRoom b g sp chip

/-- The best of the clusters that a block fits (R218): the preferred kind, the fewest free slots, the lowest zone. `home` is a die
to prefer before all else (R320). -/
def State.bestCluster (s : State) (fit : Nat × Nat → Option (List Loc)) (place : Nat) (home : Option Nat) (cs : List (Nat × Nat)) :
    Option (Nat × Nat × List Loc) :=
  let cands := cs.filterMap (fun c => (fit c).map (fun ls =>
    ((if home.isNone || home == some c.1 then 0 else 1000000) + (if isColumn c.1 == (1 ≤ place : Bool) then 0 else 100000) +
      1000 * s.clusterFree c.1 c.2 + clusterZone c.1 c.2, c.1, c.2, ls)))
  (cands.foldl (fun (best : Option (Nat × Nat × Nat × List Loc)) x => match best with
    | none => some x
    | some b => if x.1 < b.1 then some x else some b) none).map (·.2)

/-! ### Save bounds (R311) -/

/-- A length rounded up to 64. -/
def up64 (n : Nat) : Nat := (n + 63) / 64 * 64

/-- Bytes of a team image with every control-stack entry that R210 allows, the handler's on top, and a number of continuations
(Table 11.8). -/
def teamImageSize (tw regs acc spill conts : Nat) : Nat :=
  128 + 512 + 64 + up64 (9 * tw / 8) + up64 ((33 + spill) * (32 + tw / 2)) + 128 + up64 (4 * regs * tw) + 32768 * acc + 2048 + up64 (96 * conts)

/-- The bound of a stored image of some bytes. -/
def storedBound (bytes : Nat) : Nat :=
  let n := (bytes + 63) / 64
  64 + (n + 3) / 4 + 64 * n

/-- Bytes of a page list of an allocation with every page listed (R272). -/
def pageListSize (n : Nat) : Nat := 4232 * ((n + 4095) / 4096)

/-- The save bound of a block (R311): its image's sections, each padded (R272), with every page of its allocations listed, every
control-stack entry in use and every lane on the lantern (log 67). -/
def saveBound (n : Needs) : Nat :=
  let cores := ((List.range 2).filter (fun c => n.teams.any (fun x => (if n.leadOnly then 0 else x.1 % 2) == c))).length
  storedBound (128 + up64 (16 * n.teams.length) + 64 + up64 (cores * pageListSize n.pocket + pageListSize n.chamber) +
    (n.teams.map (fun x => teamImageSize x.2.1 x.2.2.1 x.2.2.2 n.spill n.conts)).foldl (· + ·) 0)

/-- The part that the first block of a die span adds for the gallery (R311, R316). -/
def spanBound (gallery : Nat) : Nat := if gallery = 0 then 0 else storedBound (max 128 (pageListSize gallery))

/-- Save-area bytes of a partition that are reserved. -/
def State.saveUsed (s : State) (p : Nat) : Nat :=
  ((s.blocks.filter (fun b => ((s.grid? b.grid).map (·.tenant)) == some p)).map (·.bound)).foldl (· + ·) 0

/-! ### Starting teams (R216) -/

/-- The state of a team that starts: masks and index registers 0, tiles 0, scale registers 0x7F (R111), counters and flags 0, the
given registers. -/
def Arch.start (pc : DWord) (tw regs acc : Nat) (sc : List Word) (vec : Nat → Nat → Word) (live : Mask) : Arch :=
  { pc := pc, s := (List.range 128).map (fun i => sc.getD i 0), v := (List.range regs).map (fun r => (List.range tw).map (fun l => vec r l)),
    x := List.replicate 4 0, k := List.replicate 8 0, live := live, exited := fullMask tw &&& ~~~live, flags := 0, uninitcnt := 0,
    uninitaddr := 0, uninitBy := none, gdetail := 0, stack := [], tiles := List.replicate acc (List.replicate 8192 0),
    esc := List.replicate 8 (List.replicate 256 0x7F), inHandler := false, tvec := 0,
    bank := { epc := 0, ecause := 0, estat := 0, eaddr := 0, einfo := 0, emask := 0, elive := 0 },
    yield := 0, scFence := none, wpaddr := List.replicate 4 0, waitFrom := none, spawned := false, issued := 0 }

/-- A team as it starts. -/
def Team.start (uid : Nat) (kind : TeamKind) (loc : Loc) (grid block idx tw gw regs acc age prio : Nat) (arch : Arch) : Team :=
  { uid := uid, kind := kind, loc := loc, grid := grid, block := block, idx := idx, tw := tw, gw := gw, regs := regs, acc := acc,
    arch := arch, regions := [], needHead := true, nextRegion := 0, nextId := 0, relq := [], accs := [], pend := [], deferred := [],
    run := .ready, frozen := false, stepMode := .off, cnts := List.replicate 4 [], returned := [], waitSlots := 0, yielded := false,
    age := age, prio := prio, depth := 0, ticket := none, lineage := [], cell := none, strikes := 0, residues := 0, mismatches := 0,
    strikeHead := 0, checkHead := 0, missHead := 0, borrowed := 0, cont := none, role := .single, mate := 0, lvq := [], barbs := 0, watch := [], recalls := [], unread := none, exiting := false }

/-- The ticks within which ballast stops on a cluster that takes a team (R329). -/
def ballastStop : Nat := 1050

/-- Ballast on a cluster that takes a team stops; when, within its bound, is a free value (R329). -/
def State.makeRoom (s : State) (cl : Nat) : State :=
  if s.power.ballast.any (fun b => b.1 == cl && b.2.isNone) then
    let (f, s) := s.draw
    { s with power := { s.power with ballast := s.power.ballast.map (fun b =>
        if b.1 = cl ∧ b.2 = none then (b.1, some (s.tick + f.toNat % (ballastStop + 1))) else b) } }
  else s

/-- Puts a team into its slot; the slot's generation count goes up. Whatever happened before its start, or before its block moved, is
visible to it: the core's read cache keeps no line of its address space (R192, R205, R207). -/
def State.addTeam (s : State) (t : Team) : State :=
  let s := { s.makeRoom (4 * t.loc.chip + t.loc.cluster) with teams := s.teams ++ [t] }
  (s.invalidateRead t.loc.pkgCore (s.asidOf t)).updCore t.loc.pkgCore (fun c => { c with gens := c.gens.modify (8 * t.loc.part + t.loc.slot) (· + 1) })

/-- The watched addresses that a team starts with (Table 21.4). -/
def State.watchAddrs (s : State) (l : Loc) : List DWord :=
  (List.range 4).map (fun w => BitVec.ofNat 64 (s.reg64 0 (watchOff l.cl w) / 8 * 8))

/-- A team starts in its slot. -/
def State.startTeam (s : State) (t : Team) : State :=
  s.addTeam { t with arch := { t.arch with wpaddr := s.watchAddrs t.loc } }

/-- A slot for an evaluator or task team on some cores (R226): an ordinary slot with free register-lanes, a reserved slot with free
ones, then, for at most 16,384, an ordinary slot with its partition's reserve, or a reserved slot with partition 3's. The
second component is what the team borrows. -/
def State.guestSlotOn (s : State) (cores : List Nat) (need : Nat) : Option (Loc × Nat) :=
  let loc (c p i : Nat) : Loc := { chip := c / 8, cluster := c % 8 / 2, core := c % 2, part := p, slot := i }
  let spots := cores.flatMap (fun c => (List.range 4).filterMap (fun p => (s.freeSlots c p).head?.map (fun i => (c, p, i))))
  let kept := cores.filter (fun c => !(s.partTeams c 3).any (fun t => t.loc.slot == 7))
  let small := need ≤ reserveLanes
  match spots.find? (fun x => need ≤ s.lanesFree x.1 x.2.1) with
  | some x => some (loc x.1 x.2.1 x.2.2, 0)
  | none => match kept.find? (fun c => need ≤ s.lanesFree c 3) with
    | some c => some (loc c 3 7, 0)
    | none => match spots.find? (fun x => small && x.2.1 != 3 && !s.reserveLent x.1 x.2.1) with
      | some x => some (loc x.1 x.2.1 x.2.2, need)
      | none => (kept.find? (fun c => small && !s.reserveLent c 3)).map (fun c => (loc c 3 7, need))

/-- The cores of some clusters. -/
def coresOf (clusters : List (Nat × Nat)) : List Nat := clusters.flatMap (fun x => [8 * x.1 + 2 * x.2, 8 * x.1 + 2 * x.2 + 1])

/-- A slot for an evaluator or task team on some clusters (R226). -/
def State.guestSlot (s : State) (clusters : List (Nat × Nat)) (need : Nat) : Option (Loc × Nat) := s.guestSlotOn (coresOf clusters) need

/-- A slot on one core of a cluster for an evaluator or task team that comes back from its image: it keeps its core role (R268), and takes
its partition by the order of R218. -/
def State.guestBack (s : State) (chip cluster core need : Nat) : Option Loc :=
  match s.pickPart chip cluster core need 0 [] with
  | some (p, i) => some { chip := chip, cluster := cluster, core := core, part := p, slot := i }
  | none => (s.guestSlotOn [8 * chip + 2 * cluster + core] need).map (·.1)

/-! ### Granting registers (R224) -/

/-- Adds registers at the top of an allotment; they read 0. -/
def Team.grow (t : Team) (n borrow : Nat) : Team :=
  { t with regs := t.regs + n, borrowed := t.borrowed + borrow,
           arch := { t.arch with v := t.arch.v ++ List.replicate n (List.replicate t.tw 0) } }

/-- The registers that a parked team waits for. -/
def Team.wants (t : Team) : Option Nat := match t.run with
  | .registers n _ _ => some n
  | _ => none

/-- Grants to the teams parked on registers of a partition, oldest first; none is granted ahead of an older one. -/
def grantLanes : List Team → Nat → List (Nat × Nat)
  | [], _ => []
  | t :: rest, free => match t.wants with
    | none => grantLanes rest free
    | some n => if n * t.tw ≤ free then (t.uid, 0) :: grantLanes rest (free - n * t.tw) else []

/-- Older before younger; ties by slot. -/
def Team.older (t u : Team) : Bool := t.age < u.age || (t.age == u.age && t.loc.slot ≤ u.loc.slot)

/-- Puts a team in its place among teams in order of age. -/
def insertAge (t : Team) : List Team → List Team
  | [] => [t]
  | u :: rest => if u.older t then u :: insertAge t rest else t :: u :: rest

/-- Teams in order of age. -/
def byAge (ts : List Team) : List Team := ts.foldl (fun acc t => insertAge t acc) []

/-- The word that a parked team waits at is done: the team goes on after it, through its switch marker if it has one. -/
def State.passWord (s : State) (t : Team) (len : Nat) (sw : Bool) : State :=
  let t := { t with arch := { t.arch with pc := t.arch.pc + BitVec.ofNat 64 len, issued := t.arch.issued + 1 }, run := .ready, waitSlots := 0 }
  s.setTeam (if sw then { t with run := .switch } else t)

/-- A team is granted the registers that its REGA waits for. -/
def State.granted (s : State) (u borrow : Nat) : State :=
  match s.team? u with
  | none => s
  | some t => match t.run with
    | .registers n len sw => s.passWord (t.grow n borrow) len sw
    | _ => s

/-- Grants free register-lanes, then the reserve, of one partition (R224). -/
def State.grantPart (s : State) (core part : Nat) : State :=
  let ts := byAge (s.partTeams core part)
  let s := (grantLanes ts (s.lanesFree core part)).foldl (fun s x => s.granted x.1 x.2) s
  let ts := byAge (s.partTeams core part)
  let ord := ts.filter (fun t => t.kind == .ordinary)
  if part = 3 || ord.isEmpty || s.reserveLent core part || !ord.all (fun t => t.wants.isSome) then s
  else
    let free := s.lanesFree core part
    match ord.find? (fun t => t.tw * t.wants.getD 0 ≤ free + reserveLanes) with
    | none => s
    | some t => s.granted t.uid (t.tw * t.wants.getD 0 - free)

/-- Grants on every partition where a team waits for registers. -/
def State.grantAll (s : State) : State :=
  (((s.teams.filter (fun t => t.wants.isSome)).map (fun t => (t.loc.pkgCore, t.loc.part))).eraseDups).foldl
    (fun s x => s.grantPart x.1 x.2) s

end Sys2Proof.Machine
end

