-- ==== Sys2Proof/Machine/Control.lean ====
section
/-! DEFINITION. Branches, the control stack, SPLIT and JOIN, WAITV, YIELD, SPAWN, LAUNCH, REGA and REGR
(10_control_and_sync_instructions.md). -/

namespace Sys2Proof.Machine

/-- A control word with its shared fields: its operands are checked, it executes once for the team. -/
def ctlWord (w : FullT) (check : Option Trap) (effect : State → Team → WordEnd) : Word1 :=
  { len := extLen w.ext, hd := w.hd, once := true, check := fun _ _ => check, effect := effect }

/-- The target of a relative branch (R35, R230). -/
def relTarget (w : FullT) (a : Arch) : Nat :=
  let off : Int := match w.ext with
    | some e => e.imm.toInt
    | none => w.off.toInt
  wrapTo 64 ((a.pc.toNat : Int) + 8 * off)

/-- Moves the pc to a target that a landing allows, after changing the team (R50). -/
def goTo (s : State) (t : Team) (target : Nat) (f : Team → Team) : WordEnd :=
  match s.landing t target with
  | (_, some tr) => .trap tr
  | (s, none) => .done s (f t) (some (BitVec.ofNat 64 target))

/-- The lantern runs a branch whose operands it can name. -/
def branchLantern (ops : List (Opd × Nat)) : LanternUse := { runs := true, dst := none, ops := ops }

/-- BRA (R230). -/
def execBra (w : FullT) (s : State) : Host.Outcome State Fault Refusal :=
  issueWord { ctlWord w none (fun s t => goTo s t (relTarget w t.arch) id) with
    targets := fun _ t => [relTarget w t.arch], lantern := branchLantern [] } s

/-- BRC's condition (R231). -/
def brcHolds (w : FullT) (t : Team) : Bool :=
  let k := t.arch.kget w.a.toNat
  let live := t.arch.live &&& fullMask t.tw
  match w.b.toNat with
  | 0 => live &&& k != 0
  | 1 => live &&& ~~~k == 0
  | 2 => live &&& k == 0
  | 3 => live &&& ~~~k != 0
  | 4 => scalVal t.arch w.a != 0
  | _ => scalVal t.arch w.a == 0

/-- BRC (R231). -/
def execBrc (w : FullT) (s : State) : Host.Outcome State Fault Refusal :=
  let onMask := w.b.toNat < 4
  issueWord
    { ctlWord w (if onMask then classCheck 8 w.a else scalReg w.a)
        (fun s t => if brcHolds w t then goTo s t (relTarget w t.arch) id else .done s t none) with
      targets := fun _ t => if brcHolds w t then [relTarget w t.arch] else [],
      lantern := branchLantern (if onMask then [] else [(opd w.a, 1)]) } s

/-- BRX (R230). -/
def execBrx (w : FullT) (s : State) : Host.Outcome State Fault Refusal :=
  let target (t : Team) : Nat := match opd w.a with
    | .scal n => t.arch.spair n
    | _ => 0
  issueWord { ctlWord w (scalPair w.a) (fun s t => goTo s t (target t) id) with targets := fun _ t => [target t] } s

/-- The depth limit of a team's stack (R210). -/
def State.stackLimit (s : State) (t : Team) : Nat := 32 + s.spillOf t

/-- One more entry would pass the limit (R210, R232). -/
def State.depthTrap (s : State) (t : Team) : Option Trap :=
  let n := t.arch.stack.length + 1
  trapIf (s.stackLimit t < n) { cause := .scratchRange, einfo := BitVec.ofNat 32 (0x80000000 + n) }

/-- Pushes an entry. -/
def Team.push (t : Team) (e : StackEntry) : Team := { t with arch := { t.arch with stack := e :: t.arch.stack } }

/-- CALL (R233). -/
def execCall (w : FullT) (s : State) : Host.Outcome State Fault Refusal :=
  issueWord { ctlWord w (scalPair w.d) (fun s t =>
    match s.landing t (relTarget w t.arch) with
    | (_, some tr) => .trap tr
    | (s, none) => match s.depthTrap t with
      | some tr => .trap tr
      | none =>
        let link := t.arch.pc + BitVec.ofNat 64 (extLen w.ext)
        let t := { t with arch := match opd w.d with
          | .scal n => t.arch.ssetPair n link.toNat
          | _ => t.arch }
        .done s (t.push (.call link)) (some (BitVec.ofNat 64 (relTarget w t.arch)))) with
    targets := fun _ t => [relTarget w t.arch] } s

/-- JOIN_UNDERFLOW (R233, R236). -/
def underflow (code : Nat) : Trap := { cause := .joinUnderflow, einfo := BitVec.ofNat 32 code, once := true }

/-- RET (R233). -/
def execRet (w : FullT) (s : State) : Host.Outcome State Fault Refusal :=
  issueWord { ctlWord w none (fun s t =>
    match t.arch.stack with
    | [] => .trap (underflow 4)
    | .join _ :: _ => .trap (underflow 5)
    | .call ret :: rest => goTo s t ret.toNat (fun t => { t with arch := { t.arch with stack := rest } })) with
    targets := fun _ t => match t.arch.stack with
      | .call ret :: _ => [ret.toNat]
      | _ => [] } s

/-! ### SPLIT and JOIN (R234–R236) -/

/-- The live set that a SPLIT's extension declares: first vector register, NV, first scalar register, NS (R234). -/
def splitSet (e : Ext) : Nat × Nat × Nat × Nat :=
  (e.c.toNat, (e.xc.extractLsb' 0 5).toNat, (e.xc.extractLsb' 5 7).toNat, (e.xc.extractLsb' 12 5).toNat)

/-- Records of a core's lantern queue in use: queued, and held or released on their way to it (R211, R235). -/
def State.lanternUsed (s : State) (core : Nat) : Nat :=
  (s.core core).lantern.length + ((s.teamsOnCore core).map (fun t =>
    ((t.relq ++ t.regions.flatMap (·.held)).filter (fun e => match e.kind with
      | .cont _ => true
      | _ => false)).length)).foldl (· + ·) 0

/-- The two sides of a SPLIT. -/
def splitTaken (w : FullT) (t : Team) : Mask := t.arch.live &&& t.arch.kget w.a.toNat &&& fullMask t.tw
def splitRest (w : FullT) (t : Team) : Mask := t.arch.live &&& ~~~(t.arch.kget w.a.toNat) &&& fullMask t.tw

/-- The lanes on the target's side are ejected (R211); a trailing copy does as its leading copy did (log 16). -/
def State.ejects (s : State) (t : Team) (w : FullT) : Bool :=
  let n := (lanesOf t.tw (splitTaken w t)).length
  if n = 0 || splitRest w t == 0 then false
  else if t.role == .trailing then (s.lvqFind t (atWord 2 t.arch)).isSome
  else match w.ext with
    | none => false
    | some e =>
      let (v0, nv, _, _) := splitSet e
      let limit := ((s.gridOf t).map (·.lrec.eject)).getD 0
      n ≤ limit &&
      !t.pend.any (fun p => p.dest == .none && p.vals.any (fun x => v0 ≤ x.1 && x.1 < v0 + nv)) &&
      s.lanternUsed t.loc.pkgCore + n ≤ 64

/-- The kind-1 record of an ejected lane (R235, R237). -/
def State.ejectRecord (s : State) (t : Team) (name target : Nat) (e : Ext) (l : Nat) : ContRec :=
  let (v0, nv, s0, ns) := splitSet e
  let a := t.arch
  let g := s.gridOf t
  { entry := name, pc := BitVec.ofNat 64 target, core := t.loc.pkgCore, slot := 8 * t.loc.part + t.loc.slot,
    gen := (s.core t.loc.pkgCore).gens.getD (8 * t.loc.part + t.loc.slot) 0, depth := a.stack.length, lane := l, kind := 1, nv := nv, ns := ns,
    kbits := BitVec.ofNat 8 ((List.range 8).foldl (fun acc k => if k != 0 && Mask.has (a.kget k) l then acc + 2 ^ k else acc) 0),
    enab := a.enables, sticky := 0, status := 0, tenant := (g.map (·.tenant)).getD 0, prio := (g.map (·.lrec.prio)).getD 0,
    asid := (g.map (·.asid)).getD 0,
    regs := (List.range nv).map (fun j => a.vget (v0 + j) l) ++ (List.range ns).map (fun j => a.sget (s0 + j)) ++ List.replicate (16 - nv - ns) 0,
    vFirst := v0, sFirst := s0, raised := 0 }

/-- SPLIT's target and its join address (R234). -/
def splitTarget (w : FullT) (a : Arch) : Nat := wrapTo 64 ((a.pc.toNat : Int) + 8 * w.off.toInt)
def splitJoin (w : FullT) (a : Arch) : Nat := wrapTo 64 ((a.pc.toNat : Int) + 8 * w.b.toNat)

/-- SPLIT's effect (R235). -/
def splitEffect (w : FullT) (s : State) (t : Team) : WordEnd :=
  let a := t.arch
  let target := splitTarget w a
  let join := splitJoin w a
  match s.landing t target with
  | (_, some tr) => .trap tr
  | (s, none) => match s.landing t join with
    | (_, some tr) => .trap tr
    | (s, none) => match s.depthTrap t with
      | some tr => .trap tr
      | none =>
        let taken := splitTaken w t
        let rest := splitRest w t
        let e := w.ext.getD { xc := 0, c := 0, imm := 0 }
        let (v0, nv, _, _) := splitSet e
        let (name, s) := s.fresh
        let j : JoinEntry :=
          { name := name, jpc := BitVec.ofNat 64 join, reconv := a.live, pend := 0, ppc := 0, ej := 0, early := 0, count := 0, vFirst := v0, nv := nv }
        let put (t : Team) (j : JoinEntry) (live : Mask) : Team := { t.push (.join j) with arch := { (t.push (.join j)).arch with live := live } }
        if s.ejects t w then
          let lanes := lanesOf t.tw taken
          let s := if t.role == .trailing then s.lvqDrop t (atWord 2 t.arch) else s
          let t := t.lvqPush (lvqHeader 2 a.issued a.pc t.regionId)
          let t1 := lanes.foldl (fun (t1 : Team) l => t1.hold (.cont (s.ejectRecord t name target e l)) 0 .none (1 <<< l) s.tick) t
          .done s (put t1 { j with ej := taken, count := lanes.length } rest) none
        else if taken = 0 then .done s (put t j rest) none
        else if rest = 0 then .done s (put t j taken) (some (BitVec.ofNat 64 target))
        else .done s (put t { j with pend := taken, ppc := BitVec.ofNat 64 target } rest) none

/-- SPLIT (R234, R235). -/
def execSplit (w : FullT) (s : State) : Host.Outcome State Fault Refusal :=
  let bound (t : Team) : Option Trap := match w.ext with
    | none => none
    | some e =>
      let (v0, nv, _, _) := splitSet e
      if nv = 0 then none else if t.regs ≤ v0 then some (boundTrap v0) else if t.regs < v0 + nv then some (boundTrap t.regs) else none
  issueWord
    { len := extLen w.ext, hd := w.hd, check := fun _ _ => classCheck 8 w.a, bounds := fun _ t => bound t,
      demand := fun s t => { entries := if s.ejects t w then 2 * (lanesOf t.tw (splitTaken w t)).length else 0 },
      targets := fun _ t => [splitTarget w t.arch, splitJoin w t.arch],
      effect := splitEffect w } s

/-- The returned records of a join entry, by lane. -/
def Team.recordsOf (t : Team) (e : JoinEntry) : List ContRec := t.returned.filter (fun r => r.entry == e.name)

/-- Writes a returned record into its lane: vector members, KBITS, STICKY (R236). -/
def Arch.writeRecord (a : Arch) (e : JoinEntry) (r : ContRec) : Arch :=
  let a := (List.range e.nv).foldl (fun a j => a.vset (e.vFirst + j) (fun l => if l = r.lane then some (r.regs.getD j 0) else none)) a
  let a := (List.range 7).foldl (fun a k => a.kset (k + 1) (1 <<< r.lane) (if r.kbits.getLsbD (k + 1) then 1 <<< r.lane else 0)) a
  a.orFlags r.sticky

/-- Replaces the top join entry. -/
def Arch.setTop (a : Arch) (e : JoinEntry) : Arch := { a with stack := .join e :: a.stack.drop 1 }

/-- The lanes of a set whose records ended early. -/
def earlyOf (rs : List ContRec) (m : Mask) : Mask :=
  maskOfList ((rs.filter (fun r => r.status != 1 && Mask.has m r.lane)).map (·.lane))

/-- The rest of JOIN, once no lane is out: the write back, the lanes that ended early, the reconvergence (R236). -/
def joinRest (w : FullT) (s : State) (t : Team) (e : JoinEntry) (rs : List ContRec) : WordEnd :=
  let bad := if e.ej = 0 then [] else rs.filter (fun r => r.status == 4)
  match bad with
  | b :: _ =>
    -- reported once: after the trap the lane rejoins at the raising instruction, as one that ended early (log 17)
    let t1 := { t with returned := t.returned.map (fun (r : ContRec) => if r.entry = e.name ∧ r.status = 4 then { r with status := 2 } else r) }
    .act (s.takeTrap (t1.remember { region := 0, recs := bad.map (fun (r : ContRec) => (r.entry, r.lane)) })
      { cause := .arithExc, eaddr := b.pc, emask := maskOfList (bad.map (·.lane)),
        einfo := (bad.foldl (fun acc r => acc ||| r.raised) (0 : BitVec 5)).zeroExtend 32 })
  | [] =>
    let wrote := e.ej != 0
    let a := if wrote then rs.foldl (fun a r => a.writeRecord e r) t.arch else t.arch
    let e := if wrote then { e with early := earlyOf rs e.ej, ej := 0, count := 0 } else e
    let out := rs.filter (fun r => Mask.has e.early r.lane)
    match (out.map (fun r => r.pc.toNat)).min? with
    | some p =>
      let go := maskOfList ((out.filter (fun r => r.pc.toNat == p)).map (·.lane))
      .done s { t with arch := { a.setTop { e with early := e.early &&& ~~~go } with live := go } } (some (BitVec.ofNat 64 p))
    | none =>
      .done s { t with arch := { a with live := e.reconv &&& ~~~a.exited, stack := a.stack.drop 1 } }
        (some (t.arch.pc + BitVec.ofNat 64 (extLen w.ext)))

/-- JOIN's effect (R236). -/
def joinEffect (w : FullT) (s : State) (t : Team) : WordEnd :=
  match t.arch.stack with
  | [] => .trap (underflow 1)
  | .call _ :: _ => .trap (underflow 2)
  | .join e :: _ =>
    if t.arch.pc ≠ e.jpc then .trap (underflow 3)
    else if e.pend ≠ 0 then
      .done s { t with arch := { t.arch.setTop { e with pend := 0, ppc := 0 } with live := e.pend } } (some e.ppc)
    else if t.role == .trailing && e.count != 0 then
      match s.lvqFind t (atWord 2 t.arch) with
      | none => .wait s (.wait .lvqEntry)
      | some v => joinRest w (s.lvqDrop t (atWord 2 t.arch)) { t with returned := t.returned ++ v.recs } e v.recs
    else if t.ctr e ≠ 0 then .wait s .join
    else
      let rs := t.recordsOf e
      let t := if e.count = 0 then t else t.lvqPush { lvqHeader 2 t.arch.issued t.arch.pc t.regionId with recs := rs }
      joinRest w s t e rs

/-- Where the join entry of a continuation is closed. -/
def State.jpcOf (s : State) (r : ContRec) : Option DWord :=
  (s.teams.flatMap (fun t => t.arch.joins)).find? (fun j => j.name == r.entry) |>.map (·.jpc)

/-- JOIN (R236). On the lantern a continuation ends at any JOIN (R238). -/
def execJoin (w : FullT) (s : State) : Host.Outcome State Fault Refusal :=
  match s.issuer with
  | none => .fault .noIssuer
  | some t => match t.kind, t.cont with
    | .lantern, some r => .next (s.lanternEnd t (if s.jpcOf r = some t.arch.pc then 1 else 2))
    | _, _ =>
      issueWord
        { ctlWord w none (joinEffect w) with
          demand := fun _ t => { dests := match t.arch.stack with
            | .join e :: _ => if e.ej != 0 && e.pend == 0 then (List.range e.nv).map (e.vFirst + ·) else []
            | _ => [] } } s

/-! ### WAITV, YIELD (R243, R244) -/

/-- WAITV's comparison. -/
def waitvHolds (cond : Nat) (signed : Bool) (v b : Nat) : Bool :=
  let x := intOf signed 32 v
  let y := intOf signed 32 b
  match cond with
  | 0 => x == y
  | 1 => x != y
  | 2 => x < y
  | _ => x ≥ y

/-- The read is done: the register, the acquire, the imported tags; a leading copy passes the value on (R243, R365). -/
def waitvDone (w : FullT) (scope : Nat) (tags : List (Nat × Nat)) (note : Nat × Word × Nat) (va v : Nat) (s : State) (t : Team) : WordEnd :=
  let n := match opd w.d with
    | .scal n => n
    | _ => 0
  let x : Word := BitVec.ofNat 32 v
  let e : LvqEntry := { lvqValues t.arch.issued t.arch.pc t.regionId [(0, va)] [(n, 0, x)] with note := note }
  if !t.lvqRoom e then .wait s (.wait .lvqRoom)
  else
  let t := ({ t with arch := t.arch.noteWords t.arch.issued note }.lvqPush e).gather t.regionId tags
  .done (if t.role == .trailing then s else s.acquireAt t scope) { t with arch := { (t.arch.sset n x) with waitFrom := none } } none

/-- What WAITV's read of its word gives: a value with tags, a fault, or a page to wait for. -/
def State.waitvRead (s : State) (t : Team) (sp : Space) (va : Nat) : State × ReadEnd :=
  if sp != .glob then s.readScratch t t.nextId sp va 4
  else
    let tag : State × CellTag := match s.translate (s.asidOf t) va with
      | (s, .ok h base _ _ _) => (s, s.tagSeen t t.nextId va h base)
      | (s, _) => (s, .value)
    if tag.2 != .value then (tag.1, .stuck (.fault .geodeState 0 8))
    else tag.1.readGlobal t t.nextId t.regionId t.arch.pc 0 va 4 true false false false

/-- A word's line as a WAITV finds it at its target: with another value here a write has been performed there. Of another package's line, whether an
answer has come (log 40). -/
def State.lineSeen (s : State) (t : Team) (sp : Space) (va : Nat) : List Nat :=
  let first := va / 64 * 64
  if sp = .glob then
    let asid := s.asidOf t
    match s.reached asid va with
    | (s, .ok h base _ _ _) =>
      (match s.tagAt h base with | .value => 0 | .geode => 1 | .forming => 2 | .poison => 3) ::
        (s.overlayPending .glob asid 0 first (s.lineBytes asid first h (base / 64 * 64) 64)).map (·.toNat)
    | (s, .remote _) => if (s.frame? asid va).isSome then [1] else []
    | _ => [2]
  else
    let c := s.scratchOf t sp
    let p := s.placeOf t sp first
    (s.overlayPending sp p.owner p.core first (c.mem.bytes first 64)).map (·.toNat) ++
      (List.range 16).map (fun i => if c.isValid (first + 4 * i) then 1 else 0)

/-- WAITV parks: the tick of its first read stays with the team. -/
def State.waitvPark (s : State) (t : Team) (w : WaitOn) : State :=
  (s.wordWait t (.wait w)).updTeam t.uid (fun x => { x with arch := { x.arch with waitFrom := some (t.arch.waitFrom.getD s.tick) } })

/-- The read found another value than the condition wants: the team parks until the line is written; of another package's line the read is
asked for again. -/
def State.waitvAgain (s : State) (t : Team) (sp : Space) (va : Nat) (until_ : Option Nat) : State :=
  let s := if sp = .glob ∧ s.isRemote va then s.askLink t.loc.chip (s.asidOf t) 4 (.remoteRead (deviceOf va) (s.asidOf t) va 4) else s
  s.waitvPark t (.word sp va until_ (s.lineSeen t sp va))

/-- WAITV has read its word: under `uninit.trap` a word never written traps at it, under `uninit.log` the completing read counts it (R143,
R152; log 119). -/
def waitvTest (w : FullT) (sp : Space) (va : Nat) (bs : List Byte) (tags : List (Nat × Nat)) (inv : List (Space × Nat)) (s : State) (t : Team) :
    WordEnd :=
  let f := w.off.toNat
  let v := bytesNat bs
  let limit := (w.ext.map (fun e => e.imm.toNat)).getD 0
  let from_ := t.arch.waitFrom.getD s.tick
  let mode := if inv.isEmpty then 0 else s.uninitMode t
  if mode = 1 then .trap { cause := .scratchUninit, eaddr := BitVec.ofNat 64 va, once := true, deferred := true }
  else if waitvHolds (f / 1024 % 4) (f / 512 % 2 == 1) v (scalVal t.arch w.b) || (limit != 0 && from_ + limit ≤ s.tick) then
    let note := if mode = 2 then t.arch.noted (t.arch.noteUninit t.arch.issued 0 inv) t.arch.issued else (0, 0, 0)
    waitvDone w (scopeIn sp (f / 64 % 8)) tags note va v s t
  else .act (s.waitvAgain t sp va (if limit = 0 then none else some (from_ + limit)))

/-- WAITV's effect (R243). -/
def waitvEffect (w : FullT) (s : State) (t : Team) : WordEnd :=
  let f := w.off.toNat
  let sp := spaceOf (f / 4096)
  let va := if sp = .glob then (match opd w.a with
    | .scal n => t.arch.spair n
    | _ => 0) else scalVal t.arch w.a
  match accessTrap sp (s.scratchOf t sp).size 4 4 true [(0, va)] with
  | some tr => .trap tr
  | none =>
    if t.role == .trailing then
      match s.lvqFind t (atWord 0 t.arch) with
      | none => .wait s (.wait .lvqEntry)
      | some e =>
        let s := s.lvqDrop t (atWord 0 t.arch)
        if e.addrs.any (fun x => x.2 != va) then .act (s.wordDiffers t)
        else waitvDone w (scopeIn sp (f / 64 % 8)) [] e.note va ((e.vals.head?.map (fun x => x.2.2.toNat)).getD 0) s t
    else match s.gate t sp [(0, va)] 4 EntryKind.stopsLoad with
      | some c => .wait s (.wait c)
      | none =>
        if s.loadMustWait t sp [(0, va)] 4 then s.waitOlder t
        else match s.passGate t with
        | (s, t) =>
          match s.waitvRead t sp va with
          | (s, .bytes bs tags inv) =>
            let s := if sp = .glob then s else s.watchTeam t.uid sp va 4 1 0 t.arch.pc (some t.regionId)
            waitvTest w sp va bs tags inv s { t with watch := ((s.team? t.uid).map (·.watch)).getD t.watch }
          | (s, .stuck .page) =>
            let (id, t) := t.freshId
            let a : Access := { id := id, word := t.arch.issued, pc := t.arch.pc, region := t.regionId, once := true, kind := .probe none,
                                lanes := [{ lane := 0, addr := va, st := .page }], susp := false, lost := [] }
            .act ({ s with issue := none }.setTeam { t with accs := t.accs ++ [a], run := .memory false, waitSlots := 0 })
          | (_, .stuck (.fault c code det)) =>
            .trap { cause := c, eaddr := BitVec.ofNat 64 va, einfo := BitVec.ofNat 32 (code * 2 ^ 24), once := true, deferred := true,
                    detail := if det = 0 then none else some (gdetailOf t.depth det) }
          | (s, .stuck _) =>
            if s.outboundHas t.loc.pkgCore (s.asidOf t) (lineOf va) then .act (s.waitvPark t (.outbound false))
            else .act (s.waitvPark t (.word sp va none []))

/-- WAITV (R243). -/
def execWaitv (w : FullT) (s : State) : Host.Outcome State Fault Refusal :=
  let glob := w.off.toNat / 4096 = 0
  issueWord { ctlWord w (firstTrap [scalReg w.d, if glob then scalPair w.a else scalCheck w.a, scalCheck w.b]) (waitvEffect w) with
              sample := true } s

/-- YIELD (R244). -/
def execYield (w : FullT) (s : State) : Host.Outcome State Fault Refusal :=
  issueWord (ctlWord w (scalCheck w.a) (fun s t =>
    .done s { t with arch := { t.arch with yield := max (scalVal t.arch w.a % 256) 1 } } none)) s

/-! ### SPAWN, LAUNCH (R245, R247) -/

/-- The lanes whose records the next part of a SPAWN holds: at most 512 (R245). -/
def spawnLanes (w : FullT) (t : Team) : List Nat :=
  let ls := if (opd w.a).isVec then lanesOf t.tw t.arch.live else [0]
  if t.arch.spawned then ls.drop 512 else ls.take 512

/-- SPAWN needs a second part. -/
def spawnMore (w : FullT) (t : Team) : Bool := (opd w.a).isVec && !t.arch.spawned && 512 < (lanesOf t.tw t.arch.live).length

/-- The kind-2 record of one lane (R245). -/
def State.spawnRecord (s : State) (t : Team) (w : FullT) (n l : Nat) : ContRec :=
  let a := t.arch
  let g := s.gridOf t
  { entry := 0, pc := BitVec.ofNat 64 (relTarget w a), core := t.loc.pkgCore, slot := 8 * t.loc.part + t.loc.slot,
    gen := (s.core t.loc.pkgCore).gens.getD (8 * t.loc.part + t.loc.slot) 0, depth := 0, lane := l, kind := 2, nv := n, ns := 0,
    kbits := 0, enab := a.enables, sticky := 0, status := 0, tenant := (g.map (·.tenant)).getD 0, prio := (g.map (·.lrec.prio)).getD 0,
    asid := (g.map (·.asid)).getD 0,
    regs := (List.range 16).map (fun i => if i < n then (match opd w.a with
      | .scal r => a.sget (r + i)
      | .vec r => a.vget (r + i) l
      | _ => 0) else 0),
    vFirst := 0, sFirst := 0, raised := 0 }

/-- Records in a die's task arena: those of its bins, and waiter records (R225, R257). -/
def Die.arenaUsed (d : Die) : Nat := d.arena.length + (d.bins.map (·.length)).foldl (· + ·) 0

/-- SPAWN (R245). -/
def execSpawn (w : FullT) (s : State) : Host.Outcome State Fault Refusal :=
  let n := w.b.toNat - 0x780
  let check : Option Trap := match opd w.a with
    | .vec _ => none
    | .scal r => trapIf (128 < r + n) reservedTrap
    | _ => some reservedTrap
  let bound (t : Team) : Option Trap := match opd w.a with
    | .vec r => if t.regs ≤ r then some (boundTrap r) else if t.regs < r + n then some (boundTrap t.regs) else none
    | _ => none
  issueWord
    { len := extLen w.ext, hd := w.hd, once := !(opd w.a).isVec, check := fun _ _ => check, bounds := fun _ t => bound t,
      demand := fun _ t => { entries := 2 * (spawnLanes w t).length },
      effect := fun s t =>
        let ls := spawnLanes w t
        if t.role != .trailing && (s.die t.loc.chip).arenaCap < (s.die t.loc.chip).arenaUsed + ls.length then .wait s (.wait .arena)
        else
          let more := spawnMore w t
          let t1 := ls.foldl (fun (t1 : Team) l => t1.hold (.spawn (s.spawnRecord t w n l)) 0 .none (1 <<< l) s.tick) t
          let t1 := { t1 with arch := { t1.arch with spawned := more } }
          if more then .act ({ s with issue := none }.setTeam (t1.note {})) else .done s t1 none } s

/-- LAUNCH (R247). -/
def execLaunch (w : FullT) (s : State) : Host.Outcome State Fault Refusal :=
  issueWord
    { ctlWord w (scalPair w.a) (fun s t =>
        let va := match opd w.a with
          | .scal n => t.arch.spair n
          | _ => 0
        if va % 128 != 0 || !deviceHalf va then .trap { cause := .align, eaddr := BitVec.ofNat 64 va, once := true }
        else
          let (id, t) := t.freshId
          let t := t.hold (.launch (BitVec.ofNat 64 va)) id (t.probeOf .glob) 1 s.tick
          .done s (if t.role == .trailing then t else t.addAccess id true .launch [(0, va)]) none) with
      demand := fun _ _ => { entries := 1 } } s

/-! ### REGA, REGR (R248) -/

/-- REG_BOUND of a change of allotment. -/
def allotTrap (n : Nat) : Trap := { cause := .regBound, einfo := BitVec.ofNat 32 (0x20000 + n % 65536), once := true }

/-- The operand of REGA and REGR. -/
def allotN (w : FullT) (a : Arch) : Nat := (srcB w.a w.ext).read a 1 0

/-- The operand's class. -/
def allotCheck (w : FullT) : Option Trap := if w.ext.isSome then none else scalCheck w.a

/-- REGA (R248, R224). -/
def execRega (w : FullT) (s : State) : Host.Outcome State Fault Refusal :=
  issueWord
    { ctlWord w (allotCheck w) (fun s t =>
        let n := allotN w t.arch
        if n = 0 || n % 16 != 0 || 1536 < t.regs + n || registerFile t.loc.chip < (t.regs + n) * t.tw then .trap (allotTrap n)
        else
          let older := (s.partTeams t.loc.pkgCore t.loc.part).any (fun u => u.uid != t.uid && u.wants.isSome && u.older t)
          if !older && n * t.tw ≤ s.lanesFree t.loc.pkgCore t.loc.part then .done s (t.grow n 0) none
          else
            let s := { s with issue := none }.setTeam { t with run := .registers n (extLen w.ext) w.hd.sw, waitSlots := 0 }
            .act (s.grantPart t.loc.pkgCore t.loc.part)) with
      closing := fun _ _ => true } s

/-- A live set of lanes that are out that a smaller allotment would cut (R248). -/
def Team.cutsLiveSet (t : Team) (regs : Nat) : Option Nat :=
  (t.arch.joins.filter (fun e => t.ctr e != 0 && e.nv != 0 && regs < e.vFirst + e.nv)).head?.map (fun e => max e.vFirst regs)

/-- REGR (R248, R224). -/
def execRegr (w : FullT) (s : State) : Host.Outcome State Fault Refusal :=
  issueWord
    { ctlWord w (allotCheck w) (fun s t =>
        let n := allotN w t.arch
        if n = 0 || n % 16 != 0 || t.regs < 16 + n then .trap (allotTrap n)
        else match t.cutsLiveSet (t.regs - n) with
          | some r => .trap { cause := .regBound, einfo := BitVec.ofNat 32 (0x30000 + r), once := true }
          | none =>
            let t := { t with regs := t.regs - n, borrowed := t.borrowed - n * t.tw, arch := { t.arch with v := t.arch.v.take (t.regs - n) } }
            .done ((s.setTeam t).grantPart t.loc.pkgCore t.loc.part) t none) with
      closing := fun _ _ => true } s

end Sys2Proof.Machine
end

