-- ==== Sys2Proof/Machine/Atomics.lean ====
section
/-! DEFINITION. ATOM and CAS (06_memory_instructions.md, R158–R162): the operation on a word, the indivisible read-modify-write at
a target, and the one-instruction region with its pending interval. -/

namespace Sys2Proof.Machine

/-- The new value of a word (Table 6.7). -/
def atomNew (op ty old v : Nat) : Nat :=
  match op with
  | 0 =>
    match tyFmt ty with
    | some _ => (floats2 ty (fun f a b => fAdd f 0 a b) old v).1
    | none => intElem2 ty (· + ·) old v
  | 1 =>
    match tyFmt ty with
    | some _ => (floats2 ty (fun f a b => fMinMax f false a b) old v).1
    | none => intElem2 ty (fun a b => if a ≤ b then a else b) old v
  | 2 =>
    match tyFmt ty with
    | some _ => (floats2 ty (fun f a b => fMinMax f true a b) old v).1
    | none => intElem2 ty (fun a b => if a ≥ b then a else b) old v
  | 3 => old &&& v
  | 4 => old ||| v
  | 5 => old ^^^ v
  | 6 => v
  | 7 => if v ≤ old then 0 else old + 1
  | _ => if old = 0 ∨ v < old then v else old - 1

/-- An operation that PCI Express has as an AtomicOp (R161). -/
def isAtomicOp (op ty : Nat) : Bool := op == 6 || (op == 0 && [0, 1, 13, 14].contains ty)

/-- One indivisible read-modify-write at the target (R145, R159): the old bytes. `f` gives the new value, or none to write
nothing. `pr` is what a held atomic's probe found. The core's older stores to the line have been performed. -/
def State.rmw (s : State) (t : Team) (pr : Probe) (sp : Space) (a n : Nat) (f : Nat → Option Nat) : State × List Byte :=
  match sp with
  | .glob =>
    let asid := s.asidOf t
    let s := s.dropRead t.loc.pkgCore (fun l => l.asid == asid && l.line == lineOf a)
    match s.keptAt pr asid a with
    | (s, .ok h base _ _ p) =>
      let s := s.fillSlice asid a h base p
      let old := s.lineBytes asid a h base n
      match f (bytesNat old) with
      | some x => (s.sliceWrite asid a h base p (natBytes n x), old)
      | none => (s, old)
    | (s, _) => (s, List.replicate n 0)
  | _ =>
    let old := (s.scratchOf t sp).mem.bytes a n
    match f (bytesNat old) with
    | some x => (s.updScratch t sp (fun c => c.write a (natBytes n x)), old)
    | none => (s, old)

/-- What the target's slice says of a line before a write or an atomic: translation, permission and tag (R153, R154, R160, R161).
`hostOk = false` marks a host-half operation that is no AtomicOp. -/
def State.probeAt (s : State) (t : Team) (before va : Nat) (atomic hostOk : Bool) : State × LaneState :=
  match s.translate (s.asidOf t) va with
  | (s, x) =>
    match x.check .write t.arch.inHandler with
    | .bad code => (s, .fault .access code 0)
    | .absent =>
      match s.startMiss (s.asidOf t) va 1 (((s.gridOf t).map (·.lrec.gridtag)).getD 0) with
      | (s, true) => (s, .page)
      | (s, false) => (s, .fault .pageFault 0x10 0)
    | .remote d => match s.askFar t.loc.chip (s.asidOf t) va d with
      | (s, came) => (s, if came then .done else .waiting)
    | .ok h base _ _ _ =>
      if h && !hostOk then (s, .fault .access 0x01 0)
      else if s.tagSeen t before va h base != .value then (s, .fault .geodeState 0 1)
      else if atomic && s.badData h base then ({ s with log := s.log ++ [.storage base] }, .fault .access 0x09 0)
      else (s, .done)

/-- The zones of the targets that are not the team's own cluster (R160): a host-half `.sys` operation has none, another package is reached
through the hub; of more than two the tag is package-wide (R342), and every zone is waited for. -/
def State.targetZones (s : State) (t : Team) (sp : Space) (scope : Nat) (ls : List LaneAddr) : List Nat :=
  match sp with
  | .glob =>
    let zs := (ls.filterMap (fun x => if s.isRemote x.2 then some hubZone
      else if !deviceHalf x.2 && scope == 5 then none else some (dieZone (s.sliceDie x.2)))).eraseDups
    if zs.length ≤ 2 then zs else s.variant.zones
  | .gallery => [dieZone (s.galleryDie t)]
  | _ => []

/-- Every core of a partition drains its outbound buffer (`.rp`, R156). -/
def State.drainPart (s : State) (p : Nat) : State :=
  (List.range 64).foldl (fun s c => if s.inPart p (c / 8) (c % 8 / 2) then s.drainAll c else s) s

/-- Every outbound buffer of a partition's cores is empty: each core has drained and acknowledged (R156). -/
def State.partDrained (s : State) (p : Nat) : Bool :=
  (List.range 64).all (fun c => !s.inPart p (c / 8) (c % 8 / 2) || (s.core c).outbound.isEmpty)

/-- An ATOM with return or a CAS: operands per lane, and the new value from the old one. -/
structure AtomReq where
  m     : MemOpd
  n     : Nat
  once  : Bool
  dest  : Dest
  regs  : List Nat
  acq   : Bool
  rel   : Bool
  scope : Nat
  rp    : Bool
  op    : Option (Nat × Nat)
  opds  : Arch → Nat → DWord × DWord      -- operand, comparand

/-- The new value of a request in a lane. -/
def AtomReq.new (r : AtomReq) (v cmp : DWord) (old : Nat) : Option Nat :=
  match r.op with
  | some (op, ty) => some (atomNew op ty old v.toNat)
  | none => if old = cmp.toNat then some v.toNat else none

/-- A host operation that is no AtomicOp (R161). -/
def AtomReq.hostOk (r : AtomReq) : Bool :=
  r.scope != 5 || match r.op with
    | some (op, ty) => isAtomicOp op ty
    | none => true

/-- A lane performed later: at a remote device, or at host memory by the hub (R161). -/
def State.laterLane (s : State) (r : AtomReq) (va : Nat) : Bool :=
  r.m.sp == .glob && (s.isRemote va || (!deviceHalf va && r.scope == 5))

/-- Performs the lanes of a request in ascending order at their targets; words keep their first pre-image last. -/
def AtomReq.perform (r : AtomReq) (region : Nat) (pc : DWord) (asid : Nat) :
    List LaneAddr → State → Team → PendAtom → State × PendAtom
  | [], s, _, x => (s, x)
  | (l, a) :: rest, s, t, x =>
    let (v, cmp) := r.opds t.arch l
    if s.laterLane r a then
      let s := if s.isRemote a then
          s.sendLink t.loc.chip asid r.n (.remoteAtom (deviceOf a) asid a ((r.op.map (·.1)).getD 15) ((r.op.map (·.2)).getD 0) r.n [v, cmp])
        else s
      r.perform region pc asid rest s t { x with work := x.work ++ [(l, a, v, cmp)], remote := x.remote || s.isRemote a }
    else
      let place := s.placeOf t r.m.sp a
      let c := s.scratchOf t r.m.sp
      let fresh := if r.m.sp = .glob then [] else
        ((List.range (r.n / 4)).map (fun i => { place with addr := a + 4 * i })).filter (fun p => !c.isValid p.addr && !x.fresh.contains p)
      match s.rmw t .none r.m.sp a r.n (r.new v cmp) with
      | (s, old) =>
        let s := s.watchTeam t.uid r.m.sp a r.n 3 l pc (some region)
        r.perform region pc asid rest s t
          { x with words := x.words ++ [(place, r.n, old)], fresh := x.fresh ++ fresh, olds := x.olds ++ [(l, BitVec.ofNat 64 (bytesNat old))] }

/-- The core's outbound buffer holds something that must be performed before the request: any entry before a release of scope `.clus` or wider,
else what lies on the words' lines (R144, R150). -/
def AtomReq.buffered (r : AtomReq) (s : State) (t : Team) (ls : List LaneAddr) : Bool :=
  (r.rel && 2 ≤ r.scope && !(s.core t.loc.pkgCore).outbound.isEmpty) ||
  (r.m.sp == .glob && ls.any (fun x => s.outboundHas t.loc.pkgCore (s.asidOf t) (lineOf x.2)))

/-- The effect of a returning atomic, reached with every region cleared and every entry performed (R160). -/
def AtomReq.effect (r : AtomReq) (hd : Head) (s : State) (t : Team) : WordEnd :=
  let ls : List LaneAddr := (memLanes t hd r.once).map (fun l => (l, r.m.addr t.arch l))
  match accessTrap r.m.sp (s.scratchOf t r.m.sp).size r.n r.n r.once ls with
  | some tr => .trap tr
  | none =>
    if ls.isEmpty then .done s t none
    else match s.gate t r.m.sp ls r.n EntryKind.stopsWrite with
      | some c => .wait s (.wait c)
      | none =>
        let trailing := t.role == .trailing
        -- every lane is checked before any is performed
        let checked := if r.m.sp = .glob && !trailing then
            ls.foldl (fun (acc : State × List LaneAcc) x =>
              let y := acc.1.probeAt t t.nextId x.2 true r.hostOk
              (y.1, acc.2 ++ [{ lane := x.1, addr := x.2, st := y.2 }])) (s, [])
          else (s, [])
        let s := checked.1
        let (id, t) := t.freshId
        let a : Access := { id := id, word := t.arch.issued, pc := t.arch.pc, region := t.nextRegion, once := r.once, kind := .probe none,
                            lanes := checked.2, susp := false, lost := [] }
        if checked.2.any (fun l => l.st == .page || l.st == .waiting) then
          .act ({ s with issue := none }.setTeam { t with accs := t.accs ++ [a], run := .memory false, waitSlots := 0 })
        else match a.cause with
          | some c => .trap (a.trap t c)
          | none =>
            let need := r.regs.length * t.tw
            let s := if trailing then s else if r.rp then s.drainPart (s.tenantOf t) else if r.buffered s t ls then s.drainAll t.loc.pkgCore else s
            if need != 0 && renameStore t.loc.chip < s.renameUsed t.loc + need then .wait s (.wait (.rename need))
            else if !trailing && ls.any (fun x => s.pendingHere t r.m.sp x.2 r.n) then .wait s (.wait (.target r.m.sp (ls.map (·.2)) r.n))
            else if !trailing && r.rp && !s.partDrained (s.tenantOf t) then .wait s (.wait (.outbound true))
            else if !trailing && r.buffered s t ls then .wait s (.wait (.outbound false))
            else
              match s.passGate t with
              | (s, t) =>
                let region := t.nextRegion
                let s := s.dropGood (s.asidOf t) (ls.map (fun x => x.2 / 64 * 64))
                let zones := s.targetZones t r.m.sp r.scope ls
                let fold := ls.flatMap (fun x => foldTarget r.m.sp x.2 ++ natBytes 8 (r.opds t.arch x.1).1.toNat ++
                  natBytes 8 (r.opds t.arch x.1).2.toNat)
                let t1 := ((t.openAt s.tick 64 8).updOpen (fun g => { g with folded := fold })).note { dests := r.regs }
                let t1 := { (t1.closeRegion s.tick) with needHead := true }
                if trailing then
                  let w := if r.n = 8 then 3 else 2
                  let b : Access := { a with kind := .load r.m.sp w false false false 0 r.dest true
                                             lanes := ls.map (fun x => { lane := x.1, addr := x.2, st := .waiting }) }
                  .done s { t1 with accs := t1.accs ++ [b] } none
                else
                  let t1 := t1.gather region (zones.map (fun z => (z, s.tick)))
                  let p : Pending := { id := id, pc := t.arch.pc, region := region, dest := .none, x2 := false,
                                       lanes := maskOfList (ls.map (·.1)), vals := [] }
                  let t1 := { t1 with pend := t1.pend ++ [p] }
                  let (xid, s) := s.fresh
                  let x : PendAtom :=
                    { id := xid, team := t.uid, region := region, seq := id, word := t.arch.issued, pc := t.arch.pc, t := s.tick, own := t.loc.zone,
                      target := zones, words := [], olds := [], dest := r.dest, wide := r.n == 8, acq := r.acq, scope := r.scope,
                      op := r.op, fresh := [], work := [], remote := false, sigOk := t.role == .single }
                  match r.perform region t.arch.pc (s.asidOf t) ls (s.setTeam t1) t1 x with
                  | (s, x) =>
                    let t2 := (s.team? t.uid).getD t1
                    .done { s with atoms := s.atoms ++ [x] } t2 none

/-- The extension word of an atomic. -/
def extOf (e : Option Ext) : Ext := e.getD { xc := 0, c := 0, imm := 0 }

/-- The lanes of an atomic without return, line by line. -/
def atomLines (ls : List (Nat × Nat × DWord)) : List (Nat × List (Nat × Nat × DWord)) :=
  (ls.map (fun x => lineOf x.2.1)).eraseDups.map (fun l => (l, ls.filter (fun x => lineOf x.2.1 == l)))

/-- ATOM (R158–R161): held like a store with NR = 1, else a one-instruction region. -/
def execAtom (w : FullM) (s : State) : Host.Outcome State Fault Refusal :=
  let m := memOf w
  let e := extOf w.ext
  let op := (e.xc.extractLsb' 0 4).toNat
  let ty := (e.xc.extractLsb' 4 4).toNat
  let n := if wideTy ty then 8 else 4
  let regs := if wideTy ty then 2 else 1
  let v : Src := .op (opd e.c)
  let vec := m.isVec || v.isVec
  let once := !vec && (w.nr || !(opd w.d).isVec)
  let lanes (t : Team) : List LaneAddr := (memLanes t w.hd once).map (fun l => (l, m.addr t.arch l))
  let req (a : Arch) : AtomReq :=
    { m := m, n := n, once := once, dest := destOf a w.d, regs := runDests a w.d regs, acq := w.ord.toNat % 2 == 1, rel := 2 ≤ w.ord.toNat,
      scope := scopeIn m.sp w.scope.toNat, rp := w.rp, op := some (op, ty),
      opds := fun a l => (BitVec.ofNat 64 (v.read a ty l), 0) }
  issueWord
    { len := extLen w.ext, hd := w.hd, once := once, sample := true,
      check := fun _ _ => firstTrap [if w.nr then none else runCheck regs (opd w.d) vec, m.check, v.check ty],
      bounds := fun _ t => firstTrap [if w.nr then none else boundCheck t regs (opd w.d), m.bound t, v.bound t (cover ty)],
      closing := fun _ _ => !w.nr,
      lantern := m.lantern (if w.nr then none else some w.d) ((if w.nr then [] else [(opd w.d, regs)]) ++ v.opds ty),
      demand := fun _ t => { entries := if w.nr then ((lanes t).map (fun x => lineOf x.2)).eraseDups.length else 0 },
      effect := fun s t =>
        if !w.nr then (req t.arch).effect w.hd s t
        else
          let ls := lanes t
          match accessTrap m.sp (s.scratchOf t m.sp).size n n once ls with
          | some tr => .trap tr
          | none =>
            if ls.isEmpty then .done s t none
            else match s.gate t m.sp ls n EntryKind.stopsWrite with
              | some c => .wait s (.wait c)
              | none =>
                match s.passGate t with
                | (s, t) =>
                  let (id, t) := t.freshId
                  let probe := t.probeOf m.sp
                  let full := ls.map (fun x => (x.1, x.2, BitVec.ofNat 64 (v.read t.arch ty x.1)))
                  let t := (atomLines full).foldl (fun t (line, ps) =>
                    t.hold (.atom m.sp line op ty n ps (2 ≤ w.ord.toNat) (scopeIn m.sp w.scope.toNat)) id probe
                      (maskOfList (ps.map (·.1))) s.tick) t
                  .done s (if probe = .waiting then t.addAccess id once (.store .glob) ls else t) none } s

/-- CAS (R162). -/
def execCas (w : FullM) (s : State) : Host.Outcome State Fault Refusal :=
  let m := memOf w
  let e := extOf w.ext
  let ty := if w.width = 3 then 14 else 1
  let n := widthBytes w.width.toNat
  let regs := widthRegs w.width.toNat
  let cmp : Src := .op (opd (e.xc.extractLsb' 0 11))
  let new : Src := .op (opd e.c)
  let vec := m.isVec || cmp.isVec || new.isVec
  let once := !vec && !(opd w.d).isVec
  issueWord
    { len := extLen w.ext, hd := w.hd, once := once, sample := true,
      check := fun _ _ => firstTrap [runCheck regs (opd w.d) vec, m.check, cmp.check ty, new.check ty],
      bounds := fun _ t => firstTrap [boundCheck t regs (opd w.d), m.bound t, cmp.bound t (cover ty), new.bound t (cover ty)],
      closing := fun _ _ => true,
      lantern := m.lantern (some w.d) ((opd w.d, regs) :: (cmp.opds ty ++ new.opds ty)),
      effect := fun s t =>
        ({ m := m, n := n, once := once, dest := destOf t.arch w.d, regs := runDests t.arch w.d regs, acq := w.ord.toNat % 2 == 1, rel := 2 ≤ w.ord.toNat,
           scope := scopeIn m.sp w.scope.toNat, rp := w.rp, op := none,
           opds := fun a l => (BitVec.ofNat 64 (new.read a ty l), BitVec.ofNat 64 (cmp.read a ty l)) } : AtomReq).effect w.hd s t } s

end Sys2Proof.Machine
end

