-- ==== Sys2Proof/Machine/Geode.lean ====
section
/-! DEFINITION. The cell-writing instructions (11_geodes_and_migration.md, R264, R265) and their probes. -/

namespace Sys2Proof.Machine

/-- The byte offset of the first field of a geode record outside its limits (Table 11.1, R265). -/
def geodeRecordBad (line : List Byte) : Option Nat :=
  let entry := fieldAt line 0 8
  let caps := fieldAt line 8 2
  let ew := fieldAt line 11 1
  let fl := fieldAt line 0x3C 4
  if entry % 8 != 0 || !entry.testBit 63 then some 0x00
  else if caps % 2 != 1 || 8 ≤ caps then some 0x08
  else if 3 ≤ fieldAt line 10 1 then some 0x0A
  else if ew / 64 = 3 || 1024 < 16 * 2 ^ (ew / 64) * (ew % 64 + 1) then some 0x0B
  else if fl = 0 || 96 < fl then some 0x3C
  else none

/-- The 64-byte line that D supplies: a vector register's lanes 0–15, or 16 scalars (R264). -/
def cellLine (a : Arch) (d : BitVec 11) : List Byte :=
  (List.range 16).flatMap (fun j => natBytes 4 (match opd d with
    | .scal n => (a.sget (n + j)).toNat
    | o => match o.vecNum a with
      | some n => (a.vget n j).toNat
      | none => 0))

/-- The check of a line operand. -/
def lineCheck (d : BitVec 11) : Option Trap :=
  match opd d with
  | .scal n => trapIf (n % 16 != 0) reservedTrap
  | .con _ => some reservedTrap
  | .reserved => some reservedTrap
  | _ => none

/-- An instruction's probe of a cell (Table 11.6): the tag and the owner. -/
def State.probeCell (s : State) (t : Team) (op : CellOp) (before va : Nat) : State × LaneState :=
  match s.translate (s.asidOf t) va with
  | (s, x) =>
    match x.check .write t.arch.inHandler with
    | .bad code => (s, .fault .access code 0)
    | .absent =>
      match s.startMiss (s.asidOf t) va 1 (((s.gridOf t).map (·.lrec.gridtag)).getD 0) with
      | (s, true) => (s, .page)
      | (s, false) => (s, .fault .pageFault 0x10 0)
    | .remote d => match s.askFar t.loc.chip (s.asidOf t) va d with
      | (s, came) => (s, if came then .done else .waiting)
    | .ok h base _ _ _ =>
      let tag := s.tagSeen t before va h base
      let owned := tag == .forming && t.ticket == some (s.ticketOf (lineOf base))
      let owner := op == .gres || op == .gpsn
      if owner then (s, if owned then .done else .fault .geodeState 0 3)
      else (s, if tag == .forming then .fault .geodeState 0 2 else .done)

/-- The word of GDEF, GRES and GPSN: the checks taken precisely, then one held entry behind a probe (R264). -/
def cellWord (w : FullM) (op : CellOp) : Word1 :=
  let m := memOf w
  let line (a : Arch) : List Byte :=
    if op = .gpsn ∨ op = .gpsnSet then poisonRecord (scalVal a w.d) 0 0 0 else cellLine a w.d
  { len := extLen w.ext, hd := w.hd, once := true,
    check := fun _ _ => firstTrap [if op = .gpsn ∨ op = .gpsnSet then scalCheck w.d else lineCheck w.d, scalPair w.a, scalCheck w.b],
    bounds := fun _ t => if op = .gpsn ∨ op = .gpsnSet then none else boundCheck t 1 (opd w.d),
    demand := fun _ _ => { entries := 1 },
    effect := fun s t =>
      let va := m.addr t.arch 0
      let data := line t.arch
      let bad := if op = .gdef then geodeRecordBad data else none
      if va % 64 != 0 then .trap { cause := .align, eaddr := BitVec.ofNat 64 va, once := true }
      else if !deviceHalf va then .trap { cause := .access, eaddr := BitVec.ofNat 64 va, einfo := 0x02000000, once := true }
      else match bad with
        | some off => .trap { cause := .geodeState, eaddr := BitVec.ofNat 64 va, einfo := BitVec.ofNat 32 off, once := true,
                              detail := some (gdetailOf t.depth 11) }
        | none =>
          let ls : List LaneAddr := [(0, va)]
          match s.gate t .glob ls 64 EntryKind.stopsWrite with
          | some c => .wait s (.wait c)
          | none =>
            match s.passGate t with
            | (s, t) =>
              let (id, t) := t.freshId
              let probe := t.probeOf .glob
              let t := t.hold (.cell op va data) id probe 1 s.tick
              .done s (if probe = .waiting then t.addAccess id true (.probe (some op)) ls else t) none }

/-- GDEF (R264). -/
def execGdef (w : FullM) (s : State) : Host.Outcome State Fault Refusal := issueWord (cellWord w .gdef) s

/-- GRES (R264): the owner form. -/
def execGres (w : FullM) (s : State) : Host.Outcome State Fault Refusal := issueWord (cellWord w .gres) s

/-- GRES.set (R264). -/
def execGresSet (w : FullM) (s : State) : Host.Outcome State Fault Refusal := issueWord (cellWord w .gresSet) s

/-- GPSN (R264): the owner form. -/
def execGpsn (w : FullM) (s : State) : Host.Outcome State Fault Refusal := issueWord (cellWord w .gpsn) s

/-- GPSN.set (R264). -/
def execGpsnSet (w : FullM) (s : State) : Host.Outcome State Fault Refusal := issueWord (cellWord w .gpsnSet) s

end Sys2Proof.Machine
end

