-- ==== Sys2Proof/Machine/Matrix.lean ====
section
/-! DEFINITION. The matrix group (05_matrix_instructions.md): fragments, tiles, block scales. -/

namespace Sys2Proof.Machine

/-! ### Operands and layouts -/

/-- A direct vector run (R116). -/
def vecRun (f : BitVec 11) : Option Trap :=
  match opd f with
  | .vec _ => none
  | _ => some reservedTrap

/-- A run's bound: the first register out of range (R116). -/
def runBound (t : Team) (f : BitVec 11) (n : Nat) : Option Trap :=
  let k := f.toNat
  if t.regs ≤ k then some (boundTrap k) else trapIf (t.regs < k + n) (boundTrap t.regs)

/-- A tile group's field: a tile number that is a multiple of 4 (R112, R116). -/
def groupCheck (f : BitVec 11) : Option Trap := firstTrap [classCheck 32 f, trapIf (f.toNat % 4 != 0) reservedTrap]

/-- A tile group's bound: its last tile (R112). -/
def groupBound (t : Team) (f : BitVec 11) : Option Trap := tileCheck t (f.toNat + 3)

/-- DIVERGENT_COLLECTIVE from a matrix instruction (R119). -/
def divergent (code : Nat) (lanes : Mask) (once : Bool) : Trap :=
  { cause := .divergentCollective, einfo := BitVec.ofNat 32 code, emask := lanes, once := once }

/-- The float format of a FMT code; none for `.i8` (R34). -/
def matFmt (fmt : Nat) : Option Fmt :=
  match fmt with
  | 0 => some .e4m3
  | 1 => some .e5m2
  | 2 => some .mk8
  | 4 => some .f16
  | 5 => some .bf16
  | _ => none

/-- K of one instruction, and elements of a register (Tables 5.2, 5.3). -/
def matK (fmt : Nat) : Nat := if 4 ≤ fmt then 16 else 32
def matPer (fmt : Nat) : Nat := if 4 ≤ fmt then 2 else 4

/-- Element k of a run split over two lanes `step` apart: lane base for the first half of K (R114, R115). -/
def fragHalf (a : Arch) (fmt reg lane step k : Nat) : Nat :=
  let half := matK fmt / 2
  let per := matPer fmt
  elemAt (32 / per) (a.vget (reg + k % half / per) (lane + step * (k / half))).toNat (k % per)

/-- Element k of a run held whole by one lane (Table 5.3, B). -/
def fragWhole (a : Arch) (fmt reg lane k : Nat) : Nat :=
  elemAt (32 / matPer fmt) (a.vget (reg + k / matPer fmt) lane).toNat (k % matPer fmt)

/-- One block's result: the window sum of the products, or the exact integer sum, with an incoming value (R75, R77). -/
def blockResult (fmt : Nat) (acc : Option Nat) (xs ys : List Nat) : Nat × Flags :=
  match matFmt fmt with
  | some f => windowSum ((xs.zip ys).map (fun p => (f.read p.1).mul (f.read p.2))) (acc.map Fmt.f32.read)
  | none => (wrapTo 32 ((xs.zip ys).foldl (fun s p => s + intOf true 8 p.1 * intOf true 8 p.2) ((acc.getD 0 : Nat) : Int)), 0)

/-! ### The residue check (R133) -/

/-- A non-zero finite term of a block as the checker takes it: its sign, the product P of the significands, and the power of two g. -/
def resTerm (fmt x y : Nat) : Option (Bool × Nat × Int) :=
  match matFmt fmt with
  | none =>
    let p := intOf true 8 x * intOf true 8 y
    if p = 0 then none else some (decide (p < 0), p.natAbs, 0)
  | some .mk8 =>
    let g (c : Nat) : Int := ((mk8Shape c).2 : Int) - (mk8Shape c).1 - 10
    if x % 128 = 0 ∨ y % 128 = 0 then none
    else some (x.testBit 7 != y.testBit 7, mk8Sig (x % 128) * mk8Sig (y % 128), g (x % 128) + g (y % 128))
  | some f => match (f.read x).mul (f.read y) with
    | some (.fin n m e) => if m = 0 then none else some (n, m, e)
    | _ => none

/-- The terms of a block. -/
def resTerms (fmt : Nat) (xs ys : List Nat) : List (Bool × Nat × Int) := (xs.zip ys).filterMap (fun p => resTerm fmt p.1 p.2)

/-- The least power of two of some terms. -/
def resBase (ts : List (Bool × Nat × Int)) : Int := ((ts.map (·.2.2)).min?).getD 0

/-- The exact sum S that the array forms (step 2). -/
def arraySum (ts : List (Bool × Nat × Int)) : Int :=
  (ts.map (fun (t : Bool × Nat × Int) => (if t.1 then (-1 : Int) else 1) * (t.2.1 : Int) * 2 ^ (t.2.2 - resBase ts).toNat)).foldl (· + ·) 0

/-- The residue that the checker forms of the operand significands (step 3). -/
def checkSum (ts : List (Bool × Nat × Int)) : Nat :=
  ((ts.map (fun (t : Bool × Nat × Int) => (if t.1 then (-1 : Int) else 1) * ((t.2.1 % 63 : Nat) : Int) * 2 ^ ((t.2.2 - resBase ts).toNat % 6))).foldl (· + ·) 0 % 63).toNat

/-- The checker's residue of a block. -/
def blockCheck (fmt : Nat) (xs ys : List Nat) : Nat := checkSum (resTerms fmt xs ys)

/-- The check of a matrix instruction goes with its region (R134). -/
def Team.addCheck (t : Team) (id : Nat) (sums : List Nat) : Team :=
  t.updOpen (fun r => { r with checks := r.checks ++ [{ pc := t.arch.pc, id := id, sums := sums, doneT := none }] })

/-- A follower-core team waits while the leader's array drives its own (R122). -/
def State.arrayBusy (s : State) (t : Team) : Bool :=
  t.loc.core == 1 && s.teams.any (fun u => u.loc.pkgCore + 1 == t.loc.pkgCore && u.pend.any (·.x2))

/-- A matrix instruction's effect, once the array is free. -/
def onArray (f : State → Team → WordEnd) (s : State) (t : Team) : WordEnd :=
  if s.arrayBusy t then .act ({ s with issue := none }.setTeam { t with run := .wait .array, waitSlots := 0 })
  else f s t

/-- Gathers a matrix instruction's flags once, with a deferred ARITH_EXC where one is enabled (R118). -/
def Team.matFlags (t : Team) (id : Nat) (fl : Flags) (once : Bool) (lanes : Mask) : Team :=
  let en := t.arch.enables
  let t := { t with arch := t.arch.orFlags fl }
  if fl &&& en = 0 then t
  else { t with deferred := t.deferred ++ [{ id := id, pc := t.arch.pc, region := t.regionId, flags := fl, once := once, lanes := lanes }] }

/-! ### MMA, MMAM (R120) -/

/-- One block of a fragment product: the register and lane of its element, and its operands along K. -/
abbrev MatBlock := Nat × Nat × List Nat × List Nat

/-- Every block that MMA or MMAM computes in set f. `rowOn` and `colOn` turn rows and columns on, `dep` depths. -/
def mmaBlocks (a : Arch) (w : FullX) (f : Nat) (rowOn colOn dep : Nat → Bool) : List MatBlock :=
  let fmt := w.fmt.toNat
  let ks := (List.range (matK fmt)).filter dep
  let rows := (List.range 16).map (fun i => ks.map (fragHalf a fmt w.a.toNat (32 * f + i) 16))
  let cols := (List.range 16).map (fun n => ks.map (fragHalf a fmt w.b.toNat (32 * f + n) 16))
  (List.range 16).flatMap (fun i => if !rowOn i then [] else
    (List.range 16).filterMap (fun n => if !colOn n then none else
      some (w.d.toNat + n % 8, 32 * f + i + 16 * (n / 8), rows.getD i [], cols.getD n [])))

/-- The word of MMA and MMAM; the masks are register numbers, 0 for MMA. -/
def mmaWord (w : FullX) (krow kcol kdep : Nat) : Word1 :=
  { len := extLen w.ext, hd := w.hd,
    check := fun _ _ => firstTrap [vecRun w.d, vecRun w.a, vecRun w.b],
    bounds := fun _ t => firstTrap [runBound t w.d 8, runBound t w.a 4, runBound t w.b 4],
    demand := fun _ _ => { dests := (List.range 8).map (w.d.toNat + ·) },
    effect := onArray (fun s t =>
      let a := t.arch
      let idle := fullMask t.tw &&& ~~~(a.acting t.tw w.hd)
      if t.tw % 32 != 0 then .trap (divergent 2 0 false)
      else if !w.any && idle != 0 then .trap (divergent 1 idle false)
      else
        let bit (k l : Nat) : Bool := Mask.has (a.kget k) l
        let bs := (List.range (t.tw / 32)).flatMap (fun f =>
          mmaBlocks a w f (fun i => bit krow (32 * f + i)) (fun n => bit kcol (32 * f + n)) (fun k => bit kdep (32 * f + k)))
        let rs := bs.map (fun b =>
          let r := blockResult w.fmt.toNat (if w.acc then some (a.vget b.1 b.2.1).toNat else none) b.2.2.1 b.2.2.2
          (b.1, b.2.1, r.1, r.2))
        let (id, t) := t.freshId
        let t := if bs.isEmpty then t else t.addCheck id (bs.map (fun b => blockCheck w.fmt.toNat b.2.2.1 b.2.2.2))
        let fl := rs.foldl (fun acc r => acc ||| r.2.2.2) 0
        let lanes := maskOfList ((rs.filter (fun r => r.2.2.2 &&& a.enables != 0)).map (·.2.1))
        let p : Pending := { id := id, pc := a.pc, region := t.regionId, dest := .vec w.d.toNat, x2 := false,
                             lanes := maskOfList (rs.map (·.2.1)), vals := rs.map (fun r => (r.1, r.2.1, BitVec.ofNat 32 r.2.2.1)) }
        .done s (({ t with pend := if rs.isEmpty then t.pend else t.pend ++ [p] }).matFlags id fl false lanes) none) }

/-- MMA (R120). -/
def execMma (w : FullX) (s : State) : Host.Outcome State Fault Refusal := issueWord (mmaWord w 0 0 0) s

/-- MMAM (R120): the extension word names the row, column and depth masks. -/
def execMmam (w : FullX) (s : State) : Host.Outcome State Fault Refusal :=
  let x := (extOf w.ext).xc.toNat
  issueWord (mmaWord w (x % 8) (x / 8 % 8) (x / 64 % 8)) s

/-! ### Tiles (R111, R130) -/

/-- The newest version of a tile, row-major. -/
def Arch.tile (a : Arch) (q : Nat) : List Word := a.tiles.getD q []

/-- Stages tiles: the newest version changes; the checkpoints of the region in flight keep the older ones (R130). -/
def Arch.setTiles (a : Arch) (ts : List (Nat × List Word)) : Arch :=
  { a with tiles := ts.foldl (fun acc x => acc.set x.1 x.2) a.tiles }

/-- A tile-writing word. -/
def tileWord (len : Nat) (hd : Head) (caps : Nat) (check : Option Trap) (bounds : Team → Option Trap) (demand : Team → Demand)
    (effect : State → Team → WordEnd) : Word1 :=
  { len := len, hd := hd, caps := caps, once := true, check := fun _ _ => check, bounds := fun _ t => bounds t,
    demand := fun _ t => demand t, effect := onArray effect }

/-- The tiles of a group. -/
def groupTiles (f : BitVec 11) : List Nat := (List.range 4).map (f.toNat + ·)

/-- A tile of new elements with the union of their flags. -/
def tileMap (f : Nat → Nat × Flags) : List Word × Flags :=
  let rs := (List.range 8192).map f
  (rs.map (fun r => BitVec.ofNat 32 r.1), rs.foldl (fun acc r => acc ||| r.2) 0)

/-- The rows of operand A and the columns of operand B of a product (R121). -/
def mmqRows (a : Arch) (fmt setA va : Nat) : List (List Nat) :=
  (List.range 128).map (fun r => (List.range (matK fmt)).map (fragHalf a fmt va (256 * setA + r) 128))

def mmqCols (a : Arch) (fmt setB vb q : Nat) : List (List Nat) :=
  (List.range 64).map (fun c => (List.range (matK fmt)).map (fragWhole a fmt vb (256 * setB + 64 * q + c)))

/-- The four tiles of a product of set A and set B (R121): `old q i` is element i of the old tile q of the group. -/
def mmqGroup (a : Arch) (fmt setA setB va vb : Nat) (acc : Bool) (old : Nat → List Word) : List (List Word × Flags) :=
  let rows := mmqRows a fmt setA va
  (List.range 4).map (fun q =>
    let cols := mmqCols a fmt setB vb q
    let before := old q
    tileMap (fun i => blockResult fmt (if acc then some (before.getD i 0).toNat else none) (rows.getD (i / 64) []) (cols.getD (i % 64) [])))

/-- What the checker forms of its blocks. -/
def mmqChecks (a : Arch) (fmt setA setB va vb : Nat) : List Nat :=
  let rows := mmqRows a fmt setA va
  (List.range 4).flatMap (fun q =>
    let cols := mmqCols a fmt setB vb q
    rows.flatMap (fun r => cols.map (fun c => blockCheck fmt r c)))

/-- The partner of a leader-core team (R123). -/
def State.partner (s : State) (t : Team) (q : Nat) : Option Team :=
  if t.loc.core = 0 then s.teams.find? (fun u => u.block == t.block && u.idx == t.idx + 1 && u.loc.core == 1 && q + 3 < u.acc) else none

/-- A partner's tile as an `.x2` of its issuer reads it: the issuer's own newest staging, else the partner's committed version
(R130, R132). -/
def x2Old (t u : Team) (q : Nat) : List Word :=
  match (t.regions.flatMap (·.x2)).reverse.find? (fun x => x.team == u.uid && x.tile == q) with
  | some x => x.value
  | none => match u.regions with
    | [] => u.arch.tile q
    | r :: _ => r.ckpt.tile q

/-- Stages a partner's tile in the open region (R123); what the partner's own regions in flight have written of it meets it (R132). -/
def Team.stageX2 (t u : Team) (q : Nat) (v : List Word) : Team :=
  let hit := u.regions.flatMap (fun r => (r.quarters.filter (fun x => x.1 == q)).map (fun x => (r.id, x.2)))
  t.updOpen (fun r => match r.x2.find? (fun x => x.team == u.uid && x.tile == q) with
    | some _ => { r with x2 := r.x2.map (fun x => if x.team = u.uid ∧ x.tile = q then { x with value := v } else x) }
    | none => { r with x2 := r.x2 ++ [{ team := u.uid, tile := q, value := v, hit := hit }] })

/-- MMQ (R121–R123). Of several operands out of bounds %einfo names D before A before B (DESIGN CHOICE, log 114). -/
def execMmq (w : FullX) (s : State) : Host.Outcome State Fault Refusal :=
  let q := w.d.toNat
  let set := w.set.toNat
  let staged (t : Team) : List Nat := match t.openRegion with
    | some r => r.x2.map (·.tile)
    | none => []
  issueWord (tileWord (extLen w.ext) w.hd (if w.x2 then 5 else 1)
    (firstTrap [groupCheck w.d, vecRun w.a, vecRun w.b])
    (fun t => firstTrap [groupBound t w.d, runBound t w.a 4, runBound t w.b 8])
    (fun t => { tiles := groupTiles w.d, x2 := if w.x2 then newOf (staged t) (groupTiles w.d) else [] })
    (fun s t =>
      let sets := t.tw / 256
      if t.tw % 256 != 0 || sets ≤ (if w.x2 then set + 1 else set) then .trap (divergent 2 0 true)
      else match w.x2, s.partner t q with
        | true, none => .trap (divergent 3 0 true)
        | x2, u? =>
          let a := t.arch
          let fmt := w.fmt.toNat
          let (id, t) := t.freshId
          let own := mmqGroup a fmt set set w.a.toNat w.b.toNat w.acc (fun k => a.tile (q + k))
          let far := match x2, u? with
            | true, some u => (mmqGroup a fmt set (set + 1) w.a.toNat w.b.toNat w.acc (fun k => x2Old t u (q + k))).mapIdx (fun k r => (u, q + k, r))
            | _, _ => []
          let fl := (own.foldl (fun acc r => acc ||| r.2) 0) ||| (far.foldl (fun acc r => acc ||| r.2.2.2) 0)
          let t := { t with arch := t.arch.setTiles (own.mapIdx (fun k (r : List Word × Flags) => (q + k, r.1))) }
          let t := far.foldl (fun t r => t.stageX2 r.1 r.2.1 r.2.2.1) t
          let t := t.addCheck id (mmqChecks a fmt set set w.a.toNat w.b.toNat ++
            (if x2 then mmqChecks a fmt set (set + 1) w.a.toNat w.b.toNat else []))
          -- the operand registers stand in `vals`: a SPLIT ejects no lane while its live set meets them (R211)
          let regs := (List.range 4).map (w.a.toNat + ·) ++ (List.range 8).map (w.b.toNat + ·)
          let p : Pending := { id := id, pc := a.pc, region := t.regionId, dest := .none, lanes := 0, vals := regs.map (fun r => (r, 0, 0)), x2 := x2 }
          .done s (({ t with pend := t.pend ++ [p] }).matFlags id fl true 0) none)) s

/-- A byte of a scale register. -/
def Arch.escByte (a : Arch) (e i : Nat) : Nat := ((a.esc.getD e []).getD i 0).toNat

/-- QSCALE (R126). -/
def execQscale (w : FullX) (s : State) : Host.Outcome State Fault Refusal :=
  let eb := (extOf w.ext).c
  issueWord (tileWord (extLen w.ext) w.hd 1
    (firstTrap [groupCheck w.d, groupCheck w.a, classCheck 8 w.b, classCheck 8 eb])
    (fun t => firstTrap [groupBound t w.d, groupBound t w.a])
    (fun _ => { tiles := groupTiles w.d })
    (fun s t =>
      let a := t.arch
      let (id, t) := t.freshId
      let new := (List.range 4).map (fun k =>
        let acc := a.tile (w.d.toNat + k)
        let part := a.tile (w.a.toNat + k)
        tileMap (fun i =>
          let ka := scaleExp (a.escByte w.b.toNat (i / 64))
          let kb := scaleExp (a.escByte eb.toNat (64 * k + i % 64))
          let k2 := match ka, kb with
            | some x, some y => some (x + y)
            | _, _ => none
          Fmt.f32.sum 0 [Fmt.f32.read (acc.getD i 0).toNat, (Fmt.f32.read (part.getD i 0).toNat).scale k2]))
      let fl := new.foldl (fun acc r => acc ||| r.2) 0
      .done s (({ t with arch := t.arch.setTiles (new.mapIdx (fun k (r : List Word × Flags) => (w.d.toNat + k, r.1))) }).matFlags id fl true 0) none)) s

/-- One tile written from its index. -/
def tileEffect (q : Nat) (f : Arch → Nat → Nat × Flags) (s : State) (t : Team) : WordEnd :=
  let (id, t) := t.freshId
  let r := tileMap (f t.arch)
  .done s (({ t with arch := t.arch.setTiles [(q, r.1)] }).matFlags id r.2 true 0) none

/-- QZERO (R127). -/
def execQzero (w : FullX) (s : State) : Host.Outcome State Fault Refusal :=
  issueWord (tileWord (extLen w.ext) w.hd 1 (classCheck 32 w.d) (fun t => tileCheck t w.d.toNat) (fun _ => { tiles := [w.d.toNat] })
    (tileEffect w.d.toNat (fun _ _ => (0, 0)))) s

/-- QADD (R127). -/
def execQadd (w : FullX) (s : State) : Host.Outcome State Fault Refusal :=
  issueWord (tileWord (extLen w.ext) w.hd 1
    (firstTrap [classCheck 32 w.d, classCheck 32 w.a, classCheck 32 w.b])
    (fun t => firstTrap [tileCheck t w.d.toNat, tileCheck t w.a.toNat, tileCheck t w.b.toNat])
    (fun _ => { tiles := [w.d.toNat] })
    (tileEffect w.d.toNat (fun a i =>
      let x := ((a.tile w.a.toNat).getD i 0).toNat
      let y := ((a.tile w.b.toNat).getD i 0).toNat
      if w.fmt = 3 then ((x + y) % 2 ^ 32, 0) else fAdd .f32 0 x y))) s

/-- QCVT (R127): the FP32 value rounded to a format, held as FP32 again; `.i32` reads an integer. -/
def qcvtElem (fmt : Nat) (sat : Bool) (x : Nat) : Nat × Flags :=
  match matFmt fmt with
  | none => ofInt .f32 0 false (intOf true 32 x)
  | some f =>
    let r := f.convert 0 sat (Fmt.f32.read x)
    ((Fmt.f32.convert 0 false (f.read r.1)).1, r.2)

def execQcvt (w : FullX) (s : State) : Host.Outcome State Fault Refusal :=
  issueWord (tileWord (extLen w.ext) w.hd 1
    (firstTrap [classCheck 32 w.d, classCheck 32 w.a])
    (fun t => firstTrap [tileCheck t w.d.toNat, tileCheck t w.a.toNat])
    (fun _ => { tiles := [w.d.toNat] })
    (tileEffect w.d.toNat (fun a i => qcvtElem w.fmt.toNat w.any ((a.tile w.a.toNat).getD i 0).toNat))) s

/-- QMOV (R129): 32 long-latency destinations in every lane of the set. -/
def execQmov (w : FullX) (s : State) : Host.Outcome State Fault Refusal :=
  issueWord (tileWord (extLen w.ext) w.hd 1
    (firstTrap [vecRun w.d, classCheck 32 w.a])
    (fun t => firstTrap [runBound t w.d 32, tileCheck t w.a.toNat])
    (fun _ => { dests := (List.range 32).map (w.d.toNat + ·) })
    (fun s t =>
      let set := w.set.toNat
      if t.tw % 256 != 0 || t.tw / 256 ≤ set then .trap (divergent 2 0 true)
      else
        let tile := t.arch.tile w.a.toNat
        let (id, t) := t.freshId
        let vals := (List.range 256).flatMap (fun l => (List.range 32).map (fun j =>
          (w.d.toNat + j, 256 * set + l, tile.getD (64 * (l % 128) + 32 * (l / 128) + j) 0)))
        let p : Pending := { id := id, pc := t.arch.pc, region := t.regionId, dest := .vec w.d.toNat, x2 := false,
                             lanes := maskOf t.tw (fun l => l / 256 == set), vals := vals }
        .done s { t with pend := t.pend ++ [p] } none)) s

/-! ### LDF (R124, R125) -/

/-- The base of LDF, QLD and QST: an even scalar pair in global, else a scalar or constant. -/
def tileBaseCheck (sp : Space) (f : BitVec 11) : Option Trap := if sp = .glob then scalPair f else scalCheck f

/-- Which offsets from its address a lane of LDF reads without `.perm`: first and count, with the scale byte (R124). -/
def ldfSpan (roleB : Bool) (l : Nat) : Nat × Nat := if roleB then (0, 33) else if l % 256 < 128 then (0, 33) else (16, 16)

/-- LDF `.perm` (R125): the table is read at issue as pocket words are, its checks first; then the gathered bytes are checked as R151 says, with
%eaddr at the lowest failing lane's first byte past the allocation. -/
def ldfPerm (kind : List Nat → List (Nat × Nat) → AccKind) (sp : Space) (roleB : Bool) (table : Nat) (ls : List LaneAddr) (s : State) (t : Team) :
    WordEnd :=
  let at_ : List LaneAddr := [(0, table)]
  if table % 2 != 0 then .trap { cause := .align, eaddr := BitVec.ofNat 64 table, once := true }
  else if (s.scratchOf t .pocket).size < table + 64 then .trap { cause := .scratchRange, eaddr := BitVec.ofNat 64 table, once := true }
  else match s.gate t .pocket at_ 64 EntryKind.stopsLoad with
    | some c => .wait s (.wait c)
    | none =>
      if s.loadMustWait t .pocket at_ 64 then s.waitOlder t
      else match s.readScratch t t.nextId .pocket table 64 with
        | (_, .stuck _) => .trap { cause := .access, eaddr := BitVec.ofNat 64 table, einfo := BitVec.ofNat 32 (9 * 2 ^ 24), once := true }
        | (s, .bytes bs tags inv) =>
          let idx := (List.range 32).map (fun k => fieldAt bs (2 * k) 2)
          let unset := ((List.range 32).map (fun k => (k, (table + 2 * k) / 4 * 4))).filter (fun x => inv.any (fun w => w.2 == x.2))
          let reads : List LaneAddr := ls.flatMap (fun x => (ldfPieces sp roleB true x.1 x.2 idx).map (fun p => (x.1, p.1)))
          let out := if sp = .glob then [] else reads.filter (fun x => (s.scratchOf t sp).size ≤ x.2)
          match out with
          | x :: _ => .trap { cause := .scratchRange, eaddr := BitVec.ofNat 64 x.2, emask := maskOfList (out.map (·.1)) }
          | [] => match s.gate t sp reads 1 EntryKind.stopsLoad with
            | some c => .wait s (.wait c)
            | none => match s.passGate t with
              | (s, t) =>
                let s := s.watchTeam t.uid .pocket table 64 1 0 t.arch.pc (some t.regionId)
                let t := { t with watch := ((s.team? t.uid).map (fun (x : Team) => x.watch)).getD t.watch }
                let (id, t) := t.freshId
                .done s ((t.gather t.regionId tags).addAccess id true (kind idx unset) ls) none

/-- LDF (R124, R125). B, an offset, may be indirect (DESIGN CHOICE, log 114). -/
def execLdf (w : FullX) (s : State) : Host.Outcome State Fault Refusal :=
  let e := extOf w.ext
  let sp := spaceOf w.space.toNat
  let roleB := w.acc
  let regs := if roleB then 8 else 4
  let m : MemOpd := { sp := sp, a := w.a, b := w.b, imm := if w.perm then 0 else e.imm.toInt }
  let set := w.set.toNat
  let table := e.imm.toNat
  issueWord
    { len := extLen w.ext, hd := w.hd, caps := if w.perm then 5 else 1, once := true, sample := true,
      check := fun _ _ => firstTrap [vecRun w.d, tileBaseCheck sp w.a, srcCheck 1 (opd w.b), classCheck 8 e.c],
      bounds := fun _ t => firstTrap [runBound t w.d regs, boundCheck t 1 (opd w.b)],
      demand := fun _ _ => { dests := (List.range regs).map (w.d.toNat + ·), scales := [e.c.toNat] },
      effect := onArray (fun s t =>
        if t.tw % 256 != 0 || t.tw / 256 ≤ set then .trap (divergent 2 0 true)
        else
          let ls : List LaneAddr := (List.range 256).map (fun l => (256 * set + l, m.addr t.arch (256 * set + l)))
          let size := (s.scratchOf t sp).size
          let out := ls.filter (fun x => let sp2 := ldfSpan roleB x.1; size < x.2 + sp2.1 + sp2.2)
          let scale := BitVec.ofNat 8 (t.arch.sget (e.xc.toNat % 128)).toNat
          let kind (idx : List Nat) (unset : List (Nat × Nat)) : AccKind := .ldf sp w.fmt.toNat roleB w.perm w.d.toNat e.c.toNat idx unset scale
          if w.perm then ldfPerm kind sp roleB table ls s t
          else if sp != .glob && !out.isEmpty then
            .trap { cause := .scratchRange, eaddr := BitVec.ofNat 64 ((out.map (·.2)).headD 0), emask := maskOfList (out.map (·.1)) }
          else match s.gate t sp ls 33 EntryKind.stopsLoad with
            | some c => .wait s (.wait c)
            | none =>
              match s.passGate t with
              | (s, t) =>
                let (id, t) := t.freshId
                .done s (t.addAccess id true (kind [] []) ls) none) } s

/-! ### QLD, QST (R128) -/

/-- The checks of QLD and QST at issue: ALIGN, then SCRATCH_RANGE over the rows, of which %eaddr names the first that fails,
with %emask 0 (DESIGN CHOICE, log 114). -/
def tileMoveTrap (sp : Space) (size addr stride : Nat) : Option Trap :=
  let rows := (List.range 32).map (fun i => wrapTo (if sp = .glob then 64 else 32) ((addr + i * stride : Nat) : Int))
  firstTrap [trapIf (addr % 16 != 0 || stride % 16 != 0 || stride < 256)
               { cause := .align, eaddr := BitVec.ofNat 64 addr, einfo := BitVec.ofNat 32 stride, once := true },
             if sp = .glob then none else (rows.find? (fun a => size < a + 256)).map (fun a =>
               { cause := .scratchRange, eaddr := BitVec.ofNat 64 a, once := true })]

/-- The 16-byte pieces of a quarter: element index within the quarter, address; a row address in a scratch space is taken modulo 2^32
(DESIGN CHOICE, log 114). -/
def tilePieces (sp : Space) (addr stride : Nat) : List (Nat × Nat) :=
  (List.range 512).map (fun p => (4 * p, wrapTo (if sp = .glob then 64 else 32) ((addr + p / 16 * stride + 16 * (p % 16) : Nat) : Int)))

/-- What a read of a quarter has found so far: its words, the tags, the words never written, and the pieces that could not be read. -/
structure QuarterRead where
  words : List Word := []
  tags  : List (Nat × Nat) := []
  unset : List (Space × Nat) := []
  bad   : List LaneAcc := []

/-- Reads a quarter whole, piece by piece; it queues once on a cell, whatever number of its pieces lie there (R257). -/
def State.readQuarter (s : State) (t : Team) (seq : Nat) (sp : Space) (ps : List (Nat × Nat)) : State × QuarterRead :=
  ps.foldl (fun (acc : State × QuarterRead) (p : Nat × Nat) =>
    let s := acc.1
    let r := acc.2
    let i := p.1
    let a := p.2
    let first := !r.bad.any (fun l => lineOf l.addr == lineOf a && (match l.st with
      | .cellWait _ _ => true
      | _ => false))
    match (if sp = .glob then s.readGlobal t seq t.regionId t.arch.pc 0 a 16 false false false first else s.readScratch t seq sp a 16) with
    | (s, .bytes bs tags inv) =>
      (if sp = .glob then s else s.watchTeam t.uid sp a 16 1 0 t.arch.pc (some t.regionId),
       { r with words := r.words ++ (List.range 4).map (fun j => BitVec.ofNat 32 (fieldAt bs (4 * j) 4))
                tags := r.tags ++ tags, unset := r.unset ++ inv })
    | (s, .stuck st) => (s, { r with words := r.words ++ List.replicate 4 0, bad := r.bad ++ [{ lane := i, addr := a, st := st }] })) (s, {})

/-- QLD (R128): its own parking point. -/
def execQld (w : FullX) (s : State) : Host.Outcome State Fault Refusal :=
  let sp := spaceOf w.space.toNat
  let q := w.d.toNat
  let m : MemOpd := { sp := sp, a := w.a, b := 0x780, imm := immOf w.ext }
  let len := extLen w.ext
  issueWord { (tileWord len w.hd 1 (firstTrap [classCheck 32 w.d, tileBaseCheck sp w.a, scalCheck w.b])
    (fun t => tileCheck t q) (fun _ => { tiles := [q], quarter := some w.set.toNat })
    (fun s t =>
      let addr := m.addr t.arch 0
      let stride := scalVal t.arch w.b
      match tileMoveTrap sp (s.scratchOf t sp).size addr stride with
      | some tr => .trap tr
      | none =>
        let ps := tilePieces sp addr stride
        let set (t : Team) (ws : List Word) : Team :=
          { t with arch := t.arch.setTiles [(q, (t.arch.tile q).take (2048 * w.set.toNat) ++ ws ++ (t.arch.tile q).drop (2048 * w.set.toNat + 2048))] }
        if t.role = .trailing then
          match s.lvqFind t (atWord 0 t.arch) with
          | some e =>
            let t1 := set t (e.vals.map (·.2.2))
            if e.addrs.any (fun x => x.2 != addr) then .act ((s.lvqDrop t (atWord 0 t.arch)).wordDiffers t)
            else .done (s.lvqDrop t (atWord 0 t.arch)) { t1 with arch := t1.arch.noteWords t1.arch.issued e.note } none
          | none => .act ({ s with issue := none }.setTeam { t with run := .wait .lvqEntry, waitSlots := 0 })
        else match s.gate t sp (ps.map (fun p => (0, p.2))) 16 EntryKind.stopsLoad with
          | some c => .wait s (.wait c)
          | none =>
            let e (ws : List Word) : LvqEntry := lvqValues t.arch.issued t.arch.pc t.regionId [(0, addr)] (ws.map (fun x => (q, 0, x)))
            if s.loadMustWait t sp (ps.map (fun p => (0, p.2))) 16 then s.waitOlder t
            else if !t.lvqRoom (e (List.replicate 2048 0)) then
              .act ({ s with issue := none }.setTeam { t with run := .wait .lvqRoom, waitSlots := 0 })
            else
              match s.passGate t with
              | (s, t) =>
                let (id, t) := t.freshId
                match s.readQuarter t id sp ps with
                | (s, r) =>
                  let bad := r.bad
                  let t := { t with watch := ((s.team? t.uid).map (·.watch)).getD t.watch }
                  let a : Access := { id := id, word := t.arch.issued, pc := t.arch.pc, region := t.regionId, once := true,
                                      kind := .probe none, lanes := bad, susp := false, lost := [] }
                  if bad.any (fun l => l.st.unfinished) then
                    .act ({ s with issue := none }.setTeam { t with accs := t.accs ++ [a], run := .memory false, waitSlots := 0 })
                  else match a.cause with
                    | some c => .trap { a.trap t c with emask := 0 }
                    | none =>
                      let mode := if r.unset.isEmpty then 0 else s.uninitMode t
                      let a1 := if mode = 2 then t.arch.noteUninit t.arch.issued 0 r.unset else t.arch
                      let t1 := ((set { t with arch := a1 } r.words).gather t.regionId r.tags).lvqPush
                        { e r.words with note := t.arch.noted a1 t.arch.issued }
                      if mode = 1 then
                        -- the tile is written and counts in its region; then the trap is taken with %epc at the next word
                        let d : Demand := { tiles := [q], quarter := some w.set.toNat }
                        let next := t.arch.pc + BitVec.ofNat 64 len
                        let t2 := t1.note d
                        .act (({ s with issue := none }.markHits t2 d).takeTrap
                          { t2 with unread := none, arch := { t2.arch with pc := next, issued := t2.arch.issued + 1 } }
                          { cause := .scratchUninit, eaddr := BitVec.ofNat 64 ((r.unset.head?.map (fun (x : Space × Nat) => x.2)).getD addr), once := true, deferred := true,
                            einfo := BitVec.ofNat 32 len })
                      else .done s t1 none)) with sample := true } s

/-- The parts of a stored quarter, line by line. -/
def quarterParts (acc : Nat) (pc : DWord) (tile : List Word) (quarter : Nat) (ps : List (Nat × Nat)) : List (Nat × StorePart) :=
  ps.map (fun (i, a) => (lineOf a, { acc := acc, pc := pc, lane := 0, off := a % 64,
                                     data := (List.range 4).flatMap (fun j => natBytes 4 (tile.getD (2048 * quarter + i + j) 0).toNat) }))

/-- QST (R128): a relaxed store of the newest staged version. -/
def execQst (w : FullX) (s : State) : Host.Outcome State Fault Refusal :=
  let sp := spaceOf w.space.toNat
  let q := w.d.toNat
  let m : MemOpd := { sp := sp, a := w.a, b := 0x780, imm := immOf w.ext }
  let pieces (t : Team) : List (Nat × Nat) := tilePieces sp (m.addr t.arch 0) (scalVal t.arch w.b)
  issueWord { (tileWord (extLen w.ext) w.hd 1 (firstTrap [classCheck 32 w.d, tileBaseCheck sp w.a, scalCheck w.b])
    (fun t => tileCheck t q) (fun t => { entries := newEntries t sp false ((pieces t).map (fun p => lineOf p.2)) })
    (fun s t =>
      match tileMoveTrap sp (s.scratchOf t sp).size (m.addr t.arch 0) (scalVal t.arch w.b) with
      | some tr => .trap tr
      | none =>
        let ps := pieces t
        let ls : List LaneAddr := ps.map (fun p => (0, p.2))
        match s.gate t sp ls 16 EntryKind.stopsWrite with
        | some c => .wait s (.wait c)
        | none =>
          match s.passGate t with
          | (s, t) =>
            let (id, t) := t.freshId
            let t := t.holdStore sp false 0 id s.tick (quarterParts id t.arch.pc (t.arch.tile q) w.set.toNat ps)
            .done s (if t.probeOf sp = .waiting then t.addAccess id true (.store .glob) ls else t) none)) with sample := true } s

end Sys2Proof.Machine
end

