-- ==== Sys2Proof/Machine/Exit.lean ====
section
/-! DEFINITION. Barriers and EXIT (10_control_and_sync_instructions.md, R239–R242), what an exiting team leaves behind
(07_async_engines.md, R188; 11_geodes_and_migration.md, R260), and the move point of a full block barrier (R274). -/

namespace Sys2Proof.Machine

/-! ### The move point (R274) -/

/-- A pending or saved block of a partition that needs a column cluster and fits none. -/
def State.columnWanted (s : State) (p : Nat) : Bool :=
  s.blocks.any (fun b =>
    (b.state == BlockState.pending || b.state == BlockState.saved) &&
    match s.grid? b.grid, s.span? b.span with
    | some g, some sp =>
      let needs := (g.lrec.caps ||| b.caps) != 1 || g.lrec.place == 2 || b.migrated
      g.tenant == p && needs && !allClusters.any (fun c => isColumn c.1 && s.mayTake b g sp c.1 c.2 && (s.fits (s.blockNeeds b) c.1 c.2).isSome)
    | _, _ => false)

/-- The needs of a resident block, as its teams stand. -/
def State.residentNeeds (s : State) (b : Block) (g : Grid) : Needs :=
  { g.lrec.needs with teams := (s.teamsOf b.uid).map (fun t => (t.idx, t.tw, t.regs, t.acc)) }

/-- Clusters to which a requested move may take a block: on the chiplet, with the grid's sets; a straw one only under JB alone. -/
def State.moveClusters (s : State) (b : Block) (g : Grid) (chip : Nat) : List (Nat × Nat) :=
  allClusters.filter (fun c => c.1 == chip && s.usable g.tenant (g.lrec.caps ||| (if isColumn chip then b.caps else 0)) c.1 c.2 &&
    (isColumn chip || (g.lrec.caps == 1 && g.lrec.place != 2)) && (s.fits (s.residentNeeds b g) c.1 c.2).isSome)

/-- Which move a block makes at its move point, if any: 2 as requested, 3 back to straw. -/
def State.moveOf (s : State) (b : Block) (g : Grid) : Nat :=
  if b.req.any (fun c => !(s.moveClusters b g c).isEmpty) then 2
  else if !b.pin && b.migrated && g.lrec.caps == 1 && isColumn b.chip && s.columnWanted g.tenant &&
      (List.range 8).any (fun c => !isColumn c && !(s.moveClusters b g c).isEmpty) then 3
  else 0

/-- Every team of a block stands with nothing in flight, past as many full barriers as `n`. -/
def State.atMovePoint (s : State) (b n : Nat) : Bool :=
  (s.teamsOf b).all (fun t => t.regions.isEmpty && t.relq.isEmpty && t.barbs == n)

/-- The dispatcher's choice when a BARB of every non-exited team completes (R274): the block that moves is stopped there; a leading copy's
waits for its trailing copy to pass the same instance. A request is cleared either way. -/
def State.movePoint (s : State) (uid n : Nat) : State :=
  match s.block? uid with
  | none => s
  | some b =>
    match s.grid? b.grid with
    | none => s
    | some g =>
      let mv := s.moveOf b g
      if !s.atMovePoint uid n then s
      else if mv = 0 then s.updBlock uid (fun x => { x with req := none })
      else (s.updBlock uid (fun x => { x with move := mv })).stopBlock uid 4

/-! ### Barrier instances (R240–R242) -/

/-- Where a barrier instance stands. -/
inductive BarAt where
  | block (uid id : Nat)
  | span (uid id : Nat)
  | grid (uid : Nat)
deriving DecidableEq, Repr

/-- No instance. -/
def BarInst.closed : BarInst := { isOpen := false, mask := 0, arrived := [] }

def State.bar? (s : State) : BarAt → BarInst
  | .block u i => ((s.block? u).map (fun b => b.barb.getD i BarInst.closed)).getD BarInst.closed
  | .span u i => ((s.span? u).map (fun x => x.bard.getD i BarInst.closed)).getD BarInst.closed
  | .grid u => ((s.grid? u).map (·.barg)).getD BarInst.closed

def State.setBar (s : State) (i : BarInst) : BarAt → State
  | .block u k => s.updBlock u (fun b => { b with barb := b.barb.set k i })
  | .span u k => s.updSpan u (fun x => { x with bard := x.bard.set k i })
  | .grid u => s.updGrid u (fun g => { g with barg := i })

/-- The teams of a block that have not exited, resident or saved. -/
def State.allTeamsOf (s : State) (b : Block) : List Team := s.teamsOf b.uid ++ (if b.placed then [] else b.teamSeed)

/-- The uids of the members of an instance that have not exited. -/
def State.barMembers (s : State) (i : BarInst) (at_ : BarAt) : List Nat :=
  let ofBlocks (p : Block → Bool) : List Nat :=
    ((s.blocks.filter (fun b => b.kind == .ordinary && b.role != .trailing && p b)).flatMap (fun b => s.allTeamsOf b)).map (·.uid)
  match at_ with
  | .block u _ => match s.block? u with
    | some b => ((s.allTeamsOf b).filter (fun t => i.mask.getLsbD t.idx)).map (·.uid)
    | none => []
  | .span u _ => ofBlocks (fun b => b.span == u)
  | .grid u => ofBlocks (fun b => b.grid == u)

/-- The memory scope of a barrier (Table 10.4). -/
def BarAt.scope : BarAt → Nat
  | .block _ _ => 2
  | .span _ _ => 3
  | .grid _ => 4

/-- A member of a die or grid barrier whose block is saved: the end of its wait is kept for its return (R242). -/
def State.releaseSaved (s : State) (u code : Nat) : State :=
  { s with blocks := s.blocks.map (fun b => if b.teamSeed.any (fun t => t.uid == u) then { b with released := b.released ++ [(u, code)] } else b) }

/-- A member goes on after its barrier: an acquire, and, for a leading copy, the completion its trailing copy takes. -/
def State.passBarrier (s : State) (u scope : Nat) (full : Bool) : State :=
  match s.team? u with
  | none => s.releaseSaved u 0
  | some t => match t.run with
    | .barrier _ _ len sw =>
      let t := t.lvqPush { lvqHeader 2 t.arch.issued t.arch.pc t.regionId with note := (if full then 1 else 0, 0, 0) }
      (s.acquireAt t scope).passWord { t with barbs := if full then t.barbs + 1 else t.barbs } len sw
    | _ => s

/-- An open instance completes when every member that has not exited has arrived (R241). -/
def State.barComplete (s : State) (at_ : BarAt) : State :=
  let i := s.bar? at_
  let ms := s.barMembers i at_
  if !i.isOpen || !ms.all (fun u => i.arrived.contains u) then s
  else
    let full := match at_ with
      | .block u _ => (s.teamsOf u).all (fun t => i.mask.getLsbD t.idx)
      | _ => false
    let s1 := (i.arrived.foldl (fun s u => s.passBarrier u at_.scope full) (s.setBar BarInst.closed at_))
    match at_, i.arrived.head?.bind s1.team? with
    | .block u _, some t => if full then s1.movePoint u t.barbs else s1
    | _, _ => s1

/-- SYNC_MISMATCH (R184, R241). -/
def syncTrap (code : Nat) : Trap := { cause := .syncMismatch, einfo := BitVec.ofNat 32 code, once := true }

/-- A member of an instance that a mismatch closes traps, or will when its block is back (R241, R242). -/
def State.failBarrier (s : State) (u code : Nat) : State :=
  match s.team? u with
  | some x => s.takeTrap x (syncTrap code)
  | none => s.releaseSaved u code

/-- What the end of its instance gave a member while its block was saved, once it is back (R242). -/
def State.endBarrier (s : State) (x : Nat × Nat) : State :=
  if x.2 != 0 then s.failBarrier x.1 x.2
  else match s.team? x.1 with
    | some t => match t.run with
      | .barrier k _ _ _ => s.passBarrier x.1 (k + 2) false
      | _ => s
    | none => s

/-- Steps 4 to 6 of R241: the team has passed the checks. Its arrival is a release at the barrier's scope (Table 8.3). -/
def barArrive (at_ : BarAt) (kind id len : Nat) (sw : Bool) (mask : BitVec 16) (s : State) (t : Team) : WordEnd :=
  let i := s.bar? at_
  let code := if !i.isOpen then 0 else if i.mask != mask then 0x22 else if !(s.barMembers i at_).contains t.uid then 0x23 else 0
  if code != 0 then
    -- the instance closes with no edge: every waiting team traps as one that has not arrived
    let s := i.arrived.foldl (fun s u => if u = t.uid then s else s.failBarrier u code) (s.setBar BarInst.closed at_)
    .act (s.takeTrap t (syncTrap code))
  else match s.releaseAt t at_.scope with
  | none => .wait (s.drainAll t.loc.pkgCore) (.wait .clearance)
  | some s =>
    let arrived := if i.arrived.contains t.uid then i.arrived else i.arrived ++ [t.uid]
    let s := { s with issue := none }.setTeam { t with run := .barrier kind id len sw, waitSlots := 0 }
    .act ((s.setBar { isOpen := true, mask := mask, arrived := if i.isOpen then arrived else [t.uid] } at_).barComplete at_)

/-- A trailing copy at a barrier takes the completion that its leading copy passed (R365). -/
def barTrailing (s : State) (t : Team) : WordEnd :=
  match s.lvqFind t (atWord 2 t.arch) with
  | none => .wait s (.wait .lvqEntry)
  | some e =>
    let t := { t with barbs := t.barbs + e.note.1 }
    .done (s.lvqDrop t (atWord 2 t.arch)) t none

/-- A team whose live mask is not its set of lanes that have not exited (R241, step 1). -/
def barDivergent (t : Team) : Bool := t.arch.live != (fullMask t.tw &&& ~~~t.arch.exited)

/-- A barrier word: a closing instruction. -/
def barWord (w : FullT) (check : Option Trap) (effect : State → Team → WordEnd) : Word1 :=
  { ctlWord w check (fun s t => if barDivergent t then .trap (divergent 4 0 true) else effect s t) with closing := fun _ _ => true }

/-- Teams per block of a team's kind. -/
def State.teamCount (s : State) (t : Team) : Nat := if t.kind = .ordinary then ((s.gridOf t).map (·.lrec.teams)).getD 1 else 1

/-- BARB (R240, R241). -/
def execBarb (w : FullT) (s : State) : Host.Outcome State Fault Refusal :=
  issueWord (barWord w (firstTrap [scalCheck w.a, if w.ext.isSome then none else scalCheck w.b]) (fun s t =>
    let id := scalVal t.arch w.a
    let m := (srcB w.b w.ext).read t.arch 1 0
    let n := s.teamCount t
    let all := 2 ^ n - 1
    let denoted := if m = 0 then all else m
    if 3 < id || 65536 ≤ m || all < m || !denoted.testBit t.idx then .trap (syncTrap 0x21)
    else if t.role == .trailing then barTrailing s t
    else barArrive (.block t.block id) 0 id (extLen w.ext) w.hd.sw (BitVec.ofNat 16 denoted) s t)) s

/-- The checks that BARD and BARG share: the gang mode, then the kind of team (R220, R241). -/
def gangTrap (s : State) (t : Team) (bit : Nat) : Option Trap :=
  let mode := ((s.gridOf t).map (·.lrec.mode)).getD 0
  if !mode.getLsbD bit then some (syncTrap 0x20) else if t.kind != .ordinary then some (syncTrap 0x24) else none

/-- BARD (R240, R241). -/
def execBard (w : FullT) (s : State) : Host.Outcome State Fault Refusal :=
  issueWord (barWord w (scalCheck w.a) (fun s t =>
    let id := scalVal t.arch w.a
    match gangTrap s t 3 with
    | some tr => .trap tr
    | none =>
      if 1 < id then .trap (syncTrap 0x21)
      else if t.role == .trailing then barTrailing s t
      else barArrive (.span (((s.block? t.block).map (·.span)).getD 0) id) 1 id (extLen w.ext) w.hd.sw 0 s t)) s

/-- BARG (R240, R241). -/
def execBarg (w : FullT) (s : State) : Host.Outcome State Fault Refusal :=
  issueWord (barWord w none (fun s t =>
    match gangTrap s t 4 with
    | some tr => .trap tr
    | none =>
      if t.role == .trailing then barTrailing s t
      else barArrive (.grid t.grid) 2 0 (extLen w.ext) w.hd.sw 0 s t)) s

/-! ### EXIT (R239, R188) -/

/-- Who owns an operation when its team exits (R188). -/
def EngOp.passedTo (o : EngOp) : OpOwner :=
  match o.kind, o.digest with
  | .fill _, _ => .block
  | _, some _ => .team
  | .tmov _, none => match o.dst.flags.toNat % 4 with
    | 3 => .span
    | _ => .block
  | _, none => match o.dst.flags.toNat % 4 with
    | 0 => .team
    | 3 => .span
    | _ => .block

/-- An exiting team's unfinished operations pass on; they leave its counters. -/
def State.passOps (s : State) (t : Team) : State × Team :=
  let goes (o : EngOp) : Bool := o.team == t.uid && o.owner == OpOwner.team && o.state != EngState.finished && o.passedTo != .team
  let ids := (s.ops.filter goes).map (·.id)
  ({ s with ops := s.ops.map (fun o => if goes o then { o with owner := o.passedTo } else o) },
   { t with cnts := t.cnts.map (fun (c : List Nat) => c.filter (fun i => !ids.contains i)) })

/-- Blocks of a die span. -/
def LaunchRec.spanBlocks (r : LaunchRec) (i : Nat) : Nat := min r.spanblk (r.nblock - i * r.spanblk)

/-- The operations passed to what a team is the last to leave: its block, and its die span (R188). -/
def State.lastOps (s : State) (t : Team) : List EngOp :=
  match s.block? t.block with
  | none => []
  | some b =>
    if b.exitedT.length + 1 < s.teamCount t then []
    else
      let sp := s.span? b.span
      let n := ((s.gridOf t).map (fun g => g.lrec.spanBlocks ((sp.map (·.idx)).getD 0))).getD 0
      let lastBlock := b.kind == .ordinary && (match sp with
        | some x => x.blocks + 1 == n
        | none => false)
      s.ops.filter (fun o => (o.owner == OpOwner.block && o.block == b.uid) || (lastBlock && o.owner == OpOwner.span && o.span == b.span))

/-- The last block of a die span has exited: the gallery and its reservation go. -/
def State.spanDone (s : State) (b : Block) (g : Grid) : State :=
  match s.span? b.span with
  | none => s
  | some x =>
    if x.blocks < g.lrec.spanBlocks x.idx then s
    else { s.updSpan x.uid (fun x => { x with gallery := none }) with
           blocks := s.blocks.map (fun c => if c.span = x.uid ∧ c.state = .exited then { c with bound := 0 } else c) }

/-- The block's last team has exited: its scratch is freed (R137), and the grid counts it. -/
def State.blockDone (s : State) (b : Block) : State :=
  match s.grid? b.grid with
  | none => s
  | some g =>
    let part := b.bound - saveBound g.lrec.needs
    let s := s.updBlock b.uid (fun x => { x with state := .exited, pockets := [], chamber := Scratch.empty, bound := part,
                                                 barb := List.replicate 4 BarInst.closed, gours := [] })
    if b.kind != .ordinary || b.role == .trailing then s.updBlock b.uid (fun x => { x with bound := 0 })
    else
      let s := (s.updSpan b.span (fun x => { x with blocks := x.blocks + 1 })).updGrid g.uid (fun g => { g with exited := g.exited + 1 })
      s.spanDone b g

/-- An evaluator leaves: its cell, if still forming under its ticket, is poisoned with the source; its edges go (R259, R260). -/
def State.leaveCell (s : State) (t : Team) (source : Nat) : State :=
  match t.cell, t.ticket with
  | some c, some k =>
    let s := if s.formingUnder c k then s.poison c 0 source else s
    { s with edges := s.edges.filter (fun e => e.1 != k) }
  | _, _ => s

/-- The barriers that a team's exit may complete. -/
def State.barsAfter (s : State) (t : Team) : State :=
  let sp := ((s.block? t.block).map (·.span)).getD 0
  (((List.range 4).map (fun i => BarAt.block t.block i)) ++ [BarAt.span sp 0, BarAt.span sp 1, BarAt.grid t.grid]).foldl (fun s a => s.barComplete a) s

/-- A team leaves the part: its slot, registers and tiles are free (R188). -/
def State.exitTeam (s : State) (t : Team) : State :=
  let s := { s with issue := if s.issue = some t.uid then none else s.issue, teams := s.teams.filter (fun u => u.uid != t.uid) }
  let s := s.leaveCell t 1
  let s := s.updBlock t.block (fun b => { b with exitedT := b.exitedT ++ [t.idx] })
  let s := match s.block? t.block with
    | some b => if b.exitedT.length < s.teamCount t then s else s.blockDone b
    | none => s
  (s.barsAfter t).grantPart t.loc.pkgCore t.loc.part

/-- The last step of EXIT, when every lane has exited (R188). A leading copy stays until its trailing copy has taken what the queue holds
(R365). -/
def exitTail (s : State) (t : Team) : WordEnd :=
  match s.passOps t with
  | (s, t) =>
    let drain : WordEnd := .act ({ s with issue := none }.setTeam { t with run := .wait .drain, waitSlots := 0 })
    if t.cnts.any (fun c => !c.isEmpty) || !t.lvq.isEmpty then drain
    else match s.failedOp t with
      | some o => .act ((s.tellOp o.id).takeTrap (t.remember { region := 0, op := some o.id }) (o.trap t.depth))
      | none =>
        let last := s.lastOps t
        match last.find? (fun o => o.state == EngState.finished && o.fail.isSome) with
        | some o => .act ((s.tellOp o.id).takeTrap (t.remember { region := 0, op := some o.id }) (o.trap t.depth))
        | none => if last.isEmpty then .act (s.exitTeam t) else drain

/-- EXIT (R239). -/
def execExit (w : FullT) (s : State) : Host.Outcome State Fault Refusal :=
  issueWord
    { ctlWord w none (fun s t =>
        let x := t.arch.live
        let off (m : Mask) : Mask := m &&& ~~~x
        let cut (e : StackEntry) : StackEntry := match e with
          | .join j => .join { j with reconv := off j.reconv, pend := off j.pend, early := off j.early }
          | .call r => .call r
        let isCall (e : StackEntry) : Bool := match e with
          | .call _ => true
          | .join _ => false
        let stack := (t.arch.stack.map cut).dropWhile isCall
        let exited := t.arch.exited ||| x
        match stack with
        | StackEntry.join j :: _ =>
          if exited &&& fullMask t.tw != fullMask t.tw then
            .done s { t with arch := { t.arch with exited := exited, live := 0, stack := stack } } (some j.jpc)
          else exitTail s t
        | _ => exitTail s t) with
      closing := fun _ _ => true } s

end Sys2Proof.Machine
end

