-- ==== Sys2Proof/Machine/Engines.lean ====
section
/-! DEFINITION. Issue of the engine instructions (07_async_engines.md): shape records, barrier objects and gours as a team sees
them, the outstanding counters, and the waits. -/

namespace Sys2Proof.Machine

/-! ### Shape records (R171–R173) -/

/-- The shape record of a record field (Table 7.3). -/
def shapeOf (a : Arch) (m : Nat) : Shape :=
  let r (i : Nat) : Nat := (a.sget (8 * m + i)).toNat
  { base := r 0 + 2 ^ 32 * r 1, rowb := r 2, rows := r 3, rstr := r 4, planes := r 5, pstr := r 6, flags := a.sget (8 * m + 7) }

/-- Fields of FLAGS (Table 7.4). -/
def Shape.spaceNo (x : Shape) : Nat := x.flags.toNat % 4
def Shape.ew (x : Shape) : Nat := 2 ^ (x.flags.toNat / 8 % 8)
def Shape.swz (x : Shape) : Nat := x.flags.toNat / 64 % 4
def Shape.ovr (x : Shape) : Bool := x.flags.getLsbD 8
def Shape.dig (x : Shape) : Bool := x.flags.getLsbD 9

/-- Bytes of the traversal. -/
def Shape.total (x : Shape) : Nat := x.rowb * x.rows * x.planes

/-- The last byte of a record (check 6). -/
def Shape.last (x : Shape) : Nat := x.base + (x.planes - 1) * x.pstr + (x.rows - 1) * x.rstr + x.rowb - 1

/-- The address of the k-th byte of the traversal, with the destination swizzle (R172). -/
def Shape.at (x : Shape) (dest : Bool) (k : Nat) : Nat :=
  let b := k % max 1 x.rowb
  let i := k / max 1 x.rowb % max 1 x.rows
  let j := k / (max 1 x.rowb * max 1 x.rows)
  let b := if !dest then b
    else if x.swz = 1 then b ^^^ (16 * (i % 8))
    else if x.swz = 2 then b ^^^ (64 * (i % 4))
    else b
  (x.base + j * x.pstr + i * x.rstr + b) % 2 ^ (if x.spaceNo = 0 then 64 else 32)

/-- What a record is, for its checks: a source or a destination, whether DIG may stand in it, whether a digest pair is named, and
the allocation size of its space. -/
structure ShapeUse where
  dest   : Bool
  copy   : Bool
  digest : Bool
  size   : Nat

/-- Check k of one record, 1 to 6 (Table 7.5): true when it fails. -/
def Shape.fails (x : Shape) (u : ShapeUse) (k : Nat) : Bool :=
  let f := x.flags.toNat
  let ew := x.ew
  let src := !u.dest
  match k with
  | 1 => f / 1024 != 0 || f.testBit 2 || 5 ≤ f / 8 % 8 || x.swz == 3 || (u.dest && x.ovr) || (x.dig && !(src && u.copy)) ||
      (src && x.swz != 0) || (src && u.copy && x.dig != u.digest)
  | 2 => x.base % 16 != 0 || x.base % ew != 0 || (x.spaceNo != 0 && x.base / 2 ^ 32 != 0)
  | 3 => x.rowb == 0 || x.rows == 0 || x.planes == 0 || x.rowb % ew != 0
  | 4 => (x.rstr < x.rowb && !(src && x.ovr)) || x.rstr % ew != 0 || x.pstr % ew != 0 ||
      (x.swz == 1 && (x.rowb % 128 != 0 || x.rstr % 128 != 0)) || (x.swz == 2 && (x.rowb % 256 != 0 || x.rstr % 256 != 0))
  | 5 => 1 < x.planes && x.pstr < (x.rows - 1) * x.rstr + x.rowb && !(src && x.ovr)
  | _ =>
    let l := x.last
    if x.spaceNo = 0 then
      2 ^ 64 ≤ l || l.testBit 63 != x.base.testBit 63 || (deviceHalf x.base && deviceOf l != deviceOf x.base)
    else u.size ≤ l

/-- Two records that meet in one space (check 8). -/
def Shape.meets (x y : Shape) : Bool := x.spaceNo == y.spaceNo && x.base ≤ y.last && y.base ≤ x.last

/-- SHAPE_INVALID with its check and record. -/
def shapeTrap (k rec : Nat) : Trap := { cause := .shapeInvalid, einfo := BitVec.ofNat 32 (k + 256 * rec), once := true }

/-- The checks of a pair of records in the order of Table 7.5; `totals` is check 7. -/
def shapeChecks (x y : Shape) (ux uy : ShapeUse) (totals : Bool) : Option Trap :=
  firstTrap (((List.range 6).flatMap (fun i => [trapIf (x.fails ux (i + 1)) (shapeTrap (i + 1) 0), trapIf (y.fails uy (i + 1)) (shapeTrap (i + 1) 1)])) ++
    [trapIf totals (shapeTrap 7 0), trapIf (x.meets y) (shapeTrap 8 0)])

/-- Allocation size of a space that a team names by number. -/
def State.sizeOf (s : State) (t : Team) (sp : Nat) : Nat := (s.scratchOf t (spaceOf sp)).size

/-! ### Objects as a team sees them (R185) -/

/-- ALIGN and SCRATCH_RANGE of an object or a list (R178). -/
def objTrap (size off align len : Nat) : Option Trap :=
  firstTrap [trapIf (off % align != 0) { cause := .align, eaddr := BitVec.ofNat 64 off, once := true },
             trapIf (size < off + len) { cause := .scratchRange, eaddr := BitVec.ofNat 64 off, once := true }]

/-- The bytes that PLINIT writes (R186). -/
def gourBytes (base bytes nslot nrel : Nat) : List Byte :=
  natBytes 4 (0xA5 + 256 * nrel + 65536 * nslot) ++ natBytes 4 base ++ natBytes 4 bytes ++ natBytes 16 0

/-- The bytes that BINIT writes (R183). -/
def barBytes (amt : Nat) : List Byte := natBytes 4 0x5B ++ natBytes 4 amt ++ natBytes 4 amt ++ natBytes 4 0

/-- An own entry laid over an object: stores and SINV, and PLINIT and BINIT counted as applied. -/
def EntryKind.overObject (k : EntryKind) (sp : Space) (off : Nat) (bs : List Byte) : List Byte :=
  let put (o : Nat) (new : List Byte) : List Byte :=
    bs.mapIdx (fun i b => if o ≤ off + i ∧ off + i < o + new.length then new.getD (off + i - o) 0 else b)
  match k with
  | .plinit sp' o base bytes nslot nrel => if sp' = sp then put o (gourBytes base bytes nslot nrel) else bs
  | .binit sp' o amt => if sp' = sp then put o (barBytes amt) else bs
  | _ => mergeForward (k.overlay (2 ^ 64) sp off (List.replicate bs.length none)) bs

/-- n bytes of an object as the team sees them. -/
def State.seenObject (s : State) (t : Team) (sp : Space) (off n : Nat) : List Byte :=
  let p := s.placeOf t sp off
  let bs := s.overlayPending sp p.owner p.core off ((s.scratchOf t sp).mem.bytes off n)
  (s.ownEntries t).foldl (fun bs e => e.kind.overObject sp off bs) bs

/-- A gour object (Table 7.9). -/
structure Gour where
  state : Nat
  nrel  : Nat
  nslot : Nat
  base  : Nat
  bytes : Nat
  widx  : Nat
  cidx  : Nat
  ridx  : Nat
  rcnt  : Nat
deriving DecidableEq, Repr

def gourOf (bs : List Byte) : Gour :=
  { state := fieldAt bs 0 1, nrel := fieldAt bs 1 1, nslot := fieldAt bs 2 2, base := fieldAt bs 4 4, bytes := fieldAt bs 8 4,
    widx := fieldAt bs 12 4, cidx := fieldAt bs 16 4, ridx := fieldAt bs 20 4, rcnt := fieldAt bs 24 4 }

/-- The distance of an index from RIDX, modulo 2^32 (R186). -/
def Gour.dist (g : Gour) (i : Nat) : Nat := (i + 2 ^ 32 - g.ridx) % 2 ^ 32

/-- Code 1 of Table 7.11: not initialised, or indices that do not fit together. -/
def Gour.bad (g : Gour) : Bool :=
  g.state != 0xA5 || g.dist g.widx < g.dist g.cidx || g.nslot < g.dist g.widx || g.nrel ≤ g.rcnt

/-- A sequence below RIDX: already released. -/
def Gour.released (g : Gour) (q : Nat) : Bool := 2 ^ 31 ≤ g.dist q

/-- Slot q's offset. -/
def Gour.slotAt (g : Gour) (q : Nat) : Nat := g.base + q % max 1 g.nslot * g.bytes

/-- GOUR_MISUSE with a code of Table 7.11. -/
def gourTrap (code : Nat) : Trap := { cause := .gourMisuse, einfo := BitVec.ofNat 32 code, once := true }

/-- A barrier object that is not initialised, as a team sees it (R184). -/
def State.barUninit (s : State) (t : Team) (sp : Space) (off : Nat) : Bool := fieldAt (s.seenObject t sp off 16) 0 1 != 0x5B

/-! ### Counted operations (R168, R170) -/

/-- A counter that would pass 255 (R168). -/
def Team.counterFull (t : Team) (cls : Nat) : Bool := 255 ≤ (t.cnts.getD cls []).length

/-- What an engine instruction asks for, once every check has passed. -/
structure EngReq where
  cls     : Nat
  kind    : EngKind
  src     : Shape
  dst     : Shape
  barrier : Option (Space × Nat)
  digest  : Option Nat

/-- An operation's records name another device, which needs a token at issue (R176). -/
def State.engRemote (s : State) (r : EngReq) : Bool :=
  (r.src.spaceNo == 0 && s.isRemote r.src.base) || (r.dst.spaceNo == 0 && s.isRemote r.dst.base) ||
    (match r.digest with
     | some a => s.isRemote a
     | none => false)

/-- The operation is counted and its request held (R168, R170); a trailing copy's is never counted and never starts (R365). -/
def State.request (s : State) (t : Team) (r : EngReq) : WordEnd :=
  let lead := t.role != .trailing
  if lead && t.counterFull r.cls then .wait s (.wait (.counter r.cls 254))
  else if lead && s.engRemote r && (s.die t.loc.chip).buckets.getD (s.tenantOf t) 0 ≤ 0 then .wait s (.wait .bucket)
  else
    let (id, s) := s.fresh
    let o : EngOp :=
      { id := id, team := t.uid, owner := .team, block := t.block, core := t.loc.core, span := ((s.block? t.block).map (·.span)).getD 0,
        grid := t.grid, asid := s.asidOf t, die := t.loc.chip, tenant := s.tenantOf t, region := t.regionId, cls := r.cls, pc := t.arch.pc,
        word := t.arch.issued, told := false, younger := 0, kind := r.kind, src := r.src, dst := r.dst, state := .held, index := [], slot := none, nextRead := 0, staged := [], committed := [],
        bytes := 0, strikes := [], sha := List.replicate 25 0, barrier := r.barrier, digest := r.digest, digestOk := false, page := none, fail := none }
    let t := if lead then { t with cnts := t.cnts.modify r.cls (fun c => c ++ [id]) } else t
    let count (x : EngOp) : EngOp := if lead && x.team == t.uid && x.cls == r.cls then { x with younger := x.younger + 1 } else x
    .done { s with ops := s.ops.map count ++ [o] } (t.hold (.engine id) 0 .none 0 s.tick) none

/-- An engine word: executed once, with one QSB entry when it holds one. -/
def engWord (w : FullE) (check : Option Trap) (entries : Arch → Nat) (effect : State → Team → WordEnd) : Word1 :=
  { len := extLen w.ext, hd := w.hd, once := true, check := fun _ _ => check, demand := fun _ t => { entries := entries t.arch }, effect := effect }

/-- A trap that a trailing copy leaves to its leading copy's report (log 18). -/
def leadTrap (t : Team) (tr : Option Trap) : Option Trap := if t.role == .trailing then none else tr

/-- The barrier that an extension names (Table 7.7). -/
def barrierOf (e : Option Ext) : Option (Space × Nat) :=
  match e with
  | some x => if x.xc.toNat % 4 = 0 then none else some (spaceOf (x.xc.toNat % 4), x.imm.toNat)
  | none => none

/-- The checks of a named barrier object: its place, then, last of all, its state (R178, R184). -/
def State.barrierTraps (s : State) (t : Team) (b : Option (Space × Nat)) : Option Trap × Option Trap :=
  match b with
  | none => (none, none)
  | some (sp, off) => (objTrap (s.scratchOf t sp).size off 16 16, leadTrap t (trapIf (s.barUninit t sp off) (syncTrap 0x10)))

/-- The digest pair's field: C is 0 for none (R180). -/
def digestReg (e : Option Ext) : Option (BitVec 11) :=
  match e with
  | some x => if x.c = 0 then none else some x.c
  | none => none

/-- COPY (R180). -/
def execCopy (w : FullE) (s : State) : Host.Outcome State Fault Refusal :=
  let pair := digestReg w.ext
  issueWord (engWord w (pair.bind scalPair) (fun _ => 1) (fun s t =>
    let x := shapeOf t.arch w.src.toNat
    let y := shapeOf t.arch w.dst.toNat
    let bar := barrierOf w.ext
    let dig := pair.map (fun f => match opd f with
      | .scal n => t.arch.spair n
      | _ => 0)
    let traps := s.barrierTraps t bar
    let shapes := shapeChecks x y { dest := false, copy := true, digest := dig.isSome, size := s.sizeOf t x.spaceNo }
      { dest := true, copy := true, digest := dig.isSome, size := s.sizeOf t y.spaceNo } (x.total != y.total)
    match firstTrap [traps.1, leadTrap t shapes, dig.bind (fun a => trapIf (a % 64 != 0) { cause := .align, eaddr := BitVec.ofNat 64 a, once := true }),
                     traps.2] with
    | some tr => .trap tr
    | none => s.request t { cls := w.cnt.toNat, kind := .copy, src := x, dst := y, barrier := bar, digest := dig })) s

/-- GATHER (R181). -/
def execGather (w : FullE) (s : State) : Host.Outcome State Fault Refusal :=
  let sp := spaceOf (w.sub.toNat % 4)
  issueWord (engWord w (firstTrap [scalCheck w.a, scalCheck w.b]) (fun a => if scalVal a w.b = 0 then 0 else 1) (fun s t =>
    let off := scalVal t.arch w.a
    let n := scalVal t.arch w.b
    if n = 0 then .done s t none
    else
      let x := shapeOf t.arch w.src.toNat
      let y := shapeOf t.arch w.dst.toNat
      let bar := barrierOf w.ext
      let traps := s.barrierTraps t bar
      let shapes := shapeChecks x y { dest := false, copy := false, digest := false, size := s.sizeOf t x.spaceNo }
        { dest := true, copy := false, digest := false, size := s.sizeOf t y.spaceNo } (x.planes != 1 || n * x.rowb != y.total)
      match firstTrap [objTrap (s.scratchOf t sp).size off 4 (4 * n), traps.1, leadTrap t shapes, traps.2] with
      | some tr => .trap tr
      | none => s.request t { cls := w.cnt.toNat, kind := .gather sp off n, src := x, dst := y, barrier := bar, digest := none })) s

/-- The shape record that stands for a plain range of a scratch space. -/
def flatShape (sp : Nat) (off len ew : Nat) : Shape :=
  { base := off, rowb := len, rows := 1, rstr := len, planes := 1, pstr := 0, flags := BitVec.ofNat 32 (sp + 8 * ew) }

/-- TMOV (R165). -/
def execTmov (w : FullM) (s : State) : Host.Outcome State Fault Refusal :=
  let dsp := w.space.toNat
  let ssp := w.sub.toNat
  issueWord
    { len := 8, hd := w.hd, once := true, sample := true,
      check := fun _ _ => firstTrap [scalReg w.d, scalCheck w.a, scalCheck w.b],
      demand := fun _ t => { entries := if scalVal t.arch w.b = 0 then 0 else 1 },
      effect := fun s t =>
        let d := scalVal t.arch w.d
        let a := scalVal t.arch w.a
        let len := scalVal t.arch w.b
        match rangesTrap [(s.sizeOf t dsp, d), (s.sizeOf t ssp, a)] len with
        | some tr => .trap tr
        | none =>
          if len = 0 then .done s t none
          else s.request t { cls := 0, kind := .tmov len, src := flatShape ssp a len 2, dst := flatShape dsp d len 2, barrier := none,
                             digest := none } } s

/-! ### Waits (R179) -/

/-- The block scratch that an object lies in (R185). -/
def objRef (t : Team) (sp : Space) (off : Nat) : ObjRef :=
  { block := t.block, space := sp, core := if sp = .pocket then t.loc.core else 0, off := off }

/-- An operation's decrement is one that WAITC's condition needs: without it the counter would pass the threshold (R177; log 118). -/
def EngOp.countsFor (o : EngOp) (cls thr : Nat) : Bool := o.cls == cls && thr ≤ o.younger

/-- An operation fills a gour's slot of a sequence, or one below it, which PLWAIT needs (R177, R186; log 118). -/
def EngOp.fillsFor (o : EngOp) (obj : ObjRef) (g : Gour) (q : Nat) : Bool :=
  o.kind == .fill obj && (match o.slot with
    | some n => g.dist n ≤ g.dist q
    | none => true)

/-- An operation arrives on a barrier object, which BWAIT needs (R177, R183; log 118). -/
def EngOp.arrivesAt (o : EngOp) (sp : Space) (off : Nat) : Bool := o.barrier == some (sp, off)

/-- A wait reports the team's failed operation that its condition needs (R177). -/
def State.reportFailed (s : State) (t : Team) (o : EngOp) : WordEnd := .act ((s.tellOp o.id).takeTrap (t.remember { region := 0, op := some o.id }) (o.trap t.depth))

/-- WAITC's counter is at most the threshold (R182). -/
def Team.counterMet (t : Team) (cls thr : Nat) : Bool := (t.cnts.getD cls []).length ≤ thr

/-- WAITC (R182). -/
def execWaitc (w : FullE) (s : State) : Host.Outcome State Fault Refusal :=
  issueWord (engWord w (scalCheck w.a) (fun _ => 0) (fun s t =>
    let thr := scalVal t.arch w.a
    if t.role == .trailing then
      match s.lvqFind t (atWord 2 t.arch) with
      | none => .wait s (.wait .lvqEntry)
      | some _ => .done (s.lvqDrop t (atWord 2 t.arch)) t none
    else if !t.counterMet w.cnt.toNat thr then .wait s (.wait (.counter w.cnt.toNat thr))
    else match s.failedFor t (fun o => o.countsFor w.cnt.toNat thr) with
      | some o => s.reportFailed t o
      | none => .done (s.acquireAt t 2) (t.lvqPush (lvqHeader 2 t.arch.issued t.arch.pc t.regionId)) none)) s

/-- The number of a scalar register. -/
def scalOf (f : BitVec 11) : Nat := match opd f with
  | .scal n => n
  | _ => 0

/-- A wait that answers with a scalar: a trailing copy takes it from the queue (R365). -/
def trailValue (d : BitVec 11) (s : State) (t : Team) : WordEnd :=
  match s.lvqFind t (atWord 2 t.arch) with
  | none => .wait s (.wait .lvqEntry)
  | some e =>
    .done (s.lvqDrop t (atWord 2 t.arch)) { t with arch := t.arch.sset (scalOf d) ((e.vals.head?.map (fun x => x.2.2)).getD 0) } none

/-- The wait is over: the register, the acquire, and what the trailing copy takes. -/
def waitValue (d : BitVec 11) (scope : Nat) (x : Word) (s : State) (t : Team) : WordEnd :=
  let n := scalOf d
  let e : LvqEntry := { lvqValues t.arch.issued t.arch.pc t.regionId [] [(n, 0, x)] with kind := 2 }
  if !t.lvqRoom e then .wait s (.wait .lvqRoom)
  else
  let t := t.lvqPush e
  .done (s.acquireAt t scope) { t with arch := t.arch.sset n x } none

/-- A wait reads its object as a memory access: after an SC fence the team's older writes come first (R199). -/
def onObject (sp : Space) (off n : Nat) (f : State → Team → WordEnd) (s : State) (t : Team) : WordEnd :=
  match s.gate t sp [(0, off)] n EntryKind.stopsWrite with
  | some c => .wait s (.wait c)
  | none => match s.passGate t with
    | (s, t) => f s t

/-- PLWAIT (R186). -/
def execPlwait (w : FullE) (s : State) : Host.Outcome State Fault Refusal :=
  let sp := spaceOf (w.sub.toNat % 4)
  issueWord (engWord w (firstTrap [scalReg w.d, scalCheck w.a, scalCheck w.b]) (fun _ => 0) (fun s t =>
    let off := scalVal t.arch w.a
    let q := scalVal t.arch w.b
    match objTrap (s.scratchOf t sp).size off 64 64 with
    | some tr => .trap tr
    | none =>
      if t.role == .trailing then trailValue w.d s t
      else onObject sp off 64 (fun s t =>
        let g := gourOf (s.seenObject t sp off 64)
        if g.bad then .trap (gourTrap 1)
        else if g.released q then .trap (gourTrap 3)
        else if g.dist q < g.dist g.cidx then waitValue w.d (scopeIn sp 5) (BitVec.ofNat 32 (g.slotAt q)) s t
        else match s.failedFor t (fun o => o.fillsFor (objRef t sp off) g q) with
          | some o => s.reportFailed t o
          | none => .wait s (.wait (.gourSlot sp off q))) s t)) s

/-- BWAIT (R183). -/
def execBwait (w : FullE) (s : State) : Host.Outcome State Fault Refusal :=
  let sp := spaceOf (w.sub.toNat % 4)
  issueWord (engWord w (firstTrap [scalReg w.d, scalCheck w.a, scalCheck w.b]) (fun _ => 0) (fun s t =>
    let off := scalVal t.arch w.a
    let ph := scalVal t.arch w.b
    match objTrap (s.scratchOf t sp).size off 16 16 with
    | some tr => .trap tr
    | none =>
      if t.role == .trailing then trailValue w.d s t
      else onObject sp off 16 (fun s t =>
        let bs := s.seenObject t sp off 16
        if fieldAt bs 0 1 != 0x5B then .trap (syncTrap 0x10)
        else if (fieldAt bs 1 1).testBit 0 then .trap (syncTrap 0x11)
        -- the arrivals may be a copy's whose destination is global: the core's read cache loses the address space (R183, R202)
        else if fieldAt bs 12 4 != ph then waitValue w.d (max 2 (scopeIn sp 5)) (BitVec.ofNat 32 (fieldAt bs 12 4)) s t
        else match s.failedFor t (fun o => o.arrivesAt sp off) with
          | some o => s.reportFailed t o
          | none => .wait s (.wait (.phase sp off (BitVec.ofNat 32 ph)))) s t)) s

/-! ### Barrier objects and gours: held actions (R183, R186) -/

/-- ARRIVE (R183). -/
def execArrive (w : FullE) (s : State) : Host.Outcome State Fault Refusal :=
  let sp := spaceOf (w.sub.toNat % 4)
  issueWord (engWord w (firstTrap [scalCheck w.a, scalCheck w.b]) (fun _ => 1) (fun s t =>
    let off := scalVal t.arch w.a
    match firstTrap [objTrap (s.scratchOf t sp).size off 16 16, leadTrap t (trapIf (s.barUninit t sp off) (syncTrap 0x10))] with
    | some tr => .trap tr
    | none => .done s (t.hold (.arrive sp off (scalVal t.arch w.b)) 0 .none 0 s.tick) none)) s

/-- BINIT (R183). -/
def execBinit (w : FullE) (s : State) : Host.Outcome State Fault Refusal :=
  let sp := spaceOf (w.sub.toNat % 4)
  issueWord (engWord w (firstTrap [scalCheck w.a, scalCheck w.b]) (fun _ => 1) (fun s t =>
    let off := scalVal t.arch w.a
    let amt := scalVal t.arch w.b
    match firstTrap [objTrap (s.scratchOf t sp).size off 16 16, leadTrap t (trapIf (amt == 0) (syncTrap 0x12))] with
    | some tr => .trap tr
    | none => .done s (t.hold (.binit sp off amt) 0 .none 0 s.tick) none)) s

/-- The parameters of PLINIT fail (code 2). -/
def plinitBad (size off base bytes nslot nrel : Nat) : Bool :=
  nslot == 0 || 256 < nslot || nrel == 0 || 16 < nrel || bytes == 0 || bytes % 16 != 0 || base % 16 != 0 ||
    size < base + nslot * bytes || (base < off + 64 && off < base + nslot * bytes)

/-- PLINIT (R186). -/
def execPlinit (w : FullE) (s : State) : Host.Outcome State Fault Refusal :=
  let sp := spaceOf (w.sub.toNat % 4)
  let e := extOf w.ext
  issueWord (engWord w (firstTrap [scalCheck w.a, scalCheck w.b, scalCheck e.c]) (fun _ => 1) (fun s t =>
    let off := scalVal t.arch w.a
    let base := scalVal t.arch w.b
    let bytes := scalVal t.arch e.c
    let nslot := e.imm.toNat % 65536
    let nrel := e.imm.toNat / 65536 % 256
    let size := (s.scratchOf t sp).size
    match firstTrap [objTrap size off 64 64, leadTrap t (trapIf (plinitBad size off base bytes nslot nrel) (gourTrap 2))] with
    | some tr => .trap tr
    | none => .done s (t.hold (.plinit sp off base bytes nslot nrel) 0 .none 0 s.tick) none)) s

/-- PLFILL (R186): the ring of slots is the destination that the source is checked against. -/
def execPlfill (w : FullE) (s : State) : Host.Outcome State Fault Refusal :=
  let spn := w.sub.toNat % 4
  let sp := spaceOf spn
  issueWord (engWord w (scalCheck w.a) (fun _ => 1) (fun s t =>
    let off := scalVal t.arch w.a
    let x := shapeOf t.arch w.src.toNat
    let g := gourOf (s.seenObject t sp off 64)
    let ring := flatShape spn g.base (g.nslot * g.bytes) 0
    let shapes := shapeChecks x ring { dest := false, copy := false, digest := false, size := s.sizeOf t x.spaceNo }
      { dest := true, copy := false, digest := false, size := s.sizeOf t spn } (g.bytes < x.total)
    match firstTrap [objTrap (s.scratchOf t sp).size off 64 64, leadTrap t (trapIf g.bad (gourTrap 1)), leadTrap t shapes] with
    | some tr => .trap tr
    | none =>
      s.request t { cls := w.cnt.toNat, kind := .fill (objRef t sp off), src := x, dst := flatShape spn 0 x.total 0, barrier := none,
                    digest := none })) s

/-- PLREL (R186). -/
def execPlrel (w : FullE) (s : State) : Host.Outcome State Fault Refusal :=
  let sp := spaceOf (w.sub.toNat % 4)
  issueWord (engWord w (firstTrap [scalCheck w.a, scalCheck w.b]) (fun _ => 1) (fun s t =>
    let off := scalVal t.arch w.a
    let q := scalVal t.arch w.b
    let g := gourOf (s.seenObject t sp off 64)
    match firstTrap [objTrap (s.scratchOf t sp).size off 64 64,
                     leadTrap t (firstTrap [trapIf g.bad (gourTrap 1), trapIf (g.released q) (gourTrap 3),
                                            trapIf (g.dist g.cidx ≤ g.dist q) (gourTrap 4)])] with
    | some tr => .trap tr
    | none => .done s (t.hold (.plrel sp off q) 0 .none 0 s.tick) none)) s

end Sys2Proof.Machine
end

