-- ==== Sys2Proof/Machine/Freeze.lean ====
section
/-! DEFINITION. Debug stops: how teams freeze and what a stop record holds (21_debug_and_watchpoint.md, R389–R392). -/

namespace Sys2Proof.Machine

/-- A function's debug command ends in error: BUSY clears, ERR sets with a code (R389). -/
def State.dbgErr (s : State) (f code : Nat) : State :=
  ((s.setField f 0xC004 31 1 0).setField f 0xC008 1 1 1).setField f 0xC008 8 8 code

/-- The buffer of a function's debug page: host address and bytes (Table 21.1). -/
def State.dbgBuf (s : State) (f : Nat) : Nat × Nat := (s.reg64 f 0xC010 / 4096 * 4096, 4096 * (s.reg f 0xC018).toNat)

/-- Writes bytes at the buffer's start; `none` when it is too small or the host refuses the write (R392). -/
def State.dbgWrite (s : State) (f : Nat) (bs : List Byte) : Option State :=
  if (s.dbgBuf f).2 < bs.length || !s.hostTakes (s.dbgBuf f).1 bs.length then none else some { s with hostMem := s.hostMem.put (s.dbgBuf f).1 bs }

/-- The state that a stop record gives for a team (Table 21.2). -/
def Team.priorCode (t : Team) : Nat :=
  if t.kind = .lantern then 7
  else match t.run with
    | .ready => 0
    | .switch => 1
    | .memory _ => 2
    | .fetch _ => 2
    | .landing _ => 2
    | .barrier _ _ _ _ => 3
    | .wait _ => 4
    | .join => 5
    | .registers _ _ _ => 6
    | .migrating => 0

/-- A team's slot on its core. -/
def Loc.coreSlot (l : Loc) : Nat := 8 * l.part + l.slot

/-- An entry of a stop record. Teams freeze at the trigger, so the skid is 0 and both addresses agree. -/
def State.stopEntry (s : State) (t : Team) : List Byte :=
  natBytes 8 t.arch.pc.toNat ++ natBytes 8 (((s.gridOf t).map (·.lrec.gridtag.toNat)).getD 0) ++ natBytes 1 t.loc.pkgCore ++
    natBytes 1 t.loc.coreSlot ++ natBytes 1 t.loc.part ++ natBytes 1 (((s.block? t.block).map (·.blockId)).getD 0) ++ natBytes 2 t.idx ++
    natBytes 1 t.priorCode ++ natBytes 1 0 ++ natBytes 8 t.arch.pc.toNat

/-- A stop record (Table 21.2). -/
def State.stopRecord (s : State) (r : StopReq) (ts : List Team) : List Byte :=
  natBytes 4 0x504F5453 ++ natBytes 2 1 ++ natBytes 1 r.trigger ++ natBytes 1 r.cluster ++ natBytes 8 r.since ++ natBytes 8 r.instr.toNat ++
    natBytes 8 r.addr.toNat ++ natBytes 1 r.wp ++ natBytes 1 r.core ++ natBytes 1 r.slot ++ natBytes 1 r.kind ++ natBytes 2 ts.length ++
    natBytes 26 0 ++ ts.flatMap s.stopEntry

/-- Teams in the order of their cores and slots. -/
def bySlot (ts : List Team) : List Team :=
  (List.range 64).flatMap (fun c => (List.range 32).flatMap (fun i => ts.filter (fun t => t.loc.pkgCore == c && t.loc.coreSlot == i)))

/-- A stop of the teams that p names, asked for by function f's session: the teams freeze and the stop record is written; a target
that is frozen already gets no record (R390, R392). -/
def State.stopTeams (s : State) (f : Nat) (p : Team → Bool) (r : StopReq) : State :=
  let ts := s.teams.filter p
  if !ts.isEmpty && ts.all (·.frozen) then s.dbgDone f
  else
    let new := bySlot (ts.filter (fun t => !t.frozen))
    let rec_ := s.stopRecord r new
    let s := { s with teams := s.teams.map (fun t => if p t && !t.frozen then t.freeze s.tick else t)
                      stopped := if s.stopped.contains (r.cluster, f) then s.stopped else s.stopped ++ [(r.cluster, f)] }
    match s.dbgWrite f rec_ with
    | some s => s.dbgDone f
    | none => s.dbgErr f 0x23

/-- A stop that a hit or a BRK asked for reaches its cluster, under the session that covers it. -/
def State.takeStop (s : State) (r : StopReq) : State :=
  match s.dbgFunc r.cluster with
  | none => s
  | some f => s.stopTeams f (fun t => t.loc.cl == r.cluster) r

/-- Every stop on its way takes effect. -/
def State.takeStops (s : State) : State := s.stopReq.foldl State.takeStop { s with stopReq := [] }

end Sys2Proof.Machine
end

