-- ==== Sys2Proof/Machine/Outside.lean ====
section
/-! DEFINITION. Accesses from outside the package's cores as they stand staged at their slices (15_translation_and_host.md, R302, R305;
07_async_engines.md, R176), samples, and what a partition's suspension and end wait for (16_partitions_preemption_power.md, R308, R312, R324). -/

namespace Sys2Proof.Machine

/-! ### Accesses of the aperture and of other packages -/

/-- An aperture access fails: WINERR (R302). -/
def State.winErr (s : State) (f : Nat) : State := s.setReg f 0x300C 1

/-- An access that cannot be performed: the aperture drops it and sets WINERR; another package gets the code (R302, R305). -/
def State.refuseOutside (s : State) (o : Origin) (asid va code : Nat) : State :=
  match o with
  | .aperture f => s.winErr f
  | .device d => s.sendLink (s.sliceDie va) asid 0 (.remoteRefused d code)

/-- How one line of an access from outside ends. -/
inductive OutEnd where
  | ok (bs : List Byte) (tags : List (Nat × Nat))
  | fail (code : Nat)
  | wait

/-- A missing translation: the aperture's access fails, another package's starts a fault and waits (R302, R299). -/
def State.outsideMiss (s : State) (o : Origin) (asid va kind : Nat) : State × OutEnd :=
  match o with
  | .aperture _ => (s, .fail 0x10)
  | .device _ => match s.startMiss asid va kind 0 with
    | (s, true) => (s, .wait)
    | (s, false) => (s, .fail 0x10)

/-- Reads bytes of one line at the owning slice, a cell's whatever its tag (R302). -/
def State.outsideRead (s : State) (o : Origin) (asid va n : Nat) : State × OutEnd :=
  match s.reached asid va with
  | (s, x) => match x.check .read false with
    | .ok h base _ _ _ =>
      if s.badData h base then ({ s with log := s.log ++ [.storage base] }, .fail 0x09)
      else
        let bs := if s.tagAt h base = .value then s.overlayPending .glob asid 0 va (s.lineBytes asid va h base n) else s.rawBytes h base n
        (s, .ok bs ([(hubZone, s.tick), (dieZone (s.sliceDie va), s.tick)] ++ (if h then [] else [(stackZone (base / 2 ^ 36), s.tick)])))
    | .absent => s.outsideMiss o asid va 0
    | .remote d =>
      match s.frame? asid va with
      | some f => (s.dropFrame asid va, .ok f [(hubZone, s.tick)])
      | none =>
        let m := HostMsg.remoteRead d asid va n
        (s.askLink (s.sliceDie va) asid n m, .wait)
    | .bad code => (s, .fail code)

/-- Writes bytes of one line at the owning slice: only a VALUE cell takes them (R302). -/
def State.outsideWrite (s : State) (o : Origin) (asid va : Nat) (bs : List Byte) : State × OutEnd :=
  match s.translate asid va with
  | (s, x) => match x.check .write false with
    | .ok h base _ _ pr =>
      if s.tagAt h base != .value then (s, .fail 0x02)
      else if s.pendingAt .glob asid 0 va bs.length then (s, .wait)
      else ((s.unmark h base bs.length).sliceWrite asid va h base pr bs, .ok [] [])
    | .absent => s.outsideMiss o asid va 1
    | .remote d => (s.sendLink (s.sliceDie va) asid bs.length (.remoteWrite d asid va bs), .ok [] [])
    | .bad code => (s, .fail code)

/-- Reads pieces of lines one after another, as far as the first that fails or waits. -/
def State.outsideReads (s : State) (o : Origin) (asid : Nat) :
    List (Nat × Nat) → List Byte → List (Nat × Nat) → State × OutEnd
  | [], bs, tags => (s, .ok bs tags)
  | (a, n) :: rest, bs, tags => match s.outsideRead o asid a n with
    | (s, .ok b t) => s.outsideReads o asid rest (bs ++ b) (tags ++ t)
    | r => r

/-- Performs a staged write line by line; what is left of it, when a line must wait. -/
def State.outsideWrites (s : State) (p : Posted) : List (Nat × Nat) → State × Option Posted
  | [] => (s, none)
  | (a, n) :: rest =>
    match s.outsideWrite p.src p.asid a (sliceBytes p.data (a - p.va) n) with
    | (s, .ok _ _) => s.outsideWrites p rest
    | (s, .fail code) => (s.refuseOutside p.src p.asid p.va code).outsideWrites p rest
    | (s, .wait) => (s, some { p with va := a, data := p.data.drop (a - p.va) })

/-- An atomic or a probe of another package at the owning slice, whose tag has cleared: a probe, which finds the page writable and its cell a VALUE, is
answered at once; an atomic leaves its old value to be sent once the value's own tags have cleared (R153, R158, R305). -/
def State.stepUpdate (s : State) (p : Posted) : State × Option Posted :=
  let n := match p.atom with
    | some (_, _, n, _) => n
    | none => 1
  match s.translate p.asid p.va with
  | (s, .remote _) => (s.refuseOutside p.src p.asid p.va 0x06, none)
  | (s, .bad code) => (s.refuseOutside p.src p.asid p.va code, none)
  | (s, .absent) => match s.outsideMiss p.src p.asid p.va 1 with
    | (s, .wait) => (s, some p)
    | (s, _) => (s.refuseOutside p.src p.asid p.va 0x10, none)
  | (s, x) => match x.check .write false with
    | .ok h base _ _ pr =>
      if s.tagAt h base != .value then (s.refuseOutside p.src p.asid p.va 0x02, none)
      else if p.probe then
        (match p.src with
          | .device d => s.sendLink (s.sliceDie p.va) p.asid 0 (.remoteReply d [])
          | .aperture _ => s, none)
      else if s.pendingAt .glob p.asid 0 p.va n then (s, some p)
      else
        let old := s.lineBytes p.asid p.va h base n
        let new := match p.atom with
          | some (15, _, _, v :: c :: _) => if bytesNat old = c.toNat then some v.toNat else none
          | some (op, ty, _, v :: _) => some (atomNew op ty (bytesNat old) v.toNat)
          | _ => none
        let tags := [(dieZone (s.sliceDie p.va), s.tick), (stackZone (base / 2 ^ 36), s.tick)]
        let s := match new with
          | some v => s.sliceWrite p.asid p.va h base pr (natBytes n v)
          | none => s
        (s, some { p with atom := none, want := n, data := old, tags := tags.foldl (fun g t => g.add t.1 t.2 t.2) Tags.empty })
    | .bad code => (s.refuseOutside p.src p.asid p.va code, none)
    | _ => (s, some p)

/-- One staged access whose turn it is: the state, and what is left of it. A read's data leave once their tags have cleared. -/
def State.stepPosted (s : State) (p : Posted) : State × Option Posted :=
  if p.probe || p.atom.isSome then (if s.tagsClear (s.sliceDie p.va) p.tags then s.stepUpdate p else (s, some p))
  else if p.want != 0 && p.data.isEmpty then
    match s.outsideReads p.src p.asid (linePieces (p.want / 64 + 2) p.va p.want) [] [] with
    | (s, .ok bs tags) => (s, some { p with data := bs, tags := tags.foldl (fun g t => g.add t.1 t.2 t.2) Tags.empty })
    | (s, .fail code) => (s.refuseOutside p.src p.asid p.va code, none)
    | (s, .wait) => (s, some p)
  else if !s.tagsClear (s.sliceDie p.va) p.tags then (s, some p)
  else if p.want != 0 then
    (match p.src with
      | .device d => s.sendLink (s.sliceDie p.va) p.asid p.data.length (.remoteReply d p.data)
      | .aperture _ => s, none)
  else s.outsideWrites p (linePieces (p.data.length / 64 + 2) p.va p.data.length)

/-- A staged access stands behind another: posted writes of every function keep one arrival order (R302), another package's accesses its own. -/
def Posted.behind (p q : Posted) : Bool :=
  match p.src, q.src with
  | .aperture _, .aperture _ => true
  | .device d, .device e => d == e
  | _, _ => false

/-- Every staged access that can go on does, in arrival order. -/
def State.performPosted (s : State) : State :=
  let r := s.posted.foldl (fun (acc : State × List Posted) p =>
    if acc.2.any p.behind then (acc.1, acc.2 ++ [p])
    else match acc.1.stepPosted p with
      | (s, some q) => (s, acc.2 ++ [q])
      | (s, none) => (s, acc.2)) (s, [])
  { r.1 with posted := r.2 }

/-! ### Samples (R400) -/

/-- Entries of a team that have not been performed yet. -/
def State.unperformed (s : State) (t : Team) : List Entry :=
  t.regions.flatMap (·.held) ++ t.relq ++ ((s.core t.loc.pkgCore).outbound.filter (fun o => o.team == t.uid)).map (·.ent)

/-- An entry of an access. -/
def Entry.ofAccess (e : Entry) (acc : Nat) : Bool :=
  e.acc == acc || (match e.kind with
    | .store _ _ parts _ _ => parts.any (fun p => p.acc == acc)
    | _ => false)

/-- What a sample has seen of its instruction's access by now. -/
def State.lookSample (s : State) (x : Sample) : Sample :=
  if x.squashed || x.doneT.isSome then x
  else match s.team? x.team with
    | none => { x with doneT := some s.tick }
    | some t =>
      let ls := (t.accs.filter (fun a => a.id == x.acc)).flatMap (·.lanes)
      let open_ := ls.any (·.st.unfinished) || t.pend.any (fun p => p.id == x.acc) || (s.unperformed t).any (fun e => e.ofAccess x.acc)
      { x with remote := x.remote || ls.any (fun l => s.deviceUp (deviceOf l.addr) && deviceHalf l.addr && deviceOf l.addr != s.devNum)
               paged := x.paged || ls.any (fun l => l.st == .page)
               geode := x.geode || ls.any (fun l => match l.st with
                 | .cellWait _ _ => true
                 | .bufferWait => true
                 | _ => false)
               doneT := if open_ then none else some s.tick }

/-- What the samples have seen. -/
def State.lookSamples (s : State) : State := if s.samples.isEmpty then s else { s with samples := s.samples.map s.lookSample }

/-! ### Partitions -/

/-- The partition that a block's grid counts as its own. -/
def State.blockTenant (s : State) (b : Block) : Option Nat := (s.grid? b.grid).map (·.tenant)

/-- A block of a partition holds a cluster. -/
def State.partResident (s : State) (p : Nat) : Bool := s.blocks.any (fun b => b.placed && s.blockTenant b == some p)

/-- SUSPENDED says that SUSPEND is 1 and that no block of the partition holds a cluster (Table 16.1). -/
def State.noteSuspended (s : State) (p : Nat) : State :=
  let all := if s.partSuspend p && !s.partResident p then 1 else 0
  if s.regField 0 (partOff p + 0x1C) 2 1 = all then s else s.setField 0 (partOff p + 0x1C) 2 1 all

/-- The regulator of cluster n (Table 16.8). -/
def State.regulator (s : State) (n : Nat) : Nat := s.regField 0 (0x6020 + 4 * (n / 16)) (2 * (n % 16)) 2

/-- The clusters of a partition, as CLUSTERS lists them. -/
def State.partClusters (s : State) (p : Nat) : List Nat := (List.range 32).filter (fun n => (s.reg 0 (partOff p)).getLsbD n)

/-- Attaches a partition with no resident block to the regulator that feeds the fewest other enabled partitions (R324). -/
def State.attach (s : State) (p : Nat) : State :=
  if !s.partEn p || s.partResident p then s
  else
    let others := (List.range 8).filter (fun q => q != p && s.partEn q)
    let load (v : Nat) : Nat := (others.filter (fun q => (s.partClusters q).any (fun n => s.regulator n == v))).length
    let v := (List.range 4).foldl (fun best v => if load v < load best then v else best) 0
    (s.partClusters p).foldl (fun s n => s.setField 0 (0x6020 + 4 * (n / 16)) (2 * (n % 16)) 2 v) s

/-- The attachments after the EN bit of some partition has changed (R324). -/
def State.attachAll (s : State) : State := (List.range 8).foldl State.attach s

/-- A partition's EN becomes 0: its buckets stand at BKTSIZE (R308, R310). -/
def State.clearPart (s : State) (p : Nat) : State :=
  let s := s.setField 0 (partOff p + 0x1C) 0 1 0
  { s with closing := s.closing.filter (· != p)
           dies := s.dies.map (fun (d : Die) => { d with buckets := d.buckets.set p (s.bucketSize p : Int) }) }.arbitrate.attachAll

/-- A partition that is ending: each of its grids ends, and EN is 0 once every completion record has been written (R308). -/
def State.endPart (s : State) (p : Nat) : State :=
  let gs := s.grids.filter (fun g => g.tenant == p)
  if gs.isEmpty then s.clearPart p else (gs.filter (fun g => g.status.isNone)).foldl (fun s g => s.abortGrid g.uid 0 .preempt) s

/-- What partitions wait for. -/
def State.partSettle (s : State) : State := s.closing.foldl State.endPart ((List.range 8).foldl State.noteSuspended s)

end Sys2Proof.Machine
end

