-- ==== Sys2Proof/Machine/Release.lean ====
section
/-! DEFINITION. What a cleared region lets out: the release of QSB entries and their performing at their targets (R144, R147–R150),
the clearing of regions (R343), and what follows from either (06_memory_instructions.md, 17_quarantine.md). -/

namespace Sys2Proof.Machine

/-! ### Performing entries -/

/-- A hub AtomicOp at host memory (R161): the old bytes; the slice's copy of the line is written back and dropped first. -/
def State.hostAtomic (s : State) (asid va n : Nat) (f : Nat → Option Nat) : State × List Byte :=
  match s.translate asid va with
  | (s, .ok true base _ _ _) =>
    let s := s.dropSlices (fun l => l.asid == asid && l.line == lineOf va)
    let old := s.hostMem.bytes base n
    match f (bytesNat old) with
    | some x => ({ s with hostMem := s.hostMem.put base (natBytes n x) }, old)
    | none => (s, old)
  | (s, _) => (s, List.replicate n 0)

/-- One lane of an atomic without return, at its target (R158, R161). -/
def State.atomLane (s : State) (t : Team) (e : Entry) (sp : Space) (op ty n scope : Nat) (x : Nat × Nat × DWord) : State :=
  let f (old : Nat) : Option Nat := some (atomNew op ty old x.2.2.toNat)
  let asid := s.asidOf t
  if sp == .glob && s.isRemote x.2.1 then
    s.sendLink t.loc.chip asid n (.remoteAtom (deviceOf x.2.1) asid x.2.1 op ty n [x.2.2])
  else
    let s := if sp == .glob && !deviceHalf x.2.1 && scope == 5 then (s.hostAtomic asid x.2.1 n f).1 else (s.rmw t e.probe sp x.2.1 n f).1
    s.watchTeam t.uid sp x.2.1 n 3 x.1 e.pc none

/-- A scratch store at its bank: the valid bits of the words it touches are set (R142). -/
def State.bankStore (s : State) (t : Team) (e : Entry) (sp : Space) (line : Nat) (parts : List StorePart) : State :=
  parts.foldl (fun s p =>
    (s.updScratch t sp (fun c => c.write (64 * line + p.off) p.data)).watchTeam t.uid sp (64 * line + p.off) p.data.length 2 p.lane e.pc none) s

/-- ARRIVE on a barrier object's bytes (R183); an object that is not initialised does not change. -/
def arriveBytes (bs : List Byte) (amt : Nat) : List Byte :=
  if fieldAt bs 0 1 ≠ 0x5B ∨ amt = 0 then bs
  else
    let pending := fieldAt bs 8 4
    let expect := fieldAt bs 4 4
    if pending ≤ amt then
      natBytes 4 ((fieldAt bs 0 4 - 256 * (fieldAt bs 1 1 % 2)) + 256 * (if pending < amt ∨ fieldAt bs 1 1 % 2 = 1 then 1 else 0)) ++
        natBytes 4 expect ++ natBytes 4 expect ++ natBytes 4 (fieldAt bs 12 4 + 1)
    else patch bs 8 (natBytes 4 (pending - amt))

/-- A cell write at the logic die (Table 11.4): `none` while a setting write waits on a FORMING cell or on a pending word (R160). The owner forms act only on a
cell still forming under the team's ticket. The core keeps no older copy of the line (R197). -/
def State.performCell (s : State) (t : Team) (pr : Probe) (op : CellOp) (addr : Nat) (data : List Byte) : Option State :=
  let asid := s.asidOf t
  let s := s.dropRead t.loc.pkgCore (fun l => l.asid == asid && l.line == lineOf addr)
  match s.keptAt pr asid addr with
  | (s, .ok h base _ _ _) =>
    let cell := lineOf base
    let owner := op == .gres || op == .gpsn
    let tag := s.tagAt h base
    if h then some s
    else if owner then
      if (match t.ticket with | some k => s.formingUnder cell k | none => false) then
        if op = .gres then some (s.resolve cell .value data) else some (s.poison cell (fieldAt data 0 4) 0)
      else some s
    else if tag = .forming || s.pendingAt .glob asid 0 (addr / 64 * 64) 64 then none
    else
      let s := s.dropSlices (fun l => !l.host && lineOf l.base == cell)
      let s := { s with mem := s.mem.put (64 * cell) data, badCells := s.badCells.filter (fun c => c != cell) }
      some ((s.setGres cell (if op = .gresSet then BitVec.allOnes 64 else 0)).setTag cell (match op with
        | .gdef => .geode
        | .gpsnSet => .poison
        | _ => .value))
  | (s, .remote d) => some (s.sendLink t.loc.chip asid 64 (.remoteWrite d asid addr data))
  | (s, _) => some s

/-- The bin of a spawned record (R225). -/
def binOf (r : ContRec) : Nat :=
  let a := (r.regs.getD 0 0).toNat + 2 ^ 32 * (r.regs.getD 1 0).toNat
  (a / 2 ^ 21 ^^^ a / 2 ^ 27 ^^^ a / 2 ^ 33 ^^^ a / 2 ^ 39) % 64

/-- A trace record (Table 18.7) written into its function's ring, or dropped (R363). -/
def State.traceOut (s : State) (t : Team) (tag : BitVec 16) (payload : Word) (addr : DWord) : State :=
  match s.gridOf t with
  | none => s
  | some g =>
    let f := g.func
    let size := s.regField f 0xA008 1 5
    let w := (s.reg f 0xA00C).toNat
    let r := (s.reg f 0xA010).toNat
    if (w + 2 ^ 32 - r) % 2 ^ 32 = 2 ^ size then s.setReg f 0xA014 (BitVec.ofNat 32 (min ((s.reg f 0xA014).toNat + 1) 0xFFFFFFFF))
    else
      let rec_ := natBytes 8 s.tick ++ natBytes 8 addr.toNat ++ natBytes 8 g.lrec.gridtag.toNat ++ natBytes 2 tag.toNat ++
        natBytes 1 t.loc.pkgCore ++ natBytes 1 (8 * t.loc.part + t.loc.slot) ++ natBytes 4 payload.toNat
      let at_ := s.reg64 f 0xA000 / 4096 * 4096 + 32 * (w % 2 ^ size)
      (s.hostPut at_ rec_).setReg f 0xA00C (BitVec.ofNat 32 (w + 1))

/-- Adds an action to a gour's queue (R186). -/
def Block.queueGour (b : Block) (o : ObjRef) (a : GourAct) : Block :=
  if b.gours.any (fun g => g.1 == o) then { b with gours := b.gours.map (fun g => if g.1 = o then (o, g.2 ++ [a]) else g) }
  else { b with gours := b.gours ++ [(o, [a])] }

/-- A released request goes to its die's queue, in release order, or to its gour (R170, R186). -/
def State.releaseOp (s : State) (id : Nat) : State :=
  match s.op? id with
  | none => s
  | some o =>
    let s := { s with ops := s.ops.filter (fun x => x.id != id) ++ [{ o with state := .queued }] }
    match o.kind with
    | .fill obj => s.updBlock obj.block (fun b => b.queueGour obj (.fill id))
    | _ => s

/-- A request of a gour's slot that has not been accepted yet. -/
def EngOp.unaccepted (o : EngOp) : Bool := match o.kind with
  | .fill _ => o.slot.isNone
  | _ => false

/-- Performs an entry at its target; `none` while it must wait there (R150, R160), or, for a releasing event of Table 8.3 and the start of an
engine's request (R202), while an older entry of the outbound buffer waits. -/
def State.perform (s : State) (t : Team) (e : Entry) : Option State :=
  match e.kind with
  | .store .glob line parts rel scope =>
    (if rel then s.releaseAt t scope else some s).map (fun s =>
      let core := t.loc.pkgCore
      let s := s.updateRead core (s.asidOf t) line parts
      s.updCore core (fun c => { c with outbound := c.outbound ++ [{ team := t.uid, asid := s.asidOf t, ent := e }] }))
  | .store sp line parts rel scope =>
    (if rel then s.releaseAt t scope else some s).bind (fun s =>
      if parts.any (fun x => s.pendingHere t sp (64 * line + x.off) x.data.length) then none
      else some (s.bankStore t e sp line parts))
  | .atom sp _ op ty width lanes rel scope =>
    (if rel then s.releaseAt t scope else some s).bind (fun s =>
      let p := s.placeOf t sp 0
      let s := if sp = .glob && lanes.any (fun x => s.outboundHas t.loc.pkgCore (s.asidOf t) (lineOf x.2.1)) then s.drainAll t.loc.pkgCore else s
      if lanes.any (fun x => s.pendingAt sp p.owner p.core x.2.1 width) then none
      else if sp = .glob && lanes.any (fun x => s.outboundHas t.loc.pkgCore (s.asidOf t) (lineOf x.2.1)) then none
      else some (lanes.foldl (fun s x => s.atomLane t e sp op ty width scope x) s))
  | .fence ord _ scope =>
    if ord < 2 then some s
    else (s.releaseAt t scope).map (fun s =>
      if scope = 5 then s.cleanSlices (fun l => l.asid == s.asidOf t) else s)
  | .sinv sp off len => if s.pendingHere t sp off len then none else some ((s.updScratch t sp (fun c => c.clear off len)).watchTeam t.uid sp off len 2 0 e.pc none)
  | .engine id => (s.releaseAt t 4).map (fun s => s.releaseOp id)
  | .plinit _ _ _ _ _ _ => none
  | .plrel sp off q => (s.releaseAt t (scopeIn sp 5)).map (fun s => s.updBlock t.block (fun b => b.queueGour (objRef t sp off) (.rel q)))
  | .binit sp off amt => if s.pendingHere t sp off 16 then none else (s.releaseAt t (scopeIn sp 5)).map (fun s => s.updScratch t sp (fun c => c.write off (barBytes amt)))
  | .arrive sp off amt => if s.pendingHere t sp off 16 then none else (s.releaseAt t (scopeIn sp 5)).map (fun s => s.updScratch t sp (fun c =>
      let old := c.mem.bytes off 16
      if arriveBytes old amt = old then c else c.write off (arriveBytes old amt)))
  | .spawn r =>
    let rec_ : TaskRec := { crec := r, grid := t.grid, span := ((s.block? t.block).map (·.span)).getD 0, gw := t.gw }
    (s.releaseAt t 4).map (fun s => s.updDie t.loc.chip (fun d => { d with bins := d.bins.modify (binOf r) (fun b => b ++ [rec_]) }))
  | .launch addr => (s.releaseAt t 4).map (fun s =>
    match s.gridOf t with
    | none => s
    | some g =>
      let (id, s) := s.fresh
      { s with launches := s.launches ++ [{ id := id, team := t.uid, grid := t.grid, tenant := g.tenant, func := g.func, queue := g.queue,
                                                 asid := g.asid, prio := g.lrec.prio, addr := addr }] })
  | .cell op addr data => (s.releaseAt t 4).bind (fun s => s.performCell t e.probe op addr data)
  | .cont r => some (s.updCore t.loc.pkgCore (fun c => { c with lantern := c.lantern ++ [r] }))
  | .trace tag payload addr => some (s.traceOut t tag payload addr)

/-- A release store of scope `.clus` or wider of the team that its slice has not acknowledged holds back younger entries (R156). -/
def State.releaseOut (s : State) (t : Team) : Bool :=
  (s.core t.loc.pkgCore).outbound.any (fun o => o.team == t.uid && match o.ent.kind with
    | .store _ _ _ rel scope => rel && 2 ≤ scope
    | _ => false)

/-- Performs a team's released entries in order, at most n of them, until one must wait. -/
def State.pump (s : State) (u : Nat) : Nat → State
  | 0 => s
  | n + 1 =>
    match s.team? u with
    | none => s
    | some t => match t.relq with
      | [] => s
      | e :: rest =>
        let s1 := if s.releaseOut t then s.drainAll t.loc.pkgCore else s
        if s1.releaseOut t then s1
        else match (s1.setTeam { t with relq := rest }).perform { t with relq := rest } e with
          | none => s1
          | some s => s.pump u n

/-! ### Clearing (R343) -/

/-- The conditions of R343 on a team's oldest region, with R368's for a redundant pair. -/
def State.clearable (s : State) (t : Team) (r : Region) : Bool :=
  (match r.closeT with
   | some e => e + windowW ≤ s.recv t.loc.chip t.loc.zone
   | none => false) &&
  s.tagsClear t.loc.chip r.imports &&
  r.checks.all (fun c => match c.doneT with
    | some n => n + checkTicks < s.tick
    | none => false) &&
  r.held.all (fun e => e.probe != .waiting) &&
  !t.accs.any (fun a => a.region == r.id && a.lanes.any (fun l => l.st != .done)) &&
  !t.pend.any (fun p => p.region == r.id) &&
  (t.role == .single || t.kind == .lantern || r.sig.isSome)

/-- A staged tile laid over the partner's own version of it: in a quarter that the partner has written, each element holds one of the two
written values, which a free value says (R132). -/
def mixTile (n : Nat) (hit : List Nat) (new own : List Word) : List Word :=
  (new.zip own).mapIdx (fun i x => if hit.contains (i / 2048) && (Config.freeWord (n + i)).getLsbD 0 then x.2 else x.1)

/-- An `.x2` result commits into the partner's tile (R123, R130, R132). Each of the partner's checkpoints takes it with what the partner
had written by then. -/
def Team.commitX2 (t : Team) (free : Nat) (x : X2) : Team :=
  let lay (before : Nat → Bool) (a : Arch) : Arch :=
    let hit := (x.hit.filter (fun h => before h.1)).map (·.2)
    { a with tiles := a.tiles.set x.tile (mixTile free hit x.value (a.tiles.getD x.tile [])) }
  { t with arch := lay (fun _ => true) t.arch
           regions := t.regions.map (fun r => { r with ckpt := lay (· < r.id) r.ckpt }) }

/-- Clears a team's oldest region: its renamed values stand, its staged tiles commit, its entries release (R343, R150). A trailing
copy's entries are discarded unperformed (R368). -/
def State.clearRegion (s : State) (t : Team) (r : Region) : State :=
  let trailing := t.role == .trailing
  let t1 := { t with regions := t.regions.drop 1, strikes := 0, residues := 0, mismatches := 0,
                     recalls := t.recalls.filter (fun x => x.region != r.id)
                     relq := if trailing then t.relq else t.relq ++ r.held }
  let s := s.setTeam t1
  let s := r.x2.foldl (fun (s : State) x =>
    { s.updTeam x.team (fun u => u.commitX2 s.free x) with free := s.free + 8192 }) s
  if trailing then { s with ops := s.ops.filter (fun o => !(o.team == t.uid && o.region == r.id && o.state == EngState.held)) } else s

/-- Clears every region of a team whose conditions hold, oldest first, and performs what it released. -/
def State.clearTeam (s : State) (u : Nat) : Nat → State
  | 0 => s
  | n + 1 =>
    match s.team? u with
    | none => s
    | some t => match t.regions with
      | [] => s
      | r :: _ =>
        if s.clearable t r then
          let s := s.clearRegion t r
          (s.pump u (r.held.length + t.relq.length)).clearTeam u n
        else s

/-! ### What follows -/

/-- Older loads have returned: an acquire fence takes effect, and loads that waited for it may go on (R163). -/
def State.finishFences (s : State) (u : Nat) : State :=
  match s.team? u with
  | none => s
  | some t =>
    match t.accs.find? (fun a => match a.kind with
      | .acqFence _ => !s.unreturned t a.id && !t.accs.any (fun b => b.id < a.id && (match b.kind with | .acqFence _ => true | _ => false))
      | _ => false) with
    | some a => match a.kind with
      | .acqFence scope => (s.acquireAt t scope).setTeam { t with accs := t.accs.filter (fun b => b.id != a.id) }
      | _ => s
    | none => s

/-- Accesses that have answered every lane leave the team. -/
def Team.dropDone (t : Team) : Team :=
  { t with accs := t.accs.filter (fun a => !a.lanes.all (fun l => l.st == .done)) }

/-- The operations of one class that have finished in issue order leave the counter (R168). -/
def State.decrement (s : State) (c : List Nat) : List Nat :=
  c.dropWhile (fun i => match s.op? i with
    | some o => o.state == EngState.finished
    | none => true)

/-- Counters of a team are brought up to date. -/
def State.countDown (s : State) (t : Team) : Team := { t with cnts := t.cnts.map s.decrement }

/-- Finished operations that no counter holds and that did not fail are forgotten; so are finished ones of a gone team. -/
def State.forgetOps (s : State) : State :=
  { s with ops := s.ops.filter (fun o => o.state != EngState.finished || (o.fail.isSome && !o.told) || o.owner == .controller ||
      s.teams.any (fun t => t.cnts.any (fun c => c.contains o.id) || t.recalls.any (fun r => r.op == some o.id))) }

/-- Returned records are kept while a join entry of the team's state, or of a checkpoint, still counts them or has lanes of theirs to run
(R236, R340). -/
def Team.dropReturned (t : Team) : Team :=
  let live := (t.arch :: t.regions.map (·.ckpt)).flatMap (fun a => (a.joins.filter (fun j => j.count != 0 || j.early != 0)).map (·.name))
  { t with returned := t.returned.filter (fun r => live.contains r.entry) }

/-- A team, resident or saved, counts a continuation's join entry. -/
def Team.awaits (t : Team) (r : ContRec) : Bool :=
  (t.arch :: t.regions.map (·.ckpt)).any (fun a => a.joins.any (fun j => j.name == r.entry && j.count != 0))

/-- A continuation whose regions have cleared and whose entries are performed returns its record to its team (R238). -/
def State.returnRecord (s : State) (t : Team) : State :=
  match t.cont with
  | some r =>
    if t.exiting && s.drained t then
      let give (x : Team) : Team := if x.awaits r then { x with returned := x.returned ++ [r] } else x
      { s with teams := (s.teams.filter (fun x => x.uid != t.uid)).map give
               blocks := s.blocks.map (fun b => { b with teamSeed := b.teamSeed.map give }) }
    else s
  | none => s

/-- The first look at an aborted grid: the cells that its evaluators own are poisoned, and its dump, if it is armed, begins
(R260, R374). -/
def State.noteAbort (s : State) (g : Grid) : State :=
  let ts := s.teams ++ s.blocks.flatMap (·.teamSeed)
  let s := (ts.filter (fun t => t.grid == g.uid)).foldl (fun s t => s.leaveCell t 2) s
  let es := s.memStacks.flatMap (fun k => k.buffer.filterMap (fun e => e.filter (fun e => e.grid == g.uid)))
  let s := es.foldl (fun s e => if s.formingUnder e.cell e.ticket then s.poison e.cell 0 2 else s) s
  let preempt := ((g.status.getD 0).toNat / 256) % 256 == Cause.preempt.code
  let set (s : State) (d : DumpState) : State := s.updGrid g.uid (fun g => { g with dump := d })
  if s.regField g.func 0x900C 0 1 = 1 && s.regField g.func 0x900C 1 1 = 0 then
    if preempt then set s .ended
    else set ((s.setField g.func 0x900C 0 1 0).setField g.func 0x900C 1 1 1) .writing
  else set { s with log := s.log ++ [LogEnt.dumpLost g.lrec.gridtag] } .ended

/-- Continuations that have woken rejoin the head of their lantern's queue (R212). -/
def State.noteWoken (s : State) : State :=
  let ls := s.teams.filter (fun t => t.kind == .lantern && !t.exiting && !t.yielded && t.run == .ready)
  if ls.isEmpty && s.cores.all (·.woken.isEmpty) then s
  else { s with cores := s.cores.mapIdx (fun i (c : Core) =>
    let up := (ls.filter (fun t => t.loc.pkgCore == i)).map (·.uid)
    { c with woken := up.filter (fun u => !c.woken.contains u) ++ c.woken.filter up.contains }) }

/-- Everything that follows at once from an event: regions clear and release, fences and counters advance, continuations return,
single steps settle, registers are granted, aborts are noted, clusters stop, staged accesses from outside are performed. -/
def State.settle (s : State) : State :=
  let us := s.teams.map (·.uid)
  let s := us.foldl (fun s u => (s.pump u (((s.team? u).map (fun t => t.relq.length)).getD 0)).finishFences u) s
  let s := us.foldl (fun s u => (s.updTeam u Team.dropDone).clearTeam u 4) s
  let s := { s with teams := s.teams.map (fun t => (s.countDown t).dropReturned) }
  let s := s.forgetOps
  let s := { s with gresReads := s.gresReads.filter (fun x => us.contains x.1) }
  let s := us.foldl (fun s u => match s.team? u with
    | some t => s.returnRecord t
    | none => s) s
  let s := us.foldl State.stepSettle s
  let s := s.partSettle
  let s := (s.grids.filter (fun g => g.aborted.isSome && g.dump == DumpState.undecided)).foldl State.noteAbort s
  s.grantAll.takeStops.performPosted.noteWoken.lookSamples

/-- An event has taken place. -/
def happened (s : State) : Host.Outcome State Fault Refusal := .next s.settle

end Sys2Proof.Machine
end

