-- ==== Sys2Proof/Machine/Respond.lean ====
section
/-! DEFINITION. Answers that come back to a team: loads, probes, long-latency results, the end of a pending atomic, replays
(02_encoding.md, R28; 06_memory_instructions.md, R152–R160; 11_geodes_and_migration.md, R257, R266). -/

namespace Sys2Proof.Machine

/-! ### One lane of a load -/

/-- A lane of an access gets a state. -/
def Team.setLane (t : Team) (acc lane : Nat) (st : LaneState) : Team :=
  { t with accs := t.accs.map (fun (a : Access) =>
      if a.id = acc then { a with lanes := a.lanes.map (fun l => if l.lane = lane then { l with st := st } else l) } else a) }

/-- Scale registers are numbered from here where results name their register (R124). -/
def scaleReg : Nat := 4096

/-- Writes one register of a result in one lane: a scale register's byte, or what the destination's class says. -/
def Arch.deliverReg (a : Arch) (d : Dest) (reg lane : Nat) (w : Word) : Arch :=
  if scaleReg ≤ reg then
    { a with esc := a.esc.modify (reg - scaleReg) (fun b => b.set (lane % 256) (BitVec.ofNat 8 w.toNat)) }
  else a.deliver d reg lane w

/-- The registers of a run destination, with their values. -/
def runVals (d : Dest) (lane : Nat) (ws : List Word) : List (Nat × Nat × Word) :=
  let base := match d with
    | .vec n => n
    | .scal n => n
    | _ => 0
  ws.mapIdx (fun i w => (base + i, lane, w))

/-- Writes values into the newest state and the younger checkpoints. -/
def Team.deliverVals (t : Team) (region : Nat) (d : Dest) (vs : List (Nat × Nat × Word)) : Team :=
  t.deliverWith region (fun a => vs.foldl (fun a v => a.deliverReg d v.1 v.2.1 v.2.2) a)

/-- Registers of an LDF's run in a lane: its bytes, four a word, then its scale byte. -/
def ldfVals (roleB : Bool) (base ez lane : Nat) (bs : List Byte) (scale : Byte) : List (Nat × Nat × Word) :=
  let n := if roleB then 8 else 4
  let ws := (List.range n).map (fun i => (base + i, lane, BitVec.ofNat 32 (fieldAt bs (4 * i) 4)))
  if roleB || lane % 256 < 128 then ws ++ [(scaleReg + ez, lane % 256, BitVec.ofNat 32 scale.toNat)] else ws

/-- Reads pieces of bytes one after another, as far as the first that cannot be read; a word of a scratch space that several pieces meet is
named once. -/
def State.readPieces (s : State) (t : Team) (seq region : Nat) (pc : DWord) (lane : Nat) (sp : Space) (first : Bool) :
    List (Nat × Nat) → State × ReadEnd
  | [] => (s, .bytes [] [] [])
  | (a, n) :: rest =>
    match (if sp = .glob then s.readGlobal t seq region pc lane a n false false false first else s.readScratch t seq sp a n) with
    | (s, .stuck st) => (s, .stuck st)
    | (s, .bytes bs tags inv) =>
      match s.readPieces t seq region pc lane sp first rest with
      | (s, .bytes bs2 tags2 inv2) => (s, .bytes (bs ++ bs2) (tags ++ tags2) (inv ++ inv2.filter (fun w => !inv.contains w)))
      | r => r

/-- The state word of a cell that GQRY reads (R266). -/
def State.cellWord (s : State) (host : Bool) (base : Nat) : Nat :=
  let tag := s.tagAt host base
  let r := s.mem.bytes (base / 64 * 64) 64
  match tag with
  | .value => 0
  | .geode => 1
  | .poison => 3
  | .forming => 2 + 256 * (fieldAt r 8 1 % 32) + 65536 * (fieldAt r 0x1C 4 % 64) + (if fieldAt r 0x18 4 = 0 then 0 else 2 ^ 22)

/-- What a lane's read of an access gives: the register values with tags and invalid words, or why it is stuck. -/
inductive LaneEnd where
  | vals (vs : List (Nat × Nat × Word)) (tags : List (Nat × Nat)) (invalid : List (Space × Nat))
  | stuck (st : LaneState)

/-- GQRY in one lane (R266). -/
def State.readCell (s : State) (t : Team) (va : Nat) : State × ReadEnd :=
  let asid := s.asidOf t
  match s.translate asid va with
  | (s, x) => match x.check .read t.arch.inHandler with
    | .bad code => (s, .stuck (.fault .access code 0))
    | .absent => match s.startMiss asid va 0 (((s.gridOf t).map (·.lrec.gridtag)).getD 0) with
      | (s, true) => (s, .stuck .page)
      | (s, false) => (s, .stuck (.fault .pageFault 0x10 0))
    | .remote d =>
      match s.frame? asid va with
      | some f => (s.dropFrame asid va, .bytes f (s.remoteTags t) [])
      | none =>
        let m := HostMsg.remoteRead d asid va 4
        (s.askLink t.loc.chip asid 4 m, .stuck .waiting)
    | .ok h base _ _ _ => (s, .bytes (natBytes 4 (s.cellWord h base)) (s.serveTags t va h true base) [])

/-- Reads one lane of an access (R152, R156, R124, R266). -/
def State.readLane (s : State) (t : Team) (a : Access) (l : LaneAcc) (useCache : Bool) : State × LaneEnd :=
  let first := !t.accs.any (fun b => b.lanes.any (fun x => lineOf x.addr == lineOf l.addr && (match x.st with
    | .cellWait false _ => true
    | _ => false)))
  match a.kind with
  | .load sp width sx acq _ scope dest raw =>
    let n := widthBytes width
    let cache := !acq && scope ≤ 1
    match (if sp = .glob then s.readGlobal t a.id a.region a.pc l.lane l.addr n raw (cache && useCache) cache first
           else s.readScratch t a.id sp l.addr n) with
    | (s, .bytes bs tags inv) =>
      let s := if sp = .glob then s else s.watchTeam t.uid sp l.addr n 1 l.lane a.pc (some a.region)
      (s, .vals (runVals dest l.lane (loadRun width sx bs)) tags inv)
    | (s, .stuck st) => (s, .stuck st)
  | .gqry dest =>
    match s.readCell t l.addr with
    | (s, .bytes bs tags _) => (s, .vals (runVals dest l.lane [BitVec.ofNat 32 (bytesNat bs)]) tags [])
    | (s, .stuck st) => (s, .stuck st)
  | .ldf sp _ roleB perm base ez _ unset scale =>
    let n := if roleB then 32 else 16
    let k0 := if !roleB && 128 ≤ l.lane % 256 then 16 else 0
    let table := ((unset.filter (fun x => k0 ≤ x.1 && x.1 < k0 + n)).map (fun x => (Space.pocket, x.2))).eraseDups
    match s.readPieces t a.id a.region a.pc l.lane sp first (a.pieces l) with
    | (s, .bytes bs tags inv) =>
      let s := if sp = .glob then s else s.watchTeam t.uid sp l.addr n 1 l.lane a.pc (some a.region)
      let sc := if perm then scale else bs.getD n 0
      (s, .vals (ldfVals roleB base ez l.lane (bs.take n) sc) tags (table ++ inv.filter (fun w => !table.contains w)))
    | (s, .stuck st) => (s, .stuck st)
  | _ => (s, .stuck l.st)

/-- One lane is performed: its registers are written, its tags gathered, words never written noted (R143, R342). -/
def State.respondLane (s : State) (u acc : Nat) (useCache : Bool) (lane : Nat) : State × List (Nat × Nat × Word) :=
  match s.team? u with
  | none => (s, [])
  | some t => match t.accs.find? (fun a => a.id == acc) with
    | none => (s, [])
    | some a => match a.lanes.find? (fun l => l.lane == lane && l.st == .waiting && !a.lost.any (fun x => x.1 == lane)) with
      | none => (s, [])
      | some l => match s.readLane t a l useCache with
        | (s, .stuck st) => (s.updTeam u (fun t => t.setLane acc lane st), [])
        | (s, .vals vs tags inv) =>
          let mode := if inv.isEmpty then 0 else s.uninitMode t
          let d := match a.kind with
            | .load _ _ _ _ _ _ d _ => d
            | .gqry d => d
            | .ldf _ _ _ _ b _ _ _ _ => .vec b
            | _ => .none
          (s.updTeam u (fun t =>
            let t := (t.deliverVals a.region d vs).gather a.region tags
            let t := if mode = 2 then t.deliverWith a.region (fun x => x.noteUninit a.word lane inv) else t
            t.setLane acc lane (if mode = 1 then .fault .scratchUninit 0 0 else .done)), vs)

/-! ### MEMORY_RESPONSE -/

/-- The lines that lanes reach from some lines, when a lane on one of them brings in all its own. -/
def spreadLines (ls : List (List Nat)) : Nat → List Nat → List Nat
  | 0, at_ => at_
  | n + 1, at_ =>
    let more := ((ls.filter (fun x => x.any at_.contains)).flatMap id).filter (fun x => !at_.contains x)
    if more.isEmpty then at_ else spreadLines ls n (at_ ++ more.eraseDups)

/-- The waiting lanes that are performed at one instant: the requested ones, and every other that shares a line with them (R157). None is
while an older load of the team still has to read one of those lines. -/
def Access.instant (a : Access) (t : Team) (lanes : Mask) : List Nat :=
  let wait := (a.lanes.filter (fun l => l.st == .waiting)).map (fun l => (l.lane, a.linesAt l))
  let lines := spreadLines (wait.map (·.2)) wait.length ((wait.filter (fun x => Mask.has lanes x.1)).flatMap (·.2)).eraseDups
  if lines.any (fun x => t.olderOn a.id a.kind.space (64 * x) 64) then []
  else (wait.filter (fun x => x.2.any lines.contains)).map (·.1)

/-- A leading copy's queue has room for the values of some lanes of an access. -/
def Team.roomFor (t : Team) (a : Access) (n : Nat) : Bool :=
  let regs := match a.kind with
    | .load _ w _ _ _ _ _ _ => widthRegs w
    | .ldf _ _ roleB _ _ _ _ _ _ => if roleB then 9 else 5
    | _ => 1
  t.role != .leading || lvqUsed t.lvq + 16 + 8 * n + 4 * regs * n ≤ lvqSize

/-- A load with `.rp`, which is performed only after every core of the partition has drained (R156). -/
def AccKind.rp : AccKind → Bool
  | .load _ _ _ _ rp _ _ _ => rp
  | _ => false

/-- Lanes of an access are performed one after another and answer; an acquire whose last lane has returned acts, at `.dev` at the least when
it read what a GRES wrote (R152, R156, R205). -/
def State.respond (s : State) (t : Team) (a : Access) (ls : List Nat) (useCache : Bool) : State :=
  let (s, vs) := ls.foldl (fun (x : State × List (Nat × Nat × Word)) l =>
    let r := x.1.respondLane t.uid a.id useCache l
    (r.1, x.2 ++ r.2)) (s, [])
  let s := s.updTeam t.uid (fun u =>
    let addrs := (a.lanes.filter (fun l => ls.contains l.lane)).map (fun l => (l.lane, l.addr))
    if vs.isEmpty then u else u.lvqPush { lvqValues a.word a.pc a.region addrs vs with note := t.arch.noted u.arch a.word })
  match s.team? t.uid, a.kind with
  | some u, .load _ _ _ true _ scope _ _ =>
    if u.accs.any (fun b => b.id == a.id && b.lanes.any (·.st.unfinished)) then s
    else s.acquireAt u (if s.gresReads.contains (u.uid, a.region) then max 4 scope else scope)
  | _, _ => s

/-- Lanes of an access that may answer now: of a load that no older acquire holds back, with room for what a leading copy passes on. -/
def State.mayRespond (s : State) (t : Team) (a : Access) (ls : List Nat) : Bool :=
  t.role != .trailing && a.kind.returns && !ls.isEmpty && !t.accs.any (fun b => b.id < a.id && b.holds) &&
    !s.atoms.any (fun x => x.team == t.uid && x.seq < a.id && x.acq) && t.roomFor a ls.length

/-- MEMORY_RESPONSE (R152, R156): lanes of a captured load are performed and answer. -/
def execMemoryResponse (team acc : Nat) (lanes : Mask) (useCache : Bool) (s : State) : Host.Outcome State Fault Refusal :=
  match s.team? team with
  | none => .next s
  | some t => match t.accs.find? (fun a => a.id == acc) with
    | none => .next s
    | some a =>
      if !s.mayRespond t a (a.instant t lanes) then .next s
      else
        let s := if a.kind.rp then s.drainPart (s.tenantOf t) else s
        if a.kind.rp && !s.partDrained (s.tenantOf t) then .next s
        else happened ((s.respond t a (a.instant t lanes) useCache).resume team)

/-- The cell that an address stands in, where the translation is at hand. -/
def State.cellAt (s : State) (asid va : Nat) : Option Nat := match s.translate asid va with
  | (_, .ok _ base _ _ _) => some (lineOf base)
  | _ => none

/-- A lane whose page has been answered, or whose cell no longer forms under its ticket (R152). -/
def State.replayable (s : State) (asid : Nat) (a : Access) (l : LaneAcc) : Bool := match l.st with
  | .page => (a.pieces l).all (fun p => (s.missOn asid p.1).isNone)
  | .cellWait _ k => (a.pieces l).all (fun p => match s.cellAt asid p.1 with
    | some c => !s.formingUnder c k
    | none => true)
  -- a line that another package has still to answer for
  | .waiting => a.kind == .probe none && (a.pieces l).all (fun p => !(s.hostOut ++ s.linkQ.map (·.msg)).any (fun m => match m with
    | .remoteRead _ x va _ => x == asid && va == p.1
    | .remoteProbe _ x va => x == asid && lineOf va == lineOf p.1
    | _ => false))
  | _ => false

/-- Lanes of an access are to be performed again; a placeholder of an instruction that executes anew lets them go. -/
def Access.redo (a : Access) (again : LaneAcc → Bool) : Option Access :=
  if a.kind = .probe none then
    let rest := a.lanes.filter (fun l => !again l)
    if rest.isEmpty then none else some { a with lanes := rest }
  else some { a with lanes := a.lanes.map (fun l => if again l then { l with st := .waiting } else l) }

/-- The team after a replay: its lanes, and its fetch if that waited for a page that has been answered. -/
def State.replayed (s : State) (t : Team) : Team :=
  let asid := s.asidOf t
  let woken := match t.run with
    | .fetch va => (s.missOn asid va).isNone
    | .landing va => (s.missOn asid va).isNone
    | _ => false
  { t with accs := t.accs.filterMap (fun a => a.redo (s.replayable asid a)), run := if woken then .ready else t.run }

/-- Samples count the replays of their accesses (R400). -/
def State.countReplays (s : State) (t : Team) : State :=
  let back := (t.accs.filter (fun a => a.lanes.any (s.replayable (s.asidOf t) a))).map (·.id)
  { s with samples := s.samples.map (fun (x : Sample) => if x.team = t.uid ∧ back.contains x.acc then { x with replays := x.replays + 1 } else x) }

/-- LANE_REPLAY (R152): lanes whose page has been answered, or whose cell no longer forms under their ticket, are performed again. -/
def execLaneReplay (team : Nat) (s : State) : Host.Outcome State Fault Refusal :=
  match s.team? team with
  | none => .next s
  | some t => happened (((s.countReplays t).setTeam (s.replayed t)).resume team)

/-! ### LONG_LATENCY_RESULT -/

/-- The last array cycle of a matrix instruction is over: its checker reports within 32 ticks (R134). -/
def Team.arrayDone (t : Team) (p : Pending) (tick : Nat) : Team :=
  t.updRegion p.region (fun r => { r with checks := r.checks.map (fun c => if c.id = p.id then { c with doneT := some tick } else c) })

/-- The team after a result has been written in some lanes; with none left, or an operation on tiles, it is over. -/
def Team.withResult (t : Team) (tick : Nat) (p : Pending) (lanes : Mask) : Team :=
  let t := if p.dest = .none ∨ p.lanes &&& ~~~lanes = 0 then t.arrayDone p tick else t
  let t := if p.dest == .none then t else t.deliverVals p.region p.dest (p.vals.filter (fun v => Mask.has lanes v.2.1))
  let left := p.lanes &&& ~~~lanes
  { t with pend := if p.dest = .none ∨ left = 0 then t.pend.filter (fun x => x.id != p.id)
                   else t.pend.map (fun x => if x.id = p.id then { x with lanes := left, vals := x.vals.filter (fun v => !Mask.has lanes v.2.1) } else x) }

/-- LONG_LATENCY_RESULT (R28, R122): results are written in some lanes; an array operation retires. A pending atomic's returns come at
the end of its interval. -/
def execLongLatencyResult (team id : Nat) (lanes : Mask) (s : State) : Host.Outcome State Fault Refusal :=
  match s.team? team with
  | none => .next s
  | some t => match t.pend.find? (fun p => p.id == id) with
    | none => .next s
    | some p =>
      if s.atoms.any (fun x => x.team == team && x.seq == id) then .next s else happened ((s.setTeam (t.withResult s.tick p lanes)).resume team)

/-! ### PROBE_RESPONSE -/

/-- The answer to an entry's probe (R153, R161, R247, R264). -/
def State.probeEntry (s : State) (t : Team) (e : Entry) : State × LaneState :=
  match e.kind with
  | .store _ line _ _ _ => s.probeAt t e.seq (64 * line) false true
  | .atom _ line op ty _ _ _ scope => s.probeAt t e.seq (64 * line) true (scope != 5 || isAtomicOp op ty)
  | .cell op addr _ => s.probeCell t op e.seq addr
  | .launch addr => match s.translate (s.asidOf t) addr.toNat with
    | (s, x) => match x.check .read t.arch.inHandler with
      | .bad code => (s, .fault .access code 0)
      | .absent => match s.startMiss (s.asidOf t) addr.toNat 0 (((s.gridOf t).map (·.lrec.gridtag)).getD 0) with
        | (s, true) => (s, .page)
        | (s, false) => (s, .fault .pageFault 0x10 0)
      | _ => (s, .done)
  | _ => (s, .done)

/-- The lanes, by access, that an entry's probe answers for. -/
def Entry.served (e : Entry) : List (Nat × Nat) :=
  match e.kind with
  | .store _ _ parts _ _ => parts.map (fun p => (p.acc, p.lane))
  | .atom _ _ _ _ _ lanes _ _ => lanes.map (fun x => (e.acc, x.1))
  | _ => [(e.acc, 0)]

/-- The team after the answer to an entry's probe: the lanes it serves take it, and a good answer leaves the entry probed. -/
def Team.probed (t : Team) (e : Entry) (found : Probe) (st : LaneState) : Team :=
  { t with
    accs := t.accs.map (fun (a : Access) =>
      { a with lanes := a.lanes.map (fun l => if e.served.contains (a.id, l.lane) && l.st == .waiting then { l with st := st } else l) })
    regions := t.regions.map (fun r => { r with held := r.held.map (fun x =>
      if x.seq = e.seq ∧ st = .done then { x with probe := if x.probe.good then x.probe else found } else x) }) }

/-- A lane waits for what an entry's probe will say. -/
def Team.probing (t : Team) (e : Entry) : Bool :=
  e.probe == .waiting || (e.probe.good && t.accs.any (fun a => a.lanes.any (fun l => l.st == .waiting && e.served.contains (a.id, l.lane))))

/-- What a good answer leaves with an entry: the translation of its line (R297). -/
def State.probeFound (s : State) (t : Team) (e : Entry) : Probe :=
  match e.kind.globalLines with
  | va :: _ => match s.translate (s.asidOf t) va with
    | (_, .ok h base _ _ p) => .kept h base p
    | _ => .far
  | [] => .far

/-- PROBE_RESPONSE (R153). -/
def execProbeResponse (team entry : Nat) (s : State) : Host.Outcome State Fault Refusal :=
  match s.team? team with
  | none => .next s
  | some t => match (t.regions.flatMap (·.held)).find? (fun e => e.seq == entry && t.probing e) with
    | none => .next s
    | some e => match s.probeEntry t e with
      | (s, st) =>
        let found := s.probeFound t e
        let s := if st = .done then s.dropGood (s.asidOf t) e.kind.globalLines else s
        happened ((s.setTeam (t.probed e found st)).resume team)

/-! ### The end of a pending atomic -/

/-- The zones that a pending atomic waits on have cleared past t + W at its die (R160). -/
def State.atomClear (s : State) (t : Team) (x : PendAtom) : Bool :=
  (x.own :: x.target).all (fun z => x.t + windowW ≤ s.recv t.loc.chip z) && x.sigOk

/-- The hub's host AtomicOps, or the answers of another package, of a pending atomic; `none` while an answer is missing (R161). -/
def State.atomWork (s : State) (t : Team) (x : PendAtom) : Option (State × List (Nat × DWord)) :=
  let asid := s.asidOf t
  let n := if x.wide then 8 else 4
  x.work.foldl (fun (acc : Option (State × List (Nat × DWord))) w =>
    acc.bind (fun (s, olds) =>
      let (l, a, v, cmp) := w
      if s.isRemote a then
        (s.frame? asid a).map (fun f => (s.dropFrame asid a, olds ++ [(l, BitVec.ofNat 64 (fieldAt f 0 n))]))
      else
        let f (old : Nat) : Option Nat := match x.op with
          | some (op, ty) => some (atomNew op ty old v.toNat)
          | none => if old = cmp.toNat then some v.toNat else none
        let r := s.hostAtomic asid a n f
        some (r.1.watchTeam t.uid .glob a n 3 l x.pc (some x.region), olds ++ [(l, BitVec.ofNat 64 (bytesNat r.2))]))) (some (s, []))

/-- The old values that an ended atomic returns, by register and lane. -/
def PendAtom.returns (x : PendAtom) (olds : List (Nat × DWord)) : List (Nat × Nat × Word) :=
  olds.flatMap (fun (o : Nat × DWord) => runVals x.dest o.1
    (if x.wide then [BitVec.ofNat 32 o.2.toNat, BitVec.ofNat 32 (o.2.toNat / 2 ^ 32)] else [BitVec.ofNat 32 o.2.toNat]))

/-- What a leading copy passes on of an ended atomic. -/
def PendAtom.entry (x : PendAtom) (olds : List (Nat × DWord)) : LvqEntry :=
  lvqValues x.word x.pc x.region
    (x.words.zipIdx.map (fun w => ((olds.getD w.2 (0, 0)).1, w.1.1.addr)) ++ x.work.map (fun w => (w.1, w.2.1))) (x.returns olds)

/-- The words of an atomic stop being pending, and its old values return to its team (R160). -/
def State.endAtom (s : State) (t : Team) (x : PendAtom) (olds : List (Nat × DWord)) : State :=
  let s := { s with atoms := s.atoms.filter (fun y => y.id != x.id) }
  let t := (t.deliverVals x.region x.dest (x.returns olds)).lvqPush (x.entry olds)
  let t := { t with pend := t.pend.filter (fun p => p.id != x.seq) }
  ((if x.acq then s.acquireAt t x.scope else s).setTeam t).resume x.team

/-- ATOM_PENDING_END (R160): the words stop being pending and the old values return to the team. -/
def execAtomPendingEnd (id : Nat) (s : State) : Host.Outcome State Fault Refusal :=
  match s.atoms.find? (fun x => x.id == id) with
  | none => .next s
  | some x => match s.team? x.team with
    | none => .next { s with atoms := s.atoms.filter (fun y => y.id != id) }
    | some t =>
      if !s.atomClear t x then .next s
      else match s.atomWork t x with
        | none => .next s
        | some (s1, more) =>
          let t := (s1.team? x.team).getD t
          if !t.lvqRoom (x.entry (x.olds ++ more)) then .next s else happened (s1.endAtom t x (x.olds ++ more))

/-! ### Wakes of geode loads -/

/-- The lanes of a team that wait on a cell are to be performed again; an instruction that executes anew lets them go. -/
def State.woken (s : State) (t : Team) (cell : Nat) : Team :=
  let on (a : Access) (l : LaneAcc) : Bool := (match l.st with
    | .cellWait _ _ => true
    | _ => false) && (a.pieces l).any (fun p => s.cellAt (s.asidOf t) p.1 == some cell)
  { t with accs := t.accs.filterMap (fun a => a.redo (on a)) }

/-- GEODE_WAKE (R257): a wake reaches its team; it acts only on a team parked on memory with a lane unfinished on the cell. -/
def execGeodeWake (team : Nat) (cell : Nat) (s : State) : Host.Outcome State Fault Refusal :=
  if !s.wakes.contains (team, cell) then .next s
  else
    let s := { s with wakes := s.wakes.erase (team, cell) }
    match s.team? team with
    | none => happened s
    | some t => match t.run with
      | .memory _ => happened ((s.setTeam (s.woken t cell)).resume team)
      | _ => happened s

/-- A lane that found its stack's open buffer full, where an entry is free now (R254). -/
def State.roomNow (s : State) (asid : Nat) (a : Access) (l : LaneAcc) : Bool :=
  l.st == .bufferWait && (a.pieces l).all (fun p => match s.translate asid p.1 with
    | (_, .ok h base _ _ _) => s.tagAt h base != .geode || (s.stack (base / 2 ^ 36)).buffer.any (·.isNone)
    | _ => true)

/-- OPEN_BUFFER_RETRY (R254): a lane that found the stack's open buffer full is performed again once an entry is free. -/
def execOpenBufferRetry (team : Nat) (s : State) : Host.Outcome State Fault Refusal :=
  match s.team? team with
  | none => .next s
  | some t => happened ((s.setTeam { t with accs := t.accs.filterMap (fun a => a.redo (s.roomNow (s.asidOf t) a)) }).resume team)

/-- OUTBOUND_DRAIN (R144): the first entries of a core's outbound write buffer drain to their slices. -/
def execOutboundDrain (core n : Nat) (s : State) : Host.Outcome State Fault Refusal := happened (s.drainOut core n)

end Sys2Proof.Machine
end

