-- ==== Sys2Proof/Machine/Sha3.lean ====
section
/-! DEFINITION. SHA3-512 (FIPS 202), which COPY digests, manifests and attestation name (R180, R331, R378): its state as 25 lanes,
absorbing bytes, and the digest. -/

namespace Sys2Proof.Machine

/-- The bit stream from which the round constants are drawn: the lowest bit of powers of x modulo x^8 + x^6 + x^5 + x^4 + 1, as the
standard defines it. -/
def keccakBits : Nat → Nat → List Bool
  | 0, _ => []
  | n + 1, r => r.testBit 0 :: keccakBits n (if r.testBit 7 then (2 * r) % 256 ^^^ 0x71 else 2 * r)

/-- A round's constant: seven bits of the stream, at the places 2^j − 1. -/
def keccakConst (bits : List Bool) : Nat :=
  (bits.mapIdx (fun j b => if b then 2 ^ (2 ^ j - 1) else 0)).foldl (· + ·) 0

/-- The constants of `n` rounds. -/
def keccakConsts (n : Nat) : List DWord :=
  (List.range n).map (fun i => BitVec.ofNat 64 (keccakConst (((keccakBits (7 * n) 1).drop (7 * i)).take 7)))

/-- The walk over the lanes that fixes the rotations: step t rotates its lane by (t + 1)(t + 2) / 2. -/
def keccakWalk : Nat → Nat → Nat × Nat → List (Nat × Nat)
  | 0, _, _ => []
  | n + 1, t, (x, y) => (x + 5 * y, (t + 1) * (t + 2) / 2 % 64) :: keccakWalk n (t + 1) (y, (2 * x + 3 * y) % 5)

/-- The rotation of lane x + 5y; lane 0 is not on the walk and stays. -/
def keccakTurn (i : Nat) : Nat := (((keccakWalk 24 0 (1, 0)).find? (fun p => p.1 == i)).map (·.2)).getD 0

/-- One round. -/
def keccakRound (a : List DWord) (rc : DWord) : List DWord :=
  let at_ (l : List DWord) (x y : Nat) : DWord := l.getD (x % 5 + 5 * (y % 5)) 0
  let c := (List.range 5).map (fun x => (List.range 5).foldl (fun acc y => acc ^^^ at_ a x y) 0)
  let d := (List.range 5).map (fun x => c.getD ((x + 4) % 5) 0 ^^^ (c.getD ((x + 1) % 5) 0).rotateLeft 1)
  let a := a.mapIdx (fun i v => v ^^^ d.getD (i % 5) 0)
  -- lane (x, y) of the next array comes from lane (x + 3y, x) of this one
  let b := (List.range 25).map (fun i =>
    let x := i % 5
    let y := i / 5
    let j := (x + 3 * y) % 5 + 5 * x
    (a.getD j 0).rotateLeft (keccakTurn j))
  let e := b.mapIdx (fun i v => v ^^^ (~~~(at_ b (i % 5 + 1) (i / 5)) &&& at_ b (i % 5 + 2) (i / 5)))
  e.mapIdx (fun i v => if i = 0 then v ^^^ rc else v)

/-- The permutation. -/
def keccakF (a : List DWord) : List DWord := (keccakConsts 24).foldl keccakRound a

/-- XORs a byte into a state at a position of the 72-byte rate. -/
def shaXor (a : List DWord) (pos : Nat) (b : Byte) : List DWord :=
  a.modify (pos / 8) (fun v => v ^^^ (b.zeroExtend 64 <<< (8 * (pos % 8))))

/-- Absorbs bytes; `n` bytes have been absorbed before. -/
def shaAbsorb (a : List DWord) (n : Nat) (bs : List Byte) : List DWord :=
  (bs.foldl (fun (x : List DWord × Nat) b =>
    let a := shaXor x.1 (x.2 % 72) b
    (if x.2 % 72 = 71 then keccakF a else a, x.2 + 1)) (a, n)).1

/-- The 64-byte digest after n bytes. -/
def shaFinish (a : List DWord) (n : Nat) : List Byte :=
  let a := keccakF (shaXor (shaXor a (n % 72) 0x06) 71 0x80)
  (a.take 8).flatMap (fun (v : DWord) => (List.range 8).map (fun i => BitVec.ofNat 8 (v.toNat / 2 ^ (8 * i))))

/-- SHA3-512 of a list of bytes. -/
def sha3 (bs : List Byte) : List Byte := shaFinish (shaAbsorb (List.replicate 25 0) 0 bs) bs.length

end Sys2Proof.Machine
end

