-- ==== Sys2Proof/Machine/EngineRun.lean ====
section
/-! DEFINITION. What the copy engines and the gour unit do: starting requests, reading and committing chunks, accepting fills and
releases, PLINIT at its bank (07_async_engines.md, R165, R170–R189). -/

namespace Sys2Proof.Machine

/-! ### Places of an operation -/

/-- The allocation that an operation names by a space (R180). -/
def State.opScratch (s : State) (o : EngOp) (sp : Space) : Scratch :=
  match sp with
  | .glob => Scratch.empty
  | .gallery => ((s.span? o.span).bind (·.gallery)).getD Scratch.empty
  | .pocket => ((s.block? o.block).map (fun b => b.pockets.getD o.core Scratch.empty)).getD Scratch.empty
  | .chamber => ((s.block? o.block).map (·.chamber)).getD Scratch.empty

/-- Changes it. -/
def State.updOpScratch (s : State) (o : EngOp) (sp : Space) (f : Scratch → Scratch) : State :=
  match sp with
  | .glob => s
  | .gallery => s.updSpan o.span (fun x => { x with gallery := x.gallery.map f })
  | .pocket => s.updBlock o.block (fun b => { b with pockets := b.pockets.modify o.core f })
  | .chamber => s.updBlock o.block (fun b => { b with chamber := f b.chamber })

/-- The owner and core of an operation's scratch place, as pending words name it. -/
def EngOp.placeKey (o : EngOp) (sp : Space) : Nat × Nat :=
  match sp with
  | .glob => (o.asid, 0)
  | .gallery => (o.span, 0)
  | .pocket => (o.block, o.core)
  | .chamber => (o.block, 0)

/-- An operation stands still: its block is being stopped, saved or is away, or its grid has ended (R189, R315). -/
def State.opStopped (s : State) (o : EngOp) : Bool :=
  o.owner != .controller && (!(match s.grid? o.grid with
    | some g => g.status.isNone
    | none => false) ||
  (o.owner != .span && !(match s.block? o.block with
    | some b => b.state == BlockState.resident
    | none => false)))

/-- An operation fails: nothing more of it is read or written (R177). -/
def EngOp.failed (o : EngOp) (c : Cause) (addr code : Nat) : EngOp :=
  { o with state := .finished, staged := [], page := none, fail := some (c, addr, code) }

def State.failOp (s : State) (id : Nat) (c : Cause) (addr code : Nat) : State := s.updOp id (fun o => o.failed c addr code)

/-- Bytes that an operation moves, and its chunks. -/
def EngOp.total (o : EngOp) : Nat := o.dst.total

/-- Bytes of an operation's chunks: 4 KiB, and of a GATHER no more than 64 entries, so that it can stop after them (R174, R181, R189;
DEDUCED, log 117). -/
def EngOp.chunkSize (o : EngOp) : Nat :=
  match o.kind with
  | .gather _ _ _ => min 4096 (64 * max 1 o.src.rowb)
  | _ => 4096

def EngOp.chunks (o : EngOp) : Nat := (o.total + o.chunkSize - 1) / o.chunkSize

/-- The destination's traversal bytes of a chunk. -/
def EngOp.chunkAt (o : EngOp) (num : Nat) : List Nat := (List.range (min o.chunkSize (o.total - o.chunkSize * num))).map (o.chunkSize * num + ·)

/-- Where byte k of an operation comes from; none is a zero byte (R181). -/
def EngOp.srcAt (o : EngOp) (k : Nat) : Option Nat :=
  match o.kind with
  | .gather _ _ _ =>
    let row := o.index.getD (k / max 1 o.src.rowb) 0
    if row < o.src.rows then some ((o.src.base + row * o.src.rstr + k % max 1 o.src.rowb) % 2 ^ (if o.src.spaceNo = 0 then 64 else 32)) else none
  | _ => some (o.src.at false k)

/-! ### Reading and probing global lines -/

/-- What a chunk's read or probe of one line gives: its bytes with their tags, and what a probe keeps. -/
inductive LineEnd where
  | ok (bs : List Byte) (tags : List (Nat × Nat)) (probe : Probe)
  | wait (page : Option Nat)
  | fail (c : Cause) (addr code : Nat)

/-- A miss of an engine starts a page request and waits without parking any team (R177, R300). -/
def State.engMiss (s : State) (o : EngOp) (va : Nat) : State × LineEnd :=
  match s.startMiss o.asid va 3 (((s.grid? o.grid).map (·.lrec.gridtag)).getD 0) with
  | (s, true) => (s, .wait (some va))
  | (s, false) => (s, .fail .pageFault va 0x10)

/-- The bucket of an operation's die and tenant gives n tokens (R176). -/
def State.takeTokens (s : State) (o : EngOp) (n : Nat) : State :=
  s.updDie o.die (fun d => { d with buckets := d.buckets.modify o.tenant (fun b => b - n) })

/-- The bucket holds a token. -/
def State.hasToken (s : State) (o : EngOp) : Bool := 0 < (s.die o.die).buckets.getD o.tenant 0

/-- Reads the 64-byte line of an address, of which n bytes are wanted, for an operation, with the tags of Table 7.6. A line of another device
is asked for once and stays where it arrived until the whole chunk is there. -/
def State.engRead (s : State) (o : EngOp) (line n : Nat) : State × LineEnd :=
  let va := 64 * line
  match s.reached o.asid va with
  | (s, x) => match x.check .read false with
    | .bad code => (s, .fail .access va code)
    | .absent => s.engMiss o va
    | .remote d =>
      match s.frame? o.asid va with
      | some f => (s, .ok f [(hubZone, s.tick), (dieZone o.die, s.tick)] .none)
      | none =>
        (s.askLink o.die o.asid n (.remoteRead d o.asid va 64), .wait none)
    | .ok h base _ _ p =>
      match s.tagAt h base with
      | .value =>
        if s.badData h base then ({ s with log := s.log ++ [.storage base] }, .fail .access va 0x09)
        else
          let d := s.sliceDie va
          let tags := [(dieZone d, s.tick)] ++ (if (s.slice? o.asid va).isNone && !h then [(stackZone (base / 2 ^ 36), s.tick)] else []) ++
            (if d = o.die then [] else [(dieZone o.die, s.tick)])
          let s := s.fillSlice o.asid va h base p
          (s, .ok (s.overlayPending .glob o.asid 0 va (s.lineBytes o.asid va h base 64)) tags .none)
      | .poison => (s, .fail .poisonLoad va 0)
      | _ => (s, .fail .geodeState va 0)

/-- Probes the destination's line (R174, R177). -/
def State.engProbe (s : State) (o : EngOp) (line : Nat) : State × LineEnd :=
  let va := 64 * line
  match s.translate o.asid va with
  | (s, x) => match x.check .write false with
    | .bad code => (s, .fail .access va code)
    | .absent => s.engMiss o va
    | .remote d => match s.askFar o.die o.asid va d with
      | (s, came) => (s, if came then .ok [] [] .far else .wait none)
    | .ok h base _ _ p => if s.tagAt h base = .value then (s, .ok [] [] (.kept h base p)) else (s, .fail .geodeState va 0)

/-- Runs a step over lines as far as the first that is not ready; the bytes, or what the probe keeps, of each line that is. -/
def State.overLines (s : State) (f : State → Nat → State × LineEnd) :
    List Nat → List (Nat × List Byte × Probe) → List (Nat × Nat) → State × List (Nat × List Byte × Probe) × List (Nat × Nat) × Option LineEnd
  | [], bs, tags => (s, bs, tags, none)
  | l :: rest, bs, tags =>
    match f s l with
    | (s, .ok b t p) => s.overLines f rest (bs ++ [(l, b, p)]) (tags ++ t)
    | (s, e) => (s, bs, tags, some e)

/-- The lines that addresses lie in. -/
def linesOfAddrs (as : List Nat) : List Nat := (as.map (· / 64)).eraseDups

/-- The chunk that an operation reads next: one that was struck, or the next of the traversal (R174, R175). -/
def EngOp.nextChunk (o : EngOp) : Option Nat :=
  match (List.range o.nextRead).find? (fun n => !o.committed.contains n && !o.staged.any (fun c => c.num == n)) with
  | some n => some n
  | none => if o.nextRead < o.chunks then some o.nextRead else none

/-- Data at rest in a scratch range that cannot be corrected (R351). -/
def State.badScratch (s : State) (o : EngOp) (sp : Space) (as : List Nat) : Option Nat :=
  match sp with
  | .chamber => as.find? (fun a => s.badChamb.contains (o.block, a / 4))
  | .gallery => as.find? (fun a => s.badGall.contains (o.span, a / 4))
  | _ => none

/-- Tags of a scratch source (Table 7.6). -/
def State.scratchTags (s : State) (o : EngOp) (sp : Space) : List (Nat × Nat) :=
  match sp with
  | .glob => []
  | .gallery =>
    let d := ((s.span? o.span).bind (·.die)).getD o.die
    [(dieZone d, s.tick)] ++ (if d = o.die then [] else [(dieZone o.die, s.tick)])
  | _ => [(((s.block? o.block).map (fun b => clusterZone b.chip b.cluster)).getD (dieZone o.die), s.tick)]

/-- The bytes and valid bits of a chunk's source, with tags; or why it cannot be read yet. -/
def State.readChunk (s : State) (o : EngOp) (num : Nat) : State × List Byte × List Bool × List (Nat × Nat) × Option LineEnd :=
  let from_ := (o.chunkAt num).map o.srcAt
  let as := from_.filterMap id
  let sp := spaceOf o.src.spaceNo
  if sp = .glob then
    match s.overLines (fun s l => s.engRead o l (as.countP (fun a => a / 64 == l))) (linesOfAddrs as) [] [] with
    | (s, ls, tags, e) =>
      let byte (a : Nat) : Byte := ((ls.find? (fun l => l.1 == a / 64)).map (fun l => l.2.1.getD (a % 64) 0)).getD 0
      let s := if e.isSome then s
        else { s with remoteIn := s.remoteIn.filter (fun f => !(f.1 == o.asid && ls.any (fun l => f.2.1 == 64 * l.1))) }
      (s, from_.map (fun x => (x.map byte).getD 0), from_.map (fun _ => true), tags, e)
  else match s.badScratch o sp as with
    | some a => ({ s with log := s.log ++ [.storage a] }, [], [], [], some (.fail .access a 0x09))
    | none =>
      let c := s.opScratch o sp
      let k := o.placeKey sp
      let byte (a : Nat) : Byte := (s.overlayPending sp k.1 k.2 a [c.mem.get a]).headD 0
      let valid (a : Nat) : Bool := c.isValid a && !s.freshAt { space := sp, owner := k.1, core := k.2, addr := a / 4 * 4 }
      (s, from_.map (fun x => (x.map byte).getD 0), from_.map (fun x => (x.map valid).getD true), s.scratchTags o sp, none)

/-- What the end of a line's access does to an operation: it waits for a page, or fails. -/
def State.stopOp (s : State) (op : Nat) (e : LineEnd) : State :=
  match e with
  | .ok _ _ _ => s
  | .wait page => s.updOp op (fun o => { o with page := page })
  | .fail c a code => s.failOp op c a code

/-- A chunk's destination is probed, then its source is read into the staging buffer (R174, R177). -/
def State.fetchChunk (s : State) (o : EngOp) (num : Nat) : State :=
  let dests := (o.chunkAt num).map (o.dst.at true)
  let probed := if o.dst.spaceNo = 0 then s.overLines (fun s l => s.engProbe o l) (linesOfAddrs dests) [] [] else (s, [], [], none)
  match probed.2.2.2 with
  | some e => probed.1.stopOp o.id e
  | none => match probed.1.readChunk o num with
    | (s, _, _, _, some e) => s.stopOp o.id e
    | (s, data, valid, tags, none) =>
      let c : Chunk := { num := num, data := data, valid := valid, dest := probed.2.1.map (fun l => (l.1, l.2.2)), readT := s.tick,
                         tags := tags.foldl (fun acc t => acc.add t.1 t.2 t.2) Tags.empty }
      let s := if o.dst.spaceNo = 0 then s.dropGood o.asid ((linesOfAddrs dests).map (64 * ·)) else s
      s.updOp o.id (fun o => { o with staged := o.staged ++ [c], nextRead := max o.nextRead (num + 1), page := none })

/-- CHUNK_READ (R174, R177). -/
def execChunkRead (op : Nat) (s : State) : Host.Outcome State Fault Refusal :=
  match s.op? op with
  | none => .next s
  | some o =>
    if o.state != EngState.running || s.opStopped o then .next s
    else match o.nextChunk with
      | none => .next s
      | some num => happened (s.fetchChunk o num)

/-! ### Committing -/

/-- The bytes of a chunk at their destinations, in traversal order. -/
def EngOp.placed (o : EngOp) (c : Chunk) : List (Nat × Byte × Bool) :=
  ((o.chunkAt c.num).zip (c.data.zip c.valid)).map (fun x => (o.dst.at true x.1, x.2.1, x.2.2))

/-- Writes a chunk at a global destination, line by line, as writes performed at the owning slice where the probes found it (R145, R174). -/
def State.commitGlobal (s : State) (o : EngOp) (dest : List (Nat × Probe)) (bs : List (Nat × Byte × Bool)) : State :=
  (linesOfAddrs (bs.map (·.1))).foldl (fun s l =>
    let here := bs.filter (fun b => b.1 / 64 == l)
    match s.keptAt (((dest.find? (fun d => d.1 == l)).map (·.2)).getD .none) o.asid (64 * l) with
    | (s, .ok h base _ _ p) =>
      let old := s.lineBytes o.asid (64 * l) h base 64
      (here.foldl (fun s b => s.unmark h (base + b.1 % 64) 1) s).sliceWrite o.asid (64 * l) h base p
        (here.foldl (fun d b => patch d (b.1 % 64) [b.2.1]) old)
    | (s, .remote d) => { s with hostOut := s.hostOut ++ here.map (fun b => HostMsg.remoteWrite d o.asid b.1 [b.2.1]) }
    | (s, _) => s) s

/-- Writes a chunk at a scratch destination: the words written become valid; TMOV carries its source's valid bits (R142, R165). -/
def State.commitScratch (s : State) (o : EngOp) (sp : Space) (bs : List (Nat × Byte × Bool)) : State :=
  let carries := match o.kind with
    | .tmov _ => true
    | _ => false
  let s := s.updOpScratch o sp (fun c => bs.foldl (fun c b =>
    if b.2.2 || !carries then c.write b.1 [b.2.1] else c.clear (b.1 / 4 * 4) 4) c)
  match s.block? o.block with
  | none => s
  | some b => if sp = .gallery then s else
    (linesOfAddrs (bs.map (·.1))).foldl (fun s l =>
      let here := (bs.filter (fun x => x.1 / 64 == l)).map (·.1)
      let lo := here.foldl min (64 * l + 63)
      let hi := here.foldl max (64 * l)
      s.watchEngine b sp o.core lo (hi + 1 - lo)) s

/-- A copy's arrival on its barrier object (R183, R184). -/
def State.opArrive (s : State) (o : EngOp) (amt : Nat) : State :=
  match o.barrier with
  | none => s
  | some (sp, off) => s.updOpScratch o sp (fun c =>
      let old := c.mem.bytes off 16
      if arriveBytes old amt = old then c else c.write off (arriveBytes old amt))

/-- The operation is finished (R168). -/
def State.finishOp (s : State) (id : Nat) : State := s.updOp id (fun o => { o with state := .finished })

/-- An operation's access to its digest must wait for tokens of another device's link (R176). -/
def State.digestStays (s : State) (o : EngOp) (va : Nat) : Bool := s.pendingAt .glob o.asid 0 va 64 || (s.isRemote va && !s.hasToken o)

/-- Writes the digest, or leaves it waiting or failed (R177, R180). -/
def State.writeDigest (s : State) (o : EngOp) (va : Nat) : State :=
  let bs := shaFinish o.sha o.total
  match s.engProbe o (lineOf va) with
  | (s, .wait page) => s.updOp o.id (fun o => { o with page := page })
  | (s, .fail c _ code) => s.failOp o.id c va code
  | (s, .ok _ _ p) =>
    if s.digestStays o va then s
    else (((if s.isRemote va then (s.dropGood o.asid [va / 64 * 64]).takeTokens o 64 else s).commitGlobal o [(lineOf va, p)] (bs.zipIdx.map (fun b => (va + b.2, b.1, true)))).updOp o.id (fun o => { o with digestOk := true })).finishOp o.id

/-! ### The gour unit (R186) -/

/-- The bytes of a gour object at its bank. -/
def State.gourAt (s : State) (r : ObjRef) : List Byte :=
  match s.block? r.block with
  | none => List.replicate 64 0
  | some b => match r.space with
    | .pocket => (b.pockets.getD r.core Scratch.empty).mem.bytes r.off 64
    | _ => b.chamber.mem.bytes r.off 64

/-- Writes bytes of a gour object. -/
def State.putGour (s : State) (r : ObjRef) (off : Nat) (bs : List Byte) : State :=
  s.updBlock r.block (fun b => match r.space with
    | .pocket => { b with pockets := b.pockets.modify r.core (fun c => c.write (r.off + off) bs) }
    | _ => { b with chamber := b.chamber.write (r.off + off) bs })

/-- A word of a gour object is pending: its unit's writes wait (R160, R201). -/
def State.gourPending (s : State) (r : ObjRef) : Bool := s.pendingAt r.space r.block r.core r.off 64

/-- A fill of this gour that has committed every chunk in the slot sequence q. -/
def EngOp.filled (o : EngOp) (r : ObjRef) (q : Nat) : Bool :=
  o.kind == .fill r && o.slot == some q && o.state == EngState.running && o.committed.length == o.chunks

/-- CIDX passes every fill that has committed with all fills below it, and those operations finish (R186). -/
def State.fillsDone (s : State) (r : ObjRef) : Nat → State
  | 0 => s
  | n + 1 =>
    let q := (gourOf (s.gourAt r)).cidx
    match s.ops.find? (fun o => o.filled r q) with
    | none => s
    | some o => ((s.putGour r 16 (natBytes 4 (q + 1))).finishOp o.id).fillsDone r n

/-- After a chunk, the operation may be complete. -/
def State.afterChunk (s : State) (id : Nat) : State :=
  match s.op? id with
  | none => s
  | some o =>
    if o.committed.length < o.chunks || o.state != EngState.running then s
    else match o.kind, o.digest with
      | .fill r, _ => if s.gourPending r then s else s.fillsDone r s.ops.length
      | _, some va => if o.owner = .controller then s.finishOp id else s.writeDigest o va
      | _, none => s.finishOp id

/-- A chunk may commit: its tags have cleared; a TMOV whose ranges overlap, and a copy with a digest, keep an order (R165, R174, R180);
a remote destination has tokens (R176); no byte of it or of its barrier object is under a pending atomic (R160, R201). -/
def State.mayCommit (s : State) (o : EngOp) (c : Chunk) : Bool :=
  let overlap := (match o.kind with | .tmov _ => true | _ => false) && o.src.meets o.dst
  let as := (o.chunkAt c.num).map (o.dst.at true)
  let sp := spaceOf o.dst.spaceNo
  let k := o.placeKey sp
  let remote := sp == .glob && s.isRemote o.dst.base
  s.tagsClear o.die c.tags &&
  (!overlap || (o.nextRead == o.chunks && o.staged.length + o.committed.length == o.chunks && o.staged.all (fun x => s.tagsClear o.die x.tags))) &&
  (o.digest.isNone || c.num == o.committed.length) &&
  (!remote || s.hasToken o) &&
  !as.any (fun a => s.pendingAt sp k.1 k.2 a 1) &&
  (match o.barrier with
   | some (b, off) => !s.pendingAt b (o.placeKey b).1 (o.placeKey b).2 off 16
   | none => true)

/-- A cleared chunk is written, its arrival made, the digest folded (R174, R180). -/
def State.commitChunk (s : State) (o : EngOp) (c : Chunk) : State :=
  let bs := o.placed c
  let sp := spaceOf o.dst.spaceNo
  let s := if sp = .glob then s.commitGlobal o c.dest bs else s.commitScratch o sp bs
  let s := if sp == .glob && s.isRemote o.dst.base then s.takeTokens o bs.length else s
  let s := s.opArrive o bs.length
  s.updOp o.id (fun o =>
    { o with staged := o.staged.filter (fun x => x.num != c.num), committed := o.committed ++ [c.num], bytes := o.bytes + bs.length
             strikes := o.strikes.filter (fun x => x.1 != c.num)
             sha := if o.digest.isSome then shaAbsorb o.sha (o.chunkSize * c.num) c.data else o.sha })

/-- CHUNK_COMMIT (R174, R180): a cleared chunk commits; after the last the digest is written and the operation finishes. -/
def execChunkCommit (op chunk : Nat) (s : State) : Host.Outcome State Fault Refusal :=
  match s.op? op with
  | none => .next s
  | some o =>
    if o.state != EngState.running || s.opStopped o then .next s
    else match o.staged.find? (fun c => c.num == chunk) with
      | none => happened (s.afterChunk op)
      | some c => if s.mayCommit o c then happened ((s.commitChunk o c).afterChunk op) else .next s

/-! ### Starting -/

/-- Operations of a die that an engine works on: at most four at a time (Table 1.4). -/
def State.enginesBusy (s : State) (die : Nat) : Nat :=
  (s.ops.filter (fun o => o.die == die && o.state == EngState.running && !s.opStopped o)).length

/-- The index words of a GATHER as they stand in committed scratch, and those that were never written (R181, R160). -/
def State.readIndex (s : State) (o : EngOp) : List Nat × List Nat :=
  match o.kind with
  | .gather sp off n =>
    let c := s.opScratch o sp
    let k := o.placeKey sp
    let as := (List.range n).map (fun e => off + 4 * e)
    (as.map (fun a => fieldAt (s.overlayPending sp k.1 k.2 a (c.mem.bytes a 4)) 0 4),
     as.filter (fun a => !c.isValid a || s.freshAt { space := sp, owner := k.1, core := k.2, addr := a }))
  | _ => ([], [])

/-- A released request that waits for an engine. -/
def State.startable (s : State) (o : EngOp) : Bool := o.state == EngState.queued && !o.unaccepted && !s.opStopped o

/-- The partition that a die's engines serve next: round-robin over those with a request that waits (R170). -/
def State.engNext (s : State) (die : Nat) : Option Nat :=
  ((List.range 8).map (fun i => ((s.die die).engLast + 1 + i) % 8)).find? (fun p => s.ops.any (fun x => x.die == die && x.tenant == p && s.startable x))

/-- An operation may start: it is the oldest released request of the partition whose turn it is on its die, and an engine is free (R170). -/
def State.mayStart (s : State) (o : EngOp) : Bool :=
  let first := s.ops.find? (fun x => x.die == o.die && x.tenant == o.tenant && s.startable x)
  s.startable o && s.engNext o.die == some o.tenant && first.map (·.id) == some o.id && s.enginesBusy o.die < 4

/-- An engine takes an operation; a GATHER reads its index words, of which some may never have been written (R143, R181), but not again when
it goes on after a stop (R189). -/
def State.startOp (s : State) (o : EngOp) : State :=
  let r := if o.index.isEmpty then s.readIndex o else (o.index, [])
  let mode := ((s.grid? o.grid).map (·.lrec.mode)).getD 0
  let s := (s.updOp o.id (fun o => { o with state := .running, index := r.1 })).updDie o.die (fun d => { d with engLast := o.tenant })
  match o.kind, r.2 with
  | .gather sp _ _, a :: _ =>
    if mode.getLsbD 1 then s.failOp o.id .scratchUninit a 0
    else if mode.getLsbD 2 then s.updTeam o.team (fun t => t.deliverWith o.region (fun x => x.noteUninit o.word 0 (r.2.map (fun a => (sp, a)))))
    else s
  | _, _ => s

/-- ENGINE_REQUEST_START (R170, R181): an engine of the die takes the oldest released request of a partition. -/
def execEngineRequestStart (op : Nat) (s : State) : Host.Outcome State Fault Refusal :=
  match s.op? op with
  | none => .next s
  | some o => if s.mayStart o then happened (s.startOp o) else .next s

/-- Drops the first queued action of a gour that a test accepts. -/
def Block.dropGour (b : Block) (r : ObjRef) (a : GourAct) : Block :=
  { b with gours := (b.gours.map (fun g => if g.1 = r then (g.1, g.2.erase a) else g)).filter (fun g => !g.2.isEmpty) }

/-- The actions queued at a gour. -/
def State.gourQueue (s : State) (r : ObjRef) : List GourAct :=
  ((s.block? r.block).bind (fun b => (b.gours.find? (fun g => g.1 == r)).map (·.2))).getD []

/-- The block of a gour holds its cluster and is not being stopped. -/
def State.gourLive (s : State) (r : ObjRef) : Bool := ((s.block? r.block).map (fun b => b.state == BlockState.resident)).getD false

/-- The oldest queued fill of a gour. -/
def State.nextFill (s : State) (r : ObjRef) : Option Nat :=
  (s.gourQueue r).findSome? (fun a => match a with
    | .fill op => some op
    | .rel _ => none)

/-- GOUR_FILL_ACCEPT (R186): the oldest queued fill is given the next sequence once the ring has room. -/
def execGourFillAccept (obj : ObjRef) (s : State) : Host.Outcome State Fault Refusal :=
  let g := gourOf (s.gourAt obj)
  match s.nextFill obj with
  | none => .next s
  | some op =>
    if !s.gourLive obj || s.gourPending obj || g.nslot ≤ g.dist g.widx then .next s
    else
      let s := s.updBlock obj.block (fun b => b.dropGour obj (.fill op))
      let s := s.putGour obj 12 (natBytes 4 (g.widx + 1))
      happened (s.updOp op (fun o => { o with slot := some g.widx, dst := { o.dst with base := g.slotAt g.widx } }))

/-- GOUR_RELEASE_APPLY (R186): a queued release whose sequence is RIDX counts; with NREL of them the slot is released. -/
def execGourReleaseApply (obj : ObjRef) (s : State) : Host.Outcome State Fault Refusal :=
  let g := gourOf (s.gourAt obj)
  if !s.gourLive obj || s.gourPending obj || !(s.gourQueue obj).contains (.rel g.ridx) then .next s
  else
    let s := s.updBlock obj.block (fun b => b.dropGour obj (.rel g.ridx))
    happened (if g.rcnt + 1 = g.nrel then (s.putGour obj 24 (natBytes 4 0)).putGour obj 20 (natBytes 4 (g.ridx + 1))
      else s.putGour obj 24 (natBytes 4 (g.rcnt + 1)))

/-- The team whose oldest released entry is a PLINIT of this gour. -/
def State.plinitTeam (s : State) (obj : ObjRef) : Option (Team × Entry × List Entry) :=
  (s.teams.filterMap (fun t => match t.relq with
    | [] => none
    | e :: rest => match e.kind with
      | .plinit sp off _ _ _ _ => if objRef t sp off = obj then some (t, e, rest) else none
      | _ => none)).head?

/-- PLINIT_APPLY (R186): once every accepted fill has committed, the object is written and its indices are 0. -/
def execPlinitApply (obj : ObjRef) (s : State) : Host.Outcome State Fault Refusal :=
  let g := gourOf (s.gourAt obj)
  match s.plinitTeam obj with
  | none => .next s
  | some (t, e, rest) => match e.kind with
    | .plinit _ _ base bytes nslot nrel =>
      if g.widx != g.cidx || s.gourPending obj then .next s
      else happened ((s.setTeam { t with relq := rest }).putGour obj 0 (gourBytes base bytes nslot nrel))
    | _ => .next s

end Sys2Proof.Machine
end

