-- ==== Sys2Proof/Machine/Slots.lean ====
section
/-! DEFINITION. Issue slots, the ends of waits, and the lantern (09_execution_and_scheduling.md, R212, R221–R223). -/

namespace Sys2Proof.Machine

/-! ### ISSUE_SLOT -/

/-- A team that a step of the debugger lets issue one word (R393). -/
def Team.armed (t : Team) : Bool := match t.stepMode with
  | .armed _ _ => true
  | _ => false

/-- A team's block stands on its cluster and is not being stopped. -/
def State.blockRuns (s : State) (t : Team) : Bool := match s.block? t.block with
  | some b => b.state == BlockState.resident
  | none => false

/-- A block is stopping to be moved at a barrier. -/
def Block.atMove (b : Block) : Bool := match b.state with
  | .stopping why _ => why == 4
  | _ => false

/-- A trailing copy that has passed the instance at which its leading copy's block stands to be moved (R274). -/
def State.heldBack (s : State) (t : Team) : Bool :=
  t.role == .trailing && (match s.team? t.mate with
    | some m => m.barbs ≤ t.barbs && (s.block? m.block).any Block.atMove
    | none => false)

/-- A ready team that may be offered for issue (R221): ballast has stopped on its cluster (R329). -/
def State.offered (s : State) (t : Team) : Bool :=
  t.run == .ready && (!t.frozen || t.armed) && !t.exiting && s.gridLive t && s.blockRuns t && s.chipOk t.loc.chip && !s.heldBack t &&
    !s.power.ballast.any (fun b => b.1 == 4 * t.loc.chip + t.loc.cluster)

/-- A team at a switch marker with nothing left to wait for passes it before it may issue again (R27). -/
def State.passMarkers (s : State) (p : Team → Bool) : State :=
  ((s.teams.filter (fun t => p t && t.run == .switch && s.offered { t with run := .ready })).map (·.uid)).foldl State.resume s

/-- The waits that put a team on the floor (R222). -/
def waitFloor : Nat := 256

/-- A team that counts as having issued a yield mark in the partition's previous slot (R43, R244). -/
def Team.yields (t : Team) : Bool := t.yielded || t.arch.yield != 0

/-- The oldest of some teams. -/
def oldest (ts : List Team) : Option Team := (byAge ts).head?

/-- The ready teams of a partition; during a step, the stepped team alone (R393). -/
def State.candidates (s : State) (core part : Nat) : List Team :=
  let ready := (s.partTeams core part).filter s.offered
  if ready.any Team.armed then ready.filter Team.armed else ready

/-- The team that a partition picks for an issue slot (R222). -/
def pickTeam (cand : List Team) : Option Team :=
  let floor := cand.filter (fun t => waitFloor ≤ t.waitSlots)
  if !floor.isEmpty then oldest floor
  else
    let top := cand.filter (fun t => cand.all (fun u => u.prio ≤ t.prio))
    let keen := top.filter (fun t => !t.yields)
    oldest (if keen.isEmpty then top else keen)

/-- A team after a slot of its partition: the picked one's wait is over, another candidate waits one slot more, yields run down. -/
def Team.afterSlot (pick : Nat) (cand : List Nat) (t : Team) : Team :=
  { t with waitSlots := if t.uid = pick then 0 else if cand.contains t.uid then t.waitSlots + 1 else t.waitSlots
           yielded := false
           arch := { t.arch with yield := t.arch.yield - 1 } }

/-- ISSUE_SLOT (R222): a partition grants its slot to one ready team, whose next word then issues. -/
def execIssueSlot (core part : Nat) (s : State) : Host.Outcome State Fault Refusal :=
  if s.issue.isSome then .next s
  else
    let here (t : Team) : Bool := t.kind != .lantern && t.loc.pkgCore == core && t.loc.part == part
    let s := s.settle.passMarkers here
    let cand := s.candidates core part
    match pickTeam cand with
    | none => .next s
    | some p =>
      let ids := cand.map (·.uid)
      .next { s with issue := some p.uid, teams := s.teams.map (fun t => if here t then t.afterSlot p.uid ids else t) }

/-! ### WAIT_CONDITION_MET -/

/-- A wait's condition may hold: the parked word is executed again, and parks again if it does not. -/
def State.condHolds (s : State) (t : Team) (c : WaitOn) : Bool :=
  let core := t.loc.pkgCore
  match c with
  | .clearance => s.drained t || t.park false != .clear || (s.failedOp t).isSome
  | .regionSlot => t.inFlight < 4
  | .counter cls thr => t.counterMet cls thr
  | .gourSlot sp off q =>
    let g := gourOf (s.seenObject t sp off 64)
    g.bad || g.released q || g.dist q < g.dist g.cidx || (s.failedFor t (fun o => o.fillsFor (objRef t sp off) g q)).isSome
  | .phase sp off ph =>
    let bs := s.seenObject t sp off 16
    fieldAt bs 0 1 != 0x5B || (fieldAt bs 1 1).testBit 0 || fieldAt bs 12 4 != ph.toNat ||
      (s.failedFor t (fun o => o.arrivesAt sp off)).isSome
  | .word sp va until_ seen => s.lineSeen t sp va != seen || (until_.map (fun n => decide (n ≤ s.tick))).getD false
  | .older => !s.acquiring t && !t.accs.any (fun a => a.kind.returns && a.lanes.any (·.st.unfinished))
  | .target sp addrs n => !addrs.any (fun a => s.pendingHere t sp a n)
  | .outbound part => (List.range 64).all (fun c => !(c == core || (part && s.inPart (s.tenantOf t) (c / 8) (c % 8 / 2))) || !s.outboundStuck c)
  | .qsb n => s.qsbUsed core + n / 64 ≤ 1024
  | .shadows n => s.shadowsUsed core + n ≤ 8 || s.shadowsUsed (core + 1) + n ≤ 8
  | .rename n => s.renameUsed t.loc + n ≤ renameStore t.loc.chip
  | .bucket => 0 < (s.die t.loc.chip).buckets.getD (s.tenantOf t) 0
  | .scFence scope => !s.writesOut t scope
  | .array => !s.arrayBusy t
  | .arena => (s.die t.loc.chip).arenaUsed < (s.die t.loc.chip).arenaCap
  | .ownAtom => !(s.ownEntries t).any (fun e => e.kind.stopsQuery) || t.park false != .clear
  | .lvqRoom => match s.team? t.mate with
    | some m => t.arch.issued < m.arch.issued + lvqLead && lvqUsed t.lvq + 16 ≤ lvqSize
    | none => true
  | .lvqEntry => match s.team? t.mate with
    | some m => t.arch.issued < m.arch.issued || m.exiting || ((m.run == .wait .clearance || m.run == .migrating) && m.arch.issued == t.arch.issued) || m.lvq.any (fun e => e.pc == t.arch.pc && e.word == t.arch.issued)
    | none => true
  | .drain => t.cnts.all (·.isEmpty) && t.lvq.isEmpty && (s.lastOps t).all (fun o => o.state == EngState.finished)

/-- JOIN's counter has reached zero (R236). -/
def Team.joinMet (t : Team) : Bool := match t.arch.stack with
  | .join e :: _ => t.ctr e == 0
  | _ => true

/-- WAIT_CONDITION_MET (R179, R229, R236, R243): a parked team whose condition holds executes its word again. -/
def execWaitConditionMet (team : Nat) (s : State) : Host.Outcome State Fault Refusal :=
  match s.team? team with
  | none => .next s
  | some t =>
    let met := !t.exiting && match t.run with
      | .wait c => s.condHolds t c
      | .join => t.joinMet
      | _ => false
    if met then happened (s.setTeam { t with run := .ready }) else .next s

/-! ### CONTINUATION_RUN -/

/-- The one-lane team that runs a continuation of a team: the live set under the team's register names, the lane's mask bits, the
enables, and the flags that it has gathered so far (R73, R212, R237, R238). -/
def ContRec.team (r : ContRec) (uid : Nat) (o : Team) : Team :=
  let vec (n _ : Nat) : Word := if r.vFirst ≤ n && n < r.vFirst + r.nv then r.regs.getD (n - r.vFirst) 0 else 0
  let sc := List.replicate r.sFirst 0 ++ (r.regs.drop r.nv).take r.ns
  let n := r.vFirst + r.nv
  let a := Arch.start r.pc 1 n 0 sc vec 1
  let a := { a with k := (List.range 8).map (fun i => if r.kbits.getLsbD i then 1 else 0), flags := r.enab.zeroExtend 32 <<< 8 ||| r.sticky.zeroExtend 32 }
  { Team.start uid .lantern o.loc o.grid o.block o.idx 1 1 n 0 o.age o.prio a with
    depth := o.depth, ticket := o.ticket, lineage := o.lineage, cont := some r }

/-- A continuation that has parked, and so stepped aside: on a page, a cell or a wait (R212). -/
def Team.aside (t : Team) : Bool :=
  match t.run with
  | .memory _ => t.accs.any (fun a => a.lanes.any (·.st.left))
  | .fetch _ => true
  | .landing _ => true
  | .wait _ => true
  | _ => false

/-- The lantern's next continuation: the one that it runs, which it waits for while that one has not parked; else one that has woken, the last
first; else the first of the queue whose team still awaits it (R212). -/
def State.nextCont (s : State) (core : Nat) : Option (State × Nat) :=
  let mine := s.teams.filter (fun t => t.kind == .lantern && t.loc.pkgCore == core && !t.exiting)
  match mine.find? (fun t => t.yielded && !t.aside) with
  | some t => if s.offered t then some (s, t.uid) else none
  | none => match (s.core core).woken.find? (fun u => mine.any (fun t => t.uid == u && s.offered t)) with
    | some u => some (s, u)
    | none => match (s.core core).lantern with
      | [] => none
      | r :: rest =>
        let owner (t : Team) : Bool := t.kind != .lantern && t.loc.pkgCore == core && t.awaits r
        match s.teams.find? owner with
        | none => some (s.updCore core (fun c => { c with lantern := rest }), s.nextUid)
        | some o =>
          if !(s.gridLive o && s.blockRuns o) || o.frozen then none
          else
            let (u, s) := s.fresh
            some ({ s.updCore core (fun c => { c with lantern := rest }) with teams := s.teams ++ [r.team u o] }, u)

/-- CONTINUATION_RUN (R212): the lantern runs the next word of its continuation. -/
def execContinuationRun (core : Nat) (s : State) : Host.Outcome State Fault Refusal :=
  if s.issue.isSome then .next s
  else
    let settled := s.settle.passMarkers (fun t => t.kind == .lantern && t.loc.pkgCore == core)
    match settled.nextCont core with
    | none => .next settled
    | some (s, u) =>
      if (s.team? u).isNone then .next s
      else
        let mine (t : Team) : Bool := t.kind == .lantern && t.loc.pkgCore == core
        .next { s with issue := some u, teams := s.teams.map (fun t => if mine t then { t with yielded := t.uid == u } else t) }

end Sys2Proof.Machine
end

