-- ==== Sys2Proof/Machine/Tasks.lean ====
section
/-! DEFINITION. Evaluators and task teams find their slots (R225, R226, R246; 11_geodes_and_migration.md, R255, R256). -/

namespace Sys2Proof.Machine

/-! ### Blocks of one team -/

/-- The lowest block id that is free on a cluster (R392). -/
def State.freeBlockId (s : State) (chip cluster : Nat) : Nat :=
  ((List.range 62).find? (fun i => !(s.blocksOn chip cluster).any (fun b => b.blockId == i))).getD 0

/-- What a block of one evaluator or task team needs: no scratch. -/
def guestNeeds (tw regs : Nat) : Needs := { teams := [(0, tw, regs, 0)], leadOnly := true, pocket := 0, spill := 0, chamber := 0 }

/-- The save area of a partition has room (R311). -/
def State.saveRoom (s : State) (p bound : Nat) : Bool := s.saveUsed p + bound ≤ s.saveSize p

/-- What an evaluator or task team is before it has a slot. -/
structure Guest where
  kind : TeamKind
  grid : Grid
  span : Nat
  caps : Nat
  tw   : Nat
  gw   : Nat
  regs : Nat
  prio : Nat
  arch : Arch

/-- The block and the team of a guest on a slot, as one copy or the only one. -/
def Guest.start (g : Guest) (s : State) (at_ : Loc × Nat) (bu tu : Nat) (role : Role) (mates : Nat × Nat) (f : Team → Team) : State :=
  let loc := at_.1
  let b : Block :=
    { uid := bu, grid := g.grid.uid, span := g.span, idx := 0, kind := g.kind, role := role, mate := mates.1, state := .resident, chip := loc.chip,
      cluster := loc.cluster, age := s.tick, prio := g.prio, caps := g.caps, teamSeed := [], pockets := [Scratch.empty, Scratch.empty], starts := [0, 0, 0],
      chamber := Scratch.empty, barb := List.replicate 4 BarInst.closed, gours := [], exitedT := [],
      blockId := s.freeBlockId loc.chip loc.cluster, bound := saveBound (guestNeeds g.tw g.regs), place := [], migrated := false, pin := false, req := none,
      move := 0, restoredT := none, released := [], claim := none }
  let t := f (Team.start tu g.kind loc g.grid.uid bu 0 g.tw g.gw g.regs 0 s.tick g.prio g.arch)
  State.startTeam { s with blocks := s.blocks ++ [b] } { t with borrowed := at_.2, role := role, mate := mates.2 }

/-- A guest starts on a slot of some clusters, if there is one and its partition is not suspended (R226, R311, R312); in a redundant grid, as a pair of copies on two
clusters (R364). The answer holds the place of the only copy, or of the leading one. -/
def State.startGuest (s : State) (g : Guest) (clusters : List (Nat × Nat)) (f : Team → Team) : Option (State × Loc) :=
  let bound := saveBound (guestNeeds g.tw g.regs)
  let pair := g.grid.lrec.mode.getLsbD 0
  if s.partSuspend g.grid.tenant || !s.saveRoom g.grid.tenant (if pair then 2 * bound else bound) then none
  else match s.guestSlot clusters (g.tw * g.regs) with
    | none => none
    | some a =>
      let (bu, s) := s.fresh
      let (tu, s) := s.fresh
      if !pair then some (g.start s a bu tu .single (0, 0) f, a.1)
      else match s.guestSlot (clusters.filter (fun c => c != (a.1.chip, a.1.cluster))) (g.tw * g.regs) with
        | none => none
        | some b =>
          let (bv, s) := s.fresh
          let (tv, s) := s.fresh
          let s := g.start s a bu tu .leading (bv, tv) f
          some (g.start s b bv tv .trailing (bu, tu) (fun t => { f t with cell := none }), a.1)

/-- The clusters of a chiplet on which a partition may start a team that needs sets. -/
def State.guestClusters (s : State) (p sets chip : Nat) : List (Nat × Nat) :=
  ((List.range 4).filter (fun k => s.usable p sets chip k)).map (fun k => (chip, k))

/-! ### EVALUATOR_PLACE -/

/-- The dies on which an evaluator is placed, in the order of R255. -/
def OpenEnt.dies (e : OpenEnt) : List Nat :=
  let place := fieldAt e.record 0x0A 1
  let near := if place = 0 then e.cell / 2 ^ 31 else e.chip
  let more := if place < 2 && !isColumn near && fieldAt e.record 0x08 2 &&& 6 != 0 then [near - 4] else []
  near :: more ++ List.range 8

/-- The sets that an eligible cluster implements: under ANY, whatever it implements (R255). -/
def OpenEnt.sets (e : OpenEnt) : Nat := if fieldAt e.record 0x0A 1 = 2 then 0 else fieldAt e.record 0x08 2

/-- The clusters of the first die in order that holds an eligible one. -/
def State.evalClusters (s : State) (e : OpenEnt) (g : Grid) : List (Nat × Nat) :=
  ((e.dies.map (fun c => s.guestClusters g.tenant e.sets c)).find? (fun cs => !cs.isEmpty)).getD []

/-- The evaluator of an opened cell as it starts (R256). -/
def OpenEnt.guest (e : OpenEnt) (g : Grid) (span : Nat) : Guest :=
  let ewid := fieldAt e.record 0x0B 1
  let gw := 16 * 2 ^ (ewid / 64)
  let tw := gw * (ewid % 64 + 1)
  let regs := 16 * (fieldAt e.record 0x3C 4 % 128)
  let sc : List Word := [BitVec.ofNat 32 e.va.toNat, BitVec.ofNat 32 (e.va.toNat / 2 ^ 32), 0xFFFFFFFE, BitVec.ofNat 32 e.depth] ++
    (List.range 12).map (fun i => BitVec.ofNat 32 (fieldAt e.record (0x0C + 4 * i) 4))
  let arch := Arch.start (BitVec.ofNat 64 (fieldAt e.record 0 8)) tw regs 0 sc (fun r l => if r = 0 then BitVec.ofNat 32 l else 0) (fullMask tw)
  { kind := .evaluator, grid := g, span := span, caps := e.sets ||| 1, tw := tw, gw := gw, regs := regs, prio := e.prio, arch := arch }

/-- No cluster of the partition implements the record's sets: the opener's lanes fault, and the cell is poisoned (R255). -/
def State.noEvaluator (s : State) (e : OpenEnt) : State :=
  let fail (l : LaneAcc) : LaneAcc := if l.st = .cellWait true e.ticket then { l with st := .fault .noCapable (fieldAt e.record 0x08 2) 10 } else l
  let s := s.updTeam e.opener (fun t => { t with accs := t.accs.map (fun (a : Access) => { a with lanes := a.lanes.map fail }) })
  (s.poison e.cell 0 3).resume e.opener

/-- Places the evaluator of an open-buffer entry, whose entry is free then (R254–R256). -/
def State.placeEvaluator (s : State) (stack entry : Nat) : Option State :=
  match (s.stack stack).buffer.getD entry none with
  | none => none
  | some e => match s.grid? e.grid with
    | none => none
    | some g =>
      if g.status.isSome then none
      else if !s.partHas g.tenant (fieldAt e.record 0x08 2) then some (s.noEvaluator e)
      else
        let span := ((s.team? e.opener).bind (fun t => (s.block? t.block).map (·.span))).getD 0
        (s.startGuest (e.guest g span) (s.evalClusters e g)
            (fun t => { t with depth := e.depth, ticket := some e.ticket, lineage := e.lineage, cell := some e.cell })).map (fun (s, l) =>
          let s := s.updStack stack (fun st => { st with buffer := st.buffer.set entry none })
          { s with mem := s.mem.put (64 * e.cell + 0x1C) (natBytes 4 (l.pkgCore + 64 * l.coreSlot)) })

/-- EVALUATOR_PLACE (R255, R256): the evaluator of an open-buffer entry starts, and the entry is free (R254). -/
def execEvaluatorPlace (stack entry : Nat) (s : State) : Host.Outcome State Fault Refusal :=
  match s.placeEvaluator stack entry with
  | some s => happened s
  | none => .next s

/-! ### TASK_TEAM_FORM -/

/-- Records of one task team: one PC, one tenant, one address space, of one grid and die span, with the same enables (R225, R246). -/
def TaskRec.joins (r x : TaskRec) : Bool :=
  r.crec.pc == x.crec.pc && r.crec.tenant == x.crec.tenant && r.crec.asid == x.crec.asid && r.grid == x.grid && r.span == x.span &&
    r.crec.enab == x.crec.enab

/-- The next bin that the dispatcher of a die serves: the lowest-numbered non-empty one after the last (R225). -/
def Die.nextBin (d : Die) : Option Nat :=
  ((List.range 64).map (fun i => (d.lastBin + 1 + i) % 64)).find? (fun i => !(d.bins.getD i []).isEmpty)

/-- The records that a drain takes beyond those present when it began (R225). -/
def drainMore : Nat := 4096

/-- A die whose drain is under way: the present one, or that of the next bin. -/
def Die.draining (d : Die) : Option Die :=
  if d.drain != 0 && !(d.bins.getD d.lastBin []).isEmpty then some d
  else d.nextBin.map (fun i => { d with lastBin := i, drain := (d.bins.getD i []).length + drainMore })

/-- The records gathered for the next task team: at most the group width, from those that the drain may still take (R225). -/
def Die.gather (d : Die) : List TaskRec :=
  let rs := (d.bins.getD d.lastBin []).take d.drain
  match rs with
  | [] => []
  | r :: _ => (rs.filter (fun x => r.joins x)).take r.gw

/-- The task team of some records as it starts (R246). -/
def taskGuest (g : Grid) (spanIdx : Nat) (r : TaskRec) (rs : List TaskRec) : Guest :=
  let sc : List Word := [g.lrec.args.setWidth 32, (g.lrec.args >>> 32).setWidth 32, 0xFFFFFFFF, BitVec.ofNat 32 rs.length,
    BitVec.ofNat 32 g.lrec.nblock, BitVec.ofNat 32 spanIdx]
  let vec (n l : Nat) : Word := if n < 16 then ((rs[l]?).map (fun x => x.crec.regs.getD n 0)).getD 0 else 0
  let arch := { Arch.start r.crec.pc r.gw 32 0 sc vec (fullMask rs.length) with flags := r.crec.enab.zeroExtend 32 <<< 8 }
  { kind := .task, grid := g, span := r.span, caps := g.lrec.caps, tw := r.gw, gw := r.gw, regs := 32, prio := r.crec.prio, arch := arch }

/-- Takes records off a list, each once. -/
def takeOff (all rs : List TaskRec) : List TaskRec := rs.foldl (fun acc r => acc.erase r) all

/-- What the dispatcher of a die makes of the bin it drains: a task team, or the wait for a slot; and whether a team started (R225, R226,
R246). -/
def State.formTask (s : State) (die : Nat) : State × Bool :=
  if !s.chipOk die then (s, false)
  else match (s.die die).draining with
    | none => (s, false)
    | some d =>
      let s := s.updDie die (fun _ => d)
      match d.gather with
      | [] => (s, false)
      | r :: rs =>
        let rs := r :: rs
        let gone := { d with bins := d.bins.modify d.lastBin (fun b => takeOff b rs), drain := d.drain - rs.length, taskWait := none }
        match s.grid? r.grid with
        | none => (s.updDie die (fun _ => gone), false)
        | some g =>
          if g.status.isSome then (s.updDie die (fun _ => gone), false)
          else
            let idx := ((s.span? r.span).map (·.idx)).getD 0
            match s.startGuest (taskGuest g idx r rs) (s.guestClusters g.tenant g.lrec.caps die) id with
            | none => (s.updDie die (fun d => { d with taskWait := some (d.taskWait.getD s.tick) }), false)
            | some (s, _) => (s.updDie die (fun _ => gone), true)

/-- TASK_TEAM_FORM (R225, R246): the dispatcher of a die gathers records of the bin it drains and starts a task team with them, or
waits for a slot (R226). -/
def execTaskTeamForm (die : Nat) (s : State) : Host.Outcome State Fault Refusal :=
  match s.formTask die with
  | (s, true) => happened s
  | (s, false) => .next s

/-! ### EVAL_SLOT_TIMEOUT -/

/-- The wait for a slot that makes the dispatcher pre-empt a block (R226). -/
def slotTimeout : Nat := 16384

/-- The lowest-priority, youngest block on some clusters, and no evaluator's or task team's (R226). -/
def State.slotVictim (s : State) (clusters : List (Nat × Nat)) : Option Block :=
  (s.blocks.filter (fun b => b.kind == .ordinary && b.state == BlockState.resident && clusters.contains (b.chip, b.cluster))).foldl
    (fun (best : Option Block) b => match best with
      | none => some b
      | some v => if b.prio < v.prio || (b.prio == v.prio && v.age < b.age) then some b else some v) none

/-- A block, with its other copy, is stopped; `why` is the reason (R312, R370). -/
def State.stopPair (s : State) (b : Block) (why : Nat) : State :=
  let s := s.stopBlock b.uid why
  if b.role = .single then s else s.stopBlock b.mate why

/-- The evaluator or task team for which a block was stopped takes its slot, if it still waits (R226). -/
def State.giveSlot (s : State) : Waiting → State
  | .evaluator k i => (s.placeEvaluator k i).getD s
  | .task die bin => if (s.die die).taskWait.isSome && (s.die die).lastBin == bin then (s.formTask die).1 else s

/-- A block is stopped for a waiting team, which takes the slot that this frees (R226). -/
def State.stopFor (s : State) (b : Block) (who : Waiting) : State :=
  let claim (s : State) (k : Nat) : State := s.updBlock k (fun x => { x with claim := some who })
  let s := claim s b.uid
  (if b.role = .single then s else claim s b.mate).stopPair b 0

/-- EVAL_SLOT_TIMEOUT (R226, R312): a team that has waited long finds no free slot. -/
def execEvalSlotTimeout (who : Waiting) (s : State) : Host.Outcome State Fault Refusal :=
  match who with
  | .evaluator k i =>
    match (s.stack k).buffer.getD i none with
    | none => .next s
    | some e => match (s.grid? e.grid).bind (fun g => s.slotVictim (s.evalClusters e g)) with
      | none => .next s
      | some b =>
        if s.tick < e.since + slotTimeout || (s.placeEvaluator k i).isSome then .next s
        else happened ((s.stopFor b who).updStack k (fun st => { st with buffer := st.buffer.set i (some { e with since := s.tick }) }))
  | .task die bin =>
    let d := s.die die
    match d.taskWait, d.gather.head?.bind (fun r => (s.grid? r.grid).bind (fun g => s.slotVictim (s.guestClusters g.tenant g.lrec.caps die))) with
    | some since, some b =>
      if d.lastBin != bin || s.tick < since + slotTimeout || (s.formTask die).2 then .next s
      else happened ((s.stopFor b who).updDie die (fun d => { d with taskWait := some s.tick }))
    | _, _ => .next s

end Sys2Proof.Machine
end

