-- ==== Sys2Proof/Machine/Image.lean ====
section
/-! DEFINITION. Team and block images, the stored form, the pending section (11_geodes_and_migration.md, R270–R272;
16_partitions_preemption_power.md, R317, R318; 18_traps_faults_redundancy.md, R355; 21_debug_and_watchpoint.md, R398). -/

namespace Sys2Proof.Machine

/-! ### Checks and padding -/

/-- One byte folded into a reflected CRC-32C. -/
def crc32cByte (c : BitVec 32) (b : Byte) : BitVec 32 :=
  (List.range 8).foldl (fun (c : BitVec 32) _ => if c.getLsbD 0 then (c >>> 1) ^^^ 0x82F63B78 else c >>> 1) (c ^^^ b.zeroExtend 32)

/-- CRC-32C of bytes. -/
def crc32c (bs : List Byte) : Nat := (~~~(bs.foldl crc32cByte 0xFFFFFFFF)).toNat

/-- Zero bytes up to a multiple of 64. -/
def pad64 (bs : List Byte) : List Byte := bs ++ List.replicate (up64 bs.length - bs.length) 0

/-! ### Engine operations -/

/-- A shape record's eight words (Table 7.3). -/
def Shape.image (x : Shape) : List Byte :=
  natBytes 8 x.base ++ natBytes 4 x.rowb ++ natBytes 4 x.rows ++ natBytes 4 x.rstr ++ natBytes 4 x.planes ++ natBytes 4 x.pstr ++
    natBytes 4 x.flags.toNat

/-- An engine operation's 320 bytes (Table 11.8; the places of its fields are the model's, log 24). -/
def EngOp.image (o : EngOp) : List Byte :=
  o.src.image ++ o.dst.image ++ natBytes 8 o.bytes ++ natBytes 8 o.bytes ++
    (List.range 25).flatMap (fun i => natBytes 8 (o.sha.getD i 0).toNat) ++ natBytes 8 o.bytes ++ natBytes 1 o.cls ++
    natBytes 1 ((if o.digest.isSome then 1 else 0) + (if o.barrier.isSome then 2 else 0)) ++ natBytes 30 0

/-- The engine operations that a team's image holds: its own, not finished. -/
def State.imageOps (s : State) (t : Team) : List EngOp :=
  s.ops.filter (fun o => o.team == t.uid && o.owner == .team && o.state != EngState.finished && o.state != EngState.held)

/-- The kind-1 records of a team's join entries: returned, on the lantern, or on the way there. -/
def State.imageConts (s : State) (t : Team) : List ContRec :=
  let c := s.core t.loc.pkgCore
  let running := (s.teams.filter (fun u => u.kind == .lantern && u.loc.pkgCore == t.loc.pkgCore)).filterMap (·.contRecord)
  t.returned ++ (running ++ c.lantern ++ t.relq.filterMap (fun e => match e.kind with
    | .cont r => some r
    | _ => none)).filter t.awaits

/-! ### Team images -/

/-- A lane mask of a team. -/
def Team.maskBytes (t : Team) (m : Mask) : List Byte := natBytes (t.tw / 8) m.toNat

/-- A control-stack entry (Table 11.12). -/
def Team.entryBytes (t : Team) (e : StackEntry) : List Byte :=
  match e with
  | .call ret => natBytes 8 1 ++ natBytes 8 ret.toNat ++ natBytes 16 0 ++ List.replicate (4 * (t.tw / 8)) 0
  | .join j =>
    natBytes 4 2 ++ natBytes 4 (t.ctr j) ++ natBytes 8 j.jpc.toNat ++ natBytes 8 (if j.pend = 0 then 0 else j.ppc.toNat) ++ natBytes 8 0 ++
      t.maskBytes j.reconv ++ t.maskBytes j.pend ++ t.maskBytes j.ej ++ t.maskBytes j.early

/-- The handler entry of a team that is in its handler (R355). -/
def Team.handlerBytes (t : Team) : List Byte :=
  if t.arch.inHandler then
    natBytes 32 3 ++ t.maskBytes t.arch.bank.elive ++ t.maskBytes t.arch.bank.emask ++ List.replicate (2 * (t.tw / 8)) 0
  else []

/-- The index and special registers (Table 11.8, R355). -/
def Team.specialBytes (t : Team) : List Byte :=
  let a := t.arch
  (List.range 4).flatMap (fun i => natBytes 2 (a.xget i).toNat) ++ natBytes 4 a.flags.toNat ++ natBytes 4 a.uninitcnt.toNat ++
    natBytes 4 a.uninitaddr.toNat ++ natBytes 4 a.gdetail.toNat ++ (List.range 4).flatMap (fun c => natBytes 1 (t.cnts.getD c []).length) ++
    (if a.inHandler then
      natBytes 8 a.tvec.toNat ++ natBytes 8 a.bank.epc.toNat ++ natBytes 8 a.bank.eaddr.toNat ++ natBytes 4 a.bank.ecause.toNat ++
        natBytes 4 a.bank.estat.toNat ++ natBytes 4 a.bank.einfo.toNat
     else natBytes 36 0)

/-- Entries of the control stack as an image counts them. -/
def Team.sdepth (t : Team) : Nat := t.arch.stack.length + if t.arch.inHandler then 1 else 0

/-- STATE of an image: 2 for a frozen team, 1 for one parked on a barrier. -/
def Team.imageState (t : Team) : Nat :=
  if t.frozen then 2 else match t.run with
    | .barrier _ _ _ _ => 1
    | _ => 0

/-- The instance that a team waits at. -/
def Team.barId (t : Team) : Nat := match t.run with
  | .barrier _ id _ _ => id
  | _ => 0

/-- The image of a team from byte 0x10 on (Tables 11.8, 11.9). -/
def State.imageBody (s : State) (t : Team) : List Byte :=
  let a := t.arch
  let ops := s.imageOps t
  let conts := s.imageConts t
  natBytes 8 a.pc.toNat ++ natBytes 2 t.tw ++ natBytes 1 t.gw ++ natBytes 1 t.imageState ++
    natBytes 1 (if t.imageState = 1 then t.barId else 0) ++ natBytes 1 t.prio ++ natBytes 2 t.regs ++ natBytes 1 t.acc ++ natBytes 1 t.depth ++
    natBytes 2 t.idx ++ natBytes 2 t.sdepth ++ natBytes 2 conts.length ++ natBytes 2 ops.length ++
    natBytes 2 ((if t.borrowed = 0 then 0 else 1) + (if a.yield = 0 then 0 else 2)) ++ natBytes 4 0 ++
    natBytes 8 (t.ticket.getD 0).toNat ++ natBytes 8 (((s.gridOf t).map (·.lrec.gridtag.toNat)).getD 0) ++ natBytes 64 0 ++
    (List.range 128).flatMap (fun i => natBytes 4 (a.sget i).toNat) ++
    t.specialBytes ++
    pad64 ((List.range 7).flatMap (fun i => t.maskBytes (a.kget (i + 1))) ++ t.maskBytes a.live ++ t.maskBytes a.exited) ++
    pad64 ((a.stack.reverse.flatMap t.entryBytes) ++ t.handlerBytes) ++
    (List.range 16).flatMap (fun i => natBytes 8 (t.lineage.getD i 0).toNat) ++
    pad64 ((List.range t.regs).flatMap (fun r => (List.range t.tw).flatMap (fun l => natBytes 4 (a.vget r l).toNat))) ++
    (List.range t.acc).flatMap (fun q => (List.range 8192).flatMap (fun i => natBytes 4 ((a.tile q).getD i 0).toNat)) ++
    (List.range 8).flatMap (fun e => (List.range 256).map (fun i => (a.esc.getD e []).getD i 0)) ++
    ops.flatMap EngOp.image ++ pad64 (conts.flatMap ContRec.image)

/-- An image's first 16 bytes, with its body: MAGIC, VERSION, KIND, LENGTH, CRC32C. -/
def imageOf (kind : Nat) (body : List Byte) : List Byte :=
  natBytes 4 0x4D49544A ++ natBytes 2 1 ++ natBytes 2 kind ++ natBytes 4 (body.length + 16) ++ natBytes 4 (crc32c body) ++ body

/-- The team image (R270). -/
def State.teamImage (s : State) (t : Team) : List Byte := imageOf 1 (s.imageBody t)

/-! ### Block images (R272) -/

/-- The pages of an allocation that hold a valid word: page number, valid bits, bytes. -/
def Scratch.pages (c : Scratch) : List Byte :=
  let ps := (c.valid.map (· / 1024)).eraseDups
  ps.flatMap (fun p => natBytes 8 p ++
    natBytes 128 ((c.valid.filter (fun w => w / 1024 == p)).foldl (fun acc w => acc ||| 2 ^ (w % 1024)) 0) ++ c.mem.bytes (4096 * p) 4096)

/-- A queued action of a gour: 32 bytes (the places are the model's, log 24). -/
def gourAct (o : ObjRef) (a : GourAct) : List Byte :=
  let w := match a with
    | .fill op => (1, op)
    | .rel q => (2, q)
  foldTarget o.space o.off ++ natBytes 4 o.core ++ natBytes 4 w.1 ++ natBytes 8 w.2 ++ natBytes 8 0

/-- The team indices that have arrived at a barrier instance, as a mask. -/
def State.arrivedMask (_s : State) (ts : List Team) (i : BarInst) : Nat :=
  (ts.filter (fun t => i.arrived.contains t.uid)).foldl (fun acc t => acc ||| 2 ^ t.idx) 0

/-- The block image of some teams of a block (R272). -/
def State.blockImage (s : State) (b : Block) (ts : List Team) : List Byte :=
  let imgs := ts.map (fun t => (t, pad64 (s.teamImage t)))
  let bars := (List.range 4).flatMap (fun i =>
    let x := b.barb.getD i BarInst.closed
    natBytes 4 (if x.isOpen then 1 else 0) ++ natBytes 4 x.mask.toNat ++ natBytes 4 (s.arrivedMask ts x) ++ natBytes 4 0)
  let acts := b.gours.flatMap (fun g => g.2.flatMap (gourAct g.1))
  let pages := b.pockets.flatMap Scratch.pages ++ b.chamber.pages
  let first := 128 + up64 (16 * ts.length) + 64 + up64 acts.length + up64 pages.length
  let table := (imgs.foldl (fun (acc : Nat × List Byte) x =>
    (acc.1 + x.2.length, acc.2 ++ natBytes 2 x.1.idx ++ natBytes 2 x.1.loc.core ++ natBytes 4 acc.1 ++ natBytes 8 x.2.length)) (first, [])).2
  imageOf 2 (natBytes 4 ts.length ++ natBytes 4 (((s.span? b.span).map (·.idx)).getD 0) ++ natBytes 4 ((b.pockets.getD 0 Scratch.empty).size) ++
    natBytes 4 b.chamber.size ++ natBytes 1 (if b.pin then 1 else 0) ++ natBytes 1 (b.req.getD 0xFF) ++ natBytes 6 0 ++
    natBytes 8 (((s.grid? b.grid).map (·.lrec.gridtag.toNat)).getD 0) ++ natBytes 80 0 ++
    pad64 table ++ bars ++ pad64 acts ++ pad64 pages ++ imgs.flatMap (·.2))

/-! ### The stored form (R317, R318) -/

/-- Cuts bytes into chunks of 64. -/
def chunks64 : Nat → List Byte → List (List Byte)
  | 0, _ => []
  | n + 1, bs => bs.take 64 :: chunks64 n (bs.drop 64)

/-- A chunk's code and payload (Table 16.5). -/
def chunkCode (c : List Byte) : Nat × List Byte :=
  let w := c.take 4
  if c.all (· == 0) then (0, [])
  else if c == (List.replicate 16 w).flatten then (1, w)
  else (2, c)

/-- Four 2-bit codes to a byte. -/
def codeMap : Nat → List Nat → List Byte
  | 0, _ => []
  | n + 1, cs => BitVec.ofNat 8 (cs.getD 0 0 + 4 * cs.getD 1 0 + 16 * cs.getD 2 0 + 64 * cs.getD 3 0) :: codeMap n (cs.drop 4)

/-- The stored form of an image (Table 16.4). -/
def storedForm (image : List Byte) : List Byte :=
  let raw := pad64 image
  let n := raw.length / 64
  let cs := (chunks64 n raw).map chunkCode
  let rest := codeMap ((n + 3) / 4) (cs.map (·.1)) ++ cs.flatMap (·.2)
  natBytes 4 0x4D49545A ++ natBytes 2 1 ++ natBytes 2 1 ++ natBytes 4 raw.length ++ natBytes 4 (64 + rest.length) ++ natBytes 4 (crc32c rest) ++
    natBytes 44 0 ++ rest

/-- The chunks that a map and payloads name; none for a code of 3 or payloads that end early; with what is left of the payloads. -/
def unchunk (codes : List Nat) (pay : List Byte) : Option (List Byte × List Byte) :=
  codes.foldl (fun (acc : Option (List Byte × List Byte)) c =>
    acc.bind (fun (out, pay) =>
      match c with
      | 0 => some (out ++ List.replicate 64 0, pay)
      | 1 => if pay.length < 4 then none else some (out ++ (List.replicate 16 (pay.take 4)).flatten, pay.drop 4)
      | 2 => if pay.length < 64 then none else some (out ++ pay.take 64, pay.drop 64)
      | _ => none)) (some ([], pay))

/-- The image of a stored form, or the code and the byte offset of the first check that fails (R318, Table 21.6). -/
def unstore (bs : List Byte) : Except (Nat × Nat) (List Byte) :=
  let raw := fieldAt bs 8 4
  let len := fieldAt bs 12 4
  if fieldAt bs 0 4 != 0x4D49545A then .error (0x01, 0)
  else if fieldAt bs 4 2 != 1 then .error (0x01, 4)
  else if fieldAt bs 6 2 != 1 then .error (0x01, 6)
  else if raw % 64 != 0 || raw < 128 then .error (0x01, 8)
  else
    let n := raw / 64
    let map := (n + 3) / 4
    if len < 64 + map || bs.length < len then .error (0x02, 12)
    else
      let codes := (List.range n).map (fun i => (bs.getD (64 + i / 4) 0).toNat / 4 ^ (i % 4) % 4)
      match unchunk codes ((bs.take len).drop (64 + map)) with
      | some (out, []) => if crc32c ((bs.take len).drop 64) != fieldAt bs 16 4 then .error (0x03, 16) else .ok out
      | _ => .error (0x02, 64)

/-! ### The pending section (R398) -/

/-- The class and number of a destination (Table 21.5). -/
def destCode : Dest → Nat
  | .vec n => n
  | .scal n => 2 ^ 12 + n
  | .mask k => 2 * 2 ^ 12 + k
  | .none => 0

/-- The place of a region among those in flight. -/
def Team.regionIdx (t : Team) (id : Nat) : Nat := (t.regions.takeWhile (fun r => r.id != id)).length

/-- An entry's 16-byte header and what follows it. -/
def pendEntry (type : Nat) (pc : DWord) (body : List Byte) : List Byte :=
  natBytes 2 type ++ natBytes 2 0 ++ natBytes 4 (16 + body.length) ++ natBytes 8 pc.toNat ++ body

/-- Type 1: a pending long-latency write. -/
def Team.pendWrite (t : Team) (region : Nat) (pc : DWord) (d : Dest) (lanes : Mask) : List Byte :=
  pendEntry 1 pc (natBytes 2 (destCode d) ++ natBytes 1 (t.regionIdx region) ++ natBytes 5 0 ++ t.maskBytes lanes)

/-- The lanes and destination that an access still has to write. -/
def Access.awaits (a : Access) : Option (Dest × Mask) :=
  let open_ := maskOfList ((a.lanes.filter (·.st.unfinished)).map (·.lane))
  match a.kind with
  | .load _ _ _ _ _ _ d _ => some (d, open_)
  | .gqry d => some (d, open_)
  | .ldf _ _ _ _ base _ _ _ _ => some (.vec base, open_)
  | _ => none

/-- The target, byte mask, data and kind of a held entry (Table 21.5). -/
def EntryKind.pending (k : EntryKind) : Nat × Nat × Nat × Nat × List Byte :=
  match k with
  | .store sp line parts _ _ =>
    (spaceCode sp, 1, 64 * line, parts.foldl (fun acc p => (List.range p.data.length).foldl (fun acc i => acc ||| 2 ^ (p.off + i)) acc) 0,
      applyParts parts (List.replicate 64 0))
  | .atom sp line _ _ width lanes _ _ =>
    (spaceCode sp, 2, 64 * line,
      lanes.foldl (fun acc l => (List.range width).foldl (fun acc i => acc ||| 2 ^ (l.2.1 % 64 + i)) acc) 0,
      lanes.foldl (fun d l => patch d (l.2.1 % 64) (natBytes width l.2.2.toNat)) (List.replicate 64 0))
  | .fence _ _ _ => (0, 3, 0, 0, List.replicate 64 0)
  | .cell _ addr data => (0, 1, addr, 2 ^ 64 - 1, sliceBytes data 0 64)
  | .sinv sp off len => (spaceCode sp, 1, off, 0, sliceBytes (natBytes 8 len) 0 64)
  | .engine op => (0, 4, 0, 0, sliceBytes (natBytes 8 op) 0 64)
  | .plinit sp off _ _ _ _ => (spaceCode sp, 4, off, 0, List.replicate 64 0)
  | .plrel sp off q => (spaceCode sp, 4, off, 0, sliceBytes (natBytes 8 q) 0 64)
  | .binit sp off amt => (spaceCode sp, 4, off, 0, sliceBytes (natBytes 8 amt) 0 64)
  | .arrive sp off amt => (spaceCode sp, 4, off, 0, sliceBytes (natBytes 8 amt) 0 64)
  | .spawn r => (0, 4, 0, 0, sliceBytes r.image 0 64)
  | .launch addr => (0, 4, addr.toNat, 0, List.replicate 64 0)
  | .cont r => (0, 4, 0, 0, sliceBytes r.image 0 64)
  | .trace tag payload _ => (0, 4, 0, 0, sliceBytes (natBytes 2 tag.toNat ++ natBytes 4 payload.toNat) 0 64)

/-- Type 2: a held entry. -/
def Team.pendHeld (t : Team) (region : Nat) (e : Entry) : List Byte :=
  let (sp, k, target, mask, data) := e.kind.pending
  pendEntry 2 e.pc (natBytes 1 sp ++ natBytes 1 (t.regionIdx region) ++ natBytes 1 k ++ natBytes 5 0 ++ natBytes 8 target ++ natBytes 8 mask ++ data)

/-- Type 3: a staged tile, its version at the region's end. -/
def Team.pendTile (t : Team) (region q core : Nat) (v : List Word) : List Byte :=
  pendEntry 3 t.arch.pc (natBytes 1 q ++ natBytes 1 (t.regionIdx region) ++ natBytes 1 core ++ natBytes 5 0 ++
    (List.range 8192).flatMap (fun i => natBytes 4 (v.getD i 0).toNat))

/-- The state of a team at the end of a region. -/
def Team.archAfter (t : Team) (region : Nat) : Arch :=
  match (t.regions.dropWhile (fun r => r.id != region)).drop 1 with
  | r :: _ => r.ckpt
  | [] => t.arch

/-- The entries of one region. -/
def Team.pendRegion (t : Team) (r : Region) : List (List Byte) :=
  ((t.pend.filter (fun p => p.region == r.id && p.dest != .none)).map (fun p => t.pendWrite r.id p.pc p.dest p.lanes)) ++
    ((t.accs.filter (fun a => a.region == r.id)).filterMap (fun a => a.awaits.bind (fun x =>
      if x.2 = 0 then none else some (t.pendWrite r.id a.pc x.1 x.2)))) ++
    r.held.map (t.pendHeld r.id) ++
    r.tiles.map (fun q => t.pendTile r.id q t.loc.pkgCore ((t.archAfter r.id).tile q)) ++
    r.x2.map (fun x => t.pendTile r.id x.tile (t.loc.pkgCore + 1) x.value)

/-- The pending section: its count and length, then its entries, oldest region first. -/
def Team.pendingSection (t : Team) : List Byte :=
  let es := t.regions.flatMap t.pendRegion
  natBytes 8 es.length ++ natBytes 8 es.flatten.length ++ es.flatten

end Sys2Proof.Machine
end

