-- ==== Sys2Proof/Machine/Restore.lean ====
section
/-! DEFINITION. The checks of stored images, and what they give back: LOAD, and the restore of a saved block
(11_geodes_and_migration.md, R271–R273; 16_partitions_preemption_power.md, R316, R318; 21_debug_and_watchpoint.md, R399). -/

namespace Sys2Proof.Machine

/-! ### The header and the sections -/

/-- What a team image's header says (Table 11.9). -/
structure ImgHead where
  pc     : Nat
  tw     : Nat
  gw     : Nat
  regs   : Nat
  acc    : Nat
  depth  : Nat
  idx    : Nat
  sdepth : Nat
  ncont  : Nat
  neng   : Nat
deriving DecidableEq, Repr

def imgHead (b : List Byte) : ImgHead :=
  { pc := fieldAt b 0x10 8, tw := fieldAt b 0x18 2, gw := fieldAt b 0x1A 1, regs := fieldAt b 0x1E 2, acc := fieldAt b 0x20 1,
    depth := fieldAt b 0x21 1, idx := fieldAt b 0x22 2, sdepth := fieldAt b 0x24 2, ncont := fieldAt b 0x26 2, neng := fieldAt b 0x28 2 }

/-- Bytes of a control-stack entry. -/
def ImgHead.entry (h : ImgHead) : Nat := 32 + 4 * (h.tw / 8)

/-- Where the sections begin (Table 11.8). -/
def ImgHead.masksAt (_ : ImgHead) : Nat := 704
def ImgHead.stackAt (h : ImgHead) : Nat := h.masksAt + up64 (9 * (h.tw / 8))
def ImgHead.lineageAt (h : ImgHead) : Nat := h.stackAt + up64 (h.sdepth * h.entry)
def ImgHead.vecAt (h : ImgHead) : Nat := h.lineageAt + 128
def ImgHead.tilesAt (h : ImgHead) : Nat := h.vecAt + up64 (h.regs * h.tw * 4)
def ImgHead.scaleAt (h : ImgHead) : Nat := h.tilesAt + 32768 * h.acc
def ImgHead.engAt (h : ImgHead) : Nat := h.scaleAt + 2048
def ImgHead.contAt (h : ImgHead) : Nat := h.engAt + 320 * h.neng
def ImgHead.size (h : ImgHead) : Nat := h.contAt + up64 (96 * h.ncont)

/-- The control-stack entries of an image, from the bottom. -/
def ImgHead.entries (h : ImgHead) (b : List Byte) : List (List Byte) :=
  (List.range h.sdepth).map (fun i => sliceBytes b (h.stackAt + h.entry * i) h.entry)

/-- The top entry is a handler entry. -/
def ImgHead.handler (h : ImgHead) (b : List Byte) : Bool := ((h.entries b).getLast?.map (fun e => fieldAt e 0 1)) == some 3

/-- Bytes of a range are all 0. -/
def zeroAt (b : List Byte) (off n : Nat) : Bool := (sliceBytes b off n).all (· == 0)

/-- A word of an image has no bit outside a mask. -/
def within (b : List Byte) (off mask : Nat) : Bool := fieldAt b off 4 &&& (0xFFFFFFFF - mask) == 0

/-! ### The checks (Table 21.6) -/

/-- A check of an image: its code, the byte offset of the field that it reads, whether it passes. -/
abbrev Check := Nat × Nat × Bool

/-- The code and the offset of the first check that fails. -/
def failedCheck (cs : List Check) : Option (Nat × Nat) := (cs.find? (fun c => !c.2.2)).map (fun c => (c.1, c.2.1))

/-- What every image begins with (codes 0x04 to 0x06). -/
def frameChecks (b : List Byte) (kind size : Nat) : List Check :=
  [(0x04, 0, fieldAt b 0 4 == 0x4D49544A), (0x04, 4, fieldAt b 4 2 == 1), (0x04, 6, fieldAt b 6 2 == kind),
   (0x05, 8, fieldAt b 8 4 == size && size ≤ b.length), (0x06, 12, crc32c ((b.take size).drop 16) == fieldAt b 12 4)]

/-- Every reserved field of a team image is 0 (code 0x07): those of Tables 11.8, 11.9 and 11.12, and of the special registers it holds
(Tables 3.7, 6.3, 11.5, 18.1, 18.2). -/
def ImgHead.reserved (h : ImgHead) (b : List Byte) : List Check :=
  let n := h.tw / 8
  [(0x07, 0x2A, decide (fieldAt b 0x2A 2 < 4)), (0x07, 0x2C, zeroAt b 0x2C 4), (0x07, 0x40, zeroAt b 0x40 64),
   (0x07, 648, within b 648 0x1F1F), (0x07, 656, within b 656 0xC1FFFFFF), (0x07, 660, within b 660 0x1F0F)] ++
  (if h.handler b then [(0x07, 0x2B4, within b 0x2B4 0xFF), (0x07, 0x2B8, within b 0x2B8 7)] else [(0x07, 668, zeroAt b 668 36)]) ++
  [(0x07, h.masksAt + 9 * n, zeroAt b (h.masksAt + 9 * n) (up64 (9 * n) - 9 * n))] ++
  (h.entries b).mapIdx (fun i e => ((0x07, h.stackAt + h.entry * i, zeroAt e 1 3 && zeroAt e 0x18 8) : Check))

/-- TW, GW, REGS, ACC, SDEPTH and DEPTH keep Table 9.2's limits and the reservation (code 0x08): at most `tw` lanes, `regs` registers
and `acc` tiles, and SPILL `spill`. -/
def ImgHead.limits (h : ImgHead) (b : List Byte) (tw regs acc spill : Nat) : List Check :=
  [(0x08, 0x18, 16 ≤ h.tw && h.tw ≤ 1024 && h.tw ≤ tw && h.tw % max 1 h.gw == 0), (0x08, 0x1A, [16, 32, 64].contains h.gw),
   (0x08, 0x1E, h.regs % 16 == 0 && 16 ≤ h.regs && h.regs ≤ 1536 && h.regs ≤ regs), (0x08, 0x20, h.acc ≤ 32 && h.acc ≤ acc),
   (0x08, 0x21, decide (h.depth ≤ 16)), (0x08, 0x24, decide (h.sdepth ≤ 32 + spill + (if h.handler b then 1 else 0)))]

/-- One entry of the control stack is well formed (code 0x0A): its kind, the fields that Table 11.12 marks 0 for it, JPC and PPC, and no
exited lane in its masks; `top` says that it stands on top. -/
def ImgHead.entryOk (h : ImgHead) (exited : Nat) (top : Bool) (e : List Byte) : Bool :=
  let n := h.tw / 8
  let mask (i : Nat) : Nat := fieldAt e (32 + n * i) n
  match fieldAt e 0 1 with
  | 1 => zeroAt e 4 4 && zeroAt e 0x10 8 && zeroAt e 32 (4 * n)
  | 2 => fieldAt e 8 8 % 8 == 0 && fieldAt e 16 8 % 8 == 0 && (mask 1 != 0 || zeroAt e 16 8) && (List.range 4).all (fun i => mask i &&& exited == 0)
  | 3 => top && zeroAt e 4 20 && mask 2 == 0 && mask 3 == 0
  | _ => false

/-- The checks up to code 0x0B that a team image meets (R271, R399), under a reservation; `raw` is the stored header before it. -/
def ImgHead.checks (h : ImgHead) (raw b : List Byte) (tw regs acc spill : Nat) : List Check :=
  let exited := fieldAt b (h.masksAt + 8 * (h.tw / 8)) (h.tw / 8)
  let n := h.sdepth
  frameChecks b 1 h.size ++ [(0x07, 0, zeroAt raw 0x14 44)] ++ h.reserved b ++ h.limits b tw regs acc spill ++
    [(0x09, 0x10, h.pc % 8 == 0 && h.pc.testBit 63)] ++
    (h.entries b).mapIdx (fun i e => ((0x0A, h.stackAt + h.entry * i, h.entryOk exited (i + 1 == n) e) : Check))

/-- What may not differ from the frozen team's image (code 0x0C). -/
def ImgHead.same (h : ImgHead) (b own : List Byte) : Bool :=
  let o := imgHead own
  let n := h.tw / 8
  let cut (x : List Byte) (off n : Nat) : List Byte := sliceBytes x off n
  h.tw == o.tw && h.gw == o.gw && h.regs == o.regs && h.acc == o.acc && h.idx == o.idx && h.depth == o.depth && h.neng == o.neng &&
  h.ncont == o.ncont && cut b 0x30 16 == cut own 0x30 16 && cut b h.lineageAt 128 == cut own o.lineageAt 128 &&
  cut b (h.masksAt + 8 * n) n == cut own (o.masksAt + 8 * n) n && cut b (640 + 0x18) 4 == cut own (640 + 0x18) 4 &&
  cut b h.engAt (h.size - h.engAt) == cut own o.engAt (o.size - o.engAt)

/-- The reservation that a team's image must keep: its own allotment, and, in a block of the grid, the record's TW, ACC and SPILL. -/
def State.reserves (s : State) (t : Team) : Nat × Nat × Nat × Nat :=
  match t.kind, s.gridOf t with
  | .ordinary, some g => (g.lrec.tw, t.regs, g.lrec.acc, g.lrec.spill)
  | _, _ => (t.tw, t.regs, t.acc, 0)

/-- The checks of LOAD in order (R399). -/
def State.loadChecks (s : State) (t : Team) (raw b : List Byte) : List Check :=
  let h := imgHead b
  let (tw, regs, acc, spill) := s.reserves t
  h.checks raw b tw regs acc spill ++ [(0x0C, 0x18, h.same b (s.teamImage t)), (0x0D, 0, t.frozen && t.regions.isEmpty)]

/-! ### A team from its image -/

/-- The control-stack entry that an image gives, with what the model keeps beside a join entry taken from the one that stands at its
place. -/
def Team.readEntry (t : Team) (n : Nat) (e : List Byte) (old : Option StackEntry) (name : Nat) : StackEntry :=
  let mask (i : Nat) : Mask := BitVec.ofNat 1024 (fieldAt e (32 + n * i) n)
  if fieldAt e 0 1 = 2 then
    let j : JoinEntry := match old with
      | some (.join j) => j
      | _ => { name := name, jpc := 0, reconv := 0, pend := 0, ppc := 0, ej := 0, early := 0, count := 0, vFirst := 0, nv := 0 }
    let back := (t.returned.filter (fun r => r.entry == j.name)).length
    .join { j with jpc := BitVec.ofNat 64 (fieldAt e 8 8), ppc := BitVec.ofNat 64 (fieldAt e 16 8), count := fieldAt e 4 4 + back, reconv := mask 0,
                   pend := mask 1, ej := mask 2, early := mask 3 }
  else .call (BitVec.ofNat 64 (fieldAt e 8 8))

/-- The state that an image gives a team (R399). -/
def Team.readImage (t : Team) (b : List Byte) (name : Nat) : Arch :=
  let h := imgHead b
  let a := t.arch
  let n := h.tw / 8
  let word (off : Nat) : Word := BitVec.ofNat 32 (fieldAt b off 4)
  let mask (i : Nat) : Mask := BitVec.ofNat 1024 (fieldAt b (h.masksAt + n * i) n)
  let sp := 640
  let es := (h.entries b).filter (fun e => fieldAt e 0 1 != 3)
  let olds := a.stack.reverse
  let top := (h.entries b).getLast?.getD []
  let hm (i : Nat) : Mask := BitVec.ofNat 1024 (fieldAt top (32 + n * i) n)
  { a with
    pc := BitVec.ofNat 64 h.pc
    s := (List.range 128).map (fun i => word (128 + 4 * i))
    x := (List.range 4).map (fun i => BitVec.ofNat 16 (fieldAt b (sp + 2 * i) 2))
    flags := word (sp + 8), uninitcnt := word (sp + 12), uninitaddr := word (sp + 16), gdetail := word (sp + 20)
    k := 0 :: (List.range 7).map mask
    live := mask 7 &&& ~~~a.exited
    stack := (es.mapIdx (fun i e => t.readEntry n e olds[i]? (name + i))).reverse
    v := (List.range h.regs).map (fun r => (List.range h.tw).map (fun l => word (h.vecAt + 4 * (r * h.tw + l))))
    tiles := (List.range h.acc).map (fun q => (List.range 8192).map (fun i => word (h.tilesAt + 32768 * q + 4 * i)))
    esc := (List.range 8).map (fun e => sliceBytes b (h.scaleAt + 256 * e) 256)
    inHandler := h.handler b
    tvec := if h.handler b then BitVec.ofNat 64 (fieldAt b (sp + 0x1C) 8 / 8 * 8) else a.tvec
    bank := if h.handler b then
        { epc := BitVec.ofNat 64 (fieldAt b (sp + 0x24) 8), eaddr := BitVec.ofNat 64 (fieldAt b (sp + 0x2C) 8), ecause := word (sp + 0x34),
          estat := word (sp + 0x38), einfo := word (sp + 0x3C), elive := hm 0, emask := hm 1 }
      else a.bank
    waitFrom := none, spawned := false }

/-! ### The place of a saved block (R311, R316) -/

/-- Puts a range of bytes in its place among ranges. -/
def insertRange (x : Nat × Nat) : List (Nat × Nat) → List (Nat × Nat)
  | [] => [x]
  | y :: rest => if x.1 ≤ y.1 then x :: y :: rest else y :: insertRange x rest

/-- The lowest free bytes between two addresses, beside ranges in rising order, as many as are needed and there. -/
def freeRanges (lo hi need : Nat) : List (Nat × Nat) → List (Nat × Nat)
  | [] => if need = 0 || hi ≤ lo then [] else [(lo, min need (hi - lo))]
  | (a, n) :: rest =>
    let k := min need (a - lo)
    (if k = 0 then [] else [(lo, k)]) ++ freeRanges (max lo (a + n)) hi (need - k) rest

/-- The ranges of a partition's save area that hold images. -/
def State.savedRanges (s : State) (p : Nat) : List (Nat × Nat) :=
  let mine (grid : Nat) : Bool := ((s.grid? grid).map (·.tenant)) == some p
  ((s.blocks.filter (fun b => mine b.grid)).flatMap (·.place) ++ (s.spans.filter (fun x => mine x.grid)).flatMap (·.place)).foldl
    (fun acc x => insertRange x acc) []

/-- Where bytes of a partition go in its save area. -/
def State.savePlace (s : State) (p n : Nat) : List (Nat × Nat) :=
  freeRanges (s.saveBase p) (s.saveBase p + s.saveSize p) n (s.savedRanges p)

/-- Device memory with bytes written over ranges, in order. -/
def Memory.spread (m : Memory) (bs : List Byte) : List (Nat × Nat) → Memory
  | [] => m
  | (a, n) :: rest => (m.put a (bs.take n)).spread (bs.drop n) rest

/-- The bytes that ranges of device memory hold. -/
def Memory.gather (m : Memory) (rs : List (Nat × Nat)) : List Byte := rs.flatMap (fun r => m.bytes r.1 r.2)

/-! ### A block from its image -/

/-- The bytes of a page list's pages. -/
def pageEntry : Nat := 4232

/-- The pages that a page list of a saved allocation has. -/
def Scratch.pageNumbers (c : Scratch) : List Nat := (c.valid.map (· / 1024)).eraseDups

/-- An allocation's contents from its page list; `none` when the list does not have the allocation's pages in order. -/
def Scratch.readPages (c : Scratch) (b : List Byte) (off : Nat) : Option Scratch :=
  let ps := c.pageNumbers
  let at_ (i : Nat) : Nat := off + pageEntry * i
  if (List.range ps.length).map (fun i => fieldAt b (at_ i) 8) == ps then
    some ((List.range ps.length).foldl (fun (acc : Scratch) i =>
      let p := ps.getD i 0
      let bits := fieldAt b (at_ i + 8) 128
      { acc with mem := acc.mem.put (4096 * p) (sliceBytes b (at_ i + 136) 4096)
                 valid := acc.valid ++ ((List.range 1024).filter (fun k => bits.testBit k)).map (1024 * p + ·) })
      { c with mem := [], valid := [] })
  else none

/-- Where the sections of a saved block's image begin: gour actions, pages, team images. -/
def Block.actsAt (b : Block) : Nat := 128 + up64 (16 * b.teamSeed.length) + 64
def Block.pagesAt (b : Block) : Nat := b.actsAt + up64 (32 * (b.gours.map (·.2.length)).foldl (· + ·) 0)
def Block.pageCounts (b : Block) : List Nat := (b.pockets ++ [b.chamber]).map (·.pageNumbers.length)
def Block.imagesAt (b : Block) : Nat := b.pagesAt + up64 (pageEntry * b.pageCounts.foldl (· + ·) 0)

/-- An entry of the team table: index, core role, offset, length. -/
def tableEntry (img : List Byte) (i : Nat) : Nat × Nat × Nat × Nat :=
  (fieldAt img (128 + 16 * i) 2, fieldAt img (130 + 16 * i) 2, fieldAt img (132 + 16 * i) 4, fieldAt img (136 + 16 * i) 8)

/-- The allocations of a saved block, leader's pocket, follower's, chamber, from its image. -/
def Block.readScratch (b : Block) (img : List Byte) : List (Option Scratch) :=
  (b.pockets ++ [b.chamber]).mapIdx (fun i c =>
    c.readPages img (b.pagesAt + pageEntry * ((b.pageCounts.take i).foldl (· + ·) 0)))

/-- The checks of a saved block's image, and of its teams' (R272, R399). -/
def State.blockChecks (s : State) (b : Block) (raw img : List Byte) : List Check :=
  let n := b.teamSeed.length
  let last := (List.range n).foldl (fun at_ i => at_ + (tableEntry img i).2.2.2) b.imagesAt
  let starts := (List.range n).map (fun i => (List.range i).foldl (fun at_ j => at_ + (tableEntry img j).2.2.2) b.imagesAt)
  frameChecks img 2 last ++
    [(0x07, 0, zeroAt raw 0x14 44), (0x07, 0x22, zeroAt img 0x22 6), (0x07, 0x30, zeroAt img 0x30 80),
     (0x08, 0x10, fieldAt img 0x10 4 == n && n ≤ 16), (0x08, 0x18, fieldAt img 0x18 4 ≤ 393216), (0x08, 0x1C, fieldAt img 0x1C 4 ≤ 2097152)] ++
    (b.teamSeed.mapIdx (fun i t => ((0x0B, 128 + 16 * i, tableEntry img i == (t.idx, t.loc.core, starts.getD i 0, (tableEntry img i).2.2.2)) : Check))) ++
    ((List.range 4).map (fun i =>
      let x := b.barb.getD i BarInst.closed
      ((0x0B, b.actsAt - 64 + 16 * i, fieldAt img (b.actsAt - 64 + 16 * i) 4 == (if x.isOpen then 1 else 0) &&
        fieldAt img (b.actsAt - 60 + 16 * i) 4 == x.mask.toNat) : Check))) ++
    [(0x0B, b.pagesAt, (b.readScratch img).all (·.isSome))] ++
    (b.teamSeed.mapIdx (fun i t =>
      let at_ := starts.getD i 0
      let own := sliceBytes img at_ (tableEntry img i).2.2.2
      let (tw, regs, acc, spill) := s.reserves t
      ((imgHead own).checks [] own tw regs acc spill).map (fun c => (c.1, at_ + c.2.1, c.2.2)))).flatten

/-- The decoded image of a saved block, or the code and offset at which its restore rejects it (R318). -/
def State.savedImage (s : State) (b : Block) : Except (Nat × Nat) (List Byte) :=
  let raw := s.mem.gather b.place
  match unstore raw with
  | .error x => .error x
  | .ok img => match failedCheck (s.blockChecks b raw img) with
    | some x => .error x
    | none => .ok img

/-- The teams and allocations of a saved block from its image (R273, R320). -/
def Block.readBack (b : Block) (img : List Byte) (name : Nat) : Block :=
  let cs := b.readScratch img
  let get (i : Nat) (old : Scratch) : Scratch := (cs.getD i none).getD old
  { b with
    teamSeed := b.teamSeed.mapIdx (fun i t => { t with arch := t.readImage (sliceBytes img (tableEntry img i).2.2.1 (tableEntry img i).2.2.2) name })
    pockets := b.pockets.mapIdx get, chamber := get 2 b.chamber }

/-- A restore rejects an image: the grid ends ABORTED with cause 0x50, and the reason is logged (R318, R399). -/
def State.rejectImage (s : State) (grid : Nat) (x : Nat × Nat) : State :=
  let tag := ((s.grid? grid).map (·.lrec.gridtag)).getD 0
  { s with log := s.log ++ [LogEnt.imageRejected tag x.1 x.2] }.abortGrid grid 0 .preempt

end Sys2Proof.Machine
end

