-- ==== Sys2Proof/Machine/Launch.lean ====
section
/-! DEFINITION. Launch records and their checks, and the placing of blocks (09_execution_and_scheduling.md, R213–R219;
15_translation_and_host.md, R290; 18_traps_faults_redundancy.md, R364). -/

namespace Sys2Proof.Machine

/-! ### The record (Table 9.2) -/

/-- The fields of 128 bytes. -/
def recordOf (bs : List Byte) : LaunchRec :=
  { entry := BitVec.ofNat 64 (fieldAt bs 0 8), args := BitVec.ofNat 64 (fieldAt bs 8 8), compaddr := BitVec.ofNat 64 (fieldAt bs 0x10 8),
    compval := BitVec.ofNat 64 (fieldAt bs 0x18 8), nblock := fieldAt bs 0x20 4, spanblk := fieldAt bs 0x24 4, tw := fieldAt bs 0x28 2,
    gw := fieldAt bs 0x2A 1, teams := fieldAt bs 0x2B 1, regs := fieldAt bs 0x2C 2, acc := fieldAt bs 0x2E 1, pocket := fieldAt bs 0x30 4,
    chamber := fieldAt bs 0x34 4, gallery := fieldAt bs 0x38 4, eject := fieldAt bs 0x3C 2, spill := fieldAt bs 0x3E 2,
    caps := fieldAt bs 0x40 2, prio := fieldAt bs 0x42 1, mode := BitVec.ofNat 8 (fieldAt bs 0x43 1), gridtag := BitVec.ofNat 64 (fieldAt bs 0x48 8) }

/-- Each field's own limit, with its offset: true when it is broken (Table 9.2, R215). -/
def ownLimits (bs : List Byte) (r : LaunchRec) : List (Nat × Bool) :=
  [(0x00, r.entry.toNat % 8 != 0), (0x10, r.compaddr.toNat % 16 != 0), (0x20, r.nblock == 0), (0x24, r.spanblk == 0),
   (0x28, r.tw < 16 || 1024 < r.tw), (0x2A, !([16, 32, 64].contains r.gw)), (0x2B, r.teams == 0 || 16 < r.teams),
   (0x2C, r.regs % 16 != 0 || r.regs < 16 || 1536 < r.regs), (0x2E, 32 < r.acc), (0x2F, fieldAt bs 0x2F 1 != 0),
   (0x30, r.pocket % 256 != 0 || 393216 < r.pocket), (0x34, r.chamber % 256 != 0 || 2097152 < r.chamber),
   (0x38, r.gallery % 4096 != 0 || 33554432 < r.gallery), (0x3E, r.spill % 32 != 0 || 992 < r.spill),
   (0x40, r.caps % 2 == 0 || 8 ≤ r.caps), (0x42, 7 < r.prio), (0x43, (r.mode.getLsbD 1 && r.mode.getLsbD 2) || r.place == 3),
   (0x44, fieldAt bs 0x44 4 != 0), (0x50, fieldAt bs 0x50 48 != 0)]

/-- The limits that relate two fields (R215). -/
def pairLimits (r : LaunchRec) : List (Nat × Bool) :=
  [(0x24, r.nblock < r.spanblk), (0x28, r.tw % max 1 r.gw != 0), (0x3C, r.tw < r.eject)]

/-- The offset that BAD_RECORD names. -/
def badField (bs : List Byte) (r : LaunchRec) : Option Nat := ((ownLimits bs r ++ pairLimits r).find? (·.2)).map (·.1)

/-- Die spans of a grid (R214). -/
def LaunchRec.nspan (r : LaunchRec) : Nat := (r.nblock + r.spanblk - 1) / max 1 r.spanblk

def LaunchRec.redundant (r : LaunchRec) : Bool := r.mode.getLsbD 0
def LaunchRec.spanGang (r : LaunchRec) : Bool := r.mode.getLsbD 3
def LaunchRec.gridGang (r : LaunchRec) : Bool := r.mode.getLsbD 4

/-! ### Placing one block, or a pair of copies -/

/-- Clusters that a block may take, the lists to be tried in order: for a move, those that it is for (R269, R274). -/
def State.homesOf (s : State) (b : Block) (g : Grid) (sp : Span) : List (List (Nat × Nat)) :=
  let all (b : Block) : List (Nat × Nat) := allClusters.filter (fun c => s.mayTake b g sp c.1 c.2)
  match b.move with
  | 0 => [all b]
  | 1 => [all { b with migrated := true }]
  | n =>
    let free : Block := { b with migrated := false, caps := 0 }
    let want (c : Nat × Nat) : Bool := if n = 2 then b.req == some c.1 else !isColumn c.1
    [(all free).filter (fun c => want c && !isColumn c.1) ++ (all b).filter (fun c => want c && isColumn c.1), all b]

/-- Two places of one die in different zones, for the copies of a pair; or one place. -/
structure Spot where
  first  : Nat × Nat × List Loc
  second : Option (Nat × Nat × List Loc)

/-- Where the teams of a block go on a cluster that it fits: a saved evaluator's or task's on its core role (R218, R268). -/
def State.fitsAt (s : State) (b : Block) (c : Nat × Nat) : Option (List Loc) :=
  let n := s.blockNeeds b
  if b.kind = .ordinary then s.fits n c.1 c.2
  else (s.guestBack c.1 c.2 ((b.teamSeed.head?.map (·.loc.core)).getD 0) ((n.teams.map (fun x => x.2.1 * x.2.2.1)).foldl (· + ·) 0)).map (fun l => [l])

/-- Where a block goes among some clusters (R218, R364). -/
def State.spotAmong (s : State) (b : Block) (m : Option Block) (g : Grid) (home : Option Nat) (cs : List (Nat × Nat)) : Option Spot :=
  let best (b : Block) (cs : List (Nat × Nat)) : Option (Nat × Nat × List Loc) := s.bestCluster (s.fitsAt b) g.lrec.place home cs
  match m with
  | none => (best b cs).map (fun x => { first := x, second := none })
  | some m =>
    let others (c : Nat × Nat) : List (Nat × Nat) := cs.filter (fun d => d.1 == c.1 && d != c)
    match best b (cs.filter (fun c => (best m (others c)).isSome)) with
    | none => none
    | some x => (best m (others (x.1, x.2.1))).map (fun y => { first := x, second := some y })

/-- The save bound of a block to be placed (R311). -/
def State.boundOf (s : State) (b : Block) (g : Grid) (sp : Span) : Nat :=
  saveBound (s.blockNeeds b) + if b.idx = sp.idx * g.lrec.spanblk && b.role != .trailing then spanBound g.lrec.gallery else 0

/-- What a team starts with (R216). -/
def LaunchRec.arch (r : LaunchRec) (block team span : Nat) : Arch :=
  Arch.start r.entry r.tw r.regs r.acc
    [r.args.setWidth 32, (r.args >>> 32).setWidth 32, BitVec.ofNat 32 block, BitVec.ofNat 32 team, BitVec.ofNat 32 r.nblock, BitVec.ofNat 32 span]
    (fun v l => if v = 0 then BitVec.ofNat 32 l else 0) (fullMask r.tw)

/-- A pending block takes a cluster: its scratch, its save place, its teams (R137, R216, R218, R311). -/
def State.beginBlock (s : State) (b : Block) (g : Grid) (sp : Span) (x : Nat × Nat × List Loc) : State :=
  let (chip, cluster, locs) := x
  let r := g.lrec
  let pocket (c : Nat) : Scratch := if locs.any (fun l => l.core == c) then Scratch.alloc r.pocket else Scratch.empty
  let bound := s.boundOf b g sp
  let s := if sp.die.isSome then s
    else
      let at_ := (s.galleryStart chip r.gallery).getD 0
      s.updSpan sp.uid (fun x => { x with die := some chip, gallery := some (Scratch.alloc r.gallery), start := at_ })
  let starts := s.startsOn chip cluster [(pocket 0).size, (pocket 1).size] r.chamber
  let id := s.freeBlockId chip cluster
  let s := s.updBlock b.uid (fun y => { y with
    state := .resident, chip := chip, cluster := cluster, age := s.tick, pockets := [pocket 0, pocket 1], chamber := Scratch.alloc r.chamber,
    starts := starts
    blockId := id, bound := bound })
  (locs.zip (List.range locs.length)).foldl (fun s x =>
    let (u, s) := s.fresh
    let t := Team.start u .ordinary x.1 g.uid b.uid x.2 r.tw r.gw r.regs r.acc s.tick r.prio (r.arch b.idx x.2 sp.idx)
    s.startTeam { t with role := b.role }) s

/-- The gallery that a span image gives back, where the span's is out; or the code and offset at which its restore rejects it (R316,
R318). -/
def State.savedGallery (s : State) (sp : Span) : Except (Nat × Nat) (Option Scratch) :=
  match sp.out, sp.gallery with
  | true, some c => match unstore (s.mem.gather sp.place) with
    | .error x => .error x
    | .ok img => match c.readPages img 0 with
      | some c => .ok (some c)
      | none => .error (0x0B, 0)
  | _, _ => .ok sp.gallery

/-- The teams of a restored block go on from what their image gave, and from barriers that ended meanwhile (R242, R269, R270, R273). -/
def State.resumeTeams (s : State) (b : Block) (locs : List Loc) : State :=
  let s := (b.teamSeed.zip locs).foldl (fun s x =>
    let l := x.2
    let gen := ((s.core l.pkgCore).gens.getD l.coreSlot 0) + 1
    let again (e : Entry) : Entry := match e.kind with
      | .cont r => { e with kind := .cont { r with core := l.pkgCore, slot := l.coreSlot, gen := gen } }
      | _ => e
    let need := x.1.tw * x.1.regs
    let lent := if b.kind = .ordinary then x.1.borrowed else if need ≤ s.lanesFree l.pkgCore l.part then 0 else need
    let t : Team := { x.1 with loc := l, age := s.tick, waitSlots := 0, relq := x.1.relq.map again, borrowed := lent }
    let s := s.addTeam t
    match t.cell, t.ticket with
    | some c, some k => if s.formingUnder c k then { s with mem := s.mem.put (64 * c + 0x1C) (natBytes 4 (l.pkgCore + 64 * l.coreSlot)) } else s
    | _, _ => s) s
  b.released.foldl State.endBarrier s

/-- A saved block takes a cluster: its image, and its span's, are read back from the save area, and its teams go on; an image that fails a
check ends the grid (R269, R273, R318, R320). -/
def State.restoreBlock (s : State) (b : Block) (sp : Span) (x : Nat × Nat × List Loc) : State :=
  let (chip, cluster, locs) := x
  if ((s.grid? b.grid).bind (·.status)).isSome then s
  else match s.savedImage b, s.savedGallery sp with
    | .error e, _ => s.rejectImage b.grid e
    | _, .error e => s.rejectImage b.grid e
    | .ok img, .ok gallery =>
      let b := b.readBack img s.nextUid
      let id := s.freeBlockId chip cluster
      let back := 2 ≤ b.move && !isColumn chip
      let at_ := if sp.out then (s.galleryStart (sp.die.getD chip) ((gallery.map (·.size)).getD 0)).getD 0 else sp.start
      let starts := s.startsOn chip cluster (b.pockets.map (·.size)) b.chamber.size
      let s := s.updSpan sp.uid (fun x => { x with out := false, place := [], gallery := gallery, start := at_ })
      let s := s.updBlock b.uid (fun y => { y with
        state := .resident, chip := chip, cluster := cluster, age := s.tick, blockId := id, teamSeed := [], pockets := b.pockets,
        chamber := b.chamber, starts := starts, place := [], restoredT := some s.tick, move := 0, req := if 2 ≤ b.move then none else y.req, released := [], claim := none,
        migrated := if back then false else y.migrated || b.move == 1, caps := if back then 0 else y.caps })
      let s : State := { s with ops := s.ops.map (fun (o : EngOp) => if o.block = b.uid ∧ o.state != .finished then { o with die := chip } else o) }
      s.resumeTeams b locs

/-- The copies' teams name each other (R364). -/
def State.pairUp (s : State) (b m : Nat) : State :=
  let other (k : Nat) (t : Team) : Nat := ((s.teams.find? (fun u => u.block == k && u.idx == t.idx)).map (·.uid)).getD 0
  { s with teams := s.teams.map (fun t => if t.block = b then { t with mate := other m t } else if t.block = m then { t with mate := other b t } else t) }

/-- A block that waits for a cluster. -/
def emptyBlock (uid grid span idx prio : Nat) (role : Role) (mate : Nat) : Block :=
  { uid := uid, grid := grid, span := span, idx := idx, kind := .ordinary, role := role, mate := mate, state := .pending, chip := 0, cluster := 0,
    age := 0, prio := prio, caps := 0, teamSeed := [], pockets := [Scratch.empty, Scratch.empty], chamber := Scratch.empty,
    starts := [0, 0, 0]
    barb := List.replicate 4 BarInst.closed, gours := [], exitedT := [], blockId := 0, bound := 0, place := [], migrated := false, pin := false, req := none,
    move := 0, restoredT := none, released := [], claim := none }

/-- The next block of a die span becomes pending; a redundant grid's with its other copy. The blocks after it follow in turn: within
a die span they take clusters in the order of their indices (R219). -/
def State.nextBlock (s : State) (g : Grid) (sp : Span) (idx : Nat) : State :=
  if sp.idx * g.lrec.spanblk + g.lrec.spanBlocks sp.idx ≤ idx then s
  else
    let (b, s) := s.fresh
    if !g.lrec.redundant then { s with blocks := s.blocks ++ [emptyBlock b g.uid sp.uid idx g.lrec.prio .single 0] }
    else
      let (m, s) := s.fresh
      { s with blocks := s.blocks ++ [emptyBlock b g.uid sp.uid idx g.lrec.prio .leading m, emptyBlock m g.uid sp.uid idx g.lrec.prio .trailing b] }

/-- Places a pending or saved block, with its other copy, on a cluster that is not banned; `none` when it fits none (R218, R311). -/
def State.placeOne (s : State) (b : Block) (banned : List (Nat × Nat)) : Option State :=
  match s.grid? b.grid, s.span? b.span with
  | some g, some sp =>
    let m := if b.role = .single then none else s.block? b.mate
    let fresh := b.state == BlockState.pending
    let room := !fresh || s.saveRoom g.tenant (s.boundOf b g sp + (match m with
      | some m => s.boundOf m g sp
      | none => 0))
    if !room then none
    else
      let home := if fresh then none else sp.die
      match (s.homesOf b g sp).findSome? (fun cs => s.spotAmong b m g home (cs.filter (fun c => !banned.contains c))) with
      | none => none
      | some x =>
        if fresh then
          let s := s.beginBlock b g sp x.first
          let s := match m, x.second, s.span? b.span with
            | some m, some y, some sp => (s.beginBlock m g sp y).pairUp b.uid m.uid
            | _, _, _ => s
          some (s.nextBlock g sp (b.idx + 1))
        else
          let s := s.restoreBlock b sp x.first
          some (match m, x.second with
            | some m, some y => s.restoreBlock m sp y
            | _, _ => s)
  | _, _ => none

/-! ### Gangs (R219) -/

/-- Places blocks of a die span until none is pending, at most n. -/
def State.placeSpan (s : State) (span : Nat) (banned : List (Nat × Nat)) : Nat → Option State
  | 0 => some s
  | n + 1 => match s.blocks.find? (fun b => b.span == span && b.state == BlockState.pending && b.role != .trailing) with
    | none => some s
    | some b => (s.placeOne b banned).bind (fun s => s.placeSpan span banned n)

/-- Places all blocks of a die span, on the die that its first block chooses, or else on the first other that takes them all. -/
def State.placeWhole (s : State) (g : Grid) (sp : Span) (banned : List (Nat × Nat)) : Option State :=
  let n := g.lrec.spanBlocks sp.idx
  let only (d : Nat) : List (Nat × Nat) := banned ++ allClusters.filter (fun c => c.1 != d)
  match s.placeSpan sp.uid banned n with
  | some s => some s
  | none => if sp.die.isSome then none else (List.range 8).findSome? (fun d => s.placeSpan sp.uid (only d) n)

/-- Places a block with all that its gang mode puts in one step with it. -/
def State.tryPlace (s : State) (b : Block) (banned : List (Nat × Nat)) : Option State :=
  match s.grid? b.grid with
  | none => none
  | some g =>
    if b.state != BlockState.pending then s.placeOne b banned
    else if g.lrec.gridGang then
      (s.spans.filter (fun x => x.grid == g.uid)).foldl (fun (acc : Option State) x => acc.bind (fun s => s.placeWhole g x banned)) (some s)
    else if g.lrec.spanGang then (s.span? b.span).bind (fun sp => s.placeWhole g sp banned)
    else s.placeOne b banned

/-! ### The order of pending blocks (R219) -/

/-- A block that may be placed or restored now: its grid runs, its partition is not suspended, and under SERIAL the grid before it has
completed. -/
def State.waitsTurn (s : State) (b : Block) : Bool :=
  (b.state == BlockState.pending || b.state == BlockState.saved) && b.role != .trailing &&
  (b.role == .single || b.state == BlockState.pending || ((s.block? b.mate).map (fun m => m.state == BlockState.saved)).getD false) &&
  match s.grid? b.grid with
  | none => false
  | some g => g.status.isNone && !s.partSuspend g.tenant && (g.after.isNone || g.after.any (fun a => (s.grid? a).isNone))

/-- Higher priority first, then the older grid, then the lower block index. -/
def State.before (s : State) (a b : Block) : Bool :=
  let age (x : Block) : Nat := ((s.grid? x.grid).map (·.age)).getD 0
  b.prio < a.prio || (a.prio == b.prio && (age a < age b || (age a == age b && (a.idx < b.idx || (a.idx == b.idx && a.uid < b.uid)))))

/-- Puts a block in its place in the order. -/
def State.insertBlock (s : State) (b : Block) : List Block → List Block
  | [] => [b]
  | a :: rest => if s.before a b then a :: s.insertBlock b rest else b :: a :: rest

/-- The blocks of a partition that wait, in the order in which they are taken. -/
def State.waiting (s : State) (p : Nat) : List Block :=
  (s.blocks.filter (fun b => s.waitsTurn b && ((s.grid? b.grid).map (·.tenant)) == some p)).foldl (fun acc b => s.insertBlock b acc) []

/-- The clusters for which a waiting block is eligible, which no later block takes ahead of it. -/
def State.claims (s : State) (b : Block) : List (Nat × Nat) :=
  match s.grid? b.grid, s.span? b.span with
  | some g, some sp => allClusters.filter (fun c => s.eligible b g sp c.1 c.2)
  | _, _ => []

/-- Takes the waiting blocks in order until one can be placed; the state, when that one is b. -/
def State.turn (s : State) (b : Nat) : List Block → List (Nat × Nat) → Option State
  | [], _ => none
  | x :: rest, banned => match s.tryPlace x banned with
    | some s' => if x.uid = b then some s' else none
    | none => if x.uid = b then none else s.turn b rest (banned ++ s.claims x)

/-- A waiting block's turn comes: it is placed or restored. -/
def State.takeTurn (s : State) (b : Nat) (p : Block → Bool) : Option State :=
  match s.block? b with
  | none => none
  | some x => match s.grid? x.grid with
    | none => none
    | some g => if p x && s.waitsTurn x then s.turn b (s.waiting g.tenant) [] else none

/-- BLOCK_PLACE (R216, R218, R219). -/
def execBlockPlace (block : Nat) (s : State) : Host.Outcome State Fault Refusal :=
  match s.takeTurn block (fun b => b.state == BlockState.pending) with
  | some s => happened s
  | none => .next s

/-! ### Reading and checking a record -/

/-- Clusters that are present for a partition: disabled ones are reported absent (R373). -/
def State.presentFor (s : State) (p : Nat) (r : LaunchRec) : List (Nat × Nat) :=
  allClusters.filter (fun c => s.chipOk c.1 && s.inPart p c.1 c.2 && !s.clusterDisabled c.1 c.2 && (chipCaps c.1 &&& r.caps) == r.caps &&
    (r.place != 2 || isColumn c.1))

/-- The grid, its die spans and their first blocks (R214). -/
def State.install (s : State) (g : Grid) : State :=
  (List.range g.lrec.nspan).foldl (fun s i =>
    let (u, s) := s.fresh
    let sp : Span := { uid := u, grid := g.uid, idx := i, die := none, gallery := none, start := 0, blocks := 0, out := false, place := [], bard := List.replicate 2 BarInst.closed }
    { s with spans := s.spans ++ [sp] }.nextBlock g sp (i * g.lrec.spanblk)) { s with grids := s.grids ++ [g] }

/-- The status that ends a launch at once (R215): NO_CLUSTER, TOO_LARGE or SPAN_FIT. -/
def State.launchStatus (s : State) (g : Grid) : Option Nat :=
  let r := g.lrec
  let cs := s.presentFor g.tenant r
  let e := s.emptied
  let big := s.saveSize g.tenant < saveBound r.needs + spanBound r.gallery
  let fit := cs.filter (fun c => !big && (e.fits r.needs c.1 c.2).isSome)
  let dies := (fit.map (·.1)).eraseDups.filter (fun d => r.gallery ≤ gallerySize d)
  let whole : Bool := match (e.install g).spans.filter (fun x => x.grid == g.uid) with
    | [] => true
    | sp :: rest =>
      let e := e.install g
      if r.gridGang then ((sp :: rest).foldl (fun (acc : Option State) x => acc.bind (fun e => e.placeWhole g x [])) (some e)).isSome
      else if r.spanGang then (e.placeWhole g sp []).isSome
      else true
  if cs.isEmpty then some 2
  else if fit.isEmpty || (r.redundant && !fit.any (fun c => fit.any (fun d => d.1 == c.1 && d != c))) then some 3
  else if dies.length < r.nspan || !whole then some 4
  else none

/-- How a read by the dispatcher ends. -/
inductive DispRead where
  | bytes (bs : List Byte)
  | wait (page : Nat)
  | fail

/-- Reads 128 bytes as an acquire (R213, R247). -/
def State.readRecord (s : State) (asid va : Nat) : State × DispRead :=
  [va, va + 64].foldl (fun (acc : State × DispRead) a =>
    match acc with
    | (s, .bytes bs) =>
      match s.reached asid a with
      | (s, x) => match x.check .read false with
        | .ok h base _ _ _ =>
          if s.badData h base || s.tagAt h base != .value then (s, .fail)
          else (s, .bytes (bs ++ s.overlayPending .glob asid 0 a (s.lineBytes asid a h base 64)))
        | .absent => match s.startMiss asid a 0 0 with
          | (s, true) => (s, .wait (missPage a))
          | (s, false) => (s, .fail)
        | .remote d => match s.frame? asid a with
          | some f => (s.dropFrame asid a, .bytes (bs ++ f))
          | none =>
            let m := HostMsg.remoteRead d asid a 64
            (s.askLink (s.sliceDie a) asid 64 m, .wait 0)
        | .bad _ => (s, .fail)
    | r => r) (s, .bytes [])

/-- The dispatcher waits with a job for a page. -/
def State.awaitPage (s : State) (job : DispJob) (asid page : Nat) : State :=
  { s with waitPage := s.waitPage.filter (fun w => w.job != job) ++ [{ job := job, asid := asid, page := page, va := 0, part := 0, old := false }] }

/-- The dispatcher waits with the read of a record. -/
def State.awaitRead (s : State) (w : DispWait) (page : Nat) : State :=
  { s with waitPage := s.waitPage.filter (fun x => x.job != w.job) ++ [{ w with page := page }] }

/-- The dispatcher's job is done. -/
def State.jobDone (s : State) (job : DispJob) : State := { s with waitPage := s.waitPage.filter (fun w => w.job != job) }

/-- A record that has been read is checked: its grid's blocks become pending, or it ends with a status (R215, R217). -/
def State.launch (s : State) (bs : List Byte) (g : Grid) : State :=
  let r := g.lrec
  match badField bs r with
  | some off =>
    let status : Word := BitVec.ofNat 32 (1 + 65536 * off)
    if r.compaddr.toNat % 16 != 0 then { s with log := s.log ++ [LogEnt.rejected r.gridtag status] }
    else { s with grids := s.grids ++ [{ g with status := some status }] }
  | none => match s.launchStatus g with
    | some c => { s with grids := s.grids ++ [{ g with status := some (BitVec.ofNat 32 c) }] }
    | none => s.install g

/-- A grid as its record gives it. -/
def newGrid (uid : Nat) (r : LaunchRec) (tenant func queue asid : Nat) (fromQ : Bool) (tick : Nat) (after : Option Nat) : Grid :=
  { uid := uid, lrec := r, tenant := tenant, func := func, queue := queue, asid := asid, fromQ := fromQ, age := tick, exited := 0, status := none,
    aborted := none, dump := .undecided, after := after, barg := BarInst.closed }

/-- The tenant partition of a queue's grids (R290). -/
def State.queueTenant (s : State) (f q : Nat) : Nat := if f = 0 then s.regField 0 (0x40 * q + 8) 8 3 else f - 1

/-- The read of a queue's record: the one that has begun, else the one at RIDX, through the queue's slot (R213). -/
def State.queueRead (s : State) (f q : Nat) : DispWait :=
  let off := 0x40 * q
  let job := DispJob.record (.queue f q)
  match s.waitPage.find? (fun w => w.job == job) with
  | some w => w
  | none => { job := job, asid := (s.ctx f q).asid, page := 0, part := s.queueTenant f q, old := false,
              va := s.reg64 f off / 128 * 128 + 128 * ((s.reg f (off + 0x10)).toNat % 2 ^ s.regField f (off + 8) 4 4) }

/-- The next record of a launch queue. A read that has begun goes on, whatever is written to the queue's registers meanwhile, and its grid is
launched; RIDX counts it unless the queue has been enabled anew since, which set the indices to 0 (R213, log 21). -/
def State.readQueue (s : State) (f q : Nat) : Host.Outcome State Fault Refusal :=
  let off := 0x40 * q
  let w := s.queueRead f q
  let begun := s.waitPage.any (fun x => x.job == w.job)
  if 9 ≤ f || 4 ≤ q then .next s
  else if !begun && (s.reg f (off + 0x0C) == s.reg f (off + 0x10) || s.regField f (off + 8) 0 1 = 0 || s.regField f (off + 8) 2 1 = 1) then .next s
  else match s.readRecord w.asid w.va with
    | (s, .wait page) => .next (s.awaitRead w page)
    | (s, .fail) => .next ((s.jobDone w.job).setField f (off + 8) 2 1 1)
    | (s, .bytes bs) =>
      let (u, s) := s.fresh
      let s := s.jobDone w.job
      let s := if w.old then s else s.setReg f (off + 0x10) (s.reg f (off + 0x10) + 1)
      let last := (s.grids.filter (fun g => g.fromQ && g.func == f && g.queue == q)).getLast?.map (·.uid)
      let after := if s.regField f (off + 8) 3 1 = 1 then last else none
      happened (s.launch bs (newGrid u (recordOf bs) w.part f q w.asid true s.tick after))

/-- The record of a released LAUNCH (R247). -/
def State.readRequest (s : State) (id : Nat) : Host.Outcome State Fault Refusal :=
  match s.launches.find? (fun r => r.id == id) with
  | none => .next s
  | some r =>
    let job := DispJob.record (.request id)
    let gone (s : State) : State := { (s.jobDone job) with launches := s.launches.filter (fun x => x.id != id) }
    match s.readRecord r.asid r.addr.toNat with
    | (s, .wait page) => .next (s.awaitPage job r.asid page)
    | (s, .fail) => .next (gone s)
    | (s, .bytes bs) =>
      let (u, s) := (gone s).fresh
      let rec_ := recordOf bs
      happened (s.launch bs (newGrid u { rec_ with prio := if 7 < rec_.prio then rec_.prio else min rec_.prio r.prio } r.tenant r.func r.queue r.asid false
        s.tick none))

/-- LAUNCH_RECORD_READ (R213, R215, R247). -/
def execLaunchRecordRead (src : LaunchSource) (s : State) : Host.Outcome State Fault Refusal :=
  match src with
  | .queue f q => s.readQueue f q
  | .request id => s.readRequest id

end Sys2Proof.Machine
end

