-- ==== Sys2Proof/Machine/Completion.lean ====
section
/-! DEFINITION. The end of a grid: what is left of it is cleared away and its completion record is written
(09_execution_and_scheduling.md, R217). -/

namespace Sys2Proof.Machine

/-- An unaborted grid has nothing left to do: every block has exited, its evaluators and task teams have, no record of it waits in a
bin, no cell that it opened waits for an evaluator, and every operation passed to blocks and spans has finished. -/
def State.gridDone (s : State) (g : Grid) : Bool :=
  g.exited == g.lrec.nblock && s.blocks.all (fun b => b.grid != g.uid || b.state == BlockState.exited) &&
  s.dies.all (fun d => d.bins.all (fun b => b.all (fun r => r.grid != g.uid))) &&
  s.memStacks.all (fun k => k.buffer.all (fun e => e.all (fun e => e.grid != g.uid))) &&
  s.ops.all (fun o => o.grid != g.uid || o.state == EngState.finished)

/-- The grid's completion record may be written: it is done, or it has ended, no save of it and no stop for its partition's end is in
progress, and its dump, if any, is over (R217, R308, R319, R374). -/
def State.mayComplete (s : State) (g : Grid) : Bool :=
  match g.status with
  | none => s.gridDone g
  | some _ =>
    (g.aborted.isNone || g.dump == DumpState.ended) &&
    s.blocks.all (fun b => b.grid != g.uid || (match b.state with
      | .saving _ => false
      | .stopping why _ => why != 3
      | _ => true))

/-- A grid leaves the machine with everything that is its own; a pending atomic of its teams is undone (R160). -/
def State.dropGrid (s : State) (gid : Nat) : State :=
  let us := (s.teams.filter (fun t => t.grid == gid)).map (·.uid)
  let s := (s.atoms.filter (fun x => us.contains x.team)).foldl (fun s x => s.undoAtom x) s
  { s with
    issue := s.issue.filter (fun u => !us.contains u)
    teams := s.teams.filter (fun t => t.grid != gid)
    blocks := s.blocks.filter (fun b => b.grid != gid)
    spans := s.spans.filter (fun x => x.grid != gid)
    ops := s.ops.filter (fun o => o.grid != gid)
    grids := s.grids.filter (fun g => g.uid != gid)
    dies := s.dies.map (fun (d : Die) => { d with bins := d.bins.map (fun b => b.filter (fun r => r.grid != gid)) })
    memStacks := s.memStacks.map (fun (k : Stack) => { k with buffer := k.buffer.map (fun e => e.filter (fun e => e.grid != gid)) })
    waitPage := s.waitPage.filter (fun w => w.job != .completion gid) }

/-- The 16 bytes of a completion record (R217). -/
def Grid.record (g : Grid) : List Byte := natBytes 8 g.lrec.compval.toNat ++ natBytes 4 (g.status.getD 0).toNat ++ natBytes 4 0

/-- Every outbound buffer drains, ahead of a release of scope `.sys`. -/
def State.drainPackage (s : State) : State := (List.range 64).foldl (fun s c => s.drainAll c) s

/-- COMPLETION_RECORD (R217). -/
def execCompletionRecord (grid : Nat) (s : State) : Host.Outcome State Fault Refusal :=
  match s.grid? grid with
  | none => .next s
  | some g =>
    let va := g.lrec.compaddr.toNat
    if !s.mayComplete g then .next s
    else if va = 0 then happened (s.dropGrid grid)
    else
      let lost (s : State) : State := { s with log := s.log ++ [LogEnt.compFault g.lrec.gridtag] }.dropGrid grid
      match s.drainPackage.translate g.asid va with
      | (s, x) => match x.check .write false with
        | .ok h base _ _ pr =>
          if s.tagAt h base != .value then happened (lost s)
          else if s.pendingAt .glob g.asid 0 va 16 then .next s
          else happened ((((s.unmark h base 16).sliceWrite g.asid va h base pr g.record).cleanSlices (fun l => l.asid == g.asid)).dropGrid grid)
        | .absent => match s.startMiss g.asid va 1 g.lrec.gridtag with
          | (s, true) => .next (s.awaitPage (.completion grid) g.asid (missPage va))
          | (s, false) => happened (lost s)
        | .remote d => happened ((s.sendLink (s.sliceDie va) g.asid 16 (.remoteWrite d g.asid va g.record)).dropGrid grid)
        | .bad _ => happened (lost s)

end Sys2Proof.Machine
end

