-- ==== Sys2Proof/Machine/Stop.lean ====
section
/-! DEFINITION. Pre-emption and migration from the stop on: whom a pending block stops, the acknowledgements, the save, the return to a
cluster (16_partitions_preemption_power.md, R311–R321; 11_geodes_and_migration.md, R269, R270). -/

namespace Sys2Proof.Machine

/-! ### PREEMPT -/

/-- The ticks after a restore in which a block is no victim (R313). -/
def immuneTicks : Nat := 1048576

/-- The machine as if some blocks had left their clusters. -/
def State.without (s : State) (bs : List Nat) : State :=
  { s with teams := s.teams.filter (fun t => !bs.contains t.block), blocks := s.blocks.filter (fun b => !bs.contains b.uid) }

/-- Blocks whose stop or save is under way: a request that needs their clusters waits for them (R319). -/
def State.leaving (s : State) : List Nat :=
  (s.blocks.filter (fun b => match b.state with
    | .stopping _ _ => true
    | .saving _ => true
    | _ => false)).map (·.uid)

/-- A block that a pending block of priority q may stop (R313). -/
def State.mayStop (s : State) (q : Nat) (b : Block) : Bool :=
  b.kind == .ordinary && b.state == BlockState.resident && b.prio < q && (match b.restoredT with
    | some t => t + immuneTicks ≤ s.tick
    | none => true)

/-- The order in which victims are taken: lowest priority first, youngest first. -/
def Block.sooner (a b : Block) : Bool := a.prio < b.prio || (a.prio == b.prio && b.age < a.age)

/-- Puts a block in its place among victims. -/
def insertVictim (b : Block) : List Block → List Block
  | [] => [b]
  | a :: rest => if a.sooner b then a :: insertVictim b rest else b :: a :: rest

/-- The possible victims on some clusters, in order. -/
def State.victimsOn (s : State) (q : Nat) (cs : List (Nat × Nat)) : List Block :=
  (s.blocks.filter (fun b => s.mayStop q b && cs.contains (b.chip, b.cluster))).foldl (fun acc b => insertVictim b acc) []

/-- A block, with its other copy, fits some clusters of one candidate. -/
def State.fitsOn (s : State) (b : Block) (m : Option Block) : List (Nat × Nat) → Bool
  | [c] => m.isNone && (s.fitsAt b c).isSome
  | [c, d] => (s.fitsAt b c).isSome && (match m with
    | some m => (s.fitsAt m d).isSome
    | none => false)
  | _ => false

/-- Takes victims in order until the block fits; none when it never does. -/
def State.takeVictims (s : State) (b : Block) (m : Option Block) (cs : List (Nat × Nat)) : List Block → List Block → Option (List Block)
  | rest, got =>
    if (s.without (got.map (·.uid))).fitsOn b m cs then some got
    else match rest with
      | [] => none
      | v :: rest => s.takeVictims b m cs rest (got ++ [v])

/-- The candidates for a block: each eligible cluster, or, for a pair, two of one die. -/
def State.candidatesFor (s : State) (b : Block) (m : Option Block) (g : Grid) (sp : Span) : List (List (Nat × Nat)) :=
  let cs := allClusters.filter (fun c => s.mayTake b g sp c.1 c.2)
  match m with
  | none => cs.map (fun c => [c])
  | some _ => cs.flatMap (fun c => (cs.filter (fun d => d.1 == c.1 && d != c)).map (fun d => [c, d]))

/-- The figures by which R313 compares candidates: the largest victim priority, the number of victims, the zone. -/
def victimCost (vs : List Block) (cs : List (Nat × Nat)) : Nat × Nat × Nat :=
  ((vs.map (·.prio)).foldl max 0, vs.length, ((cs.head?.map (fun c => clusterZone c.1 c.2)).getD 0))

/-- A cost is less than another. -/
def cheaper (a b : Nat × Nat × Nat) : Bool :=
  a.1 < b.1 || (a.1 == b.1 && (a.2.1 < b.2.1 || (a.2.1 == b.2.1 && a.2.2 < b.2.2)))

/-- The victims of a pending block: none when it fits without, or nowhere (R313). -/
def State.victims (s : State) (b : Block) (g : Grid) (sp : Span) : List Block :=
  let m := if b.role = .single then none else s.block? b.mate
  let e := s.without s.leaving
  let cands := s.candidatesFor b m g sp
  if cands.any (fun cs => e.fitsOn b m cs) then []
  else
    let found := cands.filterMap (fun cs => (e.takeVictims b m cs (e.victimsOn b.prio cs) []).map (fun vs => (victimCost vs cs, vs)))
    ((found.foldl (fun (best : Option ((Nat × Nat × Nat) × List Block)) x => match best with
      | none => some x
      | some y => if cheaper x.1 y.1 then some x else some y) none).map (·.2)).getD []

/-- PREEMPT (R312, R313): a waiting block that fits no eligible cluster stops its victims. -/
def execPreempt (block : Nat) (s : State) : Host.Outcome State Fault Refusal :=
  match s.block? block with
  | none => .next s
  | some b => match s.grid? b.grid, s.span? b.span with
    | some g, some sp =>
      if !s.waitsTurn b then .next s
      else match s.victims b g sp with
        | [] => .next s
        | vs => happened (vs.foldl (fun s v => match s.block? v.uid with
          | some v => if v.state = .resident then s.stopPair v 0 else s
          | none => s) s)
    | _, _ => .next s

/-! ### STOP_ACKNOWLEDGED -/

/-- The region from which a stopped team must be squashed because nothing will clear it: a lane that waits for a page or a cell, or a
fault that no parking point will report, or, in a redundant pair, a region that the other copy has not reached (R269, R270, R315). -/
def State.stuckAt (s : State) (t : Team) : Option Nat :=
  let held (r : Region) : Bool := t.accs.any (fun a => a.region == r.id && (a.susp || a.lanes.any (fun l => l.st.left || l.st.isFault)))
  let alone (r : Region) : Bool := t.role != .single && t.kind != .lantern && (match s.team? t.mate with
    | some m => m.nextRegion ≤ r.id
    | none => false)
  (t.regions.find? (fun r => held r || alone r || r.closeT.isNone)).map (·.id)

/-- Squashes what would keep a stopping block's teams from draining. -/
def State.unstick (s : State) (b : Nat) : State :=
  (s.teamsOf b).foldl (fun s t => match (s.team? t.uid).bind s.stuckAt with
    | some r => s.squashTeam t.uid r
    | none => s) s

/-- Every unit that serves a team has acknowledged a stop (Table 16.3). -/
def State.teamQuiet (s : State) (t : Team) : Bool :=
  s.drained t && t.pend.isEmpty && !s.atoms.any (fun x => x.team == t.uid) && t.run != .wait .array

/-- Every unit that serves a block has. -/
def State.blockQuiet (s : State) (b : Nat) : Bool := (s.teamsOf b).all s.teamQuiet

/-- The continuations of a stopping block's teams leave the lantern for their teams' images. -/
def State.gatherConts (s : State) (b : Nat) : State :=
  let lanterns := (s.teamsOf b).filter (fun t => t.kind == .lantern)
  let running := lanterns.filterMap Team.contRecord
  let s : State := { s with teams := s.teams.filter (fun t => !(t.block == b && t.kind == .lantern)) }
  (s.teamsOf b).foldl (fun s t =>
    let core := t.loc.pkgCore
    let rs := running.filter t.awaits ++ (s.core core).lantern.filter t.awaits
    let s := s.updCore core (fun c => { c with lantern := c.lantern.filter (fun r => !t.awaits r) })
    let ents := rs.mapIdx (fun i r =>
      ({ seq := t.nextId + i, pc := r.pc, acc := 0, probe := .none, issueT := s.tick, lanes := 1 <<< r.lane, kind := .cont r } : Entry))
    s.updTeam t.uid (fun t => { t with relq := t.relq ++ ents, nextId := t.nextId + rs.length })) s

/-- Engine operations of a block give up their staged chunks and their engines, which serve them again once the block is back (R189,
Table 16.3). -/
def State.dropStaged (s : State) (b : Nat) : State :=
  { s with ops := s.ops.map (fun o => if o.block = b ∧ o.owner != .span then
    { o with staged := [], state := if o.state = .running then .queued else o.state } else o) }

/-- The other copy of a leading copy's block that stands to be moved, while it has not stopped too (R274). -/
def State.followMove (s : State) (b : Block) : Option Block :=
  if b.role != .leading || b.move < 2 then none
  else (s.block? b.mate).bind (fun m => if m.state == .resident then some m else none)

/-- STOP_ACKNOWLEDGED (R274, R315): with every unit quiet, the save begins; a pair's that moves at a barrier once the trailing copy has
passed the same instance, where it stops too. -/
def execStopAcknowledged (block : Nat) (s : State) : Host.Outcome State Fault Refusal :=
  match s.block? block with
  | none => .next s
  | some b => match b.state with
    | .stopping why _ =>
      let s := (s.unstick block).settle
      if !s.blockQuiet block then .next s
      else if let some m := s.followMove b then
        let n := ((s.teamsOf block).head?.map (·.barbs)).getD 0
        .next (if s.atMovePoint m.uid n then (s.updBlock m.uid (fun x => { x with move := b.move, req := b.req })).stopBlock m.uid why else s)
      else .next (((s.gatherConts block).dropStaged block).updBlock block (fun b => { b with state := .saving why }))
    | _ => .next s

/-- The ticks within which every unit acknowledges a stop (R315). -/
def tAck : Nat := 32768

/-- ACK_TIMEOUT (R315): the cluster is reset, with its cores' caches, buffers and lantern queues, its grids end, and it is queued for field
test. -/
def execAckTimeout (block unit : Nat) (s : State) : Host.Outcome State Fault Refusal :=
  match s.block? block with
  | none => .next s
  | some b => match b.state with
    | .stopping _ since =>
      if s.tick < since + tAck || s.blockQuiet block then .next s
      else
        let here := s.blocksOn b.chip b.cluster
        let s := { s with log := s.log ++ [LogEnt.ackMissing block unit] }
        let s := (here.map (·.grid)).eraseDups.foldl (fun s g => s.abortGrid g 0 .preempt) s
        let s := here.foldl (fun s x => s.updBlock x.uid (fun x => { x with state := .resident })) s
        let s := (coresOf [(b.chip, b.cluster)]).foldl (fun s c =>
          s.updCore c (fun c => { c with readCache := [], outbound := [], lantern := [] })) s
        happened (s.queueTest b.chip b.cluster)
    | _ => .next s

/-! ### SAVE_COMPLETE -/

/-- A team as its image keeps it: only a barrier's park condition stays; any other is met again (R270). -/
def Team.saved (t : Team) : Team :=
  { t with run := (match t.run with
             | .barrier k i n sw => .barrier k i n sw
             | _ => .ready)
           waitSlots := 0, needHead := true }

/-- An evaluator's cell says that it is saved (R261). -/
def State.markSaved (s : State) (t : Team) : State :=
  match t.cell, t.ticket with
  | some c, some k =>
    if s.formingUnder c k then
      let w := bytesNat (s.mem.bytes (64 * c + 0x1C) 4)
      { s with mem := s.mem.put (64 * c + 0x1C) (natBytes 4 (if w.testBit 11 then w else w + 2 ^ 11)) }
    else s
  | _, _ => s

/-- The stops that take a whole partition off its clusters: SUSPEND, EN, and the step-boundary stop (Table 16.2). -/
def wholePart (why : Nat) : Bool := why == 2 || why == 3 || why == 5

/-- A span image: the page list of the gallery, at least as long as a stored form may be (R316, Table 16.4). -/
def spanImage (c : Scratch) : List Byte :=
  let p := c.pages
  p ++ List.replicate (128 - p.length) 0

/-- The last resident block of a die span has been saved by such a stop: its gallery's pages go to the save area (R316). -/
def State.saveGallery (s : State) (span : Nat) : State :=
  if s.blocks.any (fun b => b.span == span && b.kind == .ordinary && b.placed) then s
  else match s.span? span with
    | none => s
    | some x => match x.gallery with
      | none => s
      | some c =>
        let raw := storedForm (spanImage c)
        let place := s.savePlace (((s.grid? x.grid).map (·.tenant)).getD 0) raw.length
        { s.updSpan span (fun x => { x with out := true, place := place }) with mem := s.mem.spread raw place }

/-- A block's teams leave its cluster, and its image in stored form stands in the save area (R316); a wake on its way to one of them will
find its ORIGIN gone (R257). -/
def State.saveBlock (s : State) (b : Block) (why : Nat) : State :=
  let ts := s.teamsOf b.uid
  let seeds := ts.map Team.saved
  let raw := storedForm (s.blockImage b seeds)
  let place := s.savePlace (((s.grid? b.grid).map (·.tenant)).getD 0) raw.length
  let s := ts.foldl (fun s t => s.markSaved t) s
  let s := { s with mem := s.mem.spread raw place
                    teams := s.teams.filter (fun t => t.block != b.uid)
                    wakes := s.wakes.filter (fun w => ts.all (fun t => t.uid != w.1)) }
  let s := s.updBlock b.uid (fun b => { b with state := .saved, teamSeed := seeds, place := place })
  if wholePart why && b.kind == .ordinary then s.saveGallery b.span else s

/-- SAVE_COMPLETE (R316): the image has committed; the cluster is free. An evaluator or task team for which the block was stopped takes its
slot before anything else can (R226). -/
def execSaveComplete (block : Nat) (s : State) : Host.Outcome State Fault Refusal :=
  match s.block? block with
  | none => .next s
  | some b => match b.state with
    | .saving why =>
      let s := (s.saveBlock b why).updBlock block (fun b => { b with claim := none })
      happened (match b.claim with
        | some w => s.giveSlot w
        | none => s)
    | _ => .next s

/-! ### Return -/

/-- BLOCK_RESTORE (R218, R219, R320): a saved block fits an eligible cluster. -/
def execBlockRestore (block : Nat) (s : State) : Host.Outcome State Fault Refusal :=
  match s.takeTurn block (fun b => b.state == BlockState.saved && b.move == 0) with
  | some s => happened s
  | none => .next s

/-- MIGRATION_PLACE (R269, R274): a saved block that moves is placed where its move takes it. -/
def execMigrationPlace (block : Nat) (s : State) : Host.Outcome State Fault Refusal :=
  match s.takeTurn block (fun b => b.state == BlockState.saved && b.move != 0) with
  | some s => happened s
  | none => .next s

end Sys2Proof.Machine
end

