-- ==== Sys2Proof/Machine/Pairing.lean ====
section
/-! DEFINITION. The two copies of a redundant pair meet: the trailing copy takes values, signatures are compared, and a mismatch
restarts both or traps both (18_traps_faults_redundancy.md, R365–R370). -/

namespace Sys2Proof.Machine

/-- An access of a trailing copy that waits for the value of a queue entry. -/
def Access.takes (a : Access) (e : LvqEntry) : Bool :=
  e.kind == 0 && e.word == a.word && e.pc == a.pc && a.kind.returns && a.lanes.any (fun l => l.st == .waiting && e.addrs.any (fun x => x.1 == l.lane))

/-- The addresses of an entry are those that the access computed (R365). -/
def Access.agrees (a : Access) (e : LvqEntry) : Bool := e.addrs.all (fun x => a.lanes.any (fun l => l.lane == x.1 && l.addr == x.2))

/-- The oldest access that some entry of a queue answers, with the first such entry. -/
def nextTake (accs : List Access) (q : List LvqEntry) : Option (Access × LvqEntry) :=
  accs.findSome? (fun a => (q.find? a.takes).map (fun e => (a, e)))

/-- The destination of an access. -/
def AccKind.dest : AccKind → Dest
  | .load _ _ _ _ _ _ d _ => d
  | .gqry d => d
  | .ldf _ _ _ _ b _ _ _ _ => .vec b
  | _ => .none

/-- LOAD_VALUE_QUEUE_TAKE (R365): a trailing copy takes the values of its oldest access that has them; with none, it looks at the marker
where it is parked. -/
def execLoadValueQueueTake (team : Nat) (s : State) : Host.Outcome State Fault Refusal :=
  match s.team? team with
  | none => .next s
  | some t =>
    if t.role != .trailing then .next s
    else match s.team? t.mate with
      | none => .next s
      | some m => match nextTake t.accs m.lvq with
        | none => happened (s.resume team)
        | some (a, e) =>
          let s := s.lvqDrop t (fun x => x == e)
          if !a.agrees e then happened (s.mismatch m.uid t.uid a.region (s.sigDiff m t a.region))
          else
            let t := (t.deliverVals a.region a.kind.dest e.vals).deliverWith a.region (fun x => x.noteWords a.word e.note)
            let t := e.addrs.foldl (fun (t : Team) x => t.setLane a.id x.1 .done) t
            happened ((s.setTeam t).resume team)

/-- The oldest closed region of a leading copy not compared yet, with the other copy's, when that is closed too. -/
def State.nextCompare (s : State) (t : Team) : Option (Team × Region × Region) :=
  match s.team? t.mate, t.regions.find? (fun r => r.sig.isNone) with
  | some m, some r =>
    if r.closeT.isNone then none
    else (m.regions.find? (fun x => x.id == r.id && x.closeT.isSome)).map (fun x => (m, r, x))
  | _, _ => none

/-- SIGNATURE_COMPARE (R367–R369): paired regions are compared; equal ones may clear, and a pending atomic of theirs may end. -/
def execSignatureCompare (team : Nat) (s : State) : Host.Outcome State Fault Refusal :=
  match s.team? team with
  | none => .next s
  | some t =>
    if t.role != .leading then .next s
    else match s.nextCompare t with
      | none => .next s
      | some (m, r, x) =>
        let a := s.signature r
        let b := s.signature x
        if a = b && r.head = x.head then
          let mark (t : Team) : Team := t.updRegion r.id (fun (y : Region) => { y with sig := some a })
          let s := (s.updTeam t.uid mark).updTeam m.uid mark
          happened { s with atoms := s.atoms.map (fun (y : PendAtom) => if y.team = t.uid ∧ y.region = r.id then { y with sigOk := true } else y) }
        else happened (s.mismatch t.uid m.uid r.id ((a ^^^ b).setWidth 32))

end Sys2Proof.Machine
end

