-- ==== Sys2Proof/Machine/Answers.lean ====
section
/-! DEFINITION. Answers to missing translations, and the invalidation of present ones (15_translation_and_host.md, R296–R300). -/

namespace Sys2Proof.Machine

/-! ### A fault that fails -/

/-- An address lies on a fault's page. -/
def Miss.covers (m : Miss) (va : Nat) : Bool := missPage va == m.page

/-- The lanes of a team that wait for a page take a fault on it. -/
def Team.failLanes (t : Team) (m : Miss) (code : Nat) : Team :=
  { t with accs := t.accs.map (fun (a : Access) => { a with lanes := a.lanes.map (fun l =>
      if l.st = .page ∧ (a.pieces l).any (fun p => m.covers p.1) then { l with st := .fault .pageFault code 0 } else l) }) }

/-- A team meets the failure of a page: its waiting lanes, or the word that it could not fetch (R295, R299). -/
def State.failTeam (s : State) (t : Team) (m : Miss) (code : Nat) : State :=
  if !s.missOf (s.asidOf t) m then s
  else
    let t := t.failLanes m code
    let s := s.setTeam t
    match t.run with
    | .fetch va => if m.covers va then s.fetchTrap { t with run := .ready } .pageFault code else s
    | .landing va => if m.covers va then s.setTeam { t with run := .ready, unread := some va } else s
    | _ => s.resume t.uid

/-- The management controller's request ends with an error (R379). -/
def State.ckptErr (s : State) (code : Nat) : State :=
  { (((s.setField 0 0xD038 1 1 0).setField 0 0xD038 3 1 1).setField 0 0xD038 8 4 code) with ckpt := Ckpt.reset }

/-- A job that waited for a page fails (R213, R217, R379). -/
def State.failJob (s : State) (w : DispWait) : State :=
  let s := s.jobDone w.job
  match w.job with
  | .record (.queue f q) => s.setField f (0x40 * q + 8) 2 1 1
  | .record (.request id) => { s with launches := s.launches.filter (fun x => x.id != id) }
  | .completion g => match s.grid? g with
    | some x => { s with log := s.log ++ [LogEnt.compFault x.lrec.gridtag] }.dropGrid g
    | none => s
  | .stepWord => s.ckptErr 2

/-- A staged access of another package that waits for a page is refused. -/
def State.failPosted (s : State) (m : Miss) (code : Nat) : State :=
  let hit (p : Posted) : Bool := s.missOf p.asid m && m.covers p.va && (match p.src with
    | .device _ => true
    | .aperture _ => false)
  let s' := (s.posted.filter hit).foldl (fun s p => s.refuseOutside p.src p.asid p.va code) s
  { s' with posted := s'.posted.filter (fun p => !hit p) }

/-- An outstanding fault ends in PAGE_FAULT with a code for everything that waits on its page (R177, R299, R300). -/
def State.failPage (s : State) (m : Miss) (code : Nat) : State :=
  let s : State := { s with misses := s.misses.filter (fun x => x != m) }
  let s := (s.teams.map (·.uid)).foldl (fun s u => match s.team? u with
    | some t => s.failTeam t m code
    | none => s) s
  let s := (s.ops.filter (fun o => s.missOf o.asid m && o.state == EngState.running && o.page.any m.covers)).foldl
    (fun s o => s.failOp o.id .pageFault (o.page.getD 0) code) s
  ((s.waitPage.filter (fun w => s.missOf w.asid m && w.page == m.page)).foldl State.failJob s).failPosted m code

/-! ### RESP, time-out -/

/-- The device-half fault that a response's TAG names. -/
def State.missTag (s : State) (f : Nat) (val : Word) : Option Miss :=
  let tag := val.toNat % 2 ^ 14
  s.misses.find? (fun m => m.func == f && !m.host && m.slice == tag / 1024 && m.entry == tag % 1024)

/-- A write of RESP (R299): MAPPED walks again, FAIL fails; any other answer is ignored. -/
def State.writeResp (s : State) (f : Nat) (val : Word) : State :=
  match s.missTag f val with
  | none => s
  | some m =>
    match val.toNat / 2 ^ 14 % 4 with
    | 0 => match s.translate m.asid m.page with
      | (s, .absent) => s.failPage m 0x10
      | (s, _) => { s with misses := s.misses.filter (fun x => x != m), waitPage := s.waitPage.filter (fun w =>
          !(w.asid == m.asid && w.page == m.page && (match w.job with
            | .record _ => false
            | _ => true))) }
    | 1 => s.failPage m 0x10
    | _ => s

/-- RESP_MAPPED (R299). -/
def execRespMapped (func : Nat) (val : Word) (s : State) : Host.Outcome State Fault Refusal :=
  if s.recovery || val.toNat / 2 ^ 14 % 4 != 0 then .next s else happened (s.writeResp func val)

/-- RESP_FAIL (R299). -/
def execRespFail (func : Nat) (val : Word) (s : State) : Host.Outcome State Fault Refusal :=
  if s.recovery || val.toNat / 2 ^ 14 % 4 != 1 then .next s else happened (s.writeResp func val)

/-- The ticks within which a fault is answered (R300). -/
def tFlt : Nat := 16777216

/-- FAULT_TIMEOUT (R300). -/
def execFaultTimeout (slice entry : Nat) (s : State) : Host.Outcome State Fault Refusal :=
  match s.misses.find? (fun m => m.slice == slice && m.entry == entry) with
  | none => .next s
  | some m => if s.tick < m.since + tFlt then .next s else happened (s.failPage m 0x12)

/-! ### ATS -/

/-- The contexts with a PASID on the host half. -/
def State.pasidCtxs (s : State) (pasid : Nat) : List Ctx := s.ctxs.filter (fun c => c.valid && c.host && c.pasid == pasid)

/-- A range cut into entries of at most 1 GiB. -/
def rangePieces : Nat → Nat → Nat → List (Nat × Nat)
  | 0, _, _ => []
  | n + 1, va, bytes => if bytes = 0 then [] else (va, min bytes (2 ^ 30)) :: rangePieces n (va + 2 ^ 30) (bytes - 2 ^ 30)

/-- A range's translation enters the TLBs of the slices that asked for it (R296, R298). -/
def State.fillRange (s : State) (c : AtsAnswer) (x : Ctx) : State :=
  let asked := s.misses.filter (fun m => m.host && s.missOf x.asid m && c.va ≤ m.page && m.page < c.va + c.bytes)
  let slices := (if asked.isEmpty then [owningSlice s.variant c.va] else asked.map (·.slice)).eraseDups
  let ents := slices.flatMap (fun k => (rangePieces (c.bytes / 2 ^ 30 + 1) c.va c.bytes).map (fun p =>
    ({ slice := k, asid := x.asid, va := p.1, bytes := p.2, host := true, base := c.host + (p.1 - c.va), w := c.write, x := c.exec, p := false } : TlbEnt)))
  ents.foldl State.addTlb s

/-- A translation of a host-half page returned no access: a Page Request starts; one that fails in turn ends in PAGE_FAULT with code 0x11 (R298,
R299). -/
def State.noAccess (s : State) (m : Miss) (pasid : Nat) : State :=
  if m.pri then s.failPage m 0x11
  else { s with misses := s.misses.map (fun x => if x = m then { m with pri := true } else x), hostOut := s.hostOut ++ [.pageRequest pasid m.page m.kind] }

/-- ATS_COMPLETION (R298): a translation enters the TLB and ends the faults on its range; one that grants nothing, or a Page Request's failure,
goes as `State.noAccess` says. -/
def execAtsCompletion (c : AtsAnswer) (s : State) : Host.Outcome State Fault Refusal :=
  let cs := s.pasidCtxs c.pasid
  let ms := s.misses.filter (fun m => m.host && cs.any (fun x => s.missOf x.asid m) && c.va ≤ m.page && m.page < c.va + c.bytes)
  if c.bytes < 4096 || c.va % 4096 != 0 || deviceHalf c.va || cs.isEmpty then .next s
  else if c.granted then
    let s := cs.foldl (fun s x => s.fillRange c x) s
    happened { s with misses := s.misses.filter (fun m => !ms.contains m) }
  else happened (ms.foldl (fun s m => s.noAccess m c.pasid) s)

/-! ### Invalidation -/

/-- A line lies in the range of a command. -/
def Inval.meets (v : Inval) (a n : Nat) : Bool := a < v.hi && v.lo < a + n

/-- An entry that was probed under translations that a command drops. -/
def Inval.awaits (v : Inval) (e : Entry) : Bool := e.issueT ≤ v.since && e.kind.globalLines.any (fun a => v.meets a 64)

/-- No entry probed under the dropped translations is left unperformed (R297). -/
def State.invalDone (s : State) (v : Inval) : Bool :=
  s.teams.all (fun t => !v.asids.contains (s.asidOf t) ||
    (t.relq.all (fun e => !v.awaits e) && t.regions.all (fun r => r.held.all (fun e => !e.probe.good || !v.awaits e)))) &&
  s.cores.all (fun c => c.outbound.all (fun o => !v.asids.contains o.asid || !v.awaits o.ent))

/-- A command starts: every TLB drops the matching entries (R297). -/
def State.startInval (s : State) (v : Inval) : State :=
  { s with invs := s.invs ++ [v], tlb := s.tlb.filter (fun e => !(v.asids.contains e.asid && v.meets e.va e.bytes)) }

/-- A write of INVCTL (Table 15.5, R297): a write with GO while BUSY is 1 is ignored. -/
def State.writeInvctl (s : State) (f : Nat) (val : Word) : State :=
  if val.getLsbD 2 && s.regField f 0x200C 31 1 == 1 then s
  else
    let s := s.writeMasked f 0x200C 0xB 0 val
    if !val.getLsbD 2 then s
    else
      let n := (s.reg f 0x2008).toNat
      let lo := s.reg64 f 0x2000 / 65536 * 65536
      let v : Inval := { func := f, ats := none, asids := [(s.ctx f (s.regField f 0x200C 0 2)).asid], lo := if n = 0 then 0 else lo,
                         hi := if n = 0 then 2 ^ 64 else lo + 65536 * n, flush := val.getLsbD 3, since := s.tick }
      (s.setField f 0x200C 31 1 1).startInval v

/-- INVALIDATE (R297). -/
def execInvalidate (func : Nat) (val : Word) (s : State) : Host.Outcome State Fault Refusal :=
  if s.recovery || 9 ≤ func || !val.getLsbD 2 then .next s else happened (s.writeInvctl func val)

/-- ATS_INVALIDATE (R298): a command of R297 without FLUSH for the PASID's address spaces. -/
def execAtsInvalidate (pasid : Nat) (va : DWord) (bytes : Nat) (s : State) : Host.Outcome State Fault Refusal :=
  happened (s.startInval { func := ((s.pasidCtxs pasid).head?.map (·.func)).getD 0, ats := some pasid,
                           asids := (s.pasidCtxs pasid).map (·.asid), lo := va.toNat, hi := va.toNat + bytes, flush := false, since := s.tick })

/-- The lines of a range leave every slice, written back, and every read cache (R297). -/
def State.flushRange (s : State) (v : Inval) : State :=
  let s := s.dropSlices (fun l => v.asids.contains l.asid && v.meets (64 * l.line) 64)
  { s with cores := s.cores.map (fun (c : Core) => { c with readCache := c.readCache.filter (fun l => !(v.asids.contains l.asid && v.meets (64 * l.line) 64)) }) }

/-- INVALIDATION_COMPLETE (R297, R298): of a function's commands, the first whose conditions hold completes. -/
def execInvalidationComplete (func : Nat) (s : State) : Host.Outcome State Fault Refusal :=
  match s.invs.find? (fun v => v.func == func && s.invalDone v) with
  | none => .next s
  | some v =>
    let s := if v.flush then s.flushRange v else s
    let s : State := { s with invs := s.invs.erase v }
    match v.ats with
    | none => happened (s.setField func 0x200C 31 1 0)
    | some p => happened { s with hostOut := s.hostOut ++ [HostMsg.invalidated p] }

end Sys2Proof.Machine
end

