-- ==== Sys2Proof/Machine/System.lean ====
section
/-! DEFINITION. The system instructions (18_traps_faults_redundancy.md, R357–R363; 21_debug_and_watchpoint.md, R396, R397), and CAPQ and
MIGR (11_geodes_and_migration.md, R275, R276). -/

namespace Sys2Proof.Machine

/-! ### Special registers (Tables 18.4, 21.4) -/

/-- `%caps` of a chiplet (Table 1.9). -/
def capsWord (v : Variant) (chip : Nat) : Nat :=
  (if chip < v.chips then chipCaps chip else 0) + 2 ^ 8 * (2 ^ v.chips - 1) + 2 ^ 16 * (2 ^ v.stackCount - 1)

/-- `%mode` (Table 18.5). -/
def State.modeWord (s : State) (t : Team) : Nat :=
  let m := ((s.gridOf t).map (·.lrec.mode)).getD 0
  (if m.getLsbD 0 then 1 else 0) + (if t.role == .trailing then 2 else 0) + (if m.getLsbD 1 then 4 else 0) + (if m.getLsbD 2 then 8 else 0) +
    (if t.kind == .evaluator || t.kind == .task then 16 else 0) + (if t.arch.inHandler then 32 else 0)

/-- The die span index of a team (R214). -/
def State.spanIdx (s : State) (t : Team) : Nat :=
  (((s.block? t.block).bind (fun b => s.span? b.span)).map (·.idx)).getD 0

/-- A register that only a handler reaches (R353, R396). -/
def sregHandler (n : Nat) : Bool := (0x020 ≤ n && n ≤ 0x026) || (0x100 ≤ n && n ≤ 0x107)

/-- The value of a special register that is no lane mask. -/
def State.sregRead (s : State) (t : Team) (n : Nat) : Nat :=
  let a := t.arch
  match n with
  | 0x000 => a.flags.toNat
  | 0x001 => a.uninitcnt.toNat
  | 0x002 => a.uninitaddr.toNat
  | 0x003 => a.gdetail.toNat
  | 0x004 => s.modeWord t
  | 0x010 => t.loc.chip
  | 0x011 => capsWord s.variant t.loc.chip
  | 0x012 => s.spanIdx t
  | 0x013 => s.tick
  | 0x018 => a.tvec.toNat
  | 0x020 => a.bank.epc.toNat
  | 0x021 => a.bank.ecause.toNat
  | 0x022 => a.bank.estat.toNat
  | 0x023 => a.bank.eaddr.toNat
  | 0x024 => a.bank.einfo.toNat
  | n =>
    if 0x008 ≤ n && n ≤ 0x00B then (t.cnts.getD (n - 8) []).length
    else if 0x100 ≤ n && n ≤ 0x103 then (a.wpaddr.getD (n - 0x100) 0).toNat
    else if 0x104 ≤ n && n ≤ 0x107 then (s.reg 0 (watchOff t.loc.cl (n - 0x104) + 8)).toNat
    else 0

/-- The counter registers (R357): GETSR of them is long-latency, and their values can differ between two copies (R365). -/
def sregQueued (n : Nat) : Bool := (0x008 ≤ n && n ≤ 0x00B) || n == 0x013

/-- The scalar destination of a system instruction. -/
def scalNum (f : BitVec 11) : Nat := match opd f with
  | .scal n => n
  | _ => 0

/-- Writes a scalar, or a pair. -/
def Arch.scalPut (a : Arch) (n : Nat) (wide : Bool) (x : Nat) : Arch := if wide then a.ssetPair n x else a.sset n (BitVec.ofNat 32 x)

/-- Registers and values of a scalar result, for the load-value queue. -/
def scalVals (n : Nat) (wide : Bool) (x : Nat) : List (Nat × Nat × Word) :=
  (n, 0, BitVec.ofNat 32 x) :: (if wide then [(n + 1, 0, BitVec.ofNat 32 (x >>> 32))] else [])

/-- The value of the entry that a trailing copy takes. -/
def lvqNumber (e : LvqEntry) : Nat := (e.vals.foldr (fun v acc => v.2.2.toNat + 2 ^ 32 * acc) 0)

/-- GETSR of a value register: a counter register is delivered as a long-latency result with the value at issue (R169, R357). -/
def getsrEffect (n d : Nat) (wide : Bool) (s : State) (t : Team) : WordEnd :=
  let put (s : State) (t : Team) (x : Nat) : WordEnd :=
    if sregQueued n then
      let (id, t) := t.freshId
      let p : Pending := { id := id, pc := t.arch.pc, region := t.regionId, dest := .scal d, lanes := 1, vals := scalVals d wide x, x2 := false }
      .done s { t with pend := t.pend ++ [p] } none
    else .done s { t with arch := t.arch.scalPut d wide x } none
  if sregQueued n && t.role == .trailing then
    match s.lvqFind t (atWord 0 t.arch) with
    | none => .wait s (.wait .lvqEntry)
    | some e => put (s.lvqDrop t (atWord 0 t.arch)) t (lvqNumber e)
  else
    let x := s.sregRead t n
    let e := lvqValues t.arch.issued t.arch.pc t.regionId [] (scalVals d wide x)
    if !sregQueued n then put s t x
    else if !t.lvqRoom e then .wait s (.wait .lvqRoom)
    else put s (t.lvqPush e) x

/-- GETSR (R358). -/
def execGetsr (w : FullS) (s : State) : Host.Outcome State Fault Refusal :=
  let n := w.sreg.toNat
  let wide := sregIsWide n
  issueWord
    { len := 8, hd := w.hd, once := true,
      check := fun _ t => firstTrap [trapIf (!isNop w.hd && sregHandler n && !t.arch.inHandler) illegalTrap,
        if sregIsMask n then classCheck 8 w.d else if wide then scalPair w.d else scalReg w.d],
      effect := fun s t =>
        if sregIsMask n then
          let m := if n = 0x025 then t.arch.bank.emask else t.arch.bank.elive
          .done s { t with arch := t.arch.kset w.d.toNat (fullMask t.tw) m } none
        else getsrEffect n (scalNum w.d) wide s t } s

/-- SETSR's value (R359). -/
def setsrVal (w : FullS) (a : Arch) : Nat :=
  match w.ext with
  | some e => e.imm.toNat
  | none => match opd w.a with
    | .scal n => if sregIsWide w.sreg.toNat then a.spair n else (a.sget n).toNat
    | .con c => constVal 1 c
    | _ => 0

/-- Writes a special register of the team; reserved bits keep 0 (R4, R359). -/
def Arch.sregWrite (a : Arch) (n x tw : Nat) (k : Mask) : Arch :=
  let w : Word := BitVec.ofNat 32 x
  let d : DWord := BitVec.ofNat 64 x
  let m := k &&& fullMask tw
  match n with
  | 0x000 => { a with flags := w &&& 0x1F1F }
  | 0x001 => { a with uninitcnt := w }
  | 0x002 => { a with uninitaddr := w &&& 0xC1FFFFFF, uninitBy := none }
  | 0x018 => { a with tvec := d &&& ~~~7 }
  | 0x020 => { a with bank := { a.bank with epc := d } }
  | 0x021 => { a with bank := { a.bank with ecause := w &&& 0xFF } }
  | 0x022 => { a with bank := { a.bank with estat := w &&& 7 } }
  | 0x023 => { a with bank := { a.bank with eaddr := d } }
  | 0x024 => { a with bank := { a.bank with einfo := w } }
  | 0x025 => { a with bank := { a.bank with emask := m } }
  | 0x026 => { a with bank := { a.bank with elive := m } }
  | n => if 0x100 ≤ n && n ≤ 0x103 then { a with wpaddr := a.wpaddr.set (n - 0x100) d } else a

/-- SETSR of `%wpctl`: the value with the team's own core and block, HOST clear, and the address from `%wpaddr`; a host-owned
watchpoint keeps its value (R396). -/
def State.setWatch (s : State) (t : Team) (n x : Nat) : State :=
  let off := watchOff t.loc.cl n
  if (s.watchReg t.loc.cl n).host then s
  else
    let blk := ((s.block? t.block).map (·.blockId)).getD 0
    let ctl : Word := (BitVec.ofNat 32 x &&& 0xFFFF007F) ||| BitVec.ofNat 32 (blk * 256 + t.loc.core * 128)
    let d := (t.arch.wpaddr.getD n 0).toNat
    ((s.setReg 0 (off + 8) ctl).setReg 0 off (BitVec.ofNat 32 (d / 8 * 8))).setReg 0 (off + 4) (BitVec.ofNat 32 (d / 2 ^ 32))

/-- SETSR (R359). -/
def execSetsr (w : FullS) (s : State) : Host.Outcome State Fault Refusal :=
  let n := w.sreg.toNat
  let oper : Option Trap :=
    if w.ext.isSome then none
    else if sregIsMask n then classCheck 8 w.a
    else match opd w.a with
      | .scal r => trapIf (sregIsWide n && r % 2 == 1) reservedTrap
      | .con _ => none
      | _ => some reservedTrap
  issueWord
    { len := extLen w.ext, hd := w.hd, once := true,
      check := fun _ t => firstTrap [trapIf (!isNop w.hd && sregHandler n && !t.arch.inHandler) illegalTrap, oper],
      closing := fun _ t => n == 0x018 || (0x104 ≤ n && n ≤ 0x107) ||
        (n == 0 && (BitVec.ofNat 32 (setsrVal w t.arch) ^^^ t.arch.flags) &&& 0x1F00 != 0),
      effect := fun s t =>
        let x := setsrVal w t.arch
        if 0x104 ≤ n && n ≤ 0x107 then .done (s.setWatch t (n - 0x104) x) t none
        else .done s { t with arch := t.arch.sregWrite n x t.tw (t.arch.kget w.a.toNat) } none } s

/-! ### TRAP, BRK, RTE (R360, R361) -/

/-- The operand of TRAP and BRK. -/
def trapVal (w : FullS) (a : Arch) : Word :=
  match w.ext with
  | some e => e.imm
  | none => BitVec.ofNat 32 (scalVal a w.a)

def trapCheck (w : FullS) : Option Trap := if w.ext.isSome then none else scalCheck w.a

/-- TRAP (R360). -/
def execTrap (w : FullS) (s : State) : Host.Outcome State Fault Refusal :=
  issueWord
    { len := extLen w.ext, hd := w.hd, check := fun _ _ => trapCheck w,
      effect := fun s t =>
        let m := t.arch.acting t.tw w.hd
        if m = 0 then .done s t none
        else .trap { cause := .userTrap, epc := some (t.arch.pc + BitVec.ofNat 64 (extLen w.ext)), eaddr := t.arch.pc,
                     einfo := trapVal w t.arch, emask := m } } s

/-- The debug page that stops a cluster on BRK (R397). -/
def State.brkStops (s : State) (cl : Nat) : Bool := match s.dbgFunc cl with
  | some f => s.regField f 0xC000 1 1 == 1
  | none => false

/-- BRK (R360, R397). -/
def execBrk (w : FullS) (s : State) : Host.Outcome State Fault Refusal :=
  issueWord
    { len := extLen w.ext, hd := w.hd, check := fun _ _ => trapCheck w,
      effect := fun s t =>
        let m := t.arch.acting t.tw w.hd
        if m = 0 then .done s t none
        else if s.brkStops t.loc.cl then
          let r : StopReq := { cluster := t.loc.cl, trigger := 4, instr := t.arch.pc, addr := 0, wp := 0, core := t.loc.pkgCore,
                               slot := 8 * t.loc.part + t.loc.slot, kind := 0, since := s.tick }
          .act ({ s with issue := none, stopReq := s.stopReq ++ [r] }.setTeam t)
        else .trap { cause := .break_, eaddr := t.arch.pc, einfo := trapVal w t.arch, emask := m } } s

/-- After RTE, faulted instructions that the report left are performed again (R152). -/
def Team.revive (t : Team) : Team :=
  { t with accs := t.accs.map (fun (x : Access) =>
      { x with susp := false
               lanes := x.lanes.map (fun l => if l.st.isFault then { l with st := .waiting } else l) }) }

/-- RTE (R361). -/
def execRte (w : FullS) (s : State) : Host.Outcome State Fault Refusal :=
  issueWord
    { len := 8, hd := w.hd, once := true,
      check := fun _ t => trapIf (!isNop w.hd && !t.arch.inHandler) illegalTrap,
      targets := fun _ t => [t.arch.bank.epc.toNat],
      effect := fun s t =>
        match s.landing t t.arch.bank.epc.toNat with
        | (_, some tr) => .trap tr
        | (s, none) =>
          let again := t.accs.any (·.susp)
          let t := ({ t with arch := { t.arch.returnFromTrap with issued := t.arch.issued + 1 } }).revive
          let t := t.implicitHead s.tick
          let s := { s with issue := none }
          if again then .act (s.setTeam { t with run := .memory true, waitSlots := 0 })
          else .act (s.setTeam (if w.hd.sw then { t with run := .switch } else t)) } s

/-! ### LANERD, LANEWR, TRACE (R362, R363) -/

/-- A lane number past the team's width. -/
def laneTrap (t : Team) (b : Nat) : Option Trap :=
  trapIf (t.tw ≤ b) { cause := .regBound, einfo := BitVec.ofNat 32 (0x40000 + b % 65536), once := true }

/-- A direct or indirect vector register, even for a pair. -/
def vecCheck (wide : Bool) (f : BitVec 11) : Option Trap :=
  if (opd f).isVec then srcCheck (if wide then 14 else 1) (opd f) else some reservedTrap

/-- LANERD (R362). -/
def execLanerd (w : FullS) (s : State) : Host.Outcome State Fault Refusal :=
  let wide := w.sub == 1
  issueWord
    { len := 8, hd := w.hd, once := true,
      check := fun _ _ => firstTrap [if wide then scalPair w.d else scalReg w.d, vecCheck wide w.a, scalCheck w.b],
      bounds := fun _ t => firstTrap [boundCheck t (if wide then 2 else 1) (opd w.a), laneTrap t (scalVal t.arch w.b)],
      effect := fun s t =>
        let b := scalVal t.arch w.b
        let r := ((opd w.a).vecNum t.arch).getD 0
        let x := if wide then t.arch.vpair r b else (t.arch.vget r b).toNat
        .done s { t with arch := t.arch.scalPut (scalNum w.d) wide x } none } s

/-- LANEWR (R362). -/
def execLanewr (w : FullS) (s : State) : Host.Outcome State Fault Refusal :=
  let wide := w.sub == 1
  let ty := if wide then 14 else 1
  let src : Option Trap := match opd w.a with
    | .scal _ => srcCheck ty (opd w.a)
    | .con _ => srcCheck ty (opd w.a)
    | _ => some reservedTrap
  issueWord
    { len := 8, hd := w.hd, once := true,
      check := fun _ _ => firstTrap [vecCheck wide w.d, src, scalCheck w.b],
      bounds := fun _ t => firstTrap [boundCheck t (if wide then 2 else 1) (opd w.d), laneTrap t (scalVal t.arch w.b)],
      demand := fun _ t => { dests := runDests t.arch w.d (if wide then 2 else 1) },
      effect := fun s t =>
        let b := scalVal t.arch w.b
        let r := ((opd w.d).vecNum t.arch).getD 0
        let x := (Src.op (opd w.a)).read t.arch ty 0
        let one (a : Arch) (r x : Nat) : Arch := a.vset r (fun l => if l = b then some (BitVec.ofNat 32 x) else none)
        let a := one t.arch r x
        .done s { t with arch := if wide then one a (r + 1) (x >>> 32) else a } none } s

/-- TRACE holds a record when some lane acts and the launching function traces (R363). -/
def State.traces (s : State) (t : Team) (h : Head) : Bool :=
  t.arch.acting t.tw h != 0 && match s.gridOf t with
    | some g => s.regField g.func 0xA008 0 1 == 1
    | none => false

/-- TRACE (R363). -/
def execTrace (w : FullS) (s : State) : Host.Outcome State Fault Refusal :=
  issueWord
    { len := extLen w.ext, hd := w.hd, check := fun _ _ => firstTrap [scalCheck w.a, if w.ext.isSome then none else scalCheck w.b],
      demand := fun s t => { entries := if s.traces t w.hd then 1 else 0 },
      effect := fun s t =>
        if !s.traces t w.hd then .done s t none
        else
          let k : EntryKind := .trace (BitVec.ofNat 16 (scalVal t.arch w.a)) (BitVec.ofNat 32 ((srcB w.b w.ext).read t.arch 1 0)) t.arch.pc
          .done s (t.hold k 0 .none 0 s.tick) none } s

/-! ### CAPQ, MIGR (R275, R276) -/

/-- CAPQ's result for chiplet c. -/
def State.capqVal (s : State) (t : Team) (part : Bool) (c : Nat) : Nat :=
  if part then
    let p := s.tenantOf t
    let own := if 8 ≤ c || s.variant.chips ≤ c then [] else (List.range 4).filter (fun k => s.inPart p c k)
    own.length + 256 * (own.filter (fun k => (s.blocksOn c k).isEmpty)).length
  else capsWord s.variant c

/-- The lanes in which CAPQ runs, with the lane it reads its operand in (R47, R276). -/
def capqLanes (w : FullS) (t : Team) : List (Nat × Nat) :=
  let ls := lanesOf t.tw (t.arch.acting t.tw w.hd)
  if (opd w.d).isVec then ls.map (fun l => (l, l)) else [(0, ls.headD 0)]

/-- The word of CAPQ. -/
def capqWord (w : FullS) (part : Bool) : Word1 :=
  { len := 8, hd := w.hd, once := (opd w.d).isScal,
    check := fun _ _ => firstTrap [dstCheck false false (opd w.d), srcCheck 1 (opd w.a)],
    bounds := fun _ t => firstTrap [boundCheck t 1 (opd w.d), boundCheck t 1 (opd w.a)],
    demand := fun _ t => { dests := runDests t.arch w.d 1 },
    effect := fun s t =>
      let put (s : State) (t : Team) (rs : List (Nat × Nat)) : WordEnd :=
        let a := match opd w.d with
          | .scal n => match rs with
            | r :: _ => t.arch.sset n (BitVec.ofNat 32 r.2)
            | [] => t.arch
          | o => match o.vecNum t.arch with
            | some n => t.arch.vset n (fun l => (rs.find? (fun r => r.1 == l)).map (fun r => BitVec.ofNat 32 r.2))
            | none => t.arch
        .done s { t with arch := a } none
      if t.role == .trailing then
        match s.lvqFind t (atWord 0 t.arch) with
        | none => .wait s (.wait .lvqEntry)
        | some e => put (s.lvqDrop t (atWord 0 t.arch)) t (e.vals.map (fun v => (v.2.1, v.2.2.toNat)))
      else
        let rs := (capqLanes w t).map (fun l => (l.1, s.capqVal t part ((Src.op (opd w.a)).read t.arch 1 l.2)))
        let e := lvqValues t.arch.issued t.arch.pc t.regionId [] (rs.map (fun r => (0, r.1, BitVec.ofNat 32 r.2)))
        if !t.lvqRoom e then .wait s (.wait .lvqRoom) else put s (t.lvqPush e) rs }

/-- CAPQ (R276). -/
def execCapq (w : FullS) (s : State) : Host.Outcome State Fault Refusal := issueWord (capqWord w false) s

/-- CAPQ.part (R276). -/
def execCapqPart (w : FullS) (s : State) : Host.Outcome State Fault Refusal := issueWord (capqWord w true) s

/-- A MIGR word: a closing instruction. -/
def migrWord (w : FullS) (oper : Bool) (effect : State → Team → WordEnd) : Word1 :=
  { len := 8, hd := w.hd, once := true, check := fun _ _ => if oper then scalCheck w.a else none, closing := fun _ _ => true, effect := effect }

/-- MIGR.caps (R275). -/
def execMigrCaps (w : FullS) (s : State) : Host.Outcome State Fault Refusal :=
  issueWord (migrWord w true (fun s t =>
    let sets := (scalVal t.arch w.a % 8) ||| 1
    let need := (((s.gridOf t).map (·.lrec.caps)).getD 1) ||| sets
    if (sets &&& chipCaps t.loc.chip) == sets then .done s t none
    else if s.partHas (s.tenantOf t) need then
      .act (s.migrateTrap { t with arch := { t.arch with pc := t.arch.pc + 8, issued := t.arch.issued + 1 } } sets true)
    else .trap { cause := .noCapable, einfo := BitVec.ofNat 32 need })) s

/-- MIGR.req (R275). -/
def execMigrReq (w : FullS) (s : State) : Host.Outcome State Fault Refusal :=
  issueWord (migrWord w true (fun s t =>
    .done (s.updBlock t.block (fun b => { b with req := some (scalVal t.arch w.a % 256) })) t none)) s

/-- MIGR.pin (R275). -/
def execMigrPin (w : FullS) (s : State) : Host.Outcome State Fault Refusal :=
  issueWord (migrWord w false (fun s t => .done (s.updBlock t.block (fun b => { b with pin := true })) t none)) s

/-- MIGR.unpin (R275). -/
def execMigrUnpin (w : FullS) (s : State) : Host.Outcome State Fault Refusal :=
  issueWord (migrWord w false (fun s t => .done (s.updBlock t.block (fun b => { b with pin := false })) t none)) s

end Sys2Proof.Machine
end

