-- ==== Sys2Proof/Machine/HostRegs.lean ====
section
/-! DEFINITION. The launch queues' registers (09_execution_and_scheduling.md, R213), the aperture and remote accesses
(15_translation_and_host.md, R302, R305), partition records (16_partitions_preemption_power.md, R307–R312, R321), attestation (R330, R331),
the trace ring (18_traps_faults_redundancy.md, R363). -/

namespace Sys2Proof.Machine

/-! ### Launch queues -/

/-- A queue is enabled anew: a record whose read has begun is still read to its end, but the new indices do not count it (log 21). -/
def State.outdateRead (s : State) (f q : Nat) : State :=
  { s with waitPage := s.waitPage.map (fun w => if w.job = .record (.queue f q) then { w with old := true } else w) }

/-- Whether setting EN on a queue sets ERR (R213, R291, R330). -/
def State.queueBad (s : State) (f q : Nat) : Bool :=
  let c := s.ctx f q
  let size := s.regField f (0x40 * q + 8) 4 4
  s.recovery || size < 4 || !(s.reg f (0x40 * q + 4)).getLsbD 31 || (f == 0 && !s.partEn (s.regField 0 (0x40 * q + 8) 8 3)) ||
    !c.valid || c.asid == 0 || s.ctxs.any (fun d => d.valid && d.asid == c.asid && !(d.func == f && d.slot == q))

/-- A write of a queue's control word (Table 9.1): EN from 0 to 1 checks the queue and zeroes its indices; EN to 0 stops it. -/
def State.writeQueueCtl (s : State) (f q : Nat) (val : Word) : State :=
  let off := 0x40 * q + 8
  let en := s.regField f off 0 1 = 1
  let s := s.writeMasked f off (if en then 0x8 else if f = 0 then 0x7F8 else 0xF8) 0x4 val
  if en then (if val.getLsbD 0 then s else s.setField f off 0 1 0)
  else if !val.getLsbD 0 then s
  else if s.queueBad f q then s.setField f off 2 1 1
  else ((((s.outdateRead f q).setField f off 0 1 1).setReg f (off + 4) 0).setReg f (off + 8) 0)

/-- A write of WIDX (R213): one that would pass the ring's size halts the queue. -/
def State.writeWidx (s : State) (f q : Nat) (val : Word) : State :=
  let off := 0x40 * q
  if 2 ^ s.regField f (off + 8) 4 4 < (val - s.reg f (off + 0x10)).toNat then (s.setField f (off + 8) 2 1 1).setField f (off + 8) 0 1 0
  else s.setReg f (off + 0x0C) val

/-- LAUNCH_QUEUE_ENABLE (R213). -/
def execLaunchQueueEnable (func queue : Nat) (val : Word) (s : State) : Host.Outcome State Fault Refusal :=
  if 9 ≤ func || 4 ≤ queue || !val.getLsbD 0 || s.regField func (0x40 * queue + 8) 0 1 = 1 then .next s
  else happened (s.writeQueueCtl func queue val)

/-- LAUNCH_QUEUE_DISABLE (R213). -/
def execLaunchQueueDisable (func queue : Nat) (val : Word) (s : State) : Host.Outcome State Fault Refusal :=
  if 9 ≤ func || 4 ≤ queue || val.getLsbD 0 || s.regField func (0x40 * queue + 8) 0 1 = 0 then .next s
  else happened (s.writeQueueCtl func queue val)

/-- LAUNCH_QUEUE_WIDX (R213). -/
def execLaunchQueueWidx (func queue : Nat) (val : Word) (s : State) : Host.Outcome State Fault Refusal :=
  if s.recovery || 9 ≤ func || 4 ≤ queue then .next s else happened (s.writeWidx func queue val)

/-! ### The aperture -/

/-- The address space and address of an offset in BAR2 (R302); none while WINBASE names no device half, and none through a slot that is not valid or
does not itself give its ASID its address space. -/
def State.window (s : State) (f off : Nat) : Option (Nat × Nat) :=
  let at_ := s.reg64 f 0x3000
  let base := at_ - at_ % 2 ^ 28
  let c := s.ctx f (s.regField f 0x3008 0 2)
  if deviceHalf base && c.valid && (s.ctxOf c.asid).any (fun d => d.func == f && d.slot == c.slot) then some (c.asid, base + off) else none

/-- The size of BAR2 (R301). -/
def apertureSize : Nat := 2 ^ 28

/-- A request to a window that is no request: none is taken in recovery, of a function that is not there, of no bytes, or past the window's end. -/
def State.noWindow (s : State) (func off bytes : Nat) : Bool := s.recovery || 9 ≤ func || bytes = 0 || apertureSize < off + bytes

/-- APERTURE_READ (R302). -/
def execApertureRead (func off bytes : Nat) (s : State) : Host.Outcome State Fault Refusal :=
  let refuse (s : State) : Host.Outcome State Fault Refusal := happened ({ s with hostOut := s.hostOut ++ [HostMsg.unsupported func] }.winErr func)
  if s.noWindow func off bytes then .next s
  else match s.window func off with
    | none => refuse s
    | some (asid, va) => match s.outsideReads (.aperture func) asid (linePieces (bytes / 64 + 2) va bytes) [] [] with
      | (s, .ok bs _) => happened { s with hostOut := s.hostOut ++ [HostMsg.readDone func bs] }
      | (s, .fail _) => refuse s
      | (s, .wait) => .next s

/-- APERTURE_WRITE (R302): a posted write enters with a hub-zone tag. -/
def execApertureWrite (func off : Nat) (data : List Byte) (s : State) : Host.Outcome State Fault Refusal :=
  if s.noWindow func off data.length then .next s
  else match s.window func off with
    | none => happened (s.winErr func)
    | some (asid, va) =>
      let p : Posted := { src := .aperture func, asid := asid, va := va, want := 0, data := data, tags := Tags.empty.add hubZone s.tick s.tick }
      happened { s with posted := s.posted ++ [p] }

/-! ### Other packages -/

/-- What this package has asked another for at an address, and waits for: data, or a probe's answer. -/
def HostMsg.asks (m : HostMsg) (r : RemoteReq) (probe : Bool) : Bool :=
  match m with
  | .remoteRead d asid va _ => !probe && d == r.device && asid == r.asid && va == r.va.toNat
  | .remoteAtom d asid va _ _ _ _ => !probe && d == r.device && asid == r.asid && va == r.va.toNat
  | .remoteProbe d asid va => probe && d == r.device && asid == r.asid && va == r.va.toNat
  | _ => false

/-- A request of this package to another that waits for data, or for a probe's answer, of an address. -/
def State.asked (s : State) (r : RemoteReq) (probe : Bool) : Bool := s.hostOut.any (fun m => m.asks r probe)

/-- The requests still under way once one of them has been answered. -/
def State.answered (s : State) (r : RemoteReq) (probe : Bool) : State := { s with hostOut := s.hostOut.eraseP (fun m => m.asks r probe) }

/-- The lines that an operation is about to reach: of its next chunk's source and destination, and of its digest. -/
def EngOp.reaches (o : EngOp) (line : Nat) : Bool :=
  (match o.nextChunk with
   | some n => (o.chunkAt n).any (fun k => (o.src.spaceNo == 0 && (o.srcAt k).any (fun a => lineOf a == line)) ||
       (o.dst.spaceNo == 0 && lineOf (o.dst.at true k) == line))
   | none => false) || o.digest.any (fun a => lineOf a == line)

/-- Another package answers a request of this one with ACCESS, code 0x05 (R305). -/
def State.remoteFailed (s : State) (r : RemoteReq) : State :=
  let line := lineOf r.va.toNat
  let s := (s.answered r false).answered r true
  let fail (t : Team) : Team := { t with accs := t.accs.map (fun (a : Access) => { a with lanes := a.lanes.map (fun l =>
    if l.st = .waiting ∧ a.kind.space = .glob ∧ (a.pieces l).any (fun p => lineOf p.1 == line) then { l with st := .fault .access 0x05 0 } else l) }) }
  let s := (s.teams.filter (fun t => s.asidOf t == r.asid)).foldl (fun s t =>
    let t := fail t
    let s := s.setTeam t
    match t.run with
    | .fetch va => if lineOf va = line then s.fetchTrap { t with run := .ready } .access 0x05 else s
    | .landing va => if lineOf va = line then s.setTeam { t with run := .ready, unread := some va } else s
    | _ => s.resume t.uid) s
  (s.ops.filter (fun o => o.asid == r.asid && o.state == EngState.running && o.reaches line)).foldl (fun s o => s.failOp o.id .access r.va.toNat 0x05) s

/-- An access of another package as it stands staged, under a hub tag (R305, R176); none for an answer, or for one of no bytes. -/
def postedOf (r : RemoteReq) (tick : Nat) : Option Posted :=
  let p : Posted := { src := .device r.device, asid := r.asid, va := r.va.toNat, want := 0, data := [], tags := Tags.empty.add hubZone tick tick }
  match r.kind with
  | .read n => if n = 0 then none else some { p with want := n }
  | .write d => if d.isEmpty then none else some { p with data := d }
  | .atom op ty width vs => some { p with atom := some (op, ty, width, vs) }
  | .probe => some { p with probe := true }
  | .data _ => none
  | .refused => none

/-- REMOTE_ACCESS (R305, R176): an access to this package stands staged with a hub tag; data, or a probe's answer, answers a request of this
package; so does ACCESS, code 0x05. -/
def execRemoteAccess (r : RemoteReq) (s : State) : Host.Outcome State Fault Refusal :=
  let va := r.va.toNat
  if !s.deviceUp r.device || !deviceHalf va then .next s
  else match r.kind with
    | .data d =>
      if deviceOf va = s.devNum || !s.asked r d.isEmpty then .next s
      else happened { s.answered r d.isEmpty with remoteIn := s.remoteIn ++ [(r.asid, va, d)] }
    | .refused =>
      if deviceOf va = s.devNum || !(s.asked r false || s.asked r true) then .next s else happened (s.remoteFailed r)
    | _ => match postedOf r s.tick with
      | none => .next s
      | some p =>
        if deviceOf va != s.devNum then .next s
        else if (s.ctxOf r.asid).isNone then happened (s.sendLink (s.sliceDie va) r.asid 0 (.remoteRefused r.device 0x05))
        else happened { s with posted := s.posted ++ [p] }

/-! ### Partition records -/

/-- The code of the first check that a partition's record fails (R308). -/
def State.partBad (s : State) (p : Nat) : Option Nat :=
  let cl := s.reg 0 (partOff p)
  let others := (List.range 8).filter (fun q => q != p && s.partEn q)
  let base := s.saveBase p
  let size := s.saveSize p
  if cl = 0 || (List.range 32).any (fun n => cl.getLsbD n && !(s.chipOk (n / 4) && !s.clusterDisabled (n / 4) (n % 4))) then some 1
  else if others.any (fun q => (s.reg 0 (partOff q) &&& cl) != 0) then some 2
  else if size = 0 || !s.physOk base || !s.physOk (base + size - 1) || base / 2 ^ 36 != (base + size - 1) / 2 ^ 36 ||
      (s.stack (base / 2 ^ 36)).failed || others.any (fun q => base < s.saveBase q + s.saveSize q && s.saveBase q < base + size) then some 3
  else if s.bucketSize p < 4096 || s.bucketRate p = 0 then some 4
  else none

/-- The queues of a partition stop as if their EN were cleared (R308). -/
def State.stopQueues (s : State) (p : Nat) : State :=
  let s := (List.range 4).foldl (fun s q => s.setField (p + 1) (0x40 * q + 8) 0 1 0) s
  (List.range 4).foldl (fun s q => if s.regField 0 (0x40 * q + 8) 8 3 = p then s.setField 0 (0x40 * q + 8) 0 1 0 else s) s

/-- Stops every resident block of a partition (R312); one that is stopping already is then stopped for this reason (R308). -/
def State.stopPart (s : State) (p why : Nat) : State :=
  (s.blocks.filter (fun b => s.blockTenant b == some p)).foldl (fun s b => match s.block? b.uid with
    | some b =>
      if b.state = .resident && b.role != .trailing then s.stopPair b why
      else match b.state with
        | .stopping _ since =>
          let s := s.updBlock b.uid (fun x => { x with state := .stopping why since, move := if x.move = 1 then 1 else 0 })
          if b.role = .leading && (s.block? b.mate).any (fun m => m.state == .resident) then s.stopBlock b.mate why else s
        | _ => s
    | none => s) s

/-- EN is written 0 (R308). -/
def State.disablePart (s : State) (p : Nat) : State :=
  let s := s.stopQueues p
  if !s.blocks.any (fun b => s.blockTenant b == some p && b.state != BlockState.exited) then s.clearPart p
  else
    let s := (s.stopPart p 3)
    { s with closing := insertNat s.closing p, launches := s.launches.filter (fun r => r.tenant != p) }

/-- A write of a partition's control word (Table 16.1). -/
def State.writePartCtl (s : State) (p : Nat) (val : Word) : State :=
  let off := partOff p + 0x1C
  let en := s.partEn p
  let sus := s.partSuspend p
  let s := s.writeMasked 0 off 0x2 0x8 val
  let s := if val.getLsbD 1 && !sus then s.stopPart p 2 else s
  if en then (if val.getLsbD 0 || s.closing.contains p then s else s.disablePart p)
  else if !val.getLsbD 0 then s
  else if s.recovery then s
  else match s.partBad p with
    | some c => (s.setField 0 off 3 1 1).setField 0 off 4 4 c
    | none => (s.setField 0 off 0 1 1).attachAll

/-- PARTITION_ENABLE (R308). -/
def execPartitionEnable (part : Nat) (val : Word) (s : State) : Host.Outcome State Fault Refusal :=
  if 8 ≤ part || s.recovery || s.partEn part || !val.getLsbD 0 then .next s else happened (s.writePartCtl part val)

/-- PARTITION_DISABLE (R308, R312). -/
def execPartitionDisable (part : Nat) (val : Word) (s : State) : Host.Outcome State Fault Refusal :=
  if 8 ≤ part || s.recovery || !s.partEn part || val.getLsbD 0 then .next s else happened (s.writePartCtl part val)

/-- SUSPEND (R312). -/
def execSuspend (part : Nat) (val : Word) (s : State) : Host.Outcome State Fault Refusal :=
  if 8 ≤ part || s.recovery || s.partSuspend part || !val.getLsbD 1 then .next s else happened (s.writePartCtl part val)

/-- SUSPEND_CLEAR (R312, R321): the saved blocks are pending at once. -/
def execSuspendClear (part : Nat) (val : Word) (s : State) : Host.Outcome State Fault Refusal :=
  if 8 ≤ part || s.recovery || !s.partSuspend part || val.getLsbD 1 then .next s else happened (s.writePartCtl part val)

/-! ### Attestation -/

/-- The configuration that a report covers: partition records as 32 bytes each, and a byte of V, HOST and REMOTE with the ASID of each of
the function's context slots (R331; the layout is the model's, log 22). -/
def State.configBytes (s : State) (f : Nat) : List Byte :=
  let parts := if f = 0 then List.range 8 else [f - 1]
  parts.flatMap (fun p => (List.range 8).flatMap (fun i => natBytes 4 (s.reg 0 (partOff p + 4 * i)).toNat)) ++
    (List.range 4).flatMap (fun q => natBytes 4 ((s.reg 0 (0x4000 + 0x80 * f + 0x20 * q + 12)).toNat % 2 ^ 19))

/-- The first 512 bytes of a report (Table 16.9). -/
def State.reportBody (s : State) (f : Nat) (nonce : List Byte) : List Byte :=
  natBytes 4 0x5441544E ++ natBytes 2 1 ++ natBytes 2 f ++ nonce ++ natBytes 192 Config.firmwareDigests.toNat ++
    natBytes 4 Config.securityVersion.toNat ++ natBytes 4 (capsWord s.variant 0 / 256) ++ natBytes 16 Config.serialNumber.toNat ++
    sha3 (s.configBytes f) ++ natBytes 8 s.tick ++ natBytes 152 0

/-- The whole report: the body and the signature over its digest. -/
def State.report (s : State) (f : Nat) (nonce : List Byte) : List Byte :=
  let body := s.reportBody f nonce
  body ++ natBytes 4627 (Config.signature (BitVec.ofNat 512 (bytesNat (sha3 body)))).toNat

/-- A write of the attestation control word (R331): GO writes the report and sets DONE; a buffer that the host refuses sets ERR. -/
def State.writeAttest (s : State) (f : Nat) (val : Word) : State :=
  let s := s.writeMasked f 0x7008 0 0x4 val
  if !val.getLsbD 0 then s
  else
    let at_ := s.reg64 f 0x7000 / 4096 * 4096
    if !s.hostTakes at_ 8192 then s.setField f 0x7008 2 1 1
    else { s with hostMem := s.hostMem.put at_ (s.report f (s.hostMem.bytes at_ 64)) }.setField f 0x7008 1 1 1

/-- ATTESTATION_REQUEST (R331). -/
def execAttestationRequest (func : Nat) (val : Word) (s : State) : Host.Outcome State Fault Refusal :=
  if 9 ≤ func || !val.getLsbD 0 then .next s else happened (s.writeAttest func val)

/-! ### The trace ring -/

/-- A write of the trace control word (Table 18.6): one that sets EN with SIZE out of range is ignored. -/
def State.writeTrace (s : State) (f : Nat) (val : Word) : State :=
  let size := val.toNat / 2 % 32
  if val.getLsbD 0 && (size < 7 || 24 < size) then s else s.writeMasked f 0xA008 0x3F 0 val

/-- TRACE_ENABLE (R363). -/
def execTraceEnable (func : Nat) (val : Word) (s : State) : Host.Outcome State Fault Refusal :=
  if s.recovery || 9 ≤ func || !val.getLsbD 0 then .next s else happened (s.writeTrace func val)

/-! ### Reset -/

/-- PACKAGE_RESET (R22): the hub leaves reset with every register at its reset value and the tick count at 0. Host memory is not the
package's; the agenda, the draws and the firmware images are not either. A stage that does not verify, or an image below the fused security
version, leaves the device in recovery (R330, log 5). -/
def execPackageReset (s : State) : Host.Outcome State Fault Refusal :=
  .next { State.resetOf s.variant with hostMem := s.hostMem, hostBad := s.hostBad, agenda := s.agenda, free := s.free, boot := s.boot, recovery := !s.boot.good }

end Sys2Proof.Machine
end

