-- ==== Sys2Proof/Machine/Debug.lean ====
section
/-! DEFINITION. The commands of the debug page, samples (21_debug_and_watchpoint.md, R389–R393, R398–R400). -/

namespace Sys2Proof.Machine

/-! ### Commands -/

/-- The fields of a command (Table 21.1). -/
structure DbgCmd where
  op      : Nat
  slot    : Nat
  psel    : Nat
  core    : Nat
  cluster : Nat
deriving DecidableEq, Repr

def dbgCmd (w : Word) : DbgCmd :=
  { op := w.toNat / 2 ^ 16 % 16, slot := w.toNat / 2 ^ 8 % 32, psel := w.toNat / 2 ^ 6 % 4, core := w.toNat / 2 ^ 5 % 2, cluster := w.toNat % 32 }

/-- The team that a command names. -/
def State.dbgTeam (s : State) (c : DbgCmd) : Option Team :=
  s.teams.find? (fun t => t.kind != .lantern && t.loc.cl == c.cluster && t.loc.core == c.core && t.loc.coreSlot == c.slot)

/-- The stop record's fields of a command. -/
def State.cmdStop (s : State) (trigger cluster : Nat) : StopReq :=
  { cluster := cluster, trigger := trigger, instr := 0, addr := 0, wp := 0, core := 0, slot := 0, kind := 0, since := s.tick }

/-- Frozen teams of clusters take up their recorded states (R391). -/
def State.unfreeze (s : State) (cls : List Nat) : State :=
  { s with teams := s.teams.map (fun t => if cls.contains t.loc.cl then { t with frozen := false, stepMode := .off } else t)
           stopped := s.stopped.filter (fun x => !cls.contains x.1) }

/-- The frozen team that a command names, or its error. -/
def State.dbgFrozen (s : State) (f code : Nat) (c : DbgCmd) (g : Team → State) : State :=
  match s.dbgTeam c with
  | none => s.dbgErr f code
  | some t => if t.frozen then g t else s.dbgErr f code

/-- A step of a frozen team begins (R393). -/
def State.beginStep (s : State) (f : Nat) (trap : Bool) (c : DbgCmd) : State :=
  s.dbgFrozen f 0x24 c (fun t =>
    if trap && t.arch.tvec == 0 then s.dbgErr f 0x25 else s.setTeam { t with stepMode := .armed f trap })

/-- The buffer takes what a command writes. -/
def State.dbgGive (s : State) (f : Nat) (bs : List Byte) : State :=
  match s.dbgWrite f bs with
  | some s => s.dbgDone f
  | none => s.dbgErr f 0x23

/-- SAVE ends once every region of the team has cleared (R399). -/
def State.trySave (s : State) (f : Nat) (c : DbgCmd) : State :=
  s.dbgFrozen f 0x24 c (fun t => if t.regions.isEmpty then s.dbgGive f (storedForm (s.teamImage t)) else s)

/-! ### LOAD -/

/-- LOAD of a team from the buffer (R399). -/
def State.loadTeam (s : State) (f : Nat) (c : DbgCmd) : State :=
  match s.dbgTeam c with
  | none => s.dbgErr f 0x0D
  | some t =>
    let at_ := (s.dbgBuf f).1
    let n := min (fieldAt (s.hostMem.bytes at_ 64) 12 4) (s.dbgBuf f).2
    let bs := s.hostMem.bytes at_ (max 64 n)
    match unstore bs with
    | .error x => s.dbgErr f x.1
    | .ok b => match failedCheck (s.loadChecks t bs b) with
      | some x => s.dbgErr f x.1
      | none =>
        let a := t.readImage b s.nextUid
        let run := if a.pc = t.arch.pc then t.run else .ready
        (({ s with nextUid := s.nextUid + a.stack.length }.setTeam { t with arch := a, run := run, needHead := true }).dbgDone f)

/-! ### A write of CMD -/

/-- Carries out a command whose OP, reach and session are in order. -/
def State.runCmd (s : State) (f : Nat) (c : DbgCmd) : State :=
  match c.op with
  | 1 => s.stopTeams f (fun t => t.kind != .lantern && t.loc.cl == c.cluster && t.loc.core == c.core && t.loc.part == c.psel) (s.cmdStop 1 c.cluster)
  | 2 => s.stopTeams f (fun t => t.loc.cl == c.cluster) (s.cmdStop 2 c.cluster)
  | 3 => (s.unfreeze [c.cluster]).dbgDone f
  | 4 => s.beginStep f false c
  | 5 => s.beginStep f true c
  | 6 => s.dbgFrozen f 0x24 c (fun t => s.dbgGive f (pad64 (s.teamImage t) ++ t.pendingSection))
  | 7 => s.trySave f c
  | _ => s.loadTeam f c

/-- A write of CMD (R389): a command starts while BUSY is 0; a SAVE that waits for clearance is tried again. -/
def State.writeCmd (s : State) (f : Nat) (cmd : Word) : State :=
  let c := dbgCmd cmd
  if s.regField f 0xC004 31 1 = 1 then
    if c.op = 7 && dbgCmd (s.reg f 0xC004) == c then s.trySave f c else s
  else
    let s := s.setReg f 0xC004 (cmd &&& 0x000F1FFF)
    if c.op = 0 then s
    else
      let s := s.setField f 0xC004 31 1 1
      if !s.dbgReach f c.cluster then s.dbgErr f 0x20
      else if 3 < c.op && s.regField f 0xC000 0 1 = 0 then s.dbgErr f 0x21
      else if 8 < c.op then s.dbgErr f 0x22
      else s.runCmd f c

/-- One command row: the write of CMD that names its OP. -/
def dbgRow (op func : Nat) (cmd : Word) (s : State) : Host.Outcome State Fault Refusal :=
  if s.recovery || 9 ≤ func || (dbgCmd cmd).op != op then .next s else happened (s.writeCmd func cmd)

/-- STOPPART (R390). -/
def execStoppart (func : Nat) (cmd : Word) (s : State) : Host.Outcome State Fault Refusal := dbgRow 1 func cmd s

/-- STOPCLUS (R390). -/
def execStopclus (func : Nat) (cmd : Word) (s : State) : Host.Outcome State Fault Refusal := dbgRow 2 func cmd s

/-- RESUME (R391). -/
def execResume (func : Nat) (cmd : Word) (s : State) : Host.Outcome State Fault Refusal := dbgRow 3 func cmd s

/-- STEP (R393). -/
def execStep (func : Nat) (cmd : Word) (s : State) : Host.Outcome State Fault Refusal := dbgRow 4 func cmd s

/-- STEPTRAP (R393). -/
def execSteptrap (func : Nat) (cmd : Word) (s : State) : Host.Outcome State Fault Refusal := dbgRow 5 func cmd s

/-- INSPECT (R398). -/
def execInspect (func : Nat) (cmd : Word) (s : State) : Host.Outcome State Fault Refusal := dbgRow 6 func cmd s

/-- SAVE (R399). -/
def execSave (func : Nat) (cmd : Word) (s : State) : Host.Outcome State Fault Refusal := dbgRow 7 func cmd s

/-- LOAD (R399). -/
def execLoad (func : Nat) (cmd : Word) (s : State) : Host.Outcome State Fault Refusal := dbgRow 8 func cmd s

/-- A write of DBGCTL (R389): clearing EN resumes every cluster that the function has stopped. -/
def State.writeDbgCtl (s : State) (f : Nat) (val : Word) : State :=
  let was := s.regField f 0xC000 0 1 = 1
  let s := s.writeMasked f 0xC000 0x3 0 val
  if was && !val.getLsbD 0 then s.unfreeze ((s.stopped.filter (fun x => x.2 == f)).map (·.1)) else s

/-- DEBUG_DISABLE (R389). -/
def execDebugDisable (func : Nat) (val : Word) (s : State) : Host.Outcome State Fault Refusal :=
  if s.recovery || 9 ≤ func || val.getLsbD 0 || s.regField func 0xC000 0 1 = 0 then .next s else happened (s.writeDbgCtl func val)

/-! ### Samples -/

/-- A sample record (Table 21.7); the figures that an implementation measures come from Config, by a running number. -/
def Sample.record (x : Sample) (n : Nat) : List Byte :=
  let fig (i : Nat) : Nat := (Config.sampleFigure (n + i)).toNat
  let bit (b : Bool) (i : Nat) : Nat := if b then 2 ^ i else 0
  natBytes 8 x.pc.toNat ++ natBytes 8 x.gridtag.toNat ++ natBytes 8 x.issueT ++ natBytes 1 x.core ++ natBytes 1 x.slot ++ natBytes 1 x.part ++
    natBytes 1 (bit x.squashed 0 + bit ((Config.sampleFigure n).getLsbD 0) 1 + bit x.remote 2 + bit x.paged 3 + bit x.geode 4) ++
    natBytes 2 x.lanes ++ natBytes 2 (fig 1) ++ natBytes 1 x.replays ++ natBytes 1 0 ++ natBytes 2 (fig 2) ++ natBytes 4 (fig 3) ++
    natBytes 4 (fig 4) ++ natBytes 4 (fig 5) ++ natBytes 4 (fig 6) ++ natBytes 4 (fig 7) ++
    natBytes 4 ((x.doneT.map (fun t => t - x.issueT)).getD (fig 8)) ++ natBytes 4 0

/-- SAMPLE_RECORD (R400): the record of a sample whose lanes have completed, or that was squashed, goes to its function's ring, or is
dropped and counted. -/
def execSampleRecord (idx : Nat) (s : State) : Host.Outcome State Fault Refusal :=
  match s.samples[idx]? with
  | none => .next s
  | some x =>
    if x.doneT.isNone && !x.squashed then .next s
    else
      let f := x.func
      let s : State := { s with samples := s.samples.eraseIdx idx, free := s.free + 9 }
      let size := s.regField f 0xC02C 0 5
      let w := (s.reg f 0xC030).toNat
      if 2 ^ size ≤ (s.reg f 0xC030 - s.reg f 0xC034).toNat then
        .next (s.setReg f 0xC038 (BitVec.ofNat 32 (min ((s.reg f 0xC038).toNat + 1) 0xFFFFFFFF)))
      else
        let at_ := s.reg64 f 0xC024 / 4096 * 4096 + 64 * (w % 2 ^ size)
        .next ((s.hostPut at_ (x.record (s.free - 9))).setReg f 0xC030 (BitVec.ofNat 32 (w + 1)))

end Sys2Proof.Machine
end

