-- ==== Sys2Proof/Machine/Dump.lean ====
section
/-! DEFINITION. Core dumps (18_traps_faults_redundancy.md, R374–R376). -/

namespace Sys2Proof.Machine

/-- A launch record's 128 bytes (Table 9.2). -/
def LaunchRec.image (r : LaunchRec) : List Byte :=
  natBytes 8 r.entry.toNat ++ natBytes 8 r.args.toNat ++ natBytes 8 r.compaddr.toNat ++ natBytes 8 r.compval.toNat ++ natBytes 4 r.nblock ++
    natBytes 4 r.spanblk ++ natBytes 2 r.tw ++ natBytes 1 r.gw ++ natBytes 1 r.teams ++ natBytes 2 r.regs ++ natBytes 1 r.acc ++ natBytes 1 0 ++
    natBytes 4 r.pocket ++ natBytes 4 r.chamber ++ natBytes 4 r.gallery ++ natBytes 2 r.eject ++ natBytes 2 r.spill ++ natBytes 2 r.caps ++
    natBytes 1 r.prio ++ [r.mode] ++ natBytes 4 0 ++ natBytes 8 r.gridtag.toNat ++ natBytes 48 0

/-- Section 1: the trap record of 128 bytes (the places of its fields, and the first 320 lanes of its two masks, are the model's choice,
log 25). -/
def State.trapRecord (s : State) (g : Grid) (t : Team) : List Byte :=
  let a := t.arch
  natBytes 1 ((g.status.getD 0).toNat / 256) ++ natBytes 1 t.loc.pkgCore ++ natBytes 1 t.loc.coreSlot ++ natBytes 1 t.idx ++
    natBytes 4 (((s.block? t.block).map (fun (b : Block) => b.idx)).getD 0) ++ natBytes 8 a.bank.epc.toNat ++ natBytes 8 a.bank.eaddr.toNat ++
    natBytes 4 a.bank.ecause.toNat ++ natBytes 4 a.bank.estat.toNat ++ natBytes 4 a.bank.einfo.toNat ++ natBytes 4 a.flags.toNat ++
    natBytes 4 a.gdetail.toNat ++ natBytes 4 (s.modeWord t) ++ natBytes 40 a.bank.emask.toNat ++ natBytes 40 a.bank.elive.toNat

/-- Section 4: the last 64 notices of the team's zones, its cluster's and its die's. -/
def State.noticeList (s : State) (t : Team) : List Byte :=
  let ns := s.log.filterMap (fun e => match e with
    | .notice n => if n.zone = t.loc.zone ∨ n.zone = dieZone t.loc.chip then some n else none
    | _ => none)
  (ns.drop (ns.length - 64)).flatMap (fun n => natBytes 2 n.zone ++ natBytes 2 n.kind ++ natBytes 4 n.sensor ++ natBytes 8 n.stamp)

/-- Section 7: the grid's other resident and saved blocks, 32 bytes each. -/
def State.otherBlocks (s : State) (g : Grid) (b : Nat) : List Byte :=
  (s.blocks.filter (fun x => x.grid == g.uid && x.uid != b && (x.placed || x.state == .saved))).flatMap (fun x =>
    natBytes 4 x.idx ++ natBytes 4 (if x.placed then 4 * x.chip + x.cluster else 0xFF) ++ natBytes 4 (if x.placed then 0 else 1) ++ natBytes 20 0)

/-- The sections of a dump in order (Table 18.13); an absent one is empty. -/
def State.dumpSections (s : State) (g : Grid) : List (List Byte) :=
  let u := (g.aborted.map (·.1)).getD 0
  let saved := s.blocks.flatMap (·.teamSeed)
  let tail (b : Nat) : List (List Byte) := [g.lrec.image, s.otherBlocks g b]
  match (s.teams ++ saved).find? (fun t => t.uid == u && t.grid == g.uid) with
  | none => [[], [], [], [], []] ++ tail 0
  | some t =>
    let img := match s.block? t.block with
      | some b => storedForm (s.blockImage b (if b.teamSeed.isEmpty then s.teamsOf b.uid else b.teamSeed))
      | none => []
    [s.trapRecord g t, storedForm (s.teamImage t), t.pendingSection, s.noticeList t, img] ++ tail t.block

/-- Lays sections out from offset 0x100: kind, flags, length, offset of each, and the bytes written (R375, R376). -/
def layDump (size : Nat) : List (Nat × List Byte) → Nat → Bool → List (Nat × Nat × Nat × Nat) × List Byte × Bool
  | [], _, cut => ([], [], cut)
  | (k, bs) :: rest, at_, cut =>
    if bs.isEmpty || cut then
      let r := layDump size rest at_ cut
      ((k, 0, 0, 0) :: r.1, r.2.1, r.2.2)
    else
      let p := pad64 bs
      if at_ + p.length ≤ size then
        let r := layDump size rest (at_ + p.length) cut
        ((k, 1, bs.length, at_) :: r.1, p ++ r.2.1, r.2.2)
      else
        let n := (size - at_) / 64 * 64
        let r := layDump size rest (at_ + n) true
        ((k, 2, n, at_) :: r.1, p.take n ++ r.2.1, true)

/-- The header's 256 bytes (Table 18.12). -/
def dumpHeader (g : Grid) (status required written size fault : Nat) (dir : List (Nat × Nat × Nat × Nat)) (crc : Nat) : List Byte :=
  natBytes 4 0x504D5544 ++ natBytes 2 1 ++ natBytes 2 status ++ natBytes 8 required ++ natBytes 8 written ++ natBytes 8 size ++
    natBytes 8 g.lrec.gridtag.toNat ++ natBytes 1 ((g.status.getD 0).toNat / 256) ++ natBytes 7 0 ++ natBytes 8 ((g.aborted.map (·.2)).getD 0) ++
    natBytes 8 fault ++ (List.range 11).flatMap (fun i => match dir[i]? with
      | some (k, f, n, o) => natBytes 2 k ++ natBytes 2 f ++ natBytes 4 n ++ natBytes 8 o
      | none => natBytes 16 0) ++ natBytes 4 crc ++ natBytes 12 0

/-- The whole dump in a buffer of some size. It stops at the first 4 KiB unit past the header's that the host refuses (R376). -/
def State.dumpBytes (s : State) (g : Grid) (at_ size : Nat) : List Byte :=
  let secs := s.dumpSections g
  let lay (n : Nat) : List (Nat × Nat × Nat × Nat) × List Byte × Bool := layDump n (secs.mapIdx (fun i x => (i + 1, x))) 0x100 false
  let (dir, body, cut) := lay size
  let required := 0x100 + ((secs.map (fun x => (pad64 x).length)).foldl (· + ·) 0)
  match (List.range ((0x100 + body.length + 4095) / 4096)).find? (fun k => k != 0 && !s.hostTakes (at_ + 4096 * k) 4096) with
  | some k =>
    let (dir, body, _) := lay (4096 * k)
    dumpHeader g 3 required (4096 * k) size (at_ + 4096 * k) dir (crc32c body) ++ body
  | none => dumpHeader g (if cut then 2 else 1) required (0x100 + body.length) size 0 dir (crc32c body) ++ body

/-- DUMP_WRITE (R374, R376): firmware writes the dump that an abort of the function began, and the grid's completion record may follow. -/
def execDumpWrite (func : Nat) (s : State) : Host.Outcome State Fault Refusal :=
  match s.grids.find? (fun g => g.func == func && g.dump == DumpState.writing) with
  | none => .next s
  | some g =>
    let size := 4096 * (s.reg func 0x9008).toNat
    let past (s : State) : State := ((s.updGrid g.uid (fun g => { g with dump := .ended })).setField func 0x900C 1 1 0).setField func 0x900C 2 1 1
    let at_ := s.reg64 func 0x9000 / 4096 * 4096
    if size < 384 || !s.hostTakes at_ 4096 then happened (past ({ s with log := s.log ++ [LogEnt.dumpFault func] }.setField func 0x900C 3 1 1))
    else happened (past { s with hostMem := s.hostMem.put at_ (s.dumpBytes g at_ size) })

end Sys2Proof.Machine
end

