-- ==== Sys2Proof/Machine/Checkpoint.lean ====
section
/-! DEFINITION. Step-boundary stops and shard copies of a checkpoint (18_traps_faults_redundancy.md, R377–R379). -/

namespace Sys2Proof.Machine

/-- PARTS: the partitions of a request. -/
def State.ckptParts (s : State) : List Nat := (List.range 8).filter (fun p => (s.reg 0 0xD00C).getLsbD p)

/-- An entry of the shard list (Table 18.16), with whether its reserved bytes are 0. -/
def shardOf (bs : List Byte) : Shard × Bool :=
  ({ part := fieldAt bs 0 1, slot := fieldAt bs 1 1, src := fieldAt bs 8 8, dst := fieldAt bs 16 8, len := fieldAt bs 24 8 }, fieldAt bs 2 6 == 0)

/-- The shard list in host memory. -/
def State.shardList (s : State) : List (Shard × Bool) :=
  let at_ := s.reg64 0 0xD010 / 32 * 32
  (List.range (s.regField 0 0xD018 0 16)).map (fun i => shardOf (s.hostMem.bytes (at_ + 32 * i) 32))

/-- The checks at GO (R379). -/
def State.ckptValid (s : State) : Bool :=
  let parts := s.ckptParts
  let n := s.regField 0 0xD018 0 16
  !parts.isEmpty && parts.all s.partEn && parts.contains (s.regField 0 0xD00C 8 3) && deviceHalf (s.reg64 0 0xD000) && 1 ≤ n &&
  128 + 96 * n ≤ (s.reg 0 0xD024).toNat &&
  s.shardList.all (fun x => x.2 && parts.contains x.1.part && x.1.slot < 4 && x.1.src % 16 == 0 && x.1.dst % 16 == 0 && x.1.len % 16 == 0 &&
    x.1.len != 0)

/-- GO (R379): the request is checked, and waits for the step word. -/
def State.ckptGo (s : State) : State :=
  if !s.ckptValid then (s.setField 0 0xD038 3 1 1).setField 0 0xD038 8 4 1
  else { s.setField 0 0xD038 1 1 1 with
         ckpt := { phase := .waiting, shards := s.shardList.map (·.1), sums := [], op := none, pollAt := s.tick } }

/-- A write of the checkpoint control word (Table 18.15). -/
def State.writeCkpt (s : State) (val : Word) : State :=
  let busy := s.regField 0 0xD038 1 1 = 1
  let s := s.writeMasked 0 0xD038 0 0xC val
  if val.getLsbD 4 && busy && s.ckpt.phase == .waiting then (s.jobDone .stepWord).ckptErr 5
  else if val.getLsbD 0 && !busy then s.ckptGo
  else s

/-- CHECKPOINT_GO (R379). -/
def execCheckpointGo (val : Word) (s : State) : Host.Outcome State Fault Refusal :=
  if s.recovery || !val.getLsbD 0 then .next s else happened (s.writeCkpt val)

/-- CHECKPOINT_ABORT (R379). -/
def execCheckpointAbort (val : Word) (s : State) : Host.Outcome State Fault Refusal :=
  if s.recovery || !val.getLsbD 4 then .next s else happened (s.writeCkpt val)

/-! ### The poll -/

/-- The ticks between reads of the step word (R377). -/
def pollTicks : Nat := 1050

/-- The address space of a slot of a partition's function (R301). -/
def State.partAsid (s : State) (part slot : Nat) : Nat := (s.ctx (part + 1) slot).asid

/-- SUSPEND is cleared for PARTS. -/
def State.resumeParts (s : State) : State := s.ckptParts.foldl (fun s p => s.setField 0 (partOff p + 0x1C) 1 1 0) s

/-- The partitions of PARTS are suspended as SUSPEND does (R379). -/
def State.suspendParts (s : State) : State := s.ckptParts.foldl (fun s p => (s.stopPart p 5).setField 0 (partOff p + 0x1C) 1 1 1) s

/-- Reads the step word as an acquire of scope `.sys`. -/
def State.readStep (s : State) : State × DispRead :=
  let asid := s.partAsid (s.regField 0 0xD00C 8 3) (s.regField 0 0xD00C 11 2)
  let va := s.reg64 0 0xD000 / 4 * 4
  match s.reached asid va with
  | (s, x) => match x.check .read false with
    | .ok h base _ _ _ =>
      if s.badData h base || s.tagAt h base != .value then (s, .fail)
      else (s, .bytes (s.overlayPending .glob asid 0 va (s.lineBytes asid va h base 4)))
    | .absent => match s.startMiss asid va 0 0 with
      | (s, true) => (s.awaitPage .stepWord asid (missPage va), .wait (missPage va))
      | (s, false) => (s, .fail)
    | .remote d => match s.frame? asid va with
      | some f => (s.dropFrame asid va, .bytes f)
      | none =>
        let m := HostMsg.remoteRead d asid va 4
        (s.askLink (s.sliceDie va) asid 4 m, .wait 0)
    | .bad _ => (s, .fail)

/-- The copy of a shard in digest mode begins, on the first die that works (R379). -/
def State.startShard (s : State) (x : Shard) : State :=
  let (id, s) := s.fresh
  let (none_, s) := s.fresh
  let die := ((List.range 8).find? s.chipOk).getD 0
  let o : EngOp :=
    { id := id, team := none_, owner := .controller, block := none_, core := 0, span := none_, grid := none_, asid := s.partAsid x.part x.slot,
      die := die, tenant := x.part, region := 0, cls := 0, pc := 0, kind := .copy, src := flatShape 0 x.src x.len 0, dst := flatShape 0 x.dst x.len 0,
      word := 0, told := false, younger := 0, state := .queued, index := [], slot := none, nextRead := 0, staged := [], committed := [], bytes := 0, strikes := [],
      sha := List.replicate 25 0, barrier := none, digest := some 0, digestOk := false, page := none, fail := none }
  { s with ops := s.ops ++ [o], ckpt := { s.ckpt with op := some id } }

/-- This package's part of the manifest (Table 18.14). -/
def State.manifest (s : State) : List Byte :=
  natBytes 4 0x464E4D4A ++ natBytes 2 1 ++ natBytes 2 (s.regField 0 0xD018 16 16) ++ natBytes 4 s.ckpt.shards.length ++ natBytes 4 0 ++
    (List.range 4).flatMap (fun i => natBytes 4 (s.reg 0 (0xD028 + 4 * i)).toNat) ++ natBytes 8 (s.reg 0 0xD008).toNat ++ natBytes 88 0 ++
    (s.ckpt.shards.zip s.ckpt.sums).flatMap (fun x => natBytes 1 s.devNum ++ natBytes 7 0 ++ natBytes 8 x.1.src ++ natBytes 8 x.1.len ++ x.2 ++
      natBytes 8 0)

/-- Every shard has been copied: the manifest part is written, SUSPEND cleared, DONE set. -/
def State.finishCkpt (s : State) : State :=
  let s := (s.hostPut (s.reg64 0 0xD01C / 64 * 64) s.manifest).resumeParts
  { (s.setField 0 0xD038 1 1 0).setField 0 0xD038 2 1 1 with ckpt := Ckpt.reset }

/-- A shard's copy is over. -/
def State.dropOp (s : State) (id : Nat) : State := { s with ops := s.ops.filter (fun o => o.id != id) }

/-- The shard copies go on: the present one has finished, failed or is under way; then the next begins. -/
def State.copyShards (s : State) : State :=
  match s.ckpt.op.bind s.op? with
  | some o =>
    if o.fail.isSome || (s.die o.die).failed then ((s.dropOp o.id).resumeParts).ckptErr 3
    else if o.state != EngState.finished then s
    else { s.dropOp o.id with ckpt := { s.ckpt with op := none, sums := s.ckpt.sums ++ [shaFinish o.sha o.total] } }
  | none => match s.ckpt.shards[s.ckpt.sums.length]? with
    | some x => s.startShard x
    | none => s.finishCkpt

/-- STEP_WORD_POLL (R377, R379): the step word is read every 1,050 ticks; once it holds S the partitions are suspended, and once they are
saved the shards are copied. -/
def execStepWordPoll (s : State) : Host.Outcome State Fault Refusal :=
  match s.ckpt.phase with
  | .idle => .next s
  | .waiting =>
    if s.tick < s.ckpt.pollAt then .next s
    else
      let s : State := { s with ckpt := { s.ckpt with pollAt := s.tick + pollTicks } }
      match s.readStep with
      | (s, .fail) => happened (s.ckptErr 2)
      | (s, .wait _) => .next s
      | (s, .bytes bs) =>
        let s := s.jobDone .stepWord
        if bytesNat bs != (s.reg 0 0xD008).toNat then .next s
        else happened { s.suspendParts with ckpt := { s.ckpt with phase := .suspending } }
  | .suspending =>
    if s.ckptParts.all (fun p => s.regField 0 (partOff p + 0x1C) 2 1 == 1) then happened { s with ckpt := { s.ckpt with phase := .copying } }
    else .next s
  | .copying => happened s.copyShards

end Sys2Proof.Machine
end

