-- ==== Sys2Proof/Machine/FieldTest.lean ====
section
/-! DEFINITION. Field tests of clusters (18_traps_faults_redundancy.md, R372, R373). -/

namespace Sys2Proof.Machine

/-- Cluster n = 4c + k is present. -/
def State.clusterThere (s : State) (n : Nat) : Bool := s.chipOk (n / 4) && !s.clusterDisabled (n / 4) (n % 4)

/-- FIELD_TEST_STEP (R372, R373): a structural test step of a unit runs in idle time, or as ballast, whose results are reported alike (R329); a unit that fails marks its cluster draining and
queued. -/
def execFieldTestStep (cluster unit : Nat) (pass : Bool) (s : State) : Host.Outcome State Fault Refusal :=
  if 32 ≤ cluster || unit = 0 || 8 < unit || !s.clusterThere cluster then .next s
  else
    let s := { s with log := s.log ++ [LogEnt.unitTest cluster unit pass] }
    if pass then .next s else .next ((s.setField 0 (testOff 0 cluster) 8 8 unit).queueTest 0 cluster)

/-- FIELD_TEST_QUEUE (R373): the full test set runs on a queued cluster that holds no block; a pass clears the mark, a failure disables
the cluster. -/
def execFieldTestQueue (cluster unit : Nat) (pass : Bool) (s : State) : Host.Outcome State Fault Refusal :=
  let off := testOff 0 cluster
  if 32 ≤ cluster || !s.clusterThere cluster || s.regField 0 off 0 1 = 0 || !(s.blocksOn (cluster / 4) (cluster % 4)).isEmpty then .next s
  else
    let s := { s with log := s.log ++ [LogEnt.unitTest cluster unit pass] }
    let s := s.setField 0 off 0 1 0
    if pass then .next ((s.setField 0 off 1 1 0).setField 0 off 16 16 (min (s.regField 0 off 16 16 + 1) 65535))
    else .next ((s.setField 0 off 2 1 1).setField 0 off 8 8 unit)

end Sys2Proof.Machine
end

