-- ==== Sys2Proof/Machine/Lane.lean ====
section
/-! DEFINITION. The conversion, lane and mask group (04_vector_instructions.md, R101–R109). -/

namespace Sys2Proof.Machine

/-! ### Conversions -/

/-- The capability sets of a conversion (Table 2.11). -/
def cvtCaps (w : FullC) : Nat := if w.dt = 9 || w.st = 9 then 3 else 1

/-- One converted element (Table 4.8). -/
def cvtElem (dt st rm : Nat) (sat : Bool) (x : Nat) : Nat × Flags :=
  match tyFmt dt, tyFmt st with
  | some f, some g => f.convert rm sat (g.read x)
  | none, some g => toInt g rm (tySigned dt) (tyWidth dt) x
  | some f, none => ofInt f rm sat (intOf (tySigned st) (tyWidth st) x)
  | none, none =>
    let i := intOf (tySigned st) (tyWidth st) x
    let w := tyWidth dt
    (wrapTo w (if sat then min (max i (intLo (tySigned dt) w)) (intHi (tySigned dt) w) else i), 0)

/-- Element routing (Table 4.7): which destination elements are written, each with its source value. `cv j x` converts source
value x for destination element j. -/
def cvtRoute (dt st sub : Nat) (old a b : Nat) (cv : Nat → Nat → Nat × Flags) : Nat × Flags :=
  let nd := tyCount dt
  let ns := tyCount st
  let ea := (List.range ns).map (elemAt (tyWidth st) a)
  let eb := (List.range ns).map (elemAt (tyWidth st) b)
  let parts : List (Nat × Nat) :=
    if nd = ns then (List.range nd).map (fun j => (j, ea.getD j 0))
    else if nd = 2 * ns then (List.range nd).map (fun j => (j, (ea ++ eb).getD j 0))
    else if nd = 4 * ns then [(2 * (sub % 2), a), (2 * (sub % 2) + 1, b)]
    else (List.range nd).map (fun j => (j, ea.getD (nd * sub + j) 0))
  let rs := parts.map (fun (j, x) => (j, cv j x))
  let w := tyWidth dt
  let es := (List.range nd).map (fun j => match rs.find? (fun r => r.1 == j) with
    | some r => r.2.1
    | none => elemAt w old j)
  (joinElems w es, rs.foldl (fun acc r => acc ||| r.2.2) 0)

/-- Whether the B operand of a conversion is data (Table 4.7). -/
def cvtTwo (dt st : Nat) : Bool := tyCount st < tyCount dt

/-- CVT (R101). -/
def execCvt (w : FullC) (s : State) : Host.Outcome State Fault Refusal :=
  let dt := w.dt.toNat
  let st := w.st.toNat
  issueWord ({ hd := w.hd, ext := w.ext, caps := cvtCaps w, d := w.d, kind := kindOf dt,
               srcs := [(.op (opd w.a), st)] ++ (if cvtTwo dt st then [(.op (opd w.b), st)] else []),
               f := fun _ old xs => cvtRoute dt st w.sub.toNat old (xs.getD 0 0) (xs.getD 1 0)
                 (fun _ x => cvtElem dt st w.rm.toNat w.sat x) } : AluOp).word s

/-- CVTSR (R102, R70): destination element j takes its bits of the random word. -/
def execCvtsr (w : FullC) (s : State) : Host.Outcome State Fault Refusal :=
  let dt := w.dt.toNat
  let st := w.st.toNat
  let n := 32 / tyCount dt
  let two := cvtTwo dt st
  let rnd : Src := if two then .op (opd (w.ext.getD { xc := 0, c := 0, imm := 0 }).c) else .op (opd w.b)
  let cv (r j x : Nat) : Nat × Flags :=
    match tyFmt dt, tyFmt st with
    | some f, some g => f.stochastic w.sat n (r >>> (n * j) % 2 ^ n) (g.read x)
    | _, _ => (0, 0)
  issueWord ({ hd := w.hd, ext := w.ext, caps := cvtCaps w, d := w.d, kind := kindOf dt,
               srcs := [(.op (opd w.a), st)] ++ (if two then [(.op (opd w.b), st)] else []) ++ [(rnd, 1)],
               f := fun _ old xs => cvtRoute dt st w.sub.toNat old (xs.getD 0 0) (if two then xs.getD 1 0 else 0)
                 (cv (xs.getLastD 0)) } : AluOp).word s

/-! ### Collectives -/

/-- The word of a collective: its operand checks as a lane-by-lane instruction, its effect a function of the whole team. -/
def collective (o : AluOp) (f : State → Team → State × List LaneResult) (s : State) : Host.Outcome State Fault Refusal :=
  let eff : State → Team → WordEnd := fun s t =>
    match f s t with
    | (s, rs) => aluEffect s t o.d o.kind o.once false rs
  issueWord { o.word with effect := eff } s

/-- The acting lanes of a collective, as a list. -/
def AluOp.lanes (o : AluOp) (t : Team) : List Nat := lanesOf t.tw (t.arch.acting t.tw o.hd)

/-- Source i of a collective in a lane. -/
def AluOp.src (o : AluOp) (a : Arch) (i l : Nat) : Nat :=
  match o.srcs[i]? with
  | some (x, ty) => x.read a ty l
  | none => 0

/-- The scope of a lane: its group, or the team (R106). -/
def sameScope (t : Team) (team : Bool) (l m : Nat) : Bool := team || l / max 1 t.gw == m / max 1 t.gw

/-- A collective operation over layout C, with A as its only source. -/
def coll (w : FullC) (kind : DstKind) (ty : Nat) : AluOp :=
  { hd := w.hd, ext := w.ext, d := w.d, kind := kind, srcs := [(.op (opd w.a), ty)], f := fun _ _ _ => (0, 0) }

/-- A once-executed form has the one result, whatever the masks (R47). -/
def onceResult (x : Nat) (fl : Flags) : List LaneResult := [(0, x, fl)]

/-- BSCALE (R103): the byte of each block of 32 lanes. -/
def execBscale (w : FullC) (s : State) : Host.Outcome State Fault Refusal :=
  let st := w.st.toNat
  let o := coll w .one st
  let etop : Int := match w.dt.toNat with
    | 10 => 10
    | 11 => 8
    | _ => 15
  let elems (x : Nat) : List FVal := match tyFmt st with
    | some f => (List.range (tyCount st)).map (fun j => f.read (elemAt f.width x j))
    | none => []
  collective o (fun s t =>
    if o.once then
      let r := scaleByte etop (elems (o.src t.arch 0 0))
      (s, onceResult r.1 r.2)
    else
      let act := o.lanes t
      (s, act.map (fun l =>
        let r := scaleByte etop ((act.filter (fun m => m / 32 == l / 32)).flatMap (fun m => elems (o.src t.arch 0 m)))
        (l, r.1, r.2)))) s

/-- SHFL (R104). Its count is read in the type, an even pair under DT 13 (R80; log 109). -/
def execShfl (w : FullC) (s : State) : Host.Outcome State Fault Refusal :=
  let ty := w.dt.toNat
  let o : AluOp := { coll w (kindOf ty) ty with srcs := [(.op (opd w.a), ty), (.op (opd w.b), ty)] }
  collective o (fun s t =>
    let gw := max 1 t.gw
    (s, (if o.once then [0] else o.lanes t).map (fun l =>
      let c := o.src t.arch 1 l
      let i := l % gw
      let g := l - i
      let from_ : Nat := match w.sub.toNat with
        | 0 => g + c % gw
        | 1 => if c ≤ i then l - c else l
        | 2 => if i + c < gw then l + c else l
        | _ => g + (i ^^^ (c % gw))
      (l, o.src t.arch 0 (if from_ < t.tw && Mask.has t.arch.live from_ then from_ else l), 0)))) s

/-- BCAST (R105). Its lane number is read in the type, an even pair under DT 13 (R80; log 109). -/
def execBcast (w : FullC) (s : State) : Host.Outcome State Fault Refusal :=
  let ty := w.dt.toNat
  let first := w.sub.getLsbD 0
  let o : AluOp := { coll w (kindOf ty) ty with srcs := [(.op (opd w.a), ty)] ++ (if first then [] else [(.op (opd w.b), ty)]) }
  let word := o.word
  let chk : State → Team → Option Trap := fun s t => firstTrap [word.check s t, trapIf (!first && (opd w.b).isVec) reservedTrap]
  let eff : State → Team → WordEnd := fun s t =>
    let act := if o.once then [0] else o.lanes t
    let from_ := if first then act.headD 0 else o.src t.arch 1 0 % max 1 t.tw
    aluEffect s t o.d o.kind o.once false (act.map (fun l =>
      (l, o.src t.arch 0 (if Mask.has t.arch.live from_ then from_ else l), 0)))
  issueWord { word with check := chk, effect := eff } s

/-- VOTE (R106, Table 4.4 of modes). -/
def execVote (w : FullC) (s : State) : Host.Outcome State Fault Refusal :=
  let o := coll w .mask 1
  collective o (fun s t =>
    let act := o.lanes t
    (s, act.map (fun l =>
      let xs := (act.filter (sameScope t w.sat l)).map (o.src t.arch 0)
      let b : Bool := match w.sub.toNat % 4 with
        | 0 => xs.all (· != 0)
        | 1 => xs.any (· != 0)
        | 2 => xs.all (· == xs.headD 0)
        | _ => o.src t.arch 0 l != 0
      (l, b.toNat, 0)))) s

/-- A reduction of terms (R107). An exact zero of `.f32` `.add` is −0 under RDN, whatever its terms. A chain of FMIN or FMAX starts with
the first term and itself, so that one signalling NaN raises NV and one NaN gives the canonical NaN (R59; log 110). -/
def reduceTerms (op ty rm : Nat) (xs : List Nat) : Nat × Flags :=
  if ty = 6 then
    match op with
    | 0 => if rm = 3 && xs.all (· == 0) then (0x80000000, 0) else Fmt.f32.sum rm (xs.map Fmt.f32.read)
    | _ =>
      match xs with
      | [] => (0, 0)
      | x :: rest => rest.foldl (fun acc y => let r := fMinMax .f32 (op == 2) acc.1 y; (r.1, acc.2 ||| r.2)) (fMinMax .f32 (op == 2) x x)
  else
    let w := tyWidth ty
    let iv (x : Nat) : Int := intOf (tySigned ty) w x
    match xs with
    | [] => (0, 0)
    | x :: rest =>
      (rest.foldl (fun acc y => match op with
        | 0 => (acc + y) % 2 ^ w
        | 1 => if iv acc ≤ iv y then acc else y
        | 2 => if iv acc ≥ iv y then acc else y
        | 3 => acc &&& y
        | 4 => acc ||| y
        | _ => acc ^^^ y) x, 0)

/-- A once-executed reduction: over the acting lanes of the team when the scope is the team and some lane acts; every
operator but add and xor gives the one value back; else the spec states no result (log 12). -/
def onceReduce (s : State) (t : Team) (o : AluOp) (redux team : Bool) (op ty rm : Nat) : State × List LaneResult :=
  let x := o.src t.arch 0 0
  let n := (o.lanes t).length
  if redux && team && n != 0 then
    let r := reduceTerms op ty rm (List.replicate n x)
    (s, onceResult r.1 r.2)
  else if op != 0 && op != 5 && n != 0 then
    let r := reduceTerms op ty rm [x]
    (s, onceResult r.1 r.2)
  else
    let (lo, s) := s.draw
    let (hi, s) := s.draw
    (s, onceResult (lo.toNat + 2 ^ 32 * hi.toNat) 0)

/-- REDUX (R107). -/
def execRedux (w : FullC) (s : State) : Host.Outcome State Fault Refusal :=
  let ty := w.dt.toNat
  let o := coll w (kindOf ty) ty
  collective o (fun s t =>
    if o.once then onceReduce s t o true w.sat w.sub.toNat ty w.rm.toNat
    else
      let act := o.lanes t
      (s, act.map (fun l =>
        let r := reduceTerms w.sub.toNat ty w.rm.toNat ((act.filter (sameScope t w.sat l)).map (o.src t.arch 0))
        (l, r.1, r.2)))) s

/-- SCAN (R107). -/
def execScan (w : FullC) (s : State) : Host.Outcome State Fault Refusal :=
  let ty := w.dt.toNat
  let o := coll w (kindOf ty) ty
  collective o (fun s t =>
    if o.once then onceReduce s t o false w.sat w.sub.toNat ty w.rm.toNat
    else
      let act := o.lanes t
      (s, act.map (fun l =>
        let r := reduceTerms w.sub.toNat ty w.rm.toNat
          ((act.filter (fun m => sameScope t w.sat l m && m ≤ l)).map (o.src t.arch 0))
        (l, r.1, r.2)))) s

/-! ### Masks (R108, R109) -/

/-- A word over mask registers: `n` of its A and B fields name masks. -/
def maskWord (w : FullC) (n : Nat) (f : Arch → Nat → Bool) : Word1 :=
  { len := extLen w.ext, hd := w.hd,
    check := fun _ _ => firstTrap [classCheck 8 w.d, if 1 ≤ n then classCheck 8 w.a else none,
                                   if 2 ≤ n then classCheck 8 w.b else none],
    lantern := { runs := true, dst := none, ops := [] },
    effect := fun s t =>
      let act := t.arch.acting t.tw w.hd
      .done s { t with arch := t.arch.kset w.d.toNat act (maskOf t.tw (f t.arch)) } none }

/-- Bit l of the mask that a field names. -/
def kbit (a : Arch) (f : BitVec 11) (l : Nat) : Bool := Mask.has (a.kget f.toNat) l

/-- ELECT (R108). -/
def execElect (w : FullC) (s : State) : Host.Outcome State Fault Refusal :=
  let word := maskWord w 0 (fun _ _ => false)
  let eff : State → Team → WordEnd := fun s t =>
    let act := t.arch.acting t.tw w.hd
    let ls := lanesOf t.tw act
    let m := maskOfList (ls.filter (fun l => (ls.filter (sameScope t w.sat l)).head? == some l))
    .done s { t with arch := t.arch.kset w.d.toNat act m } none
  issueWord { word with effect := eff } s

/-- KAND (R109). -/
def execKand (w : FullC) (s : State) : Host.Outcome State Fault Refusal :=
  issueWord (maskWord w 2 (fun a l => kbit a w.a l && kbit a w.b l)) s

/-- KOR (R109). -/
def execKor (w : FullC) (s : State) : Host.Outcome State Fault Refusal :=
  issueWord (maskWord w 2 (fun a l => kbit a w.a l || kbit a w.b l)) s

/-- KXOR (R109). -/
def execKxor (w : FullC) (s : State) : Host.Outcome State Fault Refusal :=
  issueWord (maskWord w 2 (fun a l => kbit a w.a l != kbit a w.b l)) s

/-- KNOT (R109). -/
def execKnot (w : FullC) (s : State) : Host.Outcome State Fault Refusal :=
  issueWord (maskWord w 1 (fun a l => !kbit a w.a l)) s

/-- KMOV (Table 4.9): mask to mask, value to mask, mask to vector; a scalar D of SUB 2 traps OPERAND_RESERVED (DESIGN CHOICE, log 111). -/
def execKmov (w : FullC) (s : State) : Host.Outcome State Fault Refusal :=
  match w.sub.toNat with
  | 0 => issueWord (maskWord w 1 (fun a l => kbit a w.a l)) s
  | 1 => issueWord ({ hd := w.hd, ext := w.ext, d := w.d, kind := .mask, srcs := [(.op (opd w.a), 1)],
                      f := fun _ _ xs => (xs.getD 0 0, 0) } : AluOp).word s
  | _ =>
    let o : AluOp := { hd := w.hd, ext := w.ext, d := w.d, kind := .one, srcs := [], f := fun _ _ _ => (0, 0) }
    let word := o.word
    let chk : State → Team → Option Trap := fun s t =>
      firstTrap [trapIf (!(opd w.d).isVec) reservedTrap, word.check s t, classCheck 8 w.a]
    let eff : State → Team → WordEnd := fun s t =>
      aluEffect s t o.d .one false false ((o.lanes t).map (fun l => (l, if kbit t.arch w.a l then 0xFFFFFFFF else 0, 0)))
    issueWord { word with check := chk, effect := eff } s

/-- KPOP's and KFIRST's word (Table 4.9): a scalar destination only with team scope. -/
def kcount (w : FullC) (f : List Nat → Nat) (s : State) : Host.Outcome State Fault Refusal :=
  let o : AluOp := { hd := w.hd, ext := w.ext, d := w.d, kind := .one, srcs := [], f := fun _ _ _ => (0, 0) }
  let word := o.word
  let chk : State → Team → Option Trap := fun s t =>
    firstTrap [trapIf (o.once && !w.sat) illegalTrap, word.check s t, classCheck 8 w.a]
  let eff : State → Team → WordEnd := fun s t =>
    let act := o.lanes t
    let rs : List LaneResult :=
      if o.once then onceResult (f (act.filter (kbit t.arch w.a))) 0
      else act.map (fun l => (l, f ((act.filter (sameScope t w.sat l)).filter (kbit t.arch w.a)), 0))
    aluEffect s t o.d .one o.once false rs
  issueWord { word with check := chk, effect := eff } s

/-- KPOP (R109). -/
def execKpop (w : FullC) (s : State) : Host.Outcome State Fault Refusal := kcount w (·.length) s

/-- KFIRST (R109). -/
def execKfirst (w : FullC) (s : State) : Host.Outcome State Fault Refusal := kcount w (·.headD 0xFFFFFFFF) s

end Sys2Proof.Machine
end

