-- ==== Sys2Proof/Machine/Power.lean ====
section
/-! DEFINITION. The power controller: the enforced budget and its ramps, leases, measured intervals with ration levels and ballast
(16_partitions_preemption_power.md, R322–R329). -/

namespace Sys2Proof.Machine

/-- The ticks of a ramp: 1 ms (R326). -/
def rampTicks : Nat := 1050000

/-- The target of the enforced budget, in W. -/
def State.target (s : State) : Nat := s.regField 0 0x6000 16 16

/-- The enforced budget B: linear from its value when the target changed, over 1 ms (R326). -/
def State.enforced (s : State) : Nat :=
  let t := s.target
  let f := s.power.rampFrom
  let d := s.tick - s.power.rampT
  if rampTicks ≤ d then t
  else if f ≤ t then f + (t - f) * d / rampTicks
  else f - (f - t) * d / rampTicks

/-- ENFORCED and RAMPING say what B is now (Table 16.8). -/
def State.showBudget (s : State) : State :=
  let b := s.enforced
  let r := if b = s.target then 0 else 1
  if s.regField 0 0x6000 0 16 = b ∧ s.regField 0 0x601C 3 1 = r then s
  else (s.setField 0 0x6000 0 16 b).setField 0 0x601C 3 1 r

/-- A target: a change starts a ramp from the present B (R326). -/
def State.setTarget (s : State) (w : Nat) : State :=
  if s.target = w then s
  else
    let b := s.enforced
    ({ s with power := { s.power with rampFrom := b, rampT := s.tick } }.setField 0 0x6000 16 16 w).showBudget

/-! ### Leases (R325, R326) -/

/-- A lease that is ignored. -/
def State.ignoreLease (s : State) (seq : Nat) : State :=
  let n := s.regField 0 0x601C 8 8
  { s with log := s.log ++ [LogEnt.leaseIgnored (BitVec.ofNat 64 seq)] }.setField 0 0x601C 8 8 (min (n + 1) 255)

/-- A lease that is accepted; RAMPDN keeps its range of R327, to which a lower one is raised (DESIGN CHOICE, log 120). -/
def State.acceptLease (s : State) (seq expiry budget ramp : Nat) : State :=
  let s := { s with power := { s.power with lastSeq := some seq } }
  let s := (((s.setReg 0 0x6008 (BitVec.ofNat 32 seq)).setReg 0 0x600C (BitVec.ofNat 32 (seq / 2 ^ 32))).setReg 0 0x6010
    (BitVec.ofNat 32 expiry)).setReg 0 0x6014 (BitVec.ofNat 32 (expiry / 2 ^ 32))
  let s := if ramp = 0 then s else s.setField 0 0x6018 16 16 (max 100 ramp)
  ((s.setField 0 0x601C 0 1 1).setField 0 0x601C 1 1 0).setTarget (max 600 (min budget 3000))

/-- LEASE_RECORD (R325, Table 16.7): 32 bytes received at a rack time. -/
def execLeaseRecord (rackTime : DWord) (rec : List Byte) (s : State) : Host.Outcome State Fault Refusal :=
  let seq := fieldAt rec 0 8
  let expiry := fieldAt rec 8 8
  if rec.length != 32 then .next s
  else if fieldAt rec 0x14 12 != 0 || s.power.lastSeq.any (fun l => seq ≤ l) || expiry ≤ rackTime.toNat then .next (s.ignoreLease seq)
  else .next (s.acceptLease seq expiry (fieldAt rec 0x10 2) (fieldAt rec 0x12 2))

/-- LEASE_EXPIRY (R326): the accepted lease has reached its EXPIRY; the target is FLOOR. -/
def execLeaseExpiry (rackTime : DWord) (s : State) : Host.Outcome State Fault Refusal :=
  if s.regField 0 0x601C 0 1 = 0 || rackTime.toNat < s.reg64 0 0x6010 then .next s
  else .next (((s.setField 0 0x601C 0 1 0).setField 0 0x601C 1 1 1).setTarget (s.regField 0 0x6018 0 16))

/-! ### Measured intervals (R323, R329) -/

/-- The ticks of a measured interval: 10 µs. -/
def intervalTicks : Nat := 10500

/-- PWEIGHT, 0 read as 1 (Table 16.1). -/
def State.pweight (s : State) (p : Nat) : Nat := max 1 (s.regField 0 (partOff p + 0x18) 0 8)

/-- The enabled partitions with a resident block (R323). -/
def State.sharers (s : State) : List Nat :=
  (List.range 8).filter (fun p => s.partEn p && s.blocks.any (fun b => ((s.grid? b.grid).map (·.tenant)) == some p && (match b.state with
    | .resident => true
    | .stopping _ _ => true
    | .saving _ => true
    | _ => false)))

/-- What a partition draws beyond its share of B less the memory and I/O draw (R323), scaled by the sum of the weights. -/
def State.excess (s : State) (d : DrawSample) (p : Nat) : Nat :=
  let sum := (s.sharers.map s.pweight).foldl (· + ·) 0
  d.partitions.getD p 0 * sum - (s.enforced - d.memIo) * s.pweight p

/-- The new level of a cluster: 0 within the share; above it, with the package above B, raised in proportion to the excess; otherwise no
higher than before. The factor, and how fast a level falls, are open, so they come from a free value (log 23). -/
def State.newLevel (s : State) (d : DrawSample) (free : Nat) (n old : Nat) : Nat :=
  match s.sharers.find? (fun p => s.inPart p (n / 4) (n % 4)) with
  | none => 0
  | some p =>
    if s.excess d p = 0 then 0
    else if s.enforced < d.package then min 15 (old + s.excess d p * (free % 65536) / 65536)
    else min old (free / 65536 % 16)

/-- What the package draws with ballast, in hundredths of a watt: a fall that no lease asks for is held to RAMPDN while it is above
FLOOR, and never above B (R328, R329). -/
def State.heldDraw (s : State) (d : DrawSample) : Nat :=
  let limit := s.power.lastDraw - s.regField 0 0x6018 16 16
  if limit ≤ 100 * s.regField 0 0x6018 0 16 then 100 * d.package else max (100 * d.package) (min limit (100 * s.enforced))

/-- The clusters on which ballast may run: no block stands there, nor any other team (R329). -/
def State.idleClusters (s : State) : List Nat :=
  (List.range 32).filter (fun n => s.chipOk (n / 4) && !s.clusterDisabled (n / 4) (n % 4) &&
    !s.blocks.any (fun b => b.chip == n / 4 && b.cluster == n % 4 && (match b.state with
      | .resident => true
      | .stopping _ _ => true
      | .saving _ => true
      | _ => false)) && !s.teams.any (fun t => t.loc.chip == n / 4 && t.loc.cluster == n % 4))

/-- Which of them run ballast in the next interval is open: a free value names them (R329). Those that make room go on until they stop; when no
draw is to be held none goes on. -/
def State.runBallast (s : State) (watts : Nat) (free : Word) : List (Nat × Option Nat) :=
  s.power.ballast.filter (fun b => b.2.isSome) ++
    (if watts = 0 then [] else (s.idleClusters.filter (fun n => free.getLsbD n)).map (fun n => (n, none)))

/-- Ballast whose time to stop has come has stopped (R329). -/
def State.endBallast (s : State) : State :=
  { s with power := { s.power with ballast := s.power.ballast.filter (fun b => b.2.all (fun k => s.tick < k)) } }

/-- POWER_INTERVAL (R323, R329): every 10 µs, with the draw that the package would have without ballast and each partition's. -/
def execPowerInterval (d : DrawSample) (s : State) : Host.Outcome State Fault Refusal :=
  if s.tick < s.power.lastAt + intervalTicks then .next s
  else
    let (f, s) := s.draw
    let s := s.showBudget
    let held := s.heldDraw d
    let ballast := held / 100 - d.package
    let ration := (List.range 32).map (fun n => s.newLevel d f.toNat n (s.power.ration.getD n 0))
    let (g, s) := s.draw
    let s : State := { s with power := { s.power with ration := ration, ballast := s.runBallast ballast g, lastDraw := held, lastAt := s.tick / intervalTicks * intervalTicks } }
    .next (((s.setField 0 0x6004 0 16 (held / 100)).setField 0 0x6004 16 16 ballast).setField 0 0x601C 2 1 (if ballast = 0 then 0 else 1))

end Sys2Proof.Machine
end

