-- ==== Sys2Proof/Machine/Topology.lean ====
section
/-! DEFINITION. The package's shape: link ports and their peers, placement, controllers and channels (01_machine.md, R13–R16), routes between
dies (15_translation_and_host.md, R303, R304), the topology block (R301), and the passes of a team's word (09_execution_and_scheduling.md, R209)
with the banks of scratch (06_memory_instructions.md, R141). -/

namespace Sys2Proof.Machine

/-! ### Placement (R13–R16) -/

/-- The rotation of a chiplet (Table 1.4). -/
def rotOf (chip : Nat) : Nat := chip % 4

/-- The compass direction that a port faces: 0 north, 1 east, 2 south, 3 west (R14). -/
def portFaces (chip port : Nat) : Nat := (port + 2 + rotOf chip) % 4

/-- The package-frame coordinate of a cluster (R15, Table 1.6). -/
def clusterCoord (chip cluster : Nat) : Nat × Nat :=
  let x := cluster % 2
  let y := cluster / 2
  match rotOf chip with
  | 0 => (x, y)
  | 1 => (y, 1 - x)
  | 2 => (1 - x, 1 - y)
  | _ => (1 - y, x)

/-- The controller of its chiplet that a stack attaches to: 0 or 1 (R16). -/
def stackController (stack : Nat) : Nat :=
  let first := rotOf (stack / 2) / 2
  if stack % 2 = 0 then first else 1 - first

/-- The physical channel of a logical channel, 0–15 (R16). -/
def physicalChannel (chip channel : Nat) : Nat := if rotOf chip % 2 = 0 then channel else 15 - channel

/-! ### Ports and peers (R14, Table 1.5) -/

/-- Who a port faces. -/
inductive Peer where
  | hub
  | chip (c : Nat)
  | absent
deriving DecidableEq, Repr

/-- The peer of a port by the silicon's places alone. -/
def facing (chip port : Nat) : Peer :=
  if isColumn chip then
    match port with
    | 0 => .hub
    | 1 => .chip ((chip + 3) % 4)
    | 2 => .chip (chip + 4)
    | 3 => .chip ((chip + 1) % 4)
    | _ => .absent
  else
    match port with
    | 0 => .chip (chip - 4)
    | 1 => .chip (4 + (chip + 3) % 4)
    | 3 => .chip (4 + (chip + 1) % 4)
    | _ => .absent

/-- The peer of a port of a present chiplet; a port whose peer is absent is unconnected. -/
def Variant.peer (v : Variant) (chip port : Nat) : Peer :=
  match facing chip port with
  | .chip c => if c < v.chips && chip < v.chips then .chip c else .absent
  | p => p

/-- The port of a chiplet that faces another. -/
def Variant.portTo (v : Variant) (a b : Nat) : Option Nat := (List.range 4).find? (fun p => v.peer a p == .chip b)

/-- The die link between two chiplets is there and up at both ends (R304). -/
def State.linkUp (s : State) (a b : Nat) : Bool :=
  match s.variant.portTo a b, s.variant.portTo b a with
  | some p, some q => !(s.die a).ports.getD p false && !(s.die b).ports.getD q false
  | _, _ => false

/-! ### Routes (R303, R304) -/

/-- The column of a chiplet. -/
def colOf (c : Nat) : Nat := if isColumn c then c else c - 4

/-- The columns that the way from a to b round the ring enters, clockwise or the other way. -/
def ringWay (a b : Nat) (clockwise : Bool) : List Nat :=
  if clockwise then (List.range ((b + 4 - a) % 4)).map (fun i => (a + i + 1) % 4)
  else (List.range ((a + 4 - b) % 4)).map (fun i => (a + 3 * (i + 1)) % 4)

/-- Every link of a way from a die is up. -/
def State.wayUp (s : State) : Nat → List Nat → Bool
  | _, [] => true
  | a, b :: rest => s.linkUp a b && s.wayUp b rest

/-- The way from column to column: the shorter one, clockwise when they are equal; the other one when a link of it is down. -/
def State.ring (s : State) (a b : Nat) : List Nat :=
  let near := ringWay a b ((b + 4 - a) % 4 ≤ 2)
  if s.wayUp a near then near else ringWay a b (2 < (b + 4 - a) % 4)

/-- The dies that a request from one present die to another enters, the last being its destination (R303). -/
def State.route (s : State) (a b : Nat) : List Nat :=
  if a = b then []
  else if !isColumn a && !isColumn b && s.linkUp a b then [b]
  else (if isColumn a then [] else [colOf a]) ++ s.ring (colOf a) (colOf b) ++ (if isColumn b then [] else [b])

/-- The port by which what a zone sends enters a die: of the die before it on the route, or inward from the hub. -/
def State.arrivalPort (s : State) (zone die : Nat) : Nat :=
  match ownDie zone with
  | none => 0
  | some a => match (a :: s.route a die).dropLast.getLast? with
    | some c => (s.variant.portTo die c).getD 0
    | none => 0

/-! ### The topology block (R2, R14, R301, R350) -/

/-- What the driver reads at 0x8000: the spec names its contents and gives no layout. -/
structure TopologyBlock where
  chips  : List Nat
  stackIds : List Nat
  zones  : List Nat
  ports  : List (Nat × Nat × Peer)
  clusters : List (Nat × Nat × (Nat × Nat))   -- die, cluster, its place in the package's frame (R15)
  links  : List Nat                      -- device links that are up
  device : Nat
  listed : List Nat
deriving DecidableEq, Repr

/-- The clusters of a die that are not disabled. -/
def State.clustersOf (s : State) (c : Nat) : List Nat := (List.range 4).filter (fun k => !s.clusterDisabled c k)

/-- The topology block: present chiplets and stacks, their zones, the connected ports, the
clusters with their places, the device links, this package's device number and the listed ones.
A failed unit is absent (R350), and so is a disabled cluster (R373). -/
def State.topology (s : State) : TopologyBlock :=
  let chips := (List.range 8).filter s.chipOk
  let stackIds := (List.range s.variant.stackCount).filter (fun k => !(s.stack k).failed)
  { chips := chips, stackIds := stackIds,
    zones := chips.flatMap (fun c => (s.clustersOf c).map (clusterZone c) ++ [dieZone c]) ++ [hubZone] ++ stackIds.map stackZone,
    ports := chips.flatMap (fun c => (List.range 4).map (fun p => (c, p, match s.variant.peer c p with
      | .chip d => if chips.contains d then .chip d else .absent
      | x => x))),
    clusters := chips.flatMap (fun c => (s.clustersOf c).map (fun k => (c, k, clusterCoord c k))),
    links := (List.range s.variant.deviceLinks).filter (fun n => !s.downDev.contains n),
    device := s.devNum, listed := s.listed.map (·.1) }

/-! ### Reading BAR0 (R4, R301) -/

/-- What a host read of a register of a function gives: the register, 0 for a write-only field, for a page that only the physical function
has, and for the reserved pages, and in recovery for every page but that of attestation (R330; what such a page reads is the model's choice,
log 5); none for the topology block, whose layout the spec does not give. -/
def State.readReg (s : State) (f off : Nat) : Option Word :=
  let page := off / 0x1000
  let physical := page == 4 || page == 5 || page == 6 || page == 0xB || page == 0xD
  if s.recovery && page != 7 then some 0
  else if page = 8 then none
  else if 0xE ≤ page || (f != 0 && physical) then some 0
  else if off = 0x1014 then some 0
  else if off = 0x200C then some (s.reg f off &&& 0xFFFFFFFB)
  else some (s.reg f off)

/-! ### Passes and banks (R209, R141) -/

/-- Lanes of a datapath of a partition (Table 1.2). -/
def datapath (chip : Nat) : Nat := if isColumn chip then 64 else 32

/-- Cuts a list into runs of at most k; `fuel` is its length. -/
def runsOf {α : Type} (k : Nat) : Nat → List α → List (List α)
  | 0, _ => []
  | n + 1, xs => if xs.isEmpty then [] else xs.take (max 1 k) :: runsOf k n (xs.drop (max 1 k))

/-- The groups of a team that hold a live lane. -/
def liveGroups (tw gw : Nat) (live : Mask) : List Nat :=
  (List.range (tw / max 1 gw)).filter (fun g => (List.range gw).any (fun i => Mask.has live (g * gw + i)))

/-- The passes of a word of a team, as the lane positions that each covers (R209). -/
def passes (tw gw p : Nat) (live : Mask) : List (List Nat) :=
  let gs := liveGroups tw gw live
  if gw ≤ p then (runsOf (p / max 1 gw) gs.length gs).map (fun r => r.flatMap (fun g => (List.range gw).map (g * gw + ·)))
  else gs.flatMap (fun g => [(List.range p).map (g * gw + ·), (List.range p).map (g * gw + p + ·)])

/-- The bank of a scratch offset, and the word or row in which it lies (R141). -/
def bankOfOffset (sp : Space) (a : Nat) : Nat × Nat :=
  match sp with
  | .pocket => (a / 4 % 64, a / 4)
  | .chamber => (a / 64 % 32, a / 64)
  | _ => (a / 64 % 64, a / 64)

/-- The bank cycles of one pass: the most distinct words or rows that one bank serves (R141). -/
def passCycles (sp : Space) (offs : List Nat) : Nat :=
  let rows := (offs.map (bankOfOffset sp)).eraseDups
  (rows.map (fun r => (rows.filter (fun q => q.1 == r.1)).length)).foldl max 0

end Sys2Proof.Machine
end

