-- ==== Sys2Proof/Machine/Notices.lean ====
section
/-! DEFINITION. Strike notices, clear-throughs, time-outs, the tick and failed units (17_quarantine.md). -/

namespace Sys2Proof.Machine

/-- T_CLR (R347). -/
def tClr : Nat := 16384

/-- The dies that are present. -/
def State.dieList (s : State) : List Nat := (List.range 8).filter s.chipOk

/-- A zone of a unit that is present (R23). -/
def State.zonePresent (s : State) (z : Nat) : Bool := s.variant.zones.contains z

/-- The collector of a zone has a notice: it is logged and goes out to every present die (R333, R334). -/
def State.raise (s : State) (n : Notice) : State :=
  { s with log := s.log ++ [.notice n], flying := s.flying ++ [{ n := n, sent := s.tick, dies := s.dieList }] }

/-! ### Squashing (R344, R175) -/

/-- A notice exposes a region (R344). -/
def Region.exposed (r : Region) (own z t : Nat) : Bool :=
  (z == own && r.openT ≤ t && (match r.closeT with
    | none => true
    | some e => t ≤ e + windowW)) || r.imports.struck z t

/-- The oldest region of a team that a notice exposes. -/
def Team.exposedBy (t : Team) (z stamp : Nat) : Option Region := t.regions.find? (fun r => r.exposed t.loc.zone z stamp)

/-- Chunks struck in a row that end an operation (R175). -/
def chunkLimit : Nat := 8

/-- A staged chunk is struck: it is discarded to be read again, or, the 8th time in a row, the operation fails (R175). -/
def State.strikeChunk (s : State) (id num z : Nat) : State :=
  match s.op? id with
  | none => s
  | some o =>
    let n := (((o.strikes.find? (fun x => x.1 == num)).map (·.2)).getD 0) + 1
    let s := s.updOp id (fun o => { o with staged := o.staged.filter (fun c => c.num != num)
                                           strikes := o.strikes.filter (fun x => x.1 != num) ++ [(num, n)] })
    if n < chunkLimit then s else (s.failOp id .strikeLimit ((o.srcAt (o.chunkSize * num)).getD 0) 0).queueZone z

/-- A notice hits the record of an opened cell on its way to the loader's core: the open buffer sends it again (R254). -/
def State.resendRecords (s : State) (die : Nat) (n : Notice) : State :=
  let again (k : Nat) (e : OpenEnt) : OpenEnt :=
    if e.chip = die ∧ s.strikesHeld die e.tags n.zone n.stamp then
      { e with tags := (Tags.empty.add (stackZone k) s.tick s.tick).add (dieZone e.chip) s.tick s.tick }
    else e
  { s with memStacks := s.memStacks.mapIdx (fun k (st : Stack) => { st with buffer := st.buffer.map (fun e => e.map (again k)) }) }

/-- What a die does on receiving a notice (R344): its teams' exposed regions are squashed, staged chunks with an uncleared tag struck,
read-cache lines with a struck fill tag dropped. -/
def State.notice (s : State) (die : Nat) (n : Notice) : State :=
  let us := (s.teams.filter (fun t => t.loc.chip == die)).map (·.uid)
  let s := us.foldl (fun s u => match (s.team? u).bind (fun t => t.exposedBy n.zone n.stamp) with
    | some r => s.strike u r.id n.zone n.stamp n.kind
    | none => s) s
  let cs := (s.ops.filter (fun o => o.die == die)).flatMap (fun o =>
    (o.staged.filter (fun c => s.strikesHeld die c.tags n.zone n.stamp)).map (fun c => (o.id, c.num)))
  let s := cs.foldl (fun s c => s.strikeChunk c.1 c.2 n.zone) s
  let s := (List.range 8).foldl (fun s k => s.dropRead (8 * die + k) (fun l => s.strikesHeld die l.tags n.zone n.stamp)) s
  s.resendRecords die n

/-- The stamps of a tag of a set that names a zone: first and last. -/
def Tags.of (g : Tags) (z : Nat) : Option (Nat × Nat) :=
  match g.tags.find? (fun t => t.zone == z) with
  | some t => some (t.first, t.last)
  | none => g.wide

/-- A tag's clearance from another die is overdue at a die (R347). -/
def State.overdue (s : State) (die z last : Nat) : Bool :=
  ownDie z != some die && s.recv die z < last + windowW && last + tClr ≤ (s.die die).tick

/-- The last stamps of tags of a zone that wait at a die: those of regions, staged chunks and pending atomics (R347). -/
def State.waitingTags (s : State) (die z : Nat) : List Nat :=
  let ts := s.teams.filter (fun t => t.loc.chip == die)
  (ts.flatMap (fun t => t.regions.filterMap (fun r => (r.imports.of z).map (·.2)))) ++
    ((s.ops.filter (fun o => o.die == die)).flatMap (fun o => o.staged.filterMap (fun c => (c.tags.of z).map (·.2)))) ++
    ((s.atoms.filter (fun x => x.target.contains z && ts.any (fun t => t.uid == x.team))).map (·.t))

/-- The ticks of array cycles in a zone whose checkers may still report (R134). -/
def State.openChecks (s : State) (z : Nat) : List Nat :=
  ((s.teams.filter (fun t => t.loc.zone == z)).flatMap (fun t => t.regions.flatMap (fun r => r.checks.filterMap (·.doneT)))).filter
    (fun n => s.tick ≤ n + checkTicks)

/-- The clear-through that a zone's messages bring to a die at most: it does not pass a tick for which a checker has still to report (R134),
and comes too late for data that already count as struck (R347). -/
def State.clearCap (s : State) (die z c : Nat) : Nat :=
  let late := ((s.waitingTags die z).filter (s.overdue die z)).map (fun l => l + windowW - 1)
  (s.openChecks z ++ late).foldl min c

/-- Sets what a die has received from a zone. -/
def State.setRecv (s : State) (die z c : Nat) : State := s.updDie die (fun d => { d with crecv := d.crecv.set z c })

/-- A clear-through has come as far as c, or as far as it may; what it clears is cleared. -/
def State.bring (s : State) (die z c : Nat) : State :=
  let c := s.clearCap die z c
  if s.recv die z < c then (s.setRecv die z c).settle else s

/-- A die that a notice has reached leaves its list: the first of equal ones. -/
def leaveDie (die : Nat) (n : Notice) : List Flying → List Flying
  | [] => []
  | f :: rest => if f.n = n ∧ f.dies.contains die then { f with dies := f.dies.erase die } :: rest else f :: leaveDie die n rest

/-- A flying notice has reached a die. -/
def State.landed (s : State) (die : Nat) (n : Notice) : State :=
  { s with flying := (leaveDie die n s.flying).filter (fun f => !f.dies.isEmpty) }

/-- Delivers a notice to a die: the clear-throughs that its collector sent before it have come (R334). -/
def State.deliverNotice (s : State) (die : Nat) (f : Flying) : State :=
  ((s.bring die f.n.zone (f.sent - 1)).landed die f.n).notice die f.n

/-- The notice of a zone that a die receives next: messages keep the order in which the collector sent them, and none comes over a path that
has failed (R334, R335). -/
def State.nextNotice (s : State) (die z : Nat) : Option Flying :=
  if s.stalled.contains (z, die) then none else s.flying.find? (fun f => f.n.zone == z && f.dies.contains die)

/-- NOTICE_RECEIVED (R344). -/
def execNoticeReceived (die : Nat) (n : Notice) (s : State) : Host.Outcome State Fault Refusal :=
  match s.nextNotice die n.zone with
  | some f => if f.n = n then happened (s.deliverNotice die f) else .next s
  | none => .next s

/-- A clear-through of a zone may reach a die: it is later than the last received, an earlier tick's, its path is up, every notice
that its collector sent before it has arrived, and nothing holds it back (R134, R334, R335, R347). -/
def State.mayClear (s : State) (die z c : Nat) : Bool :=
  s.chipOk die && s.zonePresent z && c < s.tick && s.recv die z < c && !s.stalled.contains (z, die) &&
  !s.flying.any (fun f => f.n.zone == z && f.sent ≤ c && f.dies.contains die) && s.clearCap die z c == c

/-- CLEAR_THROUGH_RECEIVED (R334, R343). -/
def execClearThroughReceived (die zone c : Nat) (s : State) : Host.Outcome State Fault Refusal :=
  if s.mayClear die zone c then happened (s.setRecv die zone c) else .next s

/-! ### Sources of notices (Table 17.1) -/

/-- Sensors of a kind in a zone. -/
def sensorCount (z kind : Nat) : Nat :=
  let col := if z = hubZone then 2 else if hubZone < z then 3 else if z % 5 = 4 then 1 else 0
  ([[96, 64, 32, 16], [24, 16, 8, 4], [8, 4, 4, 2]].getD kind []).getD col 0

/-- The greatest latency of a sensor kind in ticks. -/
def sensorLatency (kind : Nat) : Nat := [44, 36, 28].getD kind 0

/-- SENSOR_DISTURBANCE (R333): a sensor of a present zone reports within its latency. -/
def execSensorDisturbance (zone kind sensor stamp : Nat) (s : State) : Host.Outcome State Fault Refusal :=
  if s.zonePresent zone && kind < 3 && sensor < sensorCount zone kind && stamp ≤ s.tick && s.tick ≤ stamp + sensorLatency kind then
    happened (s.raise { zone := zone, stamp := stamp, kind := kind, sensor := sensor })
  else .next s

/-- STORAGE_CHECK_ERROR (R333, R351): a kind-4 notice for a checked structure, or data at rest that the next access meets. -/
def execStorageCheckError (e : StorageError) (s : State) : Host.Outcome State Fault Refusal :=
  match e with
  | .held z => if s.zonePresent z then happened (s.raise { zone := z, stamp := s.tick, kind := 4, sensor := 0 }) else .next s
  | .cell pa => if s.physOk pa then .next { s with badCells := insertNat s.badCells (lineOf pa) } else .next s
  | .chamber b off => .next { s with badChamb := s.badChamb ++ [(b, off / 4)] }
  | .gallery x off => .next { s with badGall := s.badGall ++ [(x, off / 4)] }

/-- The checker of a team's array may report two residues for a matrix instruction: one of its blocks has what the checker forms, the array's
differs, the instruction's region is uncleared, and 32 ticks have not passed since the last array cycle (R133, R134). -/
def Team.checkable (t : Team) (addr : DWord) (computed checked tick : Nat) : Bool :=
  computed != checked && computed < 63 && t.regions.any (fun r => r.checks.any (fun c => c.pc == addr && c.sums.contains checked && match c.doneT with
    | some n => tick ≤ n + checkTicks
    | none => true))

/-- CHECK_EVENT (R133, R134, R371): residues that differ are logged and act as a kind-3 notice of the array's cluster zone. -/
def execCheckEvent (team : Nat) (addr : DWord) (computed checked : Nat) (s : State) : Host.Outcome State Fault Refusal :=
  match s.team? team with
  | none => .next s
  | some t =>
    if !t.checkable addr computed checked s.tick then .next s
    else
      let s := { s with log := s.log ++ [LogEnt.checkEvent t.loc.zone s.tick addr (((s.block? t.block).map (fun (b : Block) => b.idx)).getD 0) computed checked] }
      happened (s.raise { zone := t.loc.zone, stamp := s.tick, kind := 3, sensor := 0 })

/-- CORRECTABLE_ECC_ERROR (R333): counted per zone, with no notice. -/
def execCorrectableEccError (zone : Nat) (s : State) : Host.Outcome State Fault Refusal :=
  if !s.zonePresent zone then .next s
  else
    let n := ((s.ecc.find? (fun x => x.1 == zone)).map (·.2)).getD 0
    .next { s with ecc := s.ecc.filter (fun x => x.1 != zone) ++ [(zone, n + 1)] }

/-- CRC failures in a row of one flit that take a link down: the first and 16 replays (R304). -/
def flitLimit : Nat := 17

/-- A way from a die enters one die of a pair from the other. -/
def crosses (a b : Nat) (way : List Nat) : Bool := (way.zip (way.drop 1)).any (fun x => x == (a, b) || x == (b, a))

/-- The lanes that wait for data whose way crosses the link at a port: team, access, lane, and the die that serves them. -/
def State.crossing (s : State) (die port : Nat) : List (Nat × Nat × Nat × Nat) :=
  match s.variant.peer die port with
  | .chip c => s.teams.flatMap (fun t => (t.accs.filter (fun a => a.kind.returns && a.kind.space == .glob)).flatMap (fun a =>
      (a.lanes.filter (fun l => l.st == .waiting && crosses die c (t.loc.chip :: s.route t.loc.chip (s.sliceDie l.addr)))).map
        (fun l => (t.uid, a.id, l.lane, s.sliceDie l.addr))))
  | _ => []

/-- Data in flight are lost with the link that carried them: they never arrive, and their clearance fails at T_CLR (R304, R347). Whose data were
on the link is a free value for each lane. -/
def State.loseData (s : State) (ls : List (Nat × Nat × Nat × Nat)) : State :=
  let gone := (ls.zipIdx.filter (fun x => (Config.freeWord (s.free + x.2)).getLsbD 0)).map (·.1)
  let lose (t : Team) (a : Access) : Access :=
    { a with lost := a.lost ++ (gone.filter (fun x => x.1 == t.uid && x.2.1 == a.id)).map (fun x => (x.2.2.1, dieZone x.2.2.2, s.tick)) }
  { s with free := s.free + ls.length, teams := s.teams.map (fun t => { t with accs := t.accs.map (lose t) }) }

/-- The link is one of the package's (Tables 0.1 and 1.5). -/
def State.linkThere (s : State) (l : Link) : Bool :=
  match l with
  | .dieLink d p => s.chipOk d && p < 4 && s.variant.peer d p != .absent
  | .device n => n < s.variant.deviceLinks
  | .echo z d => s.variant.zones.contains z && s.chipOk d

/-- A link is down (R304, R335): a die's port, a device's link with its number, or an echo path; a zone's own die has no such path. -/
def State.linkDown (s : State) (l : Link) : State :=
  match l with
  | .dieLink d p => (s.loseData (s.crossing d p)).updDie d (fun x => { x with ports := x.ports.set p true })
  | .device n => { s with downDev := insertNat s.downDev n, listed := s.listed.filter (fun x => x.2 != n) }
  | .echo z d => if ownDie z = some d then s else { s with stalled := (z, d) :: s.stalled.filter (· != (z, d)) }

/-- LINK_FLIT_ERROR (R304, R335): the flit is replayed; the failure that passes the limit takes the link down. `again`: it is a replay of
the flit that failed last on this link. -/
def execLinkFlitError (link : Link) (again : Bool) (s : State) : Host.Outcome State Fault Refusal :=
  let n := (if again then ((s.flits.find? (fun x => x.1 == link)).map (·.2)).getD 0 else 0) + 1
  let rest := s.flits.filter (fun x => x.1 != link)
  if !s.linkThere link then .next s
  else if n < flitLimit then .next { s with flits := rest ++ [(link, n)] } else happened ({ s with flits := rest }.linkDown link)

/-! ### Time-outs (R347) -/

/-- The tick at which a region lost data that came from a zone (R304). -/
def Team.lostFrom (t : Team) (region z : Nat) : Option Nat :=
  ((t.accs.filter (fun a => a.region == region)).flatMap (·.lost)).findSome? (fun x => if x.2.1 = z then some x.2.2 else none)

/-- CLEARANCE_TIMEOUT (R304, R347, R175, R160). -/
def execClearanceTimeout (what : TimeoutOf) (s : State) : Host.Outcome State Fault Refusal :=
  match what with
  | .region team region z =>
    match s.team? team with
    | none => .next s
    | some t => match (t.regions.find? (fun r => r.id == region)).bind (fun r => r.imports.of z) with
      | none => match t.lostFrom region z with
        | none => .next s
        | some n =>
          if (s.die t.loc.chip).tick < n + tClr then .next s
          else happened (State.strike { s with log := s.log ++ [LogEnt.linkClearance z t.loc.chip (s.arrivalPort z t.loc.chip)] } team region z n 7)
      | some (f, l) =>
        if !s.overdue t.loc.chip z l then .next s
        else happened (State.strike { s with log := s.log ++ [LogEnt.linkClearance z t.loc.chip (s.arrivalPort z t.loc.chip)] } team region z f 7)
  | .chunk op chunk z =>
    match (s.op? op).bind (fun o => (o.staged.find? (fun c => c.num == chunk)).bind (fun c => (c.tags.of z).map (fun x => (o.die, x)))) with
    | none => .next s
    | some (die, _, l) =>
      if !s.overdue die z l then .next s
      else happened (State.strikeChunk { s with log := s.log ++ [LogEnt.linkClearance z die (s.arrivalPort z die)] } op chunk z)
  | .atomic id =>
    match s.atoms.find? (fun x => x.id == id) with
    | none => .next s
    | some x => match s.team? x.team, x.target.find? (fun z => match s.team? x.team with
        | some t => s.overdue t.loc.chip z x.t
        | none => false) with
      | some t, some z => happened (State.strike { s with log := s.log ++ [LogEnt.linkClearance z t.loc.chip (s.arrivalPort z t.loc.chip)] } x.team x.region z x.t 7)
      | _, _ => .next s

/-! ### The tick (R334, R349, R310) -/

/-- The clear-through that must have reached a die by now (R334). -/
def dueBy (tick die z : Nat) : Nat := if ownDie z = some die then tick - 8 else tick - 96

/-- What the echo network has delivered by now at the latest: notices, then the clear-through. -/
def State.catchUp (s : State) (die z : Nat) : State :=
  let c := dueBy s.tick die z
  if c ≤ s.recv die z || s.stalled.contains (z, die) then s
  else
    let late := s.flying.filter (fun f => f.n.zone == z && f.sent ≤ c && f.dies.contains die)
    let s := late.foldl (fun s f => s.deliverNotice die f) s
    let c := s.clearCap die z c
    if s.recv die z < c then s.setRecv die z c else s

/-- Token buckets of a die refill at their partitions' rates, up to their sizes (R310). -/
def State.refill (s : State) (die : Nat) : State :=
  s.updDie die (fun d => { d with buckets := d.buckets.mapIdx (fun p (b : Int) => min (s.bucketSize p : Int) (b + s.bucketRate p)) })

/-- What replacement drops from the caches and TLBs in a tick. -/
def State.replace (s : State) (a : TickArgs) : State :=
  let s := if a.dropSlice.isEmpty then s else s.dropSlices (fun l => a.dropSlice.contains (l.asid, l.line))
  let s := a.dropRead.foldl (fun s x => s.dropRead x.1 (fun l => l.asid == x.2.1 && l.line == x.2.2)) s
  { s with tlb := s.tlb.filter (fun e => !a.dropTlb.contains (e.slice, e.asid, e.va)) }

/-- One tick later: replacement has taken place, each die's counter has counted, the buckets have refilled, and every die has what its
links must have brought by now (R22, R334, R349, R310). -/
def State.advance (s : State) (t : TickArgs) : State :=
  let s := { s with tick := (s.tick + 1) % 2 ^ 64, stalled := s.stalled.filter (fun x => !t.rerouted.contains x) }.replace t
  let count (c : Nat) : Nat := if t.missed.contains c then 0 else if t.doubled.contains c then 2 else 1
  let s := { s with dies := s.dies.mapIdx (fun c (d : Die) => { d with tick := (d.tick + count c) % 2 ^ 64 }) }
  let s := s.dieList.foldl (fun s d => s.refill d) s.endBallast.showBudget
  let s := s.arbitrate
  s.dieList.foldl (fun s d => s.variant.zones.foldl (fun s z => s.catchUp d z) s) s

/-- TICK (R22, R334, R349, R310). -/
def execTick (t : TickArgs) (s : State) : Host.Outcome State Fault Refusal := happened (s.advance t)

/-- TICK_CHECK (R349): a die compares its counter with the hub's count; a difference raises kind-2 notices for its five zones, stamped
at the last agreement, and loads the counter. -/
def execTickCheck (die : Nat) (s : State) : Host.Outcome State Fault Refusal :=
  let d := s.die die
  if !s.chipOk die || (s.tick % 1024 != 0 && d.tick == s.tick) then .next s
  else if d.tick = s.tick then .next (s.updDie die (fun d => { d with agreed := s.tick }))
  else
    let s := (List.range 5).foldl (fun s k => s.raise { zone := 5 * die + k, stamp := d.agreed, kind := 2, sensor := 0 }) s
    happened (s.updDie die (fun d => { d with tick := s.tick, agreed := s.tick }))

/-! ### Failed units (R350) -/

/-- Zones of a unit. -/
def unitZones : FailedUnit → List Nat
  | .die c => (List.range 5).map (5 * c + ·)
  | .stack k => [stackZone k]

/-- Grids with a block, evaluator, task team or unfinished engine operation on a die. -/
def State.gridsOn (s : State) (die : Nat) : List Nat :=
  ((s.blocks.filter (fun b => b.placed && b.chip == die)).map (·.grid) ++
   (s.ops.filter (fun o => o.die == die && o.state != EngState.finished)).map (·.grid)).eraseDups

/-- A grid ends; the cells that its evaluators own become POISON with SOURCE 2 (R260, R350). -/
def State.endGrid (s : State) (gid team : Nat) (c : Cause) : State := s.abortGrid gid team c

/-- Every tag that names a zone counts as struck (R350). -/
def State.strikeZone (s : State) (z : Nat) : State :=
  let hits (t : Team) : Option (Nat × Nat) := t.regions.findSome? (fun r => (r.imports.of z).map (fun x => (r.id, x.1)))
  let s := (s.teams.map (·.uid)).foldl (fun s u => match (s.team? u).bind hits with
    | some (g, f) => s.strike u g z f 7
    | none => s) s
  let cs := s.ops.flatMap (fun o => (o.staged.filter (fun c => (c.tags.of z).isSome)).map (fun c => (o.id, c.num)))
  cs.foldl (fun s c => s.strikeChunk c.1 c.2 z) s

/-- DIE_FAILED (R350). -/
def execDieFailed (unit : FailedUnit) (s : State) : Host.Outcome State Fault Refusal :=
  let present := match unit with
    | .die c => s.chipOk c
    | .stack k => k < s.variant.stackCount && !(s.stack k).failed
  if !present then .next s
  else
    let s := { s with log := s.log ++ [LogEnt.dieFailed unit] }
    let s := match unit with
      | .die c =>
        let s := (s.gridsOn c).foldl (fun s g => s.endGrid g 0 .clearanceTimeout) s
        s.updDie c (fun d => { d with failed := true })
      | .stack k => s.updStack k (fun x => { x with failed := true })
    happened ((unitZones unit).foldl (fun s z => s.strikeZone z) s)

end Sys2Proof.Machine
end

