-- ==== Sys2Proof/Machine/PairMark.lean ====
section
/-! DEFINITION. Pair words (R39–R42) and mark words (R43, R44). -/

namespace Sys2Proof.Machine

/-! ### Pair words -/

/-- A slot names a vector register below 224 and a scalar register from there on (R39). -/
def slotVec (n : BitVec 8) : Bool := n.toNat < 224
def slotNum (n : BitVec 8) : Nat := if n.toNat < 224 then n.toNat else n.toNat - 224

/-- A NOP slot. -/
def Slot.idle (x : Slot) : Bool := x.pop == 0

/-- Register forms read A. -/
def Slot.readsA (x : Slot) : Bool := x.pop != 0 && popForm x.pop.toNat == some PopForm.regForm

/-- The first pair rule that two slots break (Table 2.9). -/
def pairRule (x y : Slot) : Option Nat :=
  if x.pop == 0 || y.pop == 0 then none
  else if slotNum x.d % 4 = slotNum y.d % 4 then some 1
  else if Slot.readsA x && Slot.readsA y && slotNum x.a % 4 == slotNum y.a % 4 then some 2
  else if x.d = y.d then some 3
  else if !slotVec x.d && !slotVec y.d then some 4
  else if [x, y].any (fun z => !slotVec z.d && Slot.readsA z && slotVec z.a) then some 5
  else none

/-- The source of a slot: a register, an immediate zero- or sign-extended, a shift count or an inline constant (R40). -/
def slotSrc (a : Arch) (x : Slot) (ty l : Nat) : Nat :=
  match popForm x.pop.toNat with
  | some .regForm => if slotVec x.a then (a.vget (slotNum x.a) l).toNat else (a.sget (slotNum x.a)).toNat
  | some .immI => wrapTo 32 (intOf true 8 x.m.toNat)
  | some .constForm => constVal ty x.m.toNat
  | _ => x.m.toNat

/-- The type of a slot's operation (Table 2.8). -/
def slotTy (pop : Nat) : Nat :=
  if pop = 0x0A || pop = 0x0B then 1
  else if 0x20 ≤ pop && pop ≤ 0x26 then 6
  else if pop = 0x27 || pop = 0x28 then 7
  else if pop = 0x29 || pop = 0x2A then 8
  else if pop = 0x2B || pop = 0x2C then 2
  else 0

/-- A slot's operation on the old destination d and the source x; SEL is apart (Table 2.8). -/
def slotOp (pop d x : Nat) : Nat × Flags :=
  let ty := slotTy pop
  match pop with
  | 0x01 | 0x02 | 0x2E => (x, 0)
  | 0x03 | 0x04 | 0x2B => (intElem2 ty (· + ·) d x, 0)
  | 0x05 | 0x06 | 0x2C => (intElem2 ty (· - ·) d x, 0)
  | 0x07 => (intElem2 ty (· * ·) d x, 0)
  | 0x08 | 0x0A => (intElem2 ty (fun a b => if a ≤ b then a else b) d x, 0)
  | 0x09 | 0x0B => (intElem2 ty (fun a b => if a ≥ b then a else b) d x, 0)
  | 0x0C | 0x0D => (d &&& x, 0)
  | 0x0E | 0x0F => (d ||| x, 0)
  | 0x10 | 0x11 => (d ^^^ x, 0)
  | 0x12 => (d ^^^ (d &&& x), 0)
  | 0x13 => (2 ^ 32 - 1 - x, 0)
  | 0x14 | 0x15 => (shlElem 32 false d x, 0)
  | 0x16 | 0x17 => (shrElem 32 false d x, 0)
  | 0x18 | 0x19 => (sarElem 32 false d x, 0)
  | 0x1A => (rotlElem 32 d x, 0)
  | 0x1B => (intElem1 0 (fun a => (a.natAbs : Int)) x, 0)
  | 0x1C => (intElem1 0 (fun a => -a) x, 0)
  | 0x1D => (popCount x, 0)
  | 0x1E => (leadZeros x, 0)
  | 0x1F => (addSat 0 d x, 0)
  | 0x20 | 0x21 | 0x27 | 0x29 => floats2 ty (fun f a b => fAdd f 0 a b) d x
  | 0x22 => floats2 ty (fun f a b => fSub f 0 a b) d x
  | 0x23 | 0x24 | 0x28 | 0x2A => floats2 ty (fun f a b => fMul f 0 a b) d x
  | 0x25 => floats2 ty (fun f a b => fMinMax f false a b) d x
  | 0x26 => floats2 ty (fun f a b => fMinMax f true a b) d x
  | 0x2F => cvtElem 6 0 0 false x
  | 0x30 => cvtElem 0 6 1 false x
  | _ => (d, 0)

/-- A slot's results, read from the state before the pair: a scalar destination once, a vector one in every live lane. -/
def slotResults (s : State) (t : Team) (x : Slot) : State × List LaneResult :=
  if x.pop == 0 then (s, [])
  else
    let a := t.arch
    let pop := x.pop.toNat
    let once := !slotVec x.d
    let (bit, s) := if pop = 0x2D && once then scalarBit s t 1 else (false, s)
    let one (l : Nat) : LaneResult :=
      let d := if once then (a.sget (slotNum x.d)).toNat else (a.vget (slotNum x.d) l).toNat
      let v := slotSrc a x (slotTy pop) l
      let r := if pop = 0x2D then ((if (if once then bit else Mask.has (a.kget 1) l) then v else d), 0) else slotOp pop d v
      (l, r.1, r.2)
    (s, (if once then [0] else lanesOf t.tw a.live).map one)

/-- Writes a slot's results. -/
def Arch.writeSlot (a : Arch) (x : Slot) (rs : List LaneResult) : Arch :=
  if slotVec x.d then a.vset (slotNum x.d) (fun l => (resultAt rs l).map (fun v => BitVec.ofNat 32 v))
  else match rs with
    | [] => a
    | r :: _ => a.sset (slotNum x.d) (BitVec.ofNat 32 r.2.1)

/-- The registers a slot covers, as operands. -/
def slotOpds (x : Slot) : List (Opd × Nat) :=
  let o (n : BitVec 8) : Opd := if slotVec n then .vec (slotNum n) else .scal (slotNum n)
  if x.pop == 0 then [] else [(o x.d, 1)] ++ (if Slot.readsA x then [(o x.a, 1)] else [])

/-- Two slots issued together (R40–R42, R74). -/
def pairEffect (x y : Slot) (s : State) (t : Team) : WordEnd :=
  match slotResults s t x with
  | (s, rx) =>
    match slotResults s t y with
    | (s, ry) =>
      let fl := unionFlags rx ||| unionFlags ry
      let en := t.arch.enables
      if fl &&& en = 0 then
        .done s { t with arch := ((t.arch.writeSlot x rx).writeSlot y ry).orFlags fl } none
      else
        let lanes := ((if slotVec x.d then rx else []) ++ (if slotVec y.d then ry else [])).filter (fun r => r.2.2 &&& en != 0)
        .trap { cause := .arithExc, eaddr := t.arch.pc, once := lanes.isEmpty, einfo := fl.zeroExtend 32,
                emask := maskOfList (lanes.map (·.1)) }

/-- PAIR (R40). -/
def execPair (w : PairWord) (s : State) : Host.Outcome State Fault Refusal :=
  let x := w.s0
  let y := w.s1
  issueWord
    { len := 8, hd := { sw := w.sw, pred := 0, pn := false },
      check := fun _ _ => (pairRule x y).map (fun n => { cause := .pairRule, einfo := BitVec.ofNat 32 n }),
      bounds := fun _ t => firstTrap ((slotOpds x ++ slotOpds y).map (fun o => boundCheck t 1 o.1)),
      demand := fun _ _ => { dests := ([x, y].filter (fun z => z.pop != 0 && slotVec z.d)).map (fun z => slotNum z.d) },
      lantern := { runs := true, dst := ([x, y].find? (fun z => z.pop != 0 && !slotVec z.d)).map (fun z => .scal (slotNum z.d)),
                   ops := slotOpds x ++ slotOpds y },
      effect := pairEffect x y } s

/-! ### Mark words -/

/-- A head mark's declared figures: 0 means the architectural one (Table 2.10a). -/
def headLimits (w : HeadMark) : Nat × Nat :=
  (if w.ndest = 0 then 64 else w.ndest.toNat, if w.nshadow = 0 then 8 else w.nshadow.toNat)

/-- An explicit head (R43, R337): the open region closes and the next opens at the mark; with four in flight the mark waits at
issue. -/
def markHead (w : HeadMark) (yield : Bool) (s : State) : Host.Outcome State Fault Refusal :=
  match s.issuer with
  | none => .fault .noIssuer
  | some t =>
    let word : Word1 := { len := 8, hd := { sw := w.sw, pred := 0, pn := false }, effect := fun s t => .done s t none }
    let t1 := t.closeRegion s.tick
    let lim := headLimits w
    .next ((match s.beforeWord t with
      | some s => s
      | none =>
        if t.kind == TeamKind.lantern then s.lanternEnd t 2
        else if 4 ≤ t1.inFlight then { s with issue := none }.setTeam { t1 with needHead := true, run := .wait .regionSlot, waitSlots := 0 }
        else s.finish { t1.openAt s.tick lim.1 lim.2 with yielded := yield } word none).afterStep t.uid t.arch.pc)

/-- REGION_HEAD (R43). -/
def execRegionHead (w : HeadMark) (s : State) : Host.Outcome State Fault Refusal := markHead w false s

/-- REGION_HEAD_YIELD (R43): any ready team may take the partition's next slot in preference (R222). -/
def execRegionHeadYield (w : HeadMark) (s : State) : Host.Outcome State Fault Refusal := markHead w true s

/-- PADDING (R44): with its switch bit it takes a slot and acts as a switch marker; without, it takes none, and the slot goes on
to the team's next word. -/
def execPadding (sw : Bool) (s : State) : Host.Outcome State Fault Refusal :=
  let word : Word1 :=
    { len := 8, hd := { sw := sw, pred := 0, pn := false }, lantern := { runs := true, dst := none, ops := [] },
      effect := fun s t => .done s t none }
  if sw then issueWord word s
  else match s.issuer with
    | none => .fault .noIssuer
    | some t => .next (s.setTeam { t with arch := { t.arch with pc := t.arch.pc + 8 } })

end Sys2Proof.Machine
end

