-- ==== Sys2Proof/Machine/RegWrite.lean ====
section
/-! DEFINITION. A host write to any register of a function's BAR0 page: its writable fields are stored, and what the register starts
is started (00_scope.md, R4; the register tables of 09, 15, 16, 18 and 21). -/

namespace Sys2Proof.Machine

/-- The writable bits, and those that writing 1 clears, of a register that only stores its fields; none where writes are ignored. -/
def plainMask (f off : Nat) : Option (Word × Word) :=
  let full : Word := 0xFFFFFFFF
  let page := off / 0x1000
  let o := off % 0x1000
  match page with
  | 0x1 => match o with
    | 0x00 => some (0xFFFFF000, 0)
    | 0x04 => some (full, 0)
    | 0x08 => some (0xF, 0)
    | 0x10 => some (full, 0)
    | _ => none
  | 0x2 => match o with
    | 0x00 => some (0xFFFF0000, 0)
    | 0x04 => some (full, 0)
    | 0x08 => some (full, 0)
    | _ => none
  | 0x3 => match o with
    | 0x00 => some (0xF0000000, 0)
    | 0x04 => some (full, 0)
    | 0x08 => some (0x3, 0)
    | 0x0C => some (0, 1)
    | _ => none
  | 0x7 => match o with
    | 0x00 => some (0xFFFFF000, 0)
    | 0x04 => some (full, 0)
    | _ => none
  | 0x9 => match o with
    | 0x00 => some (0xFFFFF000, 0)
    | 0x04 => some (full, 0)
    | 0x08 => some (full, 0)
    | 0x0C => some (0x1, 0xC)
    | _ => none
  | 0xA => match o with
    | 0x00 => some (0xFFFFF000, 0)
    | 0x04 => some (full, 0)
    | 0x10 => some (full, 0)
    | _ => none
  | 0xC => match o with
    | 0x08 => some (0, 0x3)
    | 0x10 => some (0xFFFFF000, 0)
    | 0x14 => some (full, 0)
    | 0x18 => some (full, 0)
    | 0x20 => some (0x3F, 0)
    | 0x24 => some (0xFFFFF000, 0)
    | 0x28 => some (full, 0)
    | 0x2C => some (0x1F, 0)
    | 0x34 => some (full, 0)
    | _ => none
  | 0xD => if f != 0 then none else match o with
    | 0x00 => some (0xFFFFFFFC, 0)
    | 0x04 => some (full, 0)
    | 0x08 => some (full, 0)
    | 0x0C => some (0x1FFF, 0)
    | 0x10 => some (0xFFFFFFE0, 0)
    | 0x14 => some (full, 0)
    | 0x18 => some (full, 0)
    | 0x1C => some (0xFFFFFFC0, 0)
    | 0x20 => some (full, 0)
    | 0x24 => some (full, 0)
    | 0x28 => some (full, 0)
    | 0x2C => some (full, 0)
    | 0x30 => some (full, 0)
    | 0x34 => some (full, 0)
    | _ => none
  | _ => none

/-- A write in the launch-queue page (Table 9.1). -/
def State.writeQueuePage (s : State) (f off : Nat) (val : Word) : State :=
  let q := off / 0x40
  let en := s.regField f (0x40 * q + 8) 0 1 = 1
  match off % 0x40 with
  | 0x00 => if en then s else s.writeMasked f off 0xFFFFFF80 0 val
  | 0x04 => if en then s else s.setReg f off val
  | 0x08 => s.writeQueueCtl f q val
  | 0x0C => s.writeWidx f q val
  | _ => s

/-- A write of a context slot by the physical function, while its queue's EN is 0 (R291, Table 15.1). -/
def State.writeCtx (s : State) (off : Nat) (val : Word) : State :=
  let f := (off - 0x4000) / 0x80
  let q := off % 0x80 / 0x20
  if 9 ≤ f || s.regField f (0x40 * q + 8) 0 1 = 1 then s
  else match off % 0x20 with
    | 0x00 => s.writeMasked 0 off 0xFFFFFC00 0 val
    | 0x04 => s.writeMasked 0 off 0xFF 0 val
    | 0x08 => s.writeMasked 0 off 0xFFFFF 0 val
    | 0x0C => s.writeMasked 0 off 0x7FFFF 0 val
    | _ => s

/-- A write of a partition record by the physical function (R308, Table 16.1). -/
def State.writePart (s : State) (off : Nat) (val : Word) : State :=
  let p := (off - 0x5000) / 0x40
  if 8 ≤ p then s
  else match off % 0x40 with
    | 0x00 => if s.partEn p then s else s.setReg 0 off val
    | 0x04 => if s.partEn p then s else s.writeMasked 0 off 0xFFFF0000 0 val
    | 0x08 => if s.partEn p then s else s.writeMasked 0 off 0xFF 0 val
    | 0x0C => if s.partEn p then s else s.setReg 0 off val
    | 0x10 => s.writeMasked 0 off 0xFFFFFF 0 val
    | 0x14 => s.writeMasked 0 off 0xFFF 0 val
    | 0x18 => s.writeMasked 0 off 0xFF 0 val
    | 0x1C => s.writePartCtl p val
    | _ => s

/-- A write of a watchpoint's register from a debug page whose function reaches its cluster (R389, Table 21.3). -/
def State.writeWatch (s : State) (f off : Nat) (val : Word) : State :=
  let cl := (off - 0xC100) / 0x40
  if 32 ≤ cl || !s.dbgReach f cl then s
  else match off % 0x10 with
    | 0x0 => s.writeMasked 0 off 0xFFFFFFF8 0 val
    | 0x4 => s.setReg 0 off val
    | 0x8 => s.setReg 0 off ((val &&& 0xFFFF3FFF) ||| 0x4000)
    | _ => s.writeMasked 0 off 0 0xFFFFFFFF val

/-! ### The management controller's own writes -/

/-- FLOOR and RAMPDN (R327): a value outside its range is not set; without an unexpired lease FLOOR is the target (R326). -/
def State.writeFloor (s : State) (val : Word) : State :=
  let floor := val.toNat % 65536
  let ramp := val.toNat / 65536
  let s := if ramp < 100 then s else s.setField 0 0x6018 16 16 ramp
  if floor < 600 || 3000 < floor then s
  else
    let s := s.setField 0 0x6018 0 16 floor
    if s.regField 0 0x601C 0 1 = 0 then s.setTarget floor else s

/-- An entry of the table of listed device numbers (R305): device number in [7:0], its link in [15:8]; bit 31 lists it, else it is taken
out. Device number 255 is never listed. -/
def State.writeListed (s : State) (val : Word) : State :=
  let n := val.toNat % 256
  let link := val.toNat / 256 % 256
  let rest := s.listed.filter (fun x => x.1 != n)
  if n = 255 || s.variant.deviceLinks ≤ link then s
  else { s with listed := if val.getLsbD 31 then rest ++ [(n, link)] else rest }

/-- What the management controller writes itself: FLOOR and RAMPDN, this package's device number and the table of the listed ones, and what the
boot ROM will find at the next reset. The spec gives the first register's offset; the others are the model's (log 121). -/
def State.writeMc (s : State) (off : Nat) (val : Word) : State :=
  match off with
  | 0x6018 => s.writeFloor val
  | 0x7010 => { s with boot := { stages := [val.getLsbD 0, val.getLsbD 1, val.getLsbD 2], version := val.getLsbD 3 } }
  | 0x8000 => if val.toNat < 255 then { s with devNum := val.toNat } else s
  | 0x8004 => s.writeListed val
  | _ => s

/-- A host write to BAR0 of a function. In recovery only the attestation page is there (R330). -/
def State.writeReg (s : State) (f off : Nat) (val : Word) : State :=
  let page := off / 0x1000
  if s.recovery && page != 0x7 && !(page == 0 && off % 0x40 == 8) then s
  else if page = 0 then (if off < 0x100 then s.writeQueuePage f off val else s)
  else if off = 0x1014 then s.writeResp f val
  else if off = 0x200C then s.writeInvctl f val
  else if page = 0x4 then (if f = 0 then s.writeCtx off val else s)
  else if page = 0x5 then (if f = 0 then s.writePart off val else s)
  else if off = 0x7008 then s.writeAttest f val
  else if off = 0xA008 then s.writeTrace f val
  else if off = 0xC000 then s.writeDbgCtl f val
  else if off = 0xC004 then s.writeCmd f val
  else if 0xC100 ≤ off && page = 0xC then s.writeWatch f off val
  else if off = 0xD038 then (if f = 0 then s.writeCkpt val else s)
  else match plainMask f off with
    | some (rw, w1c) => s.writeMasked f off rw w1c val
    | none => s

/-- REGISTER_WRITE (R4): a 32-bit write at an aligned offset of a function's BAR0; function number 9 stands for the management controller
(R305, R327, R330; log 121). -/
def execRegisterWrite (func off : Nat) (val : Word) (s : State) : Host.Outcome State Fault Refusal :=
  if 10 ≤ func || off % 4 != 0 || 0x10000 ≤ off then .next s
  else if func = 9 then happened (s.writeMc off val) else happened (s.writeReg func off val)

end Sys2Proof.Machine
end

