-- ==== Sys2Proof/Machine/Dispatch.lean ====
section
/-! DEFINITION. One arm per constructor of Instr: the meaning of a word that a team executes, or of an event. -/

namespace Sys2Proof.Machine

/-- What an instruction or event does to a state. -/
def exec (i : Instr) (s : State) : Host.Outcome State Fault Refusal :=
  match i with
  | .nop w => Sys2Proof.Machine.execNop w s
  | .mov w => Sys2Proof.Machine.execMov w s
  | .ldi w => Sys2Proof.Machine.execLdi w s
  | .sel w => Sys2Proof.Machine.execSel w s
  | .iadd w => Sys2Proof.Machine.execIadd w s
  | .isub w => Sys2Proof.Machine.execIsub w s
  | .imul w => Sys2Proof.Machine.execImul w s
  | .imulh w => Sys2Proof.Machine.execImulh w s
  | .imad w => Sys2Proof.Machine.execImad w s
  | .imin w => Sys2Proof.Machine.execImin w s
  | .imax w => Sys2Proof.Machine.execImax w s
  | .iabs w => Sys2Proof.Machine.execIabs w s
  | .ineg w => Sys2Proof.Machine.execIneg w s
  | .and w => Sys2Proof.Machine.execAnd w s
  | .or w => Sys2Proof.Machine.execOr w s
  | .xor w => Sys2Proof.Machine.execXor w s
  | .andn w => Sys2Proof.Machine.execAndn w s
  | .not w => Sys2Proof.Machine.execNot w s
  | .shl w => Sys2Proof.Machine.execShl w s
  | .shr w => Sys2Proof.Machine.execShr w s
  | .sar w => Sys2Proof.Machine.execSar w s
  | .rotl w => Sys2Proof.Machine.execRotl w s
  | .bfx w => Sys2Proof.Machine.execBfx w s
  | .bfi w => Sys2Proof.Machine.execBfi w s
  | .popc w => Sys2Proof.Machine.execPopc w s
  | .clz w => Sys2Proof.Machine.execClz w s
  | .brev w => Sys2Proof.Machine.execBrev w s
  | .icmp w => Sys2Proof.Machine.execIcmp w s
  | .lea w => Sys2Proof.Machine.execLea w s
  | .iadd64 w => Sys2Proof.Machine.execIadd64 w s
  | .isub64 w => Sys2Proof.Machine.execIsub64 w s
  | .icmp64 w => Sys2Proof.Machine.execIcmp64 w s
  | .iadds w => Sys2Proof.Machine.execIadds w s
  | .dot4 w => Sys2Proof.Machine.execDot4 w s
  | .permb w => Sys2Proof.Machine.execPermb w s
  | .fadd w => Sys2Proof.Machine.execFadd w s
  | .fsub w => Sys2Proof.Machine.execFsub w s
  | .fmul w => Sys2Proof.Machine.execFmul w s
  | .ffma w => Sys2Proof.Machine.execFfma w s
  | .fmin w => Sys2Proof.Machine.execFmin w s
  | .fmax w => Sys2Proof.Machine.execFmax w s
  | .fcmp w => Sys2Proof.Machine.execFcmp w s
  | .fclass w => Sys2Proof.Machine.execFclass w s
  | .frcp w => Sys2Proof.Machine.execFrcp w s
  | .frsq w => Sys2Proof.Machine.execFrsq w s
  | .fsqrt w => Sys2Proof.Machine.execFsqrt w s
  | .fex2 w => Sys2Proof.Machine.execFex2 w s
  | .flg2 w => Sys2Proof.Machine.execFlg2 w s
  | .fsin w => Sys2Proof.Machine.execFsin w s
  | .fcos w => Sys2Proof.Machine.execFcos w s
  | .ftanh w => Sys2Proof.Machine.execFtanh w s
  | .frnd w => Sys2Proof.Machine.execFrnd w s
  | .ffmax w => Sys2Proof.Machine.execFfmax w s
  | .cvt w => Sys2Proof.Machine.execCvt w s
  | .cvtsr w => Sys2Proof.Machine.execCvtsr w s
  | .bscale w => Sys2Proof.Machine.execBscale w s
  | .shfl w => Sys2Proof.Machine.execShfl w s
  | .bcast w => Sys2Proof.Machine.execBcast w s
  | .vote w => Sys2Proof.Machine.execVote w s
  | .redux w => Sys2Proof.Machine.execRedux w s
  | .scan w => Sys2Proof.Machine.execScan w s
  | .elect w => Sys2Proof.Machine.execElect w s
  | .kand w => Sys2Proof.Machine.execKand w s
  | .kor w => Sys2Proof.Machine.execKor w s
  | .kxor w => Sys2Proof.Machine.execKxor w s
  | .knot w => Sys2Proof.Machine.execKnot w s
  | .kmov w => Sys2Proof.Machine.execKmov w s
  | .kpop w => Sys2Proof.Machine.execKpop w s
  | .kfirst w => Sys2Proof.Machine.execKfirst w s
  | .mma w => Sys2Proof.Machine.execMma w s
  | .mmam w => Sys2Proof.Machine.execMmam w s
  | .mmq w => Sys2Proof.Machine.execMmq w s
  | .qscale w => Sys2Proof.Machine.execQscale w s
  | .qzero w => Sys2Proof.Machine.execQzero w s
  | .qld w => Sys2Proof.Machine.execQld w s
  | .qst w => Sys2Proof.Machine.execQst w s
  | .qcvt w => Sys2Proof.Machine.execQcvt w s
  | .qmov w => Sys2Proof.Machine.execQmov w s
  | .ldf w => Sys2Proof.Machine.execLdf w s
  | .qadd w => Sys2Proof.Machine.execQadd w s
  | .ld w => Sys2Proof.Machine.execLd w s
  | .st w => Sys2Proof.Machine.execSt w s
  | .lda w => Sys2Proof.Machine.execLda w s
  | .stl w => Sys2Proof.Machine.execStl w s
  | .atom w => Sys2Proof.Machine.execAtom w s
  | .cas w => Sys2Proof.Machine.execCas w s
  | .fence w => Sys2Proof.Machine.execFence w s
  | .pf w => Sys2Proof.Machine.execPf w s
  | .tmov w => Sys2Proof.Machine.execTmov w s
  | .sinv w => Sys2Proof.Machine.execSinv w s
  | .copy w => Sys2Proof.Machine.execCopy w s
  | .gather w => Sys2Proof.Machine.execGather w s
  | .waitc w => Sys2Proof.Machine.execWaitc w s
  | .plinit w => Sys2Proof.Machine.execPlinit w s
  | .plfill w => Sys2Proof.Machine.execPlfill w s
  | .plwait w => Sys2Proof.Machine.execPlwait w s
  | .plrel w => Sys2Proof.Machine.execPlrel w s
  | .arrive w => Sys2Proof.Machine.execArrive w s
  | .bwait w => Sys2Proof.Machine.execBwait w s
  | .binit w => Sys2Proof.Machine.execBinit w s
  | .bra w => Sys2Proof.Machine.execBra w s
  | .brc w => Sys2Proof.Machine.execBrc w s
  | .brx w => Sys2Proof.Machine.execBrx w s
  | .call w => Sys2Proof.Machine.execCall w s
  | .ret w => Sys2Proof.Machine.execRet w s
  | .split w => Sys2Proof.Machine.execSplit w s
  | .join w => Sys2Proof.Machine.execJoin w s
  | .barb w => Sys2Proof.Machine.execBarb w s
  | .bard w => Sys2Proof.Machine.execBard w s
  | .barg w => Sys2Proof.Machine.execBarg w s
  | .waitv w => Sys2Proof.Machine.execWaitv w s
  | .yield w => Sys2Proof.Machine.execYield w s
  | .spawn w => Sys2Proof.Machine.execSpawn w s
  | .launch w => Sys2Proof.Machine.execLaunch w s
  | .exit w => Sys2Proof.Machine.execExit w s
  | .rega w => Sys2Proof.Machine.execRega w s
  | .regr w => Sys2Proof.Machine.execRegr w s
  | .getsr w => Sys2Proof.Machine.execGetsr w s
  | .setsr w => Sys2Proof.Machine.execSetsr w s
  | .trap w => Sys2Proof.Machine.execTrap w s
  | .rte w => Sys2Proof.Machine.execRte w s
  | .brk w => Sys2Proof.Machine.execBrk w s
  | .lanerd w => Sys2Proof.Machine.execLanerd w s
  | .lanewr w => Sys2Proof.Machine.execLanewr w s
  | .capq w => Sys2Proof.Machine.execCapq w s
  | .capqPart w => Sys2Proof.Machine.execCapqPart w s
  | .migrCaps w => Sys2Proof.Machine.execMigrCaps w s
  | .migrReq w => Sys2Proof.Machine.execMigrReq w s
  | .migrPin w => Sys2Proof.Machine.execMigrPin w s
  | .migrUnpin w => Sys2Proof.Machine.execMigrUnpin w s
  | .gdef w => Sys2Proof.Machine.execGdef w s
  | .gres w => Sys2Proof.Machine.execGres w s
  | .gresSet w => Sys2Proof.Machine.execGresSet w s
  | .gqry w => Sys2Proof.Machine.execGqry w s
  | .gpsn w => Sys2Proof.Machine.execGpsn w s
  | .gpsnSet w => Sys2Proof.Machine.execGpsnSet w s
  | .ldn w => Sys2Proof.Machine.execLdn w s
  | .trace w => Sys2Proof.Machine.execTrace w s
  | .pair w => Sys2Proof.Machine.execPair w s
  | .regionHead w => Sys2Proof.Machine.execRegionHead w s
  | .regionHeadYield w => Sys2Proof.Machine.execRegionHeadYield w s
  | .padding sw => Sys2Proof.Machine.execPadding sw s
  | .issueSlot core part => Sys2Proof.Machine.execIssueSlot core part s
  | .tick t => Sys2Proof.Machine.execTick t s
  | .sensorDisturbance zone kind sensor stamp => Sys2Proof.Machine.execSensorDisturbance zone kind sensor stamp s
  | .storageCheckError e => Sys2Proof.Machine.execStorageCheckError e s
  | .checkEvent team addr computed checked => Sys2Proof.Machine.execCheckEvent team addr computed checked s
  | .noticeReceived die n => Sys2Proof.Machine.execNoticeReceived die n s
  | .clearThroughReceived die zone c => Sys2Proof.Machine.execClearThroughReceived die zone c s
  | .outboundDrain core n => Sys2Proof.Machine.execOutboundDrain core n s
  | .clearanceTimeout what => Sys2Proof.Machine.execClearanceTimeout what s
  | .tickCheck die => Sys2Proof.Machine.execTickCheck die s
  | .dieFailed unit => Sys2Proof.Machine.execDieFailed unit s
  | .linkFlitError link again => Sys2Proof.Machine.execLinkFlitError link again s
  | .atomPendingEnd id => Sys2Proof.Machine.execAtomPendingEnd id s
  | .memoryResponse team acc lanes useCache => Sys2Proof.Machine.execMemoryResponse team acc lanes useCache s
  | .laneReplay team => Sys2Proof.Machine.execLaneReplay team s
  | .engineRequestStart op => Sys2Proof.Machine.execEngineRequestStart op s
  | .chunkRead op => Sys2Proof.Machine.execChunkRead op s
  | .chunkCommit op chunk => Sys2Proof.Machine.execChunkCommit op chunk s
  | .gourFillAccept obj => Sys2Proof.Machine.execGourFillAccept obj s
  | .gourReleaseApply obj => Sys2Proof.Machine.execGourReleaseApply obj s
  | .plinitApply obj => Sys2Proof.Machine.execPlinitApply obj s
  | .waitConditionMet team => Sys2Proof.Machine.execWaitConditionMet team s
  | .continuationRun core => Sys2Proof.Machine.execContinuationRun core s
  | .geodeWake team cell => Sys2Proof.Machine.execGeodeWake team cell s
  | .openBufferRetry team => Sys2Proof.Machine.execOpenBufferRetry team s
  | .evaluatorPlace stack entry => Sys2Proof.Machine.execEvaluatorPlace stack entry s
  | .evalSlotTimeout who => Sys2Proof.Machine.execEvalSlotTimeout who s
  | .taskTeamForm die => Sys2Proof.Machine.execTaskTeamForm die s
  | .launchRecordRead src => Sys2Proof.Machine.execLaunchRecordRead src s
  | .blockPlace block => Sys2Proof.Machine.execBlockPlace block s
  | .completionRecord grid => Sys2Proof.Machine.execCompletionRecord grid s
  | .preempt block => Sys2Proof.Machine.execPreempt block s
  | .stopAcknowledged block => Sys2Proof.Machine.execStopAcknowledged block s
  | .ackTimeout block unit => Sys2Proof.Machine.execAckTimeout block unit s
  | .saveComplete block => Sys2Proof.Machine.execSaveComplete block s
  | .blockRestore block => Sys2Proof.Machine.execBlockRestore block s
  | .migrationPlace block => Sys2Proof.Machine.execMigrationPlace block s
  | .loadValueQueueTake team => Sys2Proof.Machine.execLoadValueQueueTake team s
  | .signatureCompare team => Sys2Proof.Machine.execSignatureCompare team s
  | .fieldTestStep cluster unit pass => Sys2Proof.Machine.execFieldTestStep cluster unit pass s
  | .fieldTestQueue cluster unit pass => Sys2Proof.Machine.execFieldTestQueue cluster unit pass s
  | .powerInterval d => Sys2Proof.Machine.execPowerInterval d s
  | .leaseRecord rackTime rec => Sys2Proof.Machine.execLeaseRecord rackTime rec s
  | .leaseExpiry rackTime => Sys2Proof.Machine.execLeaseExpiry rackTime s
  | .packageReset => Sys2Proof.Machine.execPackageReset s
  | .launchQueueEnable func queue val => Sys2Proof.Machine.execLaunchQueueEnable func queue val s
  | .launchQueueDisable func queue val => Sys2Proof.Machine.execLaunchQueueDisable func queue val s
  | .launchQueueWidx func queue val => Sys2Proof.Machine.execLaunchQueueWidx func queue val s
  | .invalidate func val => Sys2Proof.Machine.execInvalidate func val s
  | .invalidationComplete func => Sys2Proof.Machine.execInvalidationComplete func s
  | .atsInvalidate pasid va bytes => Sys2Proof.Machine.execAtsInvalidate pasid va bytes s
  | .atsCompletion c => Sys2Proof.Machine.execAtsCompletion c s
  | .respMapped func val => Sys2Proof.Machine.execRespMapped func val s
  | .respFail func val => Sys2Proof.Machine.execRespFail func val s
  | .faultTimeout slice entry => Sys2Proof.Machine.execFaultTimeout slice entry s
  | .apertureRead func off bytes => Sys2Proof.Machine.execApertureRead func off bytes s
  | .apertureWrite func off data => Sys2Proof.Machine.execApertureWrite func off data s
  | .partitionEnable part val => Sys2Proof.Machine.execPartitionEnable part val s
  | .partitionDisable part val => Sys2Proof.Machine.execPartitionDisable part val s
  | .suspend part val => Sys2Proof.Machine.execSuspend part val s
  | .suspendClear part val => Sys2Proof.Machine.execSuspendClear part val s
  | .attestationRequest func val => Sys2Proof.Machine.execAttestationRequest func val s
  | .traceEnable func val => Sys2Proof.Machine.execTraceEnable func val s
  | .dumpWrite func => Sys2Proof.Machine.execDumpWrite func s
  | .checkpointGo val => Sys2Proof.Machine.execCheckpointGo val s
  | .checkpointAbort val => Sys2Proof.Machine.execCheckpointAbort val s
  | .stepWordPoll => Sys2Proof.Machine.execStepWordPoll s
  | .stoppart func cmd => Sys2Proof.Machine.execStoppart func cmd s
  | .stopclus func cmd => Sys2Proof.Machine.execStopclus func cmd s
  | .resume func cmd => Sys2Proof.Machine.execResume func cmd s
  | .step func cmd => Sys2Proof.Machine.execStep func cmd s
  | .steptrap func cmd => Sys2Proof.Machine.execSteptrap func cmd s
  | .inspect func cmd => Sys2Proof.Machine.execInspect func cmd s
  | .save func cmd => Sys2Proof.Machine.execSave func cmd s
  | .load func cmd => Sys2Proof.Machine.execLoad func cmd s
  | .debugDisable func val => Sys2Proof.Machine.execDebugDisable func val s
  | .sampleRecord idx => Sys2Proof.Machine.execSampleRecord idx s
  | .registerWrite func off val => Sys2Proof.Machine.execRegisterWrite func off val s
  | .longLatencyResult team id lanes => Sys2Proof.Machine.execLongLatencyResult team id lanes s
  | .probeResponse team entry => Sys2Proof.Machine.execProbeResponse team entry s
  | .remoteAccess r => Sys2Proof.Machine.execRemoteAccess r s
  | .correctableEccError zone => Sys2Proof.Machine.execCorrectableEccError zone s

end Sys2Proof.Machine
end

