-- ==== Sys2Proof/Machine/Loader.lean ====
section
/-! DEFINITION. A program that stands ready to run (log 20): a one-team grid with its block, die span, context and page, and the
issue slot granted to its team. The host's driver and the dispatcher do all this by events; here it is done at once, so that the
very next step fetches the word. -/

namespace Sys2Proof.Machine

/-- The address space and the first address of a loaded program: an address of the device half, at the start of stack 0. -/
def loadAsid : Nat := 1
def loadVa : Nat := 0x8000000000000000

/-- The launch record of a loaded program: one block of one team of 32 lanes with 16 registers, kept by the capability set JB. -/
def loadRec : LaunchRec :=
  { entry := BitVec.ofNat 64 loadVa, args := 0, compaddr := 0, compval := 0, nblock := 1, spanblk := 1, tw := 32, gw := 32, teams := 1,
    regs := 16, acc := 0, pocket := 0, chamber := 0, gallery := 0, eject := 0, spill := 0, caps := 1, prio := 0, mode := 0, gridtag := 0 }

/-- The page of a loaded program: 1 GiB from physical address 0, writable and executable. -/
def loadTlb (v : Variant) : TlbEnt :=
  { slice := owningSlice v loadVa, asid := loadAsid, va := loadVa, bytes := 2 ^ 30, host := false, base := 0, w := true, x := true, p := false }

/-- Loads bytes as a program and grants its team the issue slot. -/
def State.loadBytes (s : State) (bs : List Byte) : State :=
  let u := s.nextUid
  let loc : Loc := { chip := 0, cluster := 0, core := 0, part := 0, slot := 0 }
  let arch := Arch.start (BitVec.ofNat 64 loadVa) 32 16 0 [] (fun _ _ => 0) (fullMask 32)
  let t := Team.start (u + 3) .ordinary loc u (u + 2) 0 32 32 16 0 u 0 arch
  let g : Grid :=
    { uid := u, lrec := loadRec, tenant := 0, func := 0, queue := 0, asid := loadAsid, fromQ := true, age := u, exited := 0, status := none,
      aborted := none, dump := .undecided, after := none, barg := { isOpen := false, mask := 0, arrived := [] } }
  let x : Span := { uid := u + 1, grid := u, idx := 0, die := some 0, gallery := some (Scratch.alloc 0), start := 0, blocks := 0, out := false, place := [],
                    bard := List.replicate 2 { isOpen := false, mask := 0, arrived := [] } }
  let b : Block :=
    { uid := u + 2, grid := u, span := u + 1, idx := 0, kind := .ordinary, role := .single, mate := 0, state := .resident, chip := 0,
      cluster := 0, age := u, prio := 0, caps := 0, teamSeed := [], pockets := [Scratch.alloc 0, Scratch.alloc 0], chamber := Scratch.alloc 0, starts := [0, 0, 0],
      barb := List.replicate 4 { isOpen := false, mask := 0, arrived := [] }, gours := [], exitedT := [], blockId := 0, bound := 0, place := [],
      migrated := false, pin := false, req := none, move := 0, restoredT := none, released := [], claim := none }
  let s := s.setReg 0 0x400C (BitVec.ofNat 32 (0x10000 + loadAsid))
  { s with
    issue := some (u + 3), nextUid := u + 4, teams := s.teams ++ [t], blocks := s.blocks ++ [b], spans := s.spans ++ [x],
    grids := s.grids ++ [g], tlb := loadTlb s.variant :: s.tlb, slices := s.slices.filter (fun l => l.asid != loadAsid),
    mem := s.mem.put 0 bs }

end Sys2Proof.Machine
end

