-- ==== Sys2Proof/Machine/Schedule.lean ====
section
/-! DEFINITION. What happens next when the agenda names nothing (DESIGN CHOICE, log 1): ticks and, between them, one after another of
the events that could take place. The agenda can name any order of any events; this is only the order taken where it is silent. -/

namespace Sys2Proof.Machine

/-- A tick that brings nothing but time. -/
def plainTick : TickArgs := { dropSlice := [], dropRead := [], dropTlb := [], missed := [], doubled := [], rerouted := [] }

/-- What a team may be about to do. -/
def State.dueTeam (s : State) (t : Team) : List Instr :=
  (if (s.offered t || (t.run == .switch && t.park true != .unfinished && s.offered { t with run := .ready })) && t.kind != .lantern then [Instr.issueSlot t.loc.pkgCore t.loc.part] else []) ++
  (if t.kind == .lantern then [Instr.continuationRun t.loc.pkgCore] else []) ++
  (t.accs.filter (fun a => a.lanes.any (fun l => l.st == .waiting))).map (fun a => .memoryResponse t.uid a.id (BitVec.allOnes 1024) false) ++
  (if t.accs.any (fun a => a.lanes.any (·.st.left)) || (match t.run with | .fetch _ => true | .landing _ => true | _ => false) then
    [.laneReplay t.uid, .openBufferRetry t.uid] else []) ++
  t.pend.map (fun p => .longLatencyResult t.uid p.id (BitVec.allOnes 1024)) ++
  ((t.regions.flatMap (·.held)).filter t.probing).map (fun e => .probeResponse t.uid e.seq) ++
  (match t.run with
    | .wait _ => [.waitConditionMet t.uid]
    | .join => [.waitConditionMet t.uid]
    | _ => []) ++
  (match t.relq with
    | e :: _ => (match e.kind with
      | .plinit sp off _ _ _ _ => [.plinitApply (objRef t sp off)]
      | _ => [])
    | [] => []) ++
  (if t.role == .trailing then [.loadValueQueueTake t.uid] else if t.role == .leading then [.signatureCompare t.uid] else [])

/-- What the memory side and the engines may be about to do. -/
def State.dueUnits (s : State) : List Instr :=
  s.atoms.map (fun x => .atomPendingEnd x.id) ++
  s.ops.flatMap (fun o => if o.state == EngState.queued then [.engineRequestStart o.id] else if o.state == EngState.running then
    .chunkRead o.id :: o.staged.map (fun c => .chunkCommit o.id c.num) else []) ++
  s.blocks.flatMap (fun b => b.gours.flatMap (fun g => [.gourFillAccept g.1, .gourReleaseApply g.1])) ++
  s.wakes.map (fun w => .geodeWake w.1 w.2) ++
  (s.cores.zipIdx.filter (fun c => !c.1.outbound.isEmpty)).map (fun c => .outboundDrain c.2 c.1.outbound.length) ++
  (s.cores.zipIdx.filter (fun c => !c.1.lantern.isEmpty)).map (fun c => .continuationRun c.2)

/-- What the dispatcher, the management controller and the debug unit may be about to do. -/
def State.dueDispatch (s : State) : List Instr :=
  s.memStacks.zipIdx.flatMap (fun k => (k.1.buffer.zipIdx.filter (fun e => e.1.isSome)).map (fun e => .evaluatorPlace k.2 e.2)) ++
  (s.dies.zipIdx.filter (fun d => d.1.bins.any (fun b => !b.isEmpty))).map (fun d => .taskTeamForm d.2) ++
  (List.range 9).flatMap (fun f => ((List.range 4).filter (fun q => s.regField f (0x40 * q + 8) 0 1 == 1 &&
    s.reg f (0x40 * q + 0x0C) != s.reg f (0x40 * q + 0x10))).map (fun q => .launchRecordRead (.queue f q))) ++
  s.launches.map (fun r => .launchRecordRead (.request r.id)) ++
  s.blocks.flatMap (fun b => match b.state with
    | .pending => [.blockPlace b.uid, .preempt b.uid]
    | .saved => [if b.move = 0 then .blockRestore b.uid else .migrationPlace b.uid, .preempt b.uid]
    | .stopping _ _ => [.stopAcknowledged b.uid]
    | .saving _ => [.saveComplete b.uid]
    | _ => []) ++
  s.grids.map (fun g => .completionRecord g.uid) ++
  (s.grids.filter (fun g => g.dump == DumpState.writing)).map (fun g => .dumpWrite g.func) ++
  s.invs.map (fun v => .invalidationComplete v.func) ++
  (if s.ckpt.phase == .idle then [] else [.stepWordPoll]) ++
  (s.samples.zipIdx.filter (fun x => x.1.doneT.isSome || x.1.squashed)).map (fun x => .sampleRecord x.2) ++
  (List.range 9).flatMap (fun f => if s.regField f 0xC004 31 1 == 1 && s.regField f 0xC004 16 4 == 7 then [.save f (s.reg f 0xC004)] else [])

/-- The zones of a tag set whose clearance is overdue at a die (R347). -/
def State.overdueZones (s : State) (die : Nat) (g : Tags) : List Nat :=
  (g.tags.filter (fun x => s.overdue die x.zone x.last)).map (·.zone) ++ (match g.wide with
    | some (_, l) => s.variant.zones.filter (fun z => s.overdue die z l)
    | none => [])

/-- The waits whose time is over. -/
def State.dueTimeouts (s : State) : List Instr :=
  s.teams.flatMap (fun t => t.accs.flatMap (fun a => (a.lost.filter (fun x => x.2.2 + tClr ≤ (s.die t.loc.chip).tick)).map (fun x => .clearanceTimeout (.region t.uid a.region x.2.1)))) ++
  s.teams.flatMap (fun t => t.regions.flatMap (fun r => (s.overdueZones t.loc.chip r.imports).map (fun z => .clearanceTimeout (.region t.uid r.id z)))) ++
  s.ops.flatMap (fun o => o.staged.flatMap (fun c => (s.overdueZones o.die c.tags).map (fun z => .clearanceTimeout (.chunk o.id c.num z)))) ++
  (s.atoms.filter (fun x => x.t + tClr ≤ s.tick)).map (fun x => .clearanceTimeout (.atomic x.id)) ++
  (s.misses.filter (fun m => m.since + tFlt ≤ s.tick)).map (fun m => .faultTimeout m.slice m.entry) ++
  s.memStacks.zipIdx.flatMap (fun k => k.1.buffer.zipIdx.filterMap (fun e => match e.1 with
    | some o => if o.since + slotTimeout ≤ s.tick then some (.evalSlotTimeout (.evaluator k.2 e.2)) else none
    | none => none)) ++
  s.dies.zipIdx.filterMap (fun d => match d.1.taskWait with
    | some since => if since + slotTimeout ≤ s.tick then some (.evalSlotTimeout (.task d.2 d.1.lastBin)) else none
    | none => none) ++
  s.blocks.filterMap (fun b => match b.state with
    | .stopping _ since => if since + tAck ≤ s.tick then some (.ackTimeout b.uid 0) else none
    | _ => none)

/-- What could take place. -/
def State.due (s : State) : List Instr := s.teams.flatMap s.dueTeam ++ s.dueUnits ++ s.dueDispatch ++ s.dueTimeouts

/-- The next event by default: a tick on every other turn, and otherwise one of those that could take place, by the tick in turn. -/
def State.nextEvent (s : State) : Instr :=
  if s.odd then s.due.getD (s.tick % max 1 s.due.length) (.tick plainTick) else .tick plainTick

end Sys2Proof.Machine
end

