-- ==== Sys2Proof/Machine/Step.lean ====
section
/-! DEFINITION. One step of the package: the team that holds the issue slot fetches and executes one word, or else one event takes
place (log 1). -/

namespace Sys2Proof.Machine

/-- One event, with the issue slot free: the agenda's first, or the one that is due by default. An instruction word on the agenda is
no event and is dropped. -/
def State.event (s : State) : Host.Outcome State Fault Refusal :=
  match s.agenda with
  | [] => exec s.nextEvent { s with odd := !s.odd }
  | e :: rest => if e.isWord then .next { s with agenda := rest } else exec e { s with agenda := rest }

/-- One step. -/
def step (s : State) : Host.Outcome State Fault Refusal :=
  match s.issue with
  | none => s.event
  | some u => match s.team? u with
    | none => .next { s with issue := none }
    | some t => match s.fetchInstr t with
      | .instr i s => exec i s
      | .ended s => .next s

/-- The state with an instruction of nbits bits placed where the next step fetches; the bits above nbits are 0. -/
def State.withFetchWord (s : State) (nbits w : Nat) : State := s.loadBytes (leBytes 16 (w % 2 ^ nbits))

end Sys2Proof.Machine
end

