-- ==== Sys2Proof/Safety.lean ====
section
/-! DEFINITION. The terms that claims are stated in: a safe step, a team that may execute a word, and a word that meets no trap and
finds its room. -/

namespace Sys2Proof.Machine

/-- A step that neither faults nor is refused. -/
def stepSafe (s : State) : Prop := ∃ s', step s = .next s'

/-- Team t holds the issue slot and is ready to execute a word: it is no continuation, no single step is asked of it, and no other copy
of a redundant pair holds it back. -/
structure Running (s : State) (t : Team) : Prop where
  issue : s.issue = some t.uid
  team  : s.team? t.uid = some t
  alone : s.beforeWord t = none
  kind  : (t.kind == TeamKind.lantern) = false
  run   : t.run = .ready
  step  : t.stepMode = .off

/-- A word that passes every check of the decode order (R49) on its chiplet, is not the defined no-op of R31, and whose targets, where it
transfers control, are not still on their way (R50). -/
structure Passes (s : State) (t : Team) (w : Word1) : Prop where
  caps   : w.caps &&& chipCaps t.loc.chip = w.caps
  check  : w.check s t = none
  pred   : isNop w.hd = false
  bounds : w.bounds s t = none
  targets : s.awaitTarget t (w.targets s t) = none

/-- A word that closes no region and finds its open region, its limits and its room (R337–R339). -/
structure Fits (s : State) (t : Team) (w : Word1) : Prop where
  closing : w.closing s t = false
  head    : t.needHead = false
  room    : ∃ r, t.openRegion = some r ∧ overLimit t r (w.demand s t) = false ∧ s.noRoom t r (w.demand s t) = none

/-- A closing word at which nothing is left to report, to wait for, or to acquire (R152, R177, R205, R229). -/
structure Closes (s : State) (t : Team) (w : Word1) : Prop where
  closing : w.closing s t = true
  park    : t.park false = .clear
  failed  : s.failedOp t = none
  drained : s.drained t = true
  acquired : s.gresReads.any (fun x => x.1 == t.uid) = false

end Sys2Proof.Machine
end

