-- ==== Sys2Proof/Certificates/Slice0/Obligations.lean ====
section
/-! DEFINITION. What the provers are asked to prove of this model: one def Obligations.<Name> : Prop a statement, and before them the
terms that the statements share, written apart from the meanings. -/

namespace Sys2Proof.Claims

open Sys2Proof.Machine

/-- The values of a lane-by-lane word's sources in a lane. -/
def sources (o : AluOp) (a : Arch) (l : Nat) : List Nat := o.srcs.map (fun x => x.1.read a x.2 l)

/-- The lanes in which a lane-by-lane word writes: lane 0 stands for a word that executes once. -/
def lanes (o : AluOp) (t : Team) : List Nat := if o.once then [0] else lanesOf t.tw (t.arch.acting t.tw o.hd)

/-- Team t after a lane-by-lane word: in every lane the destination holds `val lane`, no flag is raised, and the rest of the team stands
as the shared end of a word leaves it. -/
def wrote (s : State) (t : Team) (o : AluOp) (val : Nat → Nat) : State :=
  s.finish ({ t with arch := t.arch.writeResults o.d o.kind ((lanes o t).map (fun l => (l, val l, 0))) }.note (o.word.demand s t)) o.word none

/-- Instruction i writes `f old sources` in every lane. -/
def Writes (i : Instr) (s : State) (t : Team) (o : AluOp) (f : Nat → List Nat → Nat) : Prop :=
  exec i s = .next (wrote s t o (fun l => f (o.old t.arch l) (sources o t.arch l)))

/-- An element function, over the elements of the old destination, of a and of b (R64, R80). -/
def perElem (ty : Nat) (f : (n : Nat) → BitVec n → BitVec n → BitVec n → BitVec n) (old : Nat) (xs : List Nat) : Nat :=
  let n := tyWidth ty
  let e (v j : Nat) : BitVec n := BitVec.ofNat n (elemAt n v j)
  joinElems n ((List.range (tyCount ty)).map (fun j => (f n (e old j) (e (xs.getD 0 0) j) (e (xs.getD 1 0) j)).toNat))

/-- A function of whole values of n bits. -/
def whole (n : Nat) (f : BitVec n → BitVec n → BitVec n → BitVec n) (old : Nat) (xs : List Nat) : Nat :=
  (f (BitVec.ofNat n old) (BitVec.ofNat n (xs.getD 0 0)) (BitVec.ofNat n (xs.getD 1 0))).toNat

/-- The forms of layout A, apart from what they compute: two operands, one operand. -/
def form2 (w : FullA) (k : DstKind) : AluOp := bin w k (fun _ _ _ => 0)
def form1 (w : FullA) (k : DstKind) : AluOp := un w k (fun _ => 0)

/-- A word of a running team that passes its checks and fits. -/
structure Goes (s : State) (t : Team) (w : Word1) : Prop where
  running : Running s t
  passes  : Passes s t w
  fits    : Fits s t w

/-- The bits of a register value under a type. -/
def tyBits (ty : Nat) : Nat := if wideTy ty then 64 else 32

/-- A team whose word traps precisely: at a switch marker its own deferred report is discarded, and kept for a squash of the handler's
entry (R355). -/
def hushed (t : Team) (sw : Bool) : Team :=
  if sw then { t with deferred := [], recalls := t.recalls ++ [{ region := t.nextRegion, deferred := t.deferred }] } else t

/-- A saturated sum (R87). -/
def satAdd (signed : Bool) (n : Nat) (x y : BitVec n) : BitVec n :=
  if signed then
    if x.toInt + y.toInt < -2 ^ (n - 1) then BitVec.intMin n
    else if 2 ^ (n - 1) ≤ x.toInt + y.toInt then BitVec.intMax n else x + y
  else if 2 ^ n ≤ x.toNat + y.toNat then BitVec.allOnes n else x + y

/-- The upper half of a product (R87). -/
def mulUpper (signed : Bool) (n : Nat) (x y : BitVec n) : BitVec n :=
  if signed then (x.signExtend (2 * n) * y.signExtend (2 * n)).extractLsb' n n
  else (x.zeroExtend (2 * n) * y.zeroExtend (2 * n)).extractLsb' n n

/-- The field mask of a bit-field word (R90). -/
def fieldLen (b : Nat) : Nat := min (b / 256 % 64) (32 - b % 32)

/-- A condition of Table 4.4 between two integers. -/
def holds (c : Nat) (x y : Int) : Bool :=
  match c with
  | 0 => x = y
  | 1 => x ≠ y
  | 2 => x < y
  | 3 => x ≤ y
  | 4 => y < x
  | _ => y ≤ x

/-- The integer that a bit pattern denotes. -/
def asInt (signed : Bool) {n : Nat} (x : BitVec n) : Int := if signed then x.toInt else x.toNat

end Sys2Proof.Claims

open Sys2Proof Sys2Proof.Machine Sys2Proof.Claims

/-- R87, the arithmetic of two elements: IADD, ISUB, IMUL, IMULH, IMAD, IMIN, IMAX and IADDS issue and leave, in every acting lane and
element of D, the stated function of a, b and (IMAD) the old destination. -/
def Obligations.IntegerArithmeticOfTwo : Prop :=
  ∀ (s : State) (t : Team) (w : FullA), Goes s t (form2 w .one).word →
    let ty := w.ty.toNat
    let o := form2 w .one
    let sg := tySigned ty
    Writes (.iadd w) s t o (perElem ty (fun _ _ x y => x + y)) ∧
    Writes (.isub w) s t o (perElem ty (fun _ _ x y => x - y)) ∧
    Writes (.imul w) s t o (perElem ty (fun _ _ x y => x * y)) ∧
    Writes (.imulh w) s t o (perElem ty (fun n _ x y => mulUpper sg n x y)) ∧
    Writes (.imad w) s t o (perElem ty (fun _ old x y => x * y + old)) ∧
    Writes (.imin w) s t o (perElem ty (fun _ _ x y => if asInt sg x ≤ asInt sg y then x else y)) ∧
    Writes (.imax w) s t o (perElem ty (fun _ _ x y => if asInt sg y ≤ asInt sg x then x else y)) ∧
    Writes (.iadds w) s t o (perElem ty (fun n _ x y => satAdd sg n x y))

/-- R88, the logic words, of the whole register or pair (no logic word has TYPE 9); MOV copies (R86). R89, the shifts: the count is B's element read unsigned, taken modulo the width when the wrap bit is set; ROTL always wraps. -/
def Obligations.LogicMovesAndShifts : Prop :=
  (∀ (s : State) (t : Team) (w : FullA),
    let n := tyBits w.ty.toNat
    let k := kindOf w.ty.toNat
    (w.ty ≠ 9 → Goes s t (form2 w k).word →
      Writes (.and w) s t (form2 w k) (whole n (fun _ x y => x &&& y)) ∧
      Writes (.or w) s t (form2 w k) (whole n (fun _ x y => x ||| y)) ∧
      Writes (.xor w) s t (form2 w k) (whole n (fun _ x y => x ^^^ y)) ∧
      Writes (.andn w) s t (form2 w k) (whole n (fun _ x y => x &&& ~~~y))) ∧
    (Goes s t (form1 w k).word →
      Writes (.not w) s t (form1 w k) (whole n (fun _ x _ => ~~~x)) ∧
      Writes (.mov w) s t (form1 w k) (whole n (fun _ x _ => x)))) ∧
  (∀ (s : State) (t : Team) (w : FullA), Goes s t (form2 w (kindOf w.ty.toNat)).word →
    let ty := w.ty.toNat
    let o := form2 w (kindOf ty)
    let c {n : Nat} (y : BitVec n) : Nat := if w.sub.getLsbD 0 then y.toNat % n else y.toNat
    Writes (.shl w) s t o (perElem ty (fun _ _ x y => x <<< c y)) ∧
    Writes (.shr w) s t o (perElem ty (fun _ _ x y => x >>> c y)) ∧
    Writes (.sar w) s t o (perElem ty (fun _ _ x y => x.sshiftRight (c y))) ∧
    Writes (.rotl w) s t o (perElem ty (fun _ _ x y => x.rotateLeft y.toNat)))

/-- R87 and R91, one operand: IABS and INEG by elements; POPC, CLZ and BREV of the whole word. R90 and R94: BFX extracts and extends a bit field, BFI inserts one into the old destination, DOT4 adds four byte products to it,
PERMB picks bytes of a and of it. -/
def Obligations.IntegerFunctionsAndBitFields : Prop :=
  (∀ (s : State) (t : Team) (w : FullA), Goes s t (form1 w .one).word →
    let ty := w.ty.toNat
    let o := form1 w .one
    Writes (.iabs w) s t o (perElem ty (fun _ _ x _ => if tySigned ty && x.msb then -x else x)) ∧
    Writes (.ineg w) s t o (perElem ty (fun _ _ x _ => -x)) ∧
    Writes (.popc w) s t o (whole 32 (fun _ x _ => BitVec.ofNat 32 ((List.range 32).filter x.getLsbD).length)) ∧
    (w.ty.toNat ≤ 1 → Writes (.clz w) s t o (whole 32 (fun _ x _ => x.clz))) ∧
    Writes (.brev w) s t o (whole 32 (fun _ x _ => x.reverse))) ∧
  (∀ (s : State) (t : Team) (w : FullA), Goes s t (form2 w .one).word →
    let o := form2 w .one
    let byte (v j : Nat) : BitVec 8 := (BitVec.ofNat 32 v).extractLsb' (8 * j) 8
    Writes (.bfx w) s t o (fun _ xs =>
      let field := ((BitVec.ofNat 32 (xs.getD 0 0)) >>> (xs.getD 1 0 % 32)).setWidth (fieldLen (xs.getD 1 0))
      (if w.ty = 0 then field.signExtend 32 else field.setWidth 32).toNat) ∧
    Writes (.bfi w) s t o (fun old xs =>
      let pos := xs.getD 1 0 % 32
      let m : Word := ((BitVec.allOnes 32) >>> (32 - fieldLen (xs.getD 1 0))) <<< pos
      ((BitVec.ofNat 32 old &&& ~~~m) ||| ((BitVec.ofNat 32 (xs.getD 0 0) <<< pos) &&& m)).toNat) ∧
    Writes (.dot4 w) s t o (fun old xs =>
      let p (j : Nat) : Int := asInt (w.ty = 4) (byte (xs.getD 0 0) j) * asInt (w.ty = 4) (byte (xs.getD 1 0) j)
      (BitVec.ofInt 32 (old + p 0 + p 1 + p 2 + p 3)).toNat) ∧
    Writes (.permb w) s t o (fun old xs =>
      let pick (j : Nat) : BitVec 8 :=
        let sel := (BitVec.ofNat 32 (xs.getD 1 0)).extractLsb' (4 * j) 4
        let i := (sel.extractLsb' 0 3).toNat
        let x := if i < 4 then byte (xs.getD 0 0) i else byte old (i - 4)
        if sel.msb then (if x.msb then 255 else 0) else x
      (pick 3 ++ pick 2 ++ pick 1 ++ pick 0).toNat))

/-- R93, addresses and 64-bit sums: LEA adds a scaled, extended index to a pair; IADD64 and ISUB64 wrap modulo 2^64. R92, ICMP and ICMP64: SUB[2:0] names the condition; the mask form sets or clears one bit a lane, the vector form of ICMP writes all
ones or zero in each element. -/
def Obligations.PairArithmeticAndCompares : Prop :=
  (∀ (s : State) (t : Team) (w : FullA),
    (Goes s t (form2 w .pair).word →
      Writes (.iadd64 w) s t (form2 w .pair) (whole 64 (fun _ x y => x + y)) ∧
      Writes (.isub64 w) s t (form2 w .pair) (whole 64 (fun _ x y => x - y))) ∧
    (let o : AluOp := { form2 w .pair with srcs := [(.op (opd w.a), 13), (srcB w.b w.ext, w.ty.toNat)] }
     Goes s t o.word →
      Writes (.lea w) s t o (fun _ xs =>
        let x : Word := BitVec.ofNat 32 (xs.getD 1 0)
        (BitVec.ofNat 64 (xs.getD 0 0) + (if w.ty = 0 then x.signExtend 64 else x.setWidth 64) <<< (w.sub.toNat % 4)).toNat))) ∧
  (∀ (s : State) (t : Team) (w : FullA),
    let ty := w.ty.toNat
    let c := w.sub.toNat % 8
    let bits (n : Nat) (xs : List Nat) : Nat :=
      if holds c (asInt (tySigned ty) (BitVec.ofNat n (xs.getD 0 0))) (asInt (tySigned ty) (BitVec.ofNat n (xs.getD 1 0))) then 1 else 0
    (w.sub.getLsbD 3 = false → Goes s t (form2 w .mask).word → Writes (.icmp w) s t (form2 w .mask) (fun _ xs => bits 32 xs)) ∧
    (w.sub.getLsbD 3 = true → (opd w.d).isVec = true → Goes s t (form2 w .one).word →
      Writes (.icmp w) s t (form2 w .one) (perElem ty (fun n _ x y =>
        if holds c (asInt (tySigned ty) x) (asInt (tySigned ty) y) then BitVec.allOnes n else 0))) ∧
    (ty = 13 ∨ ty = 14 → Goes s t (form2 w .mask).word → Writes (.icmp64 w) s t (form2 w .mask) (fun _ xs => bits 64 xs)))

/-- R86, NOP, LDI and SEL: NOP only issues, LDI writes its immediate, SEL takes a where the mask of SUB[2:0] has the lane's bit and b
elsewhere. A scalar SEL chooses by the mask only where the mask is the same in every lane of the team: elsewhere the model's choice is a
free value (log 11) and nothing is said. -/
def Obligations.NopLoadImmediateSelect : Prop :=
  ∀ (s : State) (t : Team) (w : FullA),
    let k := kindOf w.ty.toNat
    let nop : Word1 := { len := extLen w.ext, hd := w.hd, effect := fun s t => .done s t none }
    let ldi : AluOp := { hd := w.hd, ext := w.ext, d := w.d, kind := k, srcs := [(srcB w.b w.ext, w.ty.toNat)], f := fun _ _ _ => (0, 0) }
    let m := t.arch.kget (w.sub.toNat % 8)
    (Goes s t nop → exec (.nop w) s = .next (s.finish (t.note {}) nop none)) ∧
    (Goes s t ldi.word → Writes (.ldi w) s t ldi (fun _ xs => xs.getD 0 0)) ∧
    (Goes s t (form2 w k).word →
      ((form2 w k).once = false →
        exec (.sel w) s = .next (wrote s t (form2 w k) (fun l =>
          let xs := sources (form2 w k) t.arch l
          if m.getLsbD l then xs.getD 0 0 else xs.getD 1 0))) ∧
      ((form2 w k).once = true →
        (m &&& fullMask t.tw = 0 → Writes (.sel w) s t (form2 w k) (fun _ xs => xs.getD 1 0)) ∧
        (m &&& fullMask t.tw = fullMask t.tw → fullMask t.tw ≠ 0 → Writes (.sel w) s t (form2 w k) (fun _ xs => xs.getD 0 0))))

namespace Sys2Proof.Claims

/-- The number that a finite value is. -/
def ratOf : FVal → Option Rat
  | .fin neg m e => some ((if neg then -1 else 1) * (m : Rat) * (2 : Rat) ^ e)
  | _ => none

/-- The number that an exact magnitude is. -/
def exactRat (x : Exact) : Rat := (if x.neg then -1 else 1) * (x.m : Rat) * (2 : Rat) ^ x.e

/-- The IEEE formats and BF16 of the arithmetic instructions (R95). -/
def arithFormats : List Fmt := [.f64, .f32, .f16, .bf16]

/-- A short-latency word with results rs: with no enabled flag raised it writes them and gathers the flags; with one raised it writes
nothing and traps ARITH_EXC (R73, R74). -/
def Ends (i : Instr) (s : State) (t : Team) (o : AluOp) (rs : List LaneResult) : Prop :=
  let fl := unionFlags rs
  let en := t.arch.enables
  (fl &&& en = 0 → exec i s = .next
    (s.finish ({ t with arch := (t.arch.writeResults o.d o.kind rs).orFlags fl }.note (o.word.demand s t)) o.word none)) ∧
  (fl &&& en ≠ 0 → exec i s = .next
    (s.takeTrap (hushed t o.hd.sw)
      { cause := .arithExc, eaddr := t.arch.pc, once := o.once, einfo := fl.zeroExtend 32,
        emask := if o.once then 0 else maskOfList ((rs.filter (fun r => r.2.2 &&& en != 0)).map (·.1)) }))

/-- A short-latency lane-by-lane word. -/
def Computes (i : Instr) (s : State) (t : Team) (o : AluOp) : Prop := Ends i s t o (o.results t)

/-- A long-latency lane-by-lane word: its results are under way, its flags are gathered, and an enabled one is to be reported at the
next switch marker (R28, R74). -/
def Delivers (i : Instr) (s : State) (t : Team) (o : AluOp) : Prop :=
  let rs := o.results t
  let fl := unionFlags rs
  let en := t.arch.enables
  let report : Deferred :=
    { id := t.nextId, pc := t.arch.pc, region := t.regionId, flags := fl, once := o.once,
      lanes := if o.once then 0 else maskOfList ((rs.filter (fun r => r.2.2 &&& en != 0)).map (·.1)) }
  exec i s = .next (s.finish ({ t with
    nextId := t.nextId + 1
    arch := t.arch.orFlags fl
    pend := if rs.isEmpty then t.pend else t.pend ++ [pendingOf t.arch t.nextId t.regionId o.d o.kind rs]
    deferred := if fl &&& en = 0 then t.deferred else t.deferred ++ [report] }.note (o.word.demand s t)) o.word none)

/-- FFMA and FFMAX, whose addend is the old destination or the extension word's C. -/
def ffmaForm (w : FullA) : AluOp :=
  let ty := w.ty.toNat
  { hd := w.hd, ext := w.ext, caps := floatCaps ty, d := w.d, kind := kindOf ty, srcs := [(.op (opd w.a), ty), (.op (opd w.b), ty)],
    f := fun _ old xs => floats3 ty (fun f a b c => fFma f w.rm.toNat a b c) (modA w (xs.getD 0 0)) (modB w (xs.getD 1 0)) old }

def ffmaxForm (w : FullA) (e : Ext) : AluOp :=
  let ty := w.ty.toNat
  { ffmaForm w with
    srcs := [(.op (opd w.a), ty), (.op (opd w.b), ty), (.op (opd e.c), ty)]
    f := fun _ _ xs => floats3 ty (fun f a b c => fFma f w.rm.toNat a b c) (modA w (xs.getD 0 0)) (modB w (xs.getD 1 0))
      (modify ty (e.xc.getLsbD 0) (e.xc.getLsbD 1) (xs.getD 2 0)) }

/-- FCMP's two destination kinds, chosen by SUB[3] (R97). -/
def fcmpForm (w : FullA) : AluOp :=
  { fbin w (fun f a b => let r := fCmp f (w.sub.toNat % 8) a b; (if r.1 then 2 ^ f.width - 1 else 0, r.2)) with
    kind := if w.sub.getLsbD 3 then kindOf w.ty.toNat else .mask }

/-- FCLASS: the class word ANDed with b (R98). -/
def fclassForm (w : FullA) : AluOp :=
  let ty := w.ty.toNat
  { hd := w.hd, ext := w.ext, caps := floatCaps ty, d := w.d, kind := if w.sub.getLsbD 3 then .one else .mask,
    srcs := [(.op (opd w.a), ty), (srcB w.b w.ext, if ty = 7 ∨ ty = 8 then 3 else 1)],
    f := fun _ _ xs => ((floats1 ty (fun f a => (fClass f a, 0)) (xs.getD 0 0)).1 &&& xs.getD 1 0, 0) }

end Sys2Proof.Claims

/-- R66 and Table 3.5: rounding an exact value to an IEEE format or BF16, where it does not overflow, gives a finite code. RNE: none is
nearer, and at a tie it is even. RTZ: the greatest magnitude not above. RUP: the least not below. RDN: the greatest not above. NX is
raised exactly when the code is not the value (R71). R66 and R95: with finite operands FADD, FSUB, FMUL and FFMA round one exact value, which is the sum, difference, product, or product
and sum, of the operands' values. -/
def Obligations.FloatArithmeticRoundsCorrectly : Prop :=
  (∀ (f : Fmt) (rm : Nat) (x : Exact), f ∈ arithFormats → rm < 4 → x.sticky = false → (f.round rm false x).2 &&& flagOF = 0 →
    ∃ r, ratOf (f.read (f.round rm false x).1) = some r ∧
      ((f.round rm false x).2 &&& flagNX = 0 ↔ r = exactRat x) ∧
      ∀ c v, c < 2 ^ f.width → ratOf (f.read c) = some v →
        (rm = 0 → (r - exactRat x).abs ≤ (v - exactRat x).abs ∧
          ((r - exactRat x).abs = (v - exactRat x).abs → v ≠ r → (f.round rm false x).1 % 2 = 0)) ∧
        (rm = 1 → r.abs ≤ (exactRat x).abs ∧ (v.abs ≤ (exactRat x).abs → v.abs ≤ r.abs)) ∧
        (rm = 2 → exactRat x ≤ r ∧ (exactRat x ≤ v → r ≤ v)) ∧
        (rm = 3 → r ≤ exactRat x ∧ (v ≤ exactRat x → v ≤ r))) ∧
  (∀ (f : Fmt) (rm a b c : Nat) (x y z : Rat), f ∈ arithFormats →
    ratOf (f.read a) = some x → ratOf (f.read b) = some y → ratOf (f.read c) = some z →
    (∃ e, e.sticky = false ∧ exactRat e = x + y ∧ fAdd f rm a b = f.round rm false e) ∧
    (∃ e, e.sticky = false ∧ exactRat e = x - y ∧ fSub f rm a b = f.round rm false e) ∧
    (∃ e, e.sticky = false ∧ exactRat e = x * y ∧ fMul f rm a b = f.round rm false e) ∧
    (∃ e, e.sticky = false ∧ exactRat e = x * y + z ∧ fFma f rm a b c = f.round rm false e))

/-- R96, FMIN and FMAX by element: the lesser or greater of two numbers, −0 below +0; with one NaN the other operand unchanged; with two
the canonical NaN; NV exactly when an operand is a signalling NaN. R97, FCMP by element over numbers and NaNs, with the conditions and the NV rules of Table 4.5. -/
def Obligations.FloatMinMaxAndComparison : Prop :=
  (∀ (f : Fmt) (a b : Nat), f ∈ arithFormats →
    let x := f.read a
    let y := f.read b
    let nv : Flags := if x = .nan true ∨ y = .nan true then flagNV else 0
    (∀ isMax, (fMinMax f isMax a b).2 = nv ∧
      (x.isNan = true → y.isNan = true → (fMinMax f isMax a b).1 = f.nan) ∧
      (x.isNan = true → y.isNan = false → (fMinMax f isMax a b).1 = b) ∧
      (x.isNan = false → y.isNan = true → (fMinMax f isMax a b).1 = a)) ∧
    (∀ p q, ratOf x = some p → ratOf y = some q →
      (p < q → (fMinMax f false a b).1 = a ∧ (fMinMax f true a b).1 = b) ∧
      (q < p → (fMinMax f false a b).1 = b ∧ (fMinMax f true a b).1 = a)) ∧
    (∀ e g, x = .fin true 0 e → y = .fin false 0 g → (fMinMax f false a b).1 = a ∧ (fMinMax f true a b).1 = b)) ∧
  (∀ (f : Fmt) (c a b : Nat), f ∈ arithFormats → c < 8 →
    let x := f.read a
    let y := f.read b
    let nan : Bool := x.isNan || y.isNan
    let snan : Prop := x = .nan true ∨ y = .nan true
    (nan = true → (fCmp f c a b).1 = (c == 1 || c == 6)) ∧
    (∀ p q, ratOf x = some p → ratOf y = some q → ((fCmp f c a b).1 = true ↔
      (c = 0 ∧ p = q) ∨ (c = 1 ∧ p ≠ q) ∨ (c = 2 ∧ p < q) ∨ (c = 3 ∧ p ≤ q) ∨ (c = 4 ∧ q < p) ∨ (c = 5 ∧ q ≤ p) ∨ c = 7)) ∧
    ((2 ≤ c ∧ c ≤ 5) → (fCmp f c a b).2 = if nan then flagNV else 0) ∧
    (¬(2 ≤ c ∧ c ≤ 5) → (snan → (fCmp f c a b).2 = flagNV) ∧ (¬snan → (fCmp f c a b).2 = 0)))

namespace Sys2Proof.Claims

/-- Rounds a number to an integer by a mode of Table 3.5. -/
def roundRat (rm : Nat) (x : Rat) : Int :=
  match rm with
  | 0 =>
    let f := x.floor
    if x - f < 1 / 2 then f else if 1 / 2 < x - f then f + 1 else if f % 2 = 0 then f else f + 1
  | 1 => if 0 ≤ x then x.floor else x.ceil
  | 2 => x.ceil
  | _ => x.floor

/-- The acting lanes of a word. -/
def acting (t : Team) (h : Head) : List Nat := lanesOf t.tw (t.arch.acting t.tw h)

/-- The acting lanes of a lane's scope: its group of GW lanes, or the team (R18, R106). -/
def scope (t : Team) (h : Head) (team : Bool) (l : Nat) : List Nat :=
  (acting t h).filter (fun m => team || l / max 1 t.gw == m / max 1 t.gw)

/-- A conversion's form (R101, Table 4.7). -/
def cvtForm (w : FullC) (srcs : List (Src × Nat)) (f : Nat → List Nat → Nat × Flags) : AluOp :=
  let dt := w.dt.toNat
  { hd := w.hd, ext := w.ext, caps := cvtCaps w, d := w.d, kind := kindOf dt,
    srcs := [(.op (opd w.a), w.st.toNat)] ++ (if tyCount w.st.toNat < tyCount dt then [(.op (opd w.b), w.st.toNat)] else []) ++ srcs,
    f := fun _ old xs => f old xs }

/-- The source lane of SHFL (R104), where it is valid. -/
def shflFrom (gw mode l c : Nat) : Option Nat :=
  let i := l % gw
  let g := l - i
  match mode with
  | 0 => some (g + c % gw)
  | 1 => if c ≤ i then some (l - c) else none
  | 2 => if i + c < gw then some (l + c) else none
  | _ => some (g + (i ^^^ (c % gw)))

/-- A mask word of a running team: the mask D takes the bits of m in the acting lanes. -/
def Masks (i : Instr) (s : State) (t : Team) (form : Word1) (d : Nat) (m : Mask) : Prop :=
  exec i s = .next (s.finish ({ t with arch := t.arch.kset d (t.arch.acting t.tw form.hd) m }.note {}) form none)

/-- The checks of a mask word of which n source fields name masks. -/
def maskForm (w : FullC) (n : Nat) : Word1 := maskWord w n (fun _ _ => false)

/-- The mask of lanes l below TW where p holds. -/
def maskWhere (t : Team) (p : Nat → Bool) : Mask := maskOf t.tw p

end Sys2Proof.Claims

/-- R95–R98, R100, the short float words: FADD, FSUB, FMUL, FFMA, FFMAX, FMIN, FMAX, FCMP, FCLASS and FRND compute their element
functions over the modified operands, or trap ARITH_EXC. R28, R74, R99, the transcendentals: FRCP, FRSQ, FSQRT, FEX2, FLG2, FSIN, FCOS and FTANH issue with their results under way. R101, R102, the conversions: CVT and CVTSR convert each element that Table 4.7 routes, and keep the old destination's other
elements. -/
def Obligations.FloatAndConversionWords : Prop :=
  ((∀ (s : State) (t : Team) (w : FullA),
    let rm := w.rm.toNat
    let does (i : Instr) (o : AluOp) : Prop := Goes s t o.word → Computes i s t o
    does (.fadd w) (fbin w (fun f a b => fAdd f rm a b)) ∧
    does (.fsub w) (fbin w (fun f a b => fSub f rm a b)) ∧
    does (.fmul w) (fbin w (fun f a b => fMul f rm a b)) ∧
    does (.ffma w) (ffmaForm w) ∧
    (∀ e, w.ext = some e → does (.ffmax w) (ffmaxForm w e)) ∧
    does (.fmin w) (fbin w (fun f a b => fMinMax f false a b)) ∧
    does (.fmax w) (fbin w (fun f a b => fMinMax f true a b)) ∧
    ((w.sub.getLsbD 3 = true → (opd w.d).isVec = true) → does (.fcmp w) (fcmpForm w)) ∧
    ((∀ c, srcB w.b w.ext = .op (.con c) → c < 48) → does (.fclass w) (fclassForm w)) ∧
    does (.frnd w) (fun1 w false (fun f a => fRnd f rm (w.sub.getLsbD 0) a))) ∧
  (∀ (s : State) (t : Team) (w : FullA),
    let does (i : Instr) (g : Fmt → Nat → Nat × Flags) : Prop := Goes s t (fun1 w true g).word → Delivers i s t (fun1 w true g)
    does (.frcp w) (fun f a => fRcp f w.rm.toNat a) ∧ does (.frsq w) fRsq ∧ does (.fsqrt w) (fun f a => fSqrt f w.rm.toNat a) ∧
    does (.fex2 w) fEx2 ∧ does (.flg2 w) fLg2 ∧ does (.fsin w) fSin ∧ does (.fcos w) fCos ∧ does (.ftanh w) fTanh)) ∧
  (∀ (s : State) (t : Team) (w : FullC),
    let dt := w.dt.toNat
    let st := w.st.toNat
    let n := 32 / tyCount dt
    let two := tyCount st < tyCount dt
    let cvt := cvtForm w [] (fun old xs =>
      cvtRoute dt st w.sub.toNat old (xs.getD 0 0) (xs.getD 1 0) (fun _ x => cvtElem dt st w.rm.toNat w.sat x))
    let rnd : Src := if two then .op (opd (w.ext.getD { xc := 0, c := 0, imm := 0 }).c) else .op (opd w.b)
    let cvtsr := cvtForm w [(rnd, 1)] (fun old xs =>
      cvtRoute dt st w.sub.toNat old (xs.getD 0 0) (if two then xs.getD 1 0 else 0) (fun j x =>
        match tyFmt dt, tyFmt st with
        | some f, some g => f.stochastic w.sat n (xs.getLastD 0 >>> (n * j) % 2 ^ n) (g.read x)
        | _, _ => (0, 0)))
    (Goes s t cvt.word → Computes (.cvt w) s t cvt) ∧ (Goes s t cvtsr.word → Computes (.cvtsr w) s t cvtsr))

/-- R69. Float to integer by element: the operand rounded by RM when that is in the type's range, NX when it differs from the operand;
outside the range the limit of the same sign, NV; a NaN gives 0, NV. Integer to float: the integer rounded by RM, NX when inexact, and NX
with every OF. -/
def Obligations.FloatIntegerConversion : Prop :=
  (∀ (f : Fmt) (rm : Nat) (sg : Bool) (n a : Nat), 8 ≤ n → rm < 4 →
    let r := toInt f rm sg n a
    (∀ x, ratOf (f.read a) = some x →
      let i := roundRat rm x
      (intLo sg n ≤ i → i ≤ intHi sg n → r = (wrapTo n i, if (i : Rat) = x then 0 else flagNX)) ∧
      (i < intLo sg n → r = (wrapTo n (intLo sg n), flagNV)) ∧
      (intHi sg n < i → r = (wrapTo n (intHi sg n), flagNV))) ∧
    ((f.read a).isNan = true → r = (0, flagNV)) ∧
    (f.read a = .inf false → r = (wrapTo n (intHi sg n), flagNV)) ∧
    (f.read a = .inf true → r = (wrapTo n (intLo sg n), flagNV))) ∧
  (∀ (f : Fmt) (rm : Nat) (i : Int), rm < 4 →
    let r := ofInt f rm false i
    (∃ e, e.sticky = false ∧ exactRat e = i ∧ r = f.round rm false e) ∧
    (r.2 &&& flagNX = 0 ↔ ratOf (f.read r.1) = some (i : Rat)) ∧
    (r.2 &&& flagOF ≠ 0 → r.2 &&& flagNX ≠ 0))

/-- R104, R105, the lane exchanges: SHFL takes a from the lane its mode names, BCAST from one lane; from a source lane that is not valid or
not live every lane takes its own a. R103 and R106, VOTE and BSCALE: VOTE writes in each acting lane the bit its mode gives over the lane's scope; BSCALE writes in each
acting lane the scale byte of its block of 32 lanes. -/
def Obligations.LaneExchangeVoteAndScale : Prop :=
  (∀ (s : State) (t : Team) (w : FullC),
    let ty := w.dt.toNat
    let live (l : Nat) : Bool := t.arch.live.getLsbD l
    let a (l : Nat) : Nat := (Src.op (opd w.a)).read t.arch ty l
    let b (l : Nat) : Nat := (Src.op (opd w.b)).read t.arch ty l
    let form (srcs : List (Src × Nat)) : AluOp :=
      { hd := w.hd, ext := w.ext, d := w.d, kind := kindOf ty, srcs := (.op (opd w.a), ty) :: srcs, f := fun _ _ _ => (0, 0) }
    (Goes s t (form [(.op (opd w.b), ty)]).word → exec (.shfl w) s = .next (wrote s t (form [(.op (opd w.b), ty)]) (fun l =>
      match shflFrom (max 1 t.gw) w.sub.toNat l (b l) with
      | some m => if m < t.tw && live m then a m else a l
      | none => a l))) ∧
    (w.sub.getLsbD 0 = false → (opd w.b).isVec = false → Goes s t (form [(.op (opd w.b), ty)]).word →
      exec (.bcast w) s = .next (wrote s t (form [(.op (opd w.b), ty)]) (fun l =>
        if live (b 0 % max 1 t.tw) then a (b 0 % max 1 t.tw) else a l))) ∧
    (w.sub.getLsbD 0 = true → Goes s t (form []).word →
      exec (.bcast w) s = .next (wrote s t (form []) (fun l =>
        let m := (lanes (form []) t).headD 0
        if live m then a m else a l)))) ∧
  (∀ (s : State) (t : Team) (w : FullC),
    let a (ty l : Nat) : Nat := (Src.op (opd w.a)).read t.arch ty l
    let form (k : DstKind) (ty : Nat) : AluOp :=
      { hd := w.hd, ext := w.ext, d := w.d, kind := k, srcs := [(.op (opd w.a), ty)], f := fun _ _ _ => (0, 0) }
    let st := w.st.toNat
    let etop : Int := if w.dt = 10 then 10 else if w.dt = 11 then 8 else 15
    let elems (l : Nat) : List FVal := match tyFmt st with
      | some f => (List.range (tyCount st)).map (fun j => f.read (elemAt f.width (a st l) j))
      | none => []
    (Goes s t (form .mask 1).word → exec (.vote w) s = .next (wrote s t (form .mask 1) (fun l =>
      let xs := (scope t w.hd w.sat l).map (a 1)
      let bit : Bool := match w.sub.toNat % 4 with
        | 0 => xs.all (· != 0)
        | 1 => xs.any (· != 0)
        | 2 => xs.all (· == xs.headD 0)
        | _ => a 1 l != 0
      bit.toNat))) ∧
    (Goes s t (form .one st).word → Ends (.bscale w) s t (form .one st) ((lanes (form .one st) t).map (fun l =>
      let block := if (form .one st).once then [0] else (acting t w.hd).filter (fun m => m / 32 == l / 32)
      (l, scaleByte etop (block.flatMap elems))))))

/-- R107, REDUX and SCAN: the reduction over the acting lanes of the lane's scope, or over those of them up to the lane. The scalar forms,
which execute once, write one value; where the spec states no result for them the model's value is free (log 12). R107, the integer operators: sum modulo 2^w, least and greatest by signedness, AND, OR, XOR of the terms. -/
def Obligations.Reductions : Prop :=
  (∀ (s : State) (t : Team) (w : FullC),
    let ty := w.dt.toNat
    let a (l : Nat) : Nat := (Src.op (opd w.a)).read t.arch ty l
    let o : AluOp := { hd := w.hd, ext := w.ext, d := w.d, kind := kindOf ty, srcs := [(.op (opd w.a), ty)], f := fun _ _ _ => (0, 0) }
    let red (ls : List Nat) : Nat × Flags := reduceTerms w.sub.toNat ty w.rm.toNat (ls.map a)
    Goes s t o.word →
      (o.once = false →
        Ends (.redux w) s t o ((acting t w.hd).map (fun l => (l, red (scope t w.hd w.sat l)))) ∧
        Ends (.scan w) s t o ((acting t w.hd).map (fun l => (l, red ((scope t w.hd w.sat l).filter (· ≤ l)))))) ∧
      (o.once = true → acting t w.hd ≠ [] → w.sat = true → Ends (.redux w) s t o [(0, red (acting t w.hd))]) ∧
      (o.once = true → acting t w.hd ≠ [] → w.sub ≠ 0 → w.sub ≠ 5 →
        let one := reduceTerms w.sub.toNat ty w.rm.toNat [a 0]
        (w.sat = false → Ends (.redux w) s t o [(0, one)]) ∧ Ends (.scan w) s t o [(0, one)]) ∧
      (o.once = true → acting t w.hd = [] ∨ w.sub = 0 ∨ w.sub = 5 →
        (acting t w.hd = [] ∨ w.sat = false → ∃ k x, exec (.redux w) s = .next (wrote { s with free := k } t o (fun _ => x))) ∧
        ∃ k x, exec (.scan w) s = .next (wrote { s with free := k } t o (fun _ => x)))) ∧
  (∀ (ty rm : Nat) (x : Nat) (xs : List Nat), ty ∈ [0, 1, 13, 14] → (∀ y ∈ x :: xs, y < 2 ^ tyWidth ty) →
    let val (y : Nat) : Int := asInt (tySigned ty) (BitVec.ofNat (tyWidth ty) y)
    (reduceTerms 0 ty rm (x :: xs)).1 = (x :: xs).sum % 2 ^ tyWidth ty ∧
    (∃ y ∈ x :: xs, (reduceTerms 1 ty rm (x :: xs)).1 = y ∧ ∀ z ∈ x :: xs, val y ≤ val z) ∧
    (∃ y ∈ x :: xs, (reduceTerms 2 ty rm (x :: xs)).1 = y ∧ ∀ z ∈ x :: xs, val z ≤ val y) ∧
    (∀ i, (reduceTerms 3 ty rm (x :: xs)).1.testBit i = (x :: xs).all (·.testBit i)) ∧
    (∀ i, (reduceTerms 4 ty rm (x :: xs)).1.testBit i = (x :: xs).any (·.testBit i)) ∧
    (∀ i, (reduceTerms 5 ty rm (x :: xs)).1.testBit i = ((x :: xs).filter (·.testBit i)).length.testBit 0) ∧
    (∀ op, (reduceTerms op ty rm (x :: xs)).2 = 0))

/-- R108, R109, the mask words: ELECT, KAND, KOR, KXOR, KNOT and KMOV write the acting lanes of a mask; KMOV also writes a mask into a vector
register; KPOP counts and KFIRST finds the acting lanes of the scope whose bit is set. -/
def Obligations.MaskWords : Prop :=
  ∀ (s : State) (t : Team) (w : FullC),
    let d := w.d.toNat
    let k (f : BitVec 11) (l : Nat) : Bool := (t.arch.kget f.toNat).getLsbD l
    let none1 : AluOp := { hd := w.hd, ext := w.ext, d := w.d, kind := .one, srcs := [], f := fun _ _ _ => (0, 0) }
    let toMask : AluOp := { none1 with kind := .mask, srcs := [(.op (opd w.a), 1)] }
    let set (l : Nat) : List Nat := (if none1.once then acting t w.hd else scope t w.hd w.sat l).filter (k w.a)
    (Goes s t (maskForm w 0) → Masks (.elect w) s t (maskForm w 0) d
      (maskOfList ((acting t w.hd).filter (fun l => (scope t w.hd w.sat l).head? = some l)))) ∧
    (Goes s t (maskForm w 2) →
      Masks (.kand w) s t (maskForm w 2) d (maskWhere t (fun l => k w.a l && k w.b l)) ∧
      Masks (.kor w) s t (maskForm w 2) d (maskWhere t (fun l => k w.a l || k w.b l)) ∧
      Masks (.kxor w) s t (maskForm w 2) d (maskWhere t (fun l => xor (k w.a l) (k w.b l)))) ∧
    (Goes s t (maskForm w 1) →
      Masks (.knot w) s t (maskForm w 1) d (maskWhere t (fun l => !k w.a l)) ∧
      (w.sub = 0 → Masks (.kmov w) s t (maskForm w 1) d (maskWhere t (k w.a)))) ∧
    (w.sub = 1 → Goes s t toMask.word → Writes (.kmov w) s t toMask (fun _ xs => xs.getD 0 0)) ∧
    (w.sub = 2 → (opd w.d).isVec = true → w.a.toNat < 8 → Goes s t none1.word →
      exec (.kmov w) s = .next (wrote s t none1 (fun l => if k w.a l then 0xFFFFFFFF else 0))) ∧
    ((none1.once = true → w.sat = true) → w.a.toNat < 8 → Goes s t none1.word →
      exec (.kpop w) s = .next (wrote s t none1 (fun l => (set l).length)) ∧
      exec (.kfirst w) s = .next (wrote s t none1 (fun l => (set l).headD 0xFFFFFFFF)))

/-- R83, a mask write: bits of the lanes that have a result take the result's truth, the bits of all other lanes keep their values, a write to
k0 changes nothing, and the flags are gathered still; k0 reads as all ones (R45). -/
def Obligations.MaskRegisters : Prop :=
  (∀ (a : Arch), a.kget 0 = BitVec.allOnes 1024) ∧
  (∀ (a : Arch) (d : BitVec 11) (rs : List LaneResult) (fl : Flags), (rs.map (·.1)).Nodup →
    let b := (a.writeResults d .mask rs).orFlags fl
    b.flags = a.flags ||| fl.zeroExtend 32 ∧
    (d = 0 → b = a.orFlags fl) ∧
    (∀ q, q ≠ d.toNat → b.kget q = a.kget q) ∧
    (d ≠ 0 → d.toNat < a.k.length → ∀ l, l < 1024 →
      (∀ x f, (l, x, f) ∈ rs → (b.kget d.toNat).getLsbD l = (x != 0)) ∧
      ((∀ x f, (l, x, f) ∉ rs) → (b.kget d.toNat).getLsbD l = (a.kget d.toNat).getLsbD l)))

namespace Sys2Proof.Claims

/-- A word's form apart from its effect. -/
def formOf (w : Word1) : Word1 := { w with effect := fun s t => .done s t none }

/-- Team t after a tile-writing word: the newest versions of tiles are replaced, flags are gathered once (R118, R130). -/
def staged (t : Team) (ts : List (Nat × List Word)) (fl : Flags) : Team :=
  ({ t with nextId := t.nextId + 1, arch := t.arch.setTiles ts }).matFlags t.nextId fl true 0

/-- A tile-writing word of a running team ends so. -/
def Stages (i : Instr) (s : State) (t : Team) (form : Word1) (ts : List (Nat × List Word)) (fl : Flags) : Prop :=
  exec i s = .next ((s.markHits (staged t ts fl) (form.demand s t)).finish ((staged t ts fl).note (form.demand s t)) form none)

/-- The union of flags. -/
def allFlags (fs : List Flags) : Flags := fs.foldl (fun acc f => acc ||| f) 0

/-- A tile whose element i is f i. -/
def tileOf (f : Nat → Nat) : List Word := (List.range 8192).map (fun i => BitVec.ofNat 32 (f i))

/-- The form of a word that writes one tile: the tile fields that it names are in range. -/
def tile1Form (w : FullX) (reads : List (BitVec 11)) : Word1 :=
  tileWord (extLen w.ext) w.hd 1 (firstTrap (classCheck 32 w.d :: reads.map (classCheck 32)))
    (fun t => firstTrap (tileCheck t w.d.toNat :: reads.map (fun f => tileCheck t f.toNat))) (fun _ => { tiles := [w.d.toNat] })
    (fun s t => .done s t none)

/-- The forms of MMA and MMAM, of MMQ and of QMOV. -/
def mmaForm (w : FullX) : Word1 := formOf (mmaWord w 0 0 0)

def mmqForm (w : FullX) : Word1 :=
  formOf (tileWord (extLen w.ext) w.hd (if w.x2 then 5 else 1) (firstTrap [groupCheck w.d, vecRun w.a, vecRun w.b])
    (fun t => firstTrap [groupBound t w.d, runBound t w.a 4, runBound t w.b 8])
    (fun t => { tiles := groupTiles w.d,
                x2 := if w.x2 then newOf (match t.openRegion with
                  | some r => r.x2.map (·.tile)
                  | none => []) (groupTiles w.d) else [] })
    (fun s t => .done s t none))

def qmovForm (w : FullX) : Word1 :=
  formOf (tileWord (extLen w.ext) w.hd 1 (firstTrap [vecRun w.d, classCheck 32 w.a])
    (fun t => firstTrap [runBound t w.d 32, tileCheck t w.a.toNat]) (fun _ => { dests := (List.range 32).map (w.d.toNat + ·) })
    (fun s t => .done s t none))

def qscaleForm (w : FullX) : Word1 :=
  formOf (tileWord (extLen w.ext) w.hd 1
    (firstTrap [groupCheck w.d, groupCheck w.a, classCheck 8 w.b, classCheck 8 (Machine.extOf w.ext).c])
    (fun t => firstTrap [groupBound t w.d, groupBound t w.a]) (fun _ => { tiles := groupTiles w.d }) (fun s t => .done s t none))

/-- A precise trap of a running team. -/
def Traps (i : Instr) (s : State) (t : Team) (sw : Bool) (tr : Trap) : Prop :=
  exec i s = .next (s.takeTrap (hushed t sw) tr)

/-- The result of an element: register, lane, value, flags. -/
abbrev MatResult := Nat × Nat × Nat × Flags

/-- The element of a block. -/
def mmaElem (a : Arch) (w : FullX) (b : MatBlock) : MatResult :=
  let r := blockResult w.fmt.toNat (if w.acc then some (a.vget b.1 b.2.1).toNat else none) b.2.2.1 b.2.2.2
  (b.1, b.2.1, r.1, r.2)

/-- The elements of set f. -/
def mmaSet (a : Arch) (w : FullX) (f : Nat) (row col dep : Nat → Bool) : List MatResult := (mmaBlocks a w f row col dep).map (mmaElem a w)

/-- The result of MMA and MMAM on its way: every element that row, column and depth masks turn on, with the checker's residue of each
(R133). -/
def mmaTeam (t0 : Team) (w : FullX) (on : Nat → Nat → Bool) (col : Nat → Nat → Bool) (dep : Nat → Nat → Bool) : Team :=
  let a := t0.arch
  let bs : List MatBlock := (List.range (t0.tw / 32)).flatMap (fun f => mmaBlocks a w f (on f) (col f) (dep f))
  let rs : List MatResult := bs.map (mmaElem a w)
  let t : Team := if bs = [] then t0 else t0.addCheck t0.nextId (bs.map (fun b => blockCheck w.fmt.toNat b.2.2.1 b.2.2.2))
  let p : Pending := { id := t.nextId, pc := a.pc, region := t.regionId, dest := .vec w.d.toNat, x2 := false,
                       lanes := maskOfList (rs.map (·.2.1)), vals := rs.map (fun r => (r.1, r.2.1, BitVec.ofNat 32 r.2.2.1)) }
  ({ t with nextId := t.nextId + 1, pend := if rs.isEmpty then t.pend else t.pend ++ [p] }).matFlags t.nextId (allFlags (rs.map (fun r : MatResult => r.2.2.2))) false
    (maskOfList ((rs.filter (fun r : MatResult => r.2.2.2 &&& a.enables != 0)).map (fun r : MatResult => r.2.1)))

end Sys2Proof.Claims

/-- R114, R120, the elements of a fragment product: row i and column n of set f give register D + n mod 8 in lane
32·f + i + 16·⌊n/8⌋, from the K elements of the lanes that hold the row of A and the column of B. R77, the integer products: the sum of signed byte products and the incoming value, modulo 2^32, without flags. -/
def Obligations.FragmentElements : Prop :=
  (∀ (a : Arch) (w : FullX) (f : Nat) (row col dep : Nat → Bool) (r : MatResult), r ∈ mmaSet a w f row col dep ↔
    ∃ i n, i < 16 ∧ n < 16 ∧ row i = true ∧ col n = true ∧
      let fmt := w.fmt.toNat
      let ks := (List.range (matK fmt)).filter dep
      let lane := 32 * f + i + 16 * (n / 8)
      let reg := w.d.toNat + n % 8
      r = (reg, lane, blockResult fmt (if w.acc then some (a.vget reg lane).toNat else none)
        (ks.map (fragHalf a fmt w.a.toNat (32 * f + i) 16)) (ks.map (fragHalf a fmt w.b.toNat (32 * f + n) 16)))) ∧
  (∀ (acc : Option Nat) (xs ys : List Nat), xs.length = ys.length → (∀ x ∈ xs, x < 256) → (∀ y ∈ ys, y < 256) →
    let p (z : Nat × Nat) : Int := (BitVec.ofNat 8 z.1).toInt * (BitVec.ofNat 8 z.2).toInt
    blockResult 3 acc xs ys = ((BitVec.ofInt 32 (((xs.zip ys).map p).sum + acc.getD 0)).toNat, 0))

/-- R118, R119, R120, MMA and MMAM: on a team of whole sets of 32 lanes, with every lane acting or ANY set, the products are under way to
the elements that the masks turn on; otherwise the word traps DIVERGENT_COLLECTIVE with its code. R121–R123, MMQ: with the set in range it stages the four products of sets A and B in the tile group, and with X2 the second product
in the partner's group; without the set, or without a partner, it traps DIVERGENT_COLLECTIVE. -/
def Obligations.FragmentAndTileProducts : Prop :=
  (∀ (s : State) (t : Team) (w : FullX), Goes s t (mmaForm w) → s.arrayBusy t = false → t.tw ≤ 1024 →
    let idle := fullMask t.tw &&& ~~~(t.arch.acting t.tw w.hd)
    let xc := (extOf w.ext).xc.toNat
    let k (r f l : Nat) : Bool := (t.arch.kget r).getLsbD (32 * f + l)
    (t.tw % 32 = 0 → w.any = true ∨ idle = 0 →
      exec (.mma w) s = .next (s.finish ((mmaTeam t w (fun _ _ => true) (fun _ _ => true) (fun _ _ => true)).note ((mmaForm w).demand s t)) (mmaForm w) none) ∧
      exec (.mmam w) s = .next (s.finish ((mmaTeam t w (k (xc % 8)) (k (xc / 8 % 8)) (k (xc / 64 % 8))).note ((mmaForm w).demand s t)) (mmaForm w) none)) ∧
    (t.tw % 32 ≠ 0 → Traps (.mma w) s t w.hd.sw (divergent 2 0 false) ∧ Traps (.mmam w) s t w.hd.sw (divergent 2 0 false)) ∧
    (t.tw % 32 = 0 → w.any = false → idle ≠ 0 →
      Traps (.mma w) s t w.hd.sw (divergent 1 idle false) ∧ Traps (.mmam w) s t w.hd.sw (divergent 1 idle false))) ∧
  (∀ (s : State) (t : Team) (w : FullX), Goes s t (mmqForm w) → s.arrayBusy t = false →
    let q := w.d.toNat
    let set := w.set.toNat
    let fmt := w.fmt.toNat
    let a := t.arch
    let own : List (List Word × Flags) := mmqGroup a fmt set set w.a.toNat w.b.toNat w.acc (fun k => a.tile (q + k))
    let regs := (List.range 4).map (w.a.toNat + ·) ++ (List.range 8).map (w.b.toNat + ·)
    let p : Pending := { id := t.nextId, pc := a.pc, region := t.regionId, dest := .none, lanes := 0, vals := regs.map (fun r => (r, 0, 0)), x2 := w.x2 }
    let d := (mmqForm w).demand s t
    let check (n : Nat) : List Nat := mmqChecks a fmt set n w.a.toNat w.b.toNat
    let t1 : Team := { t with nextId := t.nextId + 1, arch := a.setTiles (own.mapIdx (fun k r => (q + k, r.1))) }
    let done (u : Team) (sums : List Nat) (fl : Flags) : Prop :=
      let u1 := u.addCheck t.nextId sums
      let u2 := ({ u1 with pend := u1.pend ++ [p] } : Team).matFlags t.nextId fl true 0
      exec (.mmq w) s = .next ((s.markHits u2 d).finish (u2.note d) (mmqForm w) none)
    (w.x2 = false → t.tw % 256 = 0 → set < t.tw / 256 → done t1 (check set) (allFlags (own.map (fun r : List Word × Flags => r.2)))) ∧
    (∀ u, w.x2 = true → t.tw % 256 = 0 → set + 1 < t.tw / 256 → s.partner t q = some u →
      let far : List (List Word × Flags) := mmqGroup a fmt set (set + 1) w.a.toNat w.b.toNat w.acc (fun k => x2Old t u (q + k))
      let t2 := (far.mapIdx (fun k r => (u, q + k, r))).foldl (fun t r => t.stageX2 r.1 r.2.1 r.2.2.1) t1
      done t2 (check set ++ check (set + 1))
        (allFlags (own.map (fun r : List Word × Flags => r.2)) ||| allFlags (far.map (fun r : List Word × Flags => r.2)))) ∧
    (t.tw % 256 ≠ 0 ∨ t.tw / 256 ≤ (if w.x2 then set + 1 else set) → Traps (.mmq w) s t w.hd.sw (divergent 2 0 true)) ∧
    (w.x2 = true → t.tw % 256 = 0 → set + 1 < t.tw / 256 → s.partner t q = none → Traps (.mmq w) s t w.hd.sw (divergent 3 0 true)))

/-- R126, R127, the words that write whole tiles: QZERO zeros; QADD adds FP32 values, or integers modulo 2^32 under `.i32`; QCVT rounds to a
format and holds the value as FP32; QSCALE adds the scaled partial tile to the accumulator. R129, QMOV: element (r, c) of the tile goes to register D + c mod 32 of lane 256·SET + r + 128·⌊c/32⌋, long-latency; with no such set it
traps DIVERGENT_COLLECTIVE. -/
def Obligations.TileArithmeticAndMoves : Prop :=
  (∀ (s : State) (t : Team) (w : FullX), s.arrayBusy t = false →
    let el (q i : Nat) : Nat := ((t.arch.tile q).getD i 0).toNat
    let d := w.d.toNat
    let a := w.a.toNat
    let add (i : Nat) : Nat × Flags := if w.fmt = 3 then ((el a i + el w.b.toNat i) % 2 ^ 32, 0) else fAdd .f32 0 (el a i) (el w.b.toNat i)
    let cvt (i : Nat) : Nat × Flags := qcvtElem w.fmt.toNat w.any (el a i)
    let idx := List.range 8192
    (Goes s t (tile1Form w []) → Stages (.qzero w) s t (tile1Form w []) [(d, tileOf (fun _ => 0))] 0) ∧
    (Goes s t (tile1Form w [w.a, w.b]) →
      Stages (.qadd w) s t (tile1Form w [w.a, w.b]) [(d, tileOf (fun i => (add i).1))] (allFlags (idx.map (fun i => (add i).2)))) ∧
    (Goes s t (tile1Form w [w.a]) →
      Stages (.qcvt w) s t (tile1Form w [w.a]) [(d, tileOf (fun i => (cvt i).1))] (allFlags (idx.map (fun i => (cvt i).2)))) ∧
    (Goes s t (qscaleForm w) →
      let scale (k i : Nat) : Option Int := match scaleExp (t.arch.escByte w.b.toNat (i / 64)), scaleExp (t.arch.escByte (extOf w.ext).c.toNat (64 * k + i % 64)) with
        | some x, some y => some (x + y)
        | _, _ => none
      let sum (k i : Nat) : Nat × Flags := Fmt.f32.sum 0 [Fmt.f32.read (el (d + k) i), (Fmt.f32.read (el (a + k) i)).scale (scale k i)]
      Stages (.qscale w) s t (qscaleForm w) ((List.range 4).map (fun k => (d + k, tileOf (fun i => (sum k i).1))))
        (allFlags ((List.range 4).map (fun k => allFlags (idx.map (fun i => (sum k i).2))))))) ∧
  (∀ (s : State) (t : Team) (w : FullX), Goes s t (qmovForm w) → s.arrayBusy t = false →
    let set := w.set.toNat
    (t.tw % 256 = 0 → set < t.tw / 256 → ∃ p : Pending,
      exec (.qmov w) s = .next (s.finish (({ t with nextId := t.nextId + 1, pend := t.pend ++ [p] }).note ((qmovForm w).demand s t)) (qmovForm w) none) ∧
      p.id = t.nextId ∧ p.pc = t.arch.pc ∧ p.region = t.regionId ∧ p.dest = .vec w.d.toNat ∧
      (∀ l, p.lanes.getLsbD l = true ↔ l < t.tw ∧ l < 1024 ∧ l / 256 = set) ∧
      (∀ v, v ∈ p.vals ↔ ∃ r c, r < 128 ∧ c < 64 ∧
        v = (w.d.toNat + c % 32, 256 * set + r + 128 * (c / 32), (t.arch.tile w.a.toNat).getD (64 * r + c) 0))) ∧
    (t.tw % 256 ≠ 0 ∨ t.tw / 256 ≤ set → Traps (.qmov w) s t w.hd.sw (divergent 2 0 true)))

namespace Sys2Proof.Claims

/-- The address that a lane forms (R138): base pair plus extended offset and IMM32 modulo 2^64 in the global space, a 32-bit sum in scratch. -/
def effAddr (w : FullM) (a : Arch) (l : Nat) : Nat :=
  let imm : Word := (w.ext.map (·.imm)).getD 0
  let b : Word := BitVec.ofNat 32 ((Src.op (opd w.b)).read a 1 l)
  if spaceOf w.space.toNat = .glob then
    (BitVec.ofNat 64 ((Src.op (opd w.a)).read a 14 l) + b.signExtend 64 + imm.signExtend 64).toNat
  else (BitVec.ofNat 32 ((Src.op (opd w.a)).read a 1 l) + b + imm).toNat

/-- The lanes that a memory word accesses, with their addresses. -/
def accessed (w : FullM) (once : Bool) (t : Team) : List LaneAddr :=
  (if once then [0] else acting t w.hd).map (fun l => (l, effAddr w t.arch l))

/-- A memory word whose operands name no vector register executes once. -/
def memOnce (w : FullM) (d : Bool) : Bool :=
  !((opd w.a).isVec || (opd w.b).isVec) && (d || !(opd w.d).isVec)

/-- The two checks of a memory word at issue (R138, R151): each traps precisely over the lanes that fail it, ALIGN before SCRATCH_RANGE. -/
def AccessTraps (i : Instr) (s : State) (t : Team) (sw once : Bool) (sp : Space) (align n : Nat) (ls : List LaneAddr) : Prop :=
  let bad (c : Cause) (xs : List LaneAddr) : Trap :=
    { cause := c, eaddr := BitVec.ofNat 64 ((xs.headD (0, 0)).2), once := once, emask := if once then 0 else maskOfList (xs.map (·.1)) }
  let odd := ls.filter (fun x => x.2 % align != 0)
  let out := ls.filter (fun x => (s.scratchOf t sp).size < x.2 + n)
  (odd ≠ [] → Traps i s t sw (bad .align odd)) ∧
  (odd = [] → sp ≠ .glob → out ≠ [] → Traps i s t sw (bad .scratchRange out))

/-- Every lane's address is aligned and inside its allocation. -/
def AccessOk (s : State) (t : Team) (sp : Space) (align n : Nat) (ls : List LaneAddr) : Prop :=
  (∀ x ∈ ls, x.2 % align = 0) ∧ (sp ≠ .glob → ∀ x ∈ ls, x.2 + n ≤ (s.scratchOf t sp).size)

/-- The state and team after a memory word has passed its gate: an SC fence of the team is behind it, and its acquire has acted on the
caches (R198, R199); a trailing copy acts on none (R365). -/
def gated (s : State) (t : Team) : State × Team :=
  (match t.arch.scFence with
   | some sc => if t.role = .trailing then s else s.acquireAt t sc
   | none => s, { t with arch := { t.arch with scFence := none } })

/-- A word that must wait: a head stands before it, and it is executed again when its condition holds (R199, R229). -/
def Waits (i : Instr) (s : State) (t : Team) (c : WaitOn) : Prop := exec i s = .next (s.wordWait t (.wait c))

/-- A load of a running team: with no lane it does nothing; else its addresses are captured in an access whose lanes wait. -/
def Captures (i : Instr) (s : State) (t : Team) (form : Word1) (sp : Space) (n : Nat) (once : Bool) (ls : List LaneAddr)
    (stops : EntryKind → Bool) (kind : AccKind) : Prop :=
  (ls = [] → exec i s = .next (s.finish (t.note (form.demand s t)) form none)) ∧
  (ls ≠ [] → s.gate t sp ls n stops = none →
    let s1 := (gated s t).1
    let t1 := (gated s t).2
    let acc : Access := { id := t.nextId, word := t.arch.issued, pc := t.arch.pc, region := t.regionId, once := once, kind := kind, susp := false, lost := [],
                          lanes := ls.map (fun x => { lane := x.1, addr := x.2, st := .waiting }) }
    exec i s = .next (s1.finish ({ t1 with nextId := t.nextId + 1, accs := t.accs ++ [acc] }.note (form.demand s t)) form none))

/-- The form of GQRY. -/
def gqryForm (w : FullM) : Word1 :=
  let m := memOf w
  { len := extLen w.ext, hd := w.hd, once := memOnce w false, sample := true,
    check := fun _ _ => firstTrap [runCheck 1 (opd w.d) m.isVec, m.check], bounds := fun _ t => firstTrap [boundCheck t 1 (opd w.d), m.bound t],
    demand := fun _ t => { dests := runDests t.arch w.d 1 }, effect := fun s t => .done s t none }

/-- A store's parts, one a lane: the line, and the bytes from its offset in it. -/
def storeParts (w : FullM) (t : Team) (n : Nat) (ls : List LaneAddr) : List (Nat × StorePart) :=
  ls.map (fun x => (x.2 / 64, { acc := t.nextId, pc := t.arch.pc, lane := x.1, off := x.2 % 64, data := runBytes t.arch w.d n x.1 }))

/-- A held write's probe access: a global write is probed at its target (R153). -/
def probeAccess (t : Team) (once : Bool) (sp : Space) (ls : List LaneAddr) (t2 : Team) : Team :=
  if sp = .glob ∧ t.role ≠ .trailing then
    { t2 with accs := t2.accs ++ [{ id := t.nextId, word := t.arch.issued, pc := t.arch.pc, region := t2.regionId, once := once,
                                    kind := .store .glob, susp := false, lost := [], lanes := ls.map (fun x => { lane := x.1, addr := x.2, st := .waiting }) }] }
  else t2

/-- The operation, type, operand and form of ATOM (R158). -/
def atomOp (w : FullM) : Nat := ((Machine.extOf w.ext).xc.extractLsb' 0 4).toNat
def atomTy (w : FullM) : Nat := ((Machine.extOf w.ext).xc.extractLsb' 4 4).toNat
def atomSrc (w : FullM) : Src := .op (opd (Machine.extOf w.ext).c)
def atomOnce (w : FullM) : Bool :=
  !((opd w.a).isVec || (opd w.b).isVec || (atomSrc w).isVec) && (w.nr || !(opd w.d).isVec)

def atomForm (w : FullM) : Word1 :=
  let m := memOf w
  let ty := atomTy w
  let regs := if wideTy ty then 2 else 1
  let vec := m.isVec || (atomSrc w).isVec
  { len := extLen w.ext, hd := w.hd, once := atomOnce w, sample := true,
    check := fun _ _ => firstTrap [if w.nr then none else runCheck regs (opd w.d) vec, m.check, (atomSrc w).check ty],
    bounds := fun _ t => firstTrap [if w.nr then none else boundCheck t regs (opd w.d), m.bound t, (atomSrc w).bound t (cover ty)],
    closing := fun _ _ => !w.nr,
    demand := fun _ t => { entries := if w.nr then ((accessed w (atomOnce w) t).map (fun x => x.2 / 64)).eraseDups.length else 0 },
    effect := fun s t => .done s t none }

/-- The form of FENCE, of PF and of SINV. -/
def fenceForm (w : FullM) : Word1 :=
  { len := 8, hd := w.hd, once := true, sample := true, demand := fun _ _ => { entries := if 2 ≤ w.ord.toNat then 1 else 0 },
    effect := fun s t => .done s t none }

def pfForm (w : FullM) : Word1 :=
  { len := extLen w.ext, hd := w.hd, once := memOnce w true, sample := true, check := fun _ _ => (memOf w).check,
    bounds := fun _ t => (memOf w).bound t, effect := fun s t => .done s t none }

def sinvForm (w : FullM) : Word1 :=
  { len := extLen w.ext, hd := w.hd, once := true, sample := true, check := fun _ _ => firstTrap [scalCheck w.a, scalCheck w.b],
    demand := fun _ _ => { entries := 1 }, effect := fun s t => .done s t none }

end Sys2Proof.Claims

/-- R138: the address that a memory word's meaning computes in a lane is the rule's sum; LD and ST trap ALIGN for an address that is no
multiple of the width, and SCRATCH_RANGE for scratch bytes not wholly below the allocation size, and the trap is precise; the shared
check finds nothing exactly when neither holds. -/
def Obligations.EffectiveAddress : Prop :=
  (∀ (w : FullM) (a : Arch) (l : Nat), (memOf w).addr a l = effAddr w a l) ∧
  (∀ (sp : Space) (size align n : Nat) (once : Bool) (ls : List LaneAddr), accessTrap sp size align n once ls = none ↔
    (∀ x ∈ ls, x.2 % align = 0) ∧ (sp ≠ .glob → ∀ x ∈ ls, x.2 + n ≤ size)) ∧
  (∀ (s : State) (t : Team) (w : FullM),
    let sp := spaceOf w.space.toNat
    let n := 2 ^ w.width.toNat
    let once := memOnce w false
    (Goes s t (formOf (loadWord w false)) → AccessTraps (.ld w) s t w.hd.sw once sp n n (accessed w once t)) ∧
    (Goes s t (formOf (storeWord w false)) → AccessTraps (.st w) s t w.hd.sw once sp n n (accessed w once t)))

/-- R138, R151, R152, R156, R266, R267: LD, LDA, LDN and GQRY capture their lanes' addresses at issue, or trap ALIGN or SCRATCH_RANGE. -/
def Obligations.LoadsAreCaptured : Prop :=
  ∀ (s : State) (t : Team) (w : FullM),
    let sp := spaceOf w.space.toNat
    let n := 2 ^ w.width.toNat
    let once := memOnce w false
    let ls := accessed w once t
    let load (raw : Bool) : AccKind :=
      .load sp w.width.toNat (w.sub.getLsbD 0) (w.ord == 1) w.rp (scopeIn sp w.scope.toNat) (destOf t.arch w.d) raw
    (Goes s t (formOf (loadWord w false)) →
      (AccessOk s t sp n n ls →
        Captures (.ld w) s t (formOf (loadWord w false)) sp n once ls EntryKind.stopsLoad (load false) ∧
        Captures (.lda w) s t (formOf (loadWord w false)) sp n once ls EntryKind.stopsLoad (load false)) ∧
      AccessTraps (.ld w) s t w.hd.sw once sp n n ls ∧ AccessTraps (.lda w) s t w.hd.sw once sp n n ls) ∧
    (Goes s t (formOf (loadWord w true)) →
      (AccessOk s t sp n n ls → Captures (.ldn w) s t (formOf (loadWord w true)) sp n once ls EntryKind.isOpaque (load true)) ∧
      AccessTraps (.ldn w) s t w.hd.sw once sp n n ls) ∧
    (Goes s t (gqryForm w) → AccessOk s t sp 1 1 ls →
      Captures (.gqry w) s t (gqryForm w) sp 1 once ls EntryKind.stopsQuery (.gqry (destOf t.arch w.d)))

/-- R138, R148, R151, R153: ST and STL capture their addresses and data and hold them in the open region, a line at a time; nothing is
written to memory at issue. -/
def Obligations.StoresAreHeld : Prop :=
  ∀ (s : State) (t : Team) (w : FullM),
    let sp := spaceOf w.space.toNat
    let n := 2 ^ w.width.toNat
    let once := memOnce w false
    let ls := accessed w once t
    let does (i : Instr) (rel : Bool) : Prop :=
      let form := formOf (storeWord w rel)
      Goes s t form →
        (AccessOk s t sp n n ls →
          (ls = [] → exec i s = .next (s.finish (t.note (form.demand s t)) form none)) ∧
          (ls ≠ [] → s.gate t sp ls n EntryKind.stopsWrite = none →
            let s1 := (gated s t).1
            let t1 := (gated s t).2
            let t2 := ({ t1 with nextId := t.nextId + 1 } : Team).holdStore sp rel (scopeIn sp w.scope.toNat) t.nextId s.tick (storeParts w t n ls)
            exec i s = .next (s1.finish ((probeAccess t once sp ls t2).note (form.demand s t)) form none))) ∧
        AccessTraps i s t w.hd.sw once sp n n ls
    does (.st w) false ∧ does (.stl w) true

/-- R158, R159, Table 6.4: an ATOM with NR = 1 holds its operation in the open region, a line at a time, like a store: the operand of each
lane is captured, and nothing is performed at issue. Its address checks trap first, and where a gate holds it back it waits. R163, R199:
FENCE places an ordering entry for its release part; with SC the next access of the team waits for its older writes at that scope, or at a
wider one asked for before; for its acquire part it waits for the loads and atomics still to return, or acts on the caches at once. R164: PF
touches each lane's line in turn, and changes caches alone. R166: SINV traps ALIGN and SCRATCH_RANGE, and holds the clearing of its range. -/
def Obligations.HeldAtomicsFencesAndInvalidation : Prop :=
  (∀ (s : State) (t : Team) (w : FullM), w.nr = true → Goes s t (atomForm w) →
    let sp := spaceOf w.space.toNat
    let ty := atomTy w
    let n := if wideTy ty then 8 else 4
    let ls := accessed w (atomOnce w) t
    (AccessOk s t sp n n ls →
      (ls = [] → exec (.atom w) s = .next (s.finish (t.note ((atomForm w).demand s t)) (atomForm w) none)) ∧
      (∀ c, ls ≠ [] → s.gate t sp ls n EntryKind.stopsWrite = some c → Waits (.atom w) s t c) ∧
      (ls ≠ [] → s.gate t sp ls n EntryKind.stopsWrite = none →
        let t1 : Team := { (gated s t).2 with nextId := t.nextId + 1 }
        let full := ls.map (fun x => (x.1, x.2, BitVec.ofNat 64 ((atomSrc w).read t.arch ty x.1)))
        let t2 := (atomLines full).foldl (fun t x =>
          t.hold (.atom sp x.1 (atomOp w) ty n x.2 (2 ≤ w.ord.toNat) (scopeIn sp w.scope.toNat)) t.nextId (t1.probeOf sp)
            (maskOfList (x.2.map (·.1))) s.tick) t1
        exec (.atom w) s = .next ((gated s t).1.finish ((probeAccess t (atomOnce w) sp ls t2).note ((atomForm w).demand s t)) (atomForm w) none))) ∧
    AccessTraps (.atom w) s t w.hd.sw (atomOnce w) sp n n ls) ∧
  (∀ (s : State) (t : Team) (w : FullM), Goes s t (fenceForm w) →
    let rel : Bool := 2 ≤ w.ord.toNat
    let acq : Bool := w.ord.toNat % 2 = 1
    let sc : Bool := w.sub.getLsbD 0
    let scope := w.scope.toNat
    let t1 := if rel then t.hold (.fence w.ord.toNat sc scope) 0 .none 0 s.tick else t
    let t2 : Team := { t1 with nextId := t1.nextId + 1,
                               arch := { t1.arch with scFence := if sc then some (max scope (t.arch.scFence.getD 0)) else t.arch.scFence } }
    let waits : Prop := (∃ a ∈ t.accs, a.id < t1.nextId ∧ a.kind.returns = true ∧ ∃ l ∈ a.lanes, l.st.unfinished = true) ∨
      ∃ x ∈ s.atoms, x.team = t.uid ∧ x.seq < t1.nextId
    let acc : Access := { id := t1.nextId, word := t.arch.issued, pc := t.arch.pc, region := t2.regionId, once := true, kind := .acqFence scope,
                          susp := false, lost := [], lanes := [{ lane := 0, addr := 0, st := .waiting }] }
    let done (s' : State) (u : Team) : Prop := exec (.fence w) s = .next (s'.finish (u.note ((fenceForm w).demand s t)) (fenceForm w) none)
    (acq = false → done s t2) ∧
    (acq = true → waits → done s { t2 with accs := t2.accs ++ [acc] }) ∧
    (acq = true → ¬waits → t.role ≠ .trailing → done (s.acquireAt t2 scope) t2) ∧
    (acq = true → ¬waits → t.role = .trailing → done s t2)) ∧
  (∀ (s : State) (t : Team) (w : FullM), Goes s t (pfForm w) →
    let gc := w.sub.getLsbD 0
    let s1 := (accessed w (memOnce w true) t).foldl (fun s x => s.prefetch t gc x.2) s
    exec (.pf w) s = .next (s1.finish (t.note {}) (pfForm w) none) ∧
    s1 = { s with slices := s1.slices, tlb := s1.tlb, cores := s1.cores, mem := s1.mem, hostMem := s1.hostMem, free := s1.free } ∧
    (∀ x, accessed w (memOnce w true) t = [x] → s.isRemote x.2 = true ∨ t.role = .trailing → s1 = s) ∧
    (∀ x h base priv r k, accessed w (memOnce w true) t = [x] → s.isRemote x.2 = false → t.role ≠ .trailing →
      s.translate (s.asidOf t) x.2 = (s, .ok h base r k priv) → (Xlate.ok h base r k priv).check .read t.arch.inHandler = .ok h base r k priv →
      s.slice? (s.asidOf t) x.2 = none → s.tagAt h base = .value → s.badData h base = false →
      ∃ l ∈ s1.slices, l.asid = s.asidOf t ∧ l.line = x.2 / 64)) ∧
  (∀ (s : State) (t : Team) (w : FullM), Goes s t (sinvForm w) →
    let sp := spaceOf w.space.toNat
    let off := ((BitVec.ofNat 32 (scalVal t.arch w.a)) + (w.ext.map (·.imm)).getD 0).toNat
    let len := scalVal t.arch w.b
    (off % 4 ≠ 0 ∨ len % 4 ≠ 0 → Traps (.sinv w) s t w.hd.sw { cause := .align, eaddr := BitVec.ofNat 64 off, once := true }) ∧
    (off % 4 = 0 → len % 4 = 0 → (s.scratchOf t sp).size < off + len →
      Traps (.sinv w) s t w.hd.sw { cause := .scratchRange, eaddr := BitVec.ofNat 64 off, once := true }) ∧
    (off % 4 = 0 → len % 4 = 0 → off + len ≤ (s.scratchOf t sp).size →
      (∀ c, s.gate t sp [(0, off)] len EntryKind.stopsWrite = some c → Waits (.sinv w) s t c) ∧
      (s.gate t sp [(0, off)] len EntryKind.stopsWrite = none →
        exec (.sinv w) s = .next ((gated s t).1.finish (((gated s t).2.hold (.sinv sp off len) 0 .none 0 s.tick).note ((sinvForm w).demand s t))
          (sinvForm w) none))))
namespace Sys2Proof.Claims

/-- What the check of a global lane's address finds before an atomic or a held write: well, with nothing to service (R153, R160). -/
def Probed (s : State) (t : Team) (hostOk : Bool) (a : Nat) : Prop := s.probeAt t t.nextId a true hostOk = (s, .done)

/-- What a returning atomic computes: its destination and the registers that it names, acquire and release parts, scope, operation and
type (none for CAS), and a lane's operand and comparand. -/
structure Atomic where
  len   : Nat
  n     : Nat
  dest  : Dest
  regs  : List Nat
  acq   : Bool
  rel   : Bool
  rp    : Bool
  scope : Nat
  op    : Option (Nat × Nat)
  opds  : Nat → DWord × DWord

/-- Its new value: Table 6.7's, or the new value of CAS where the old one equals the comparand; none writes nothing. -/
def Atomic.new (r : Atomic) (l old : Nat) : Option Nat :=
  match r.op with
  | some (op, ty) => some (atomNew op ty old (r.opds l).1.toNat)
  | none => if old = (r.opds l).2.toNat then some (r.opds l).1.toNat else none

/-- A host-half operation of scope `.sys` that is no AtomicOp does not run (R161). -/
def Atomic.hostOk (r : Atomic) : Bool :=
  r.scope != 5 || match r.op with
    | some (op, ty) => isAtomicOp op ty
    | none => true

/-- A lane that another device or the host performs later (R161). -/
def Atomic.far (r : Atomic) (s : State) (sp : Space) (a : Nat) : Bool :=
  sp == .glob && (s.isRemote a || (!deviceHalf a && r.scope == 5))

/-- A returning atomic that may be performed now: its lanes' addresses are good; unless its team is a trailing copy, global lanes are probed
well, no byte of them is pending, and no outbound buffer still holds what must be performed first (R144, R150, R156, R160); its destinations
find room in the rename store (R339). -/
structure AtomReady (s : State) (t : Team) (sp : Space) (r : Atomic) (ls : List LaneAddr) : Prop where
  lanes   : ls ≠ []
  ok      : AccessOk s t sp r.n r.n ls
  gate    : s.gate t sp ls r.n EntryKind.stopsWrite = none
  room    : r.regs ≠ [] → s.renameUsed t.loc + r.regs.length * t.tw ≤ renameStore t.loc.chip
  probed  : t.role ≠ .trailing → sp = .glob → ∀ x ∈ ls, Probed s t r.hostOk x.2
  free    : t.role ≠ .trailing → ∀ x ∈ ls, s.pendingAt sp (s.placeOf t sp x.2).owner (s.placeOf t sp x.2).core x.2 r.n = false
  cores   : t.role ≠ .trailing → r.rp = true → s.partDrained (s.tenantOf t) = true
  out     : t.role ≠ .trailing → r.rel = true → 2 ≤ r.scope → (s.core t.loc.pkgCore).outbound = []
  lines   : t.role ≠ .trailing → sp = .glob → ∀ x ∈ ls, s.outboundHas t.loc.pkgCore (s.asidOf t) (x.2 / 64) = false

/-- A returning atomic is performed in a region of its own, which closes behind it. The pc moves on; a leading or single copy's results are
under way, and a pending atomic holds its words: each lane in ascending order has its old value, and what another device or the host
performs later is kept as work (R159–R161). In a scratch space the one lane's word takes the new value. A trailing copy performs nothing
and waits for its leading copy's values (R365). -/
def Performs (i : Instr) (s : State) (t : Team) (sp : Space) (r : Atomic) (once : Bool) (ls : List LaneAddr) : Prop :=
  (t.role ≠ .trailing → ∃ s' t' x, exec i s = .next s' ∧ s'.issue = none ∧ s'.team? t.uid = some t' ∧
    t'.arch.pc = t.arch.pc + BitVec.ofNat 64 r.len ∧ t'.needHead = true ∧ t'.regions.length = t.regions.length + 1 ∧
    t'.pend = t.pend ++ [{ id := t.nextId, pc := t.arch.pc, region := t.nextRegion, dest := .none, x2 := false,
                           lanes := maskOfList (ls.map (·.1)), vals := [] }] ∧
    s'.atoms = s.atoms ++ [x] ∧ x.team = t.uid ∧ x.seq = t.nextId ∧ x.pc = t.arch.pc ∧ x.region = t.nextRegion ∧ x.t = s.tick ∧
    x.own = t.loc.zone ∧ x.target = s.targetZones t sp r.scope ls ∧ x.dest = r.dest ∧ x.wide = (r.n == 8) ∧ x.acq = r.acq ∧
    x.scope = r.scope ∧ x.op = r.op ∧
    x.olds.map (·.1) = (ls.filter (fun y => !r.far s sp y.2)).map (·.1) ∧
    x.words.map (fun w => (w.1.addr, w.2.1)) = (ls.filter (fun y => !r.far s sp y.2)).map (fun y => (y.2, r.n)) ∧
    x.work = (ls.filter (fun y => r.far s sp y.2)).map (fun y => (y.1, y.2, r.opds y.1)) ∧
    (∀ y, sp ≠ .glob → ls = [y] → (s.scratchOf t sp).mem.wf = true →
      let old := bytesNat ((s.scratchOf t sp).mem.bytes y.2 r.n)
      x.olds = [(y.1, BitVec.ofNat 64 old)] ∧
      ∀ b, (s'.scratchOf t' sp).mem.get b = match r.new y.1 old with
        | some v => if y.2 ≤ b ∧ b < y.2 + r.n then BitVec.ofNat 8 (v >>> (8 * (b - y.2))) else (s.scratchOf t sp).mem.get b
        | none => (s.scratchOf t sp).mem.get b)) ∧
  (t.role = .trailing → ∃ s' t', exec i s = .next s' ∧ s'.issue = none ∧ s'.team? t.uid = some t' ∧ s'.atoms = s.atoms ∧
    t'.arch.pc = t.arch.pc + BitVec.ofNat 64 r.len ∧ t'.needHead = true ∧
    t'.accs = t.accs ++ [{ id := t.nextId, word := t.arch.issued, pc := t.arch.pc, region := t.nextRegion, once := once, susp := false, lost := [],
                           kind := .load sp (if r.n = 8 then 3 else 2) false false false 0 r.dest true,
                           lanes := ls.map (fun x => { lane := x.1, addr := x.2, st := .waiting }) }])

/-- The checks of a returning atomic at issue: each traps precisely, before anything is performed (R138, R151). -/
def ClosingTraps (i : Instr) (s : State) (t : Team) (sw once : Bool) (sp : Space) (n : Nat) (ls : List LaneAddr) : Prop :=
  let bad (c : Cause) (xs : List LaneAddr) : Trap :=
    { cause := c, eaddr := BitVec.ofNat 64 ((xs.headD (0, 0)).2), once := once, emask := if once then 0 else maskOfList (xs.map (·.1)) }
  let odd := ls.filter (fun x => x.2 % n != 0)
  let out := ls.filter (fun x => (s.scratchOf t sp).size < x.2 + n)
  (odd ≠ [] → exec i s = .next (s.takeTrap (hushed { t with needHead := true } sw) (bad .align odd))) ∧
  (odd = [] → sp ≠ .glob → out ≠ [] → exec i s = .next (s.takeTrap (hushed { t with needHead := true } sw) (bad .scratchRange out)))

/-- The form of CAS, its comparand and new value. -/
def casTy (w : FullM) : Nat := if w.width = 3 then 14 else 1
def casCmp (w : FullM) : Src := .op (opd ((Machine.extOf w.ext).xc.extractLsb' 0 11))
def casOnce (w : FullM) : Bool :=
  !((opd w.a).isVec || (opd w.b).isVec || (casCmp w).isVec || (atomSrc w).isVec) && !(opd w.d).isVec

def casForm (w : FullM) : Word1 :=
  let m := memOf w
  let ty := casTy w
  let regs := widthRegs w.width.toNat
  { len := extLen w.ext, hd := w.hd, once := casOnce w, sample := true,
    check := fun _ _ => firstTrap [runCheck regs (opd w.d) (m.isVec || (casCmp w).isVec || (atomSrc w).isVec), m.check,
                                   (casCmp w).check ty, (atomSrc w).check ty],
    bounds := fun _ t => firstTrap [boundCheck t regs (opd w.d), m.bound t, (casCmp w).bound t (cover ty), (atomSrc w).bound t (cover ty)],
    closing := fun _ _ => true, effect := fun s t => .done s t none }

end Sys2Proof.Claims

/-- R159, R160, R162: an ATOM with return and a CAS, of every role, reached with every region cleared and every entry performed, are performed
at once lane by lane and leave their words pending; with no lane acting they only issue; their address checks trap first. -/
def Obligations.ReturningAtomics : Prop :=
  ∀ (s : State) (t : Team) (w : FullM), Running s t →
    let sp := spaceOf w.space.toNat
    let value (v : Src) (ty l : Nat) : DWord := BitVec.ofNat 64 (v.read t.arch ty l)
    let base : Atomic :=
      { len := extLen w.ext, n := 4, dest := destOf t.arch w.d, regs := [], acq := w.ord.toNat % 2 == 1, rel := 2 ≤ w.ord.toNat, rp := w.rp,
        scope := scopeIn sp w.scope.toNat, op := none, opds := fun _ => (0, 0) }
    let ra : Atomic := { base with n := if wideTy (atomTy w) then 8 else 4, regs := runDests t.arch w.d (if wideTy (atomTy w) then 2 else 1),
                                   op := some (atomOp w, atomTy w), opds := fun l => (value (atomSrc w) (atomTy w) l, 0) }
    let rc : Atomic := { base with n := 2 ^ w.width.toNat, regs := runDests t.arch w.d (widthRegs w.width.toNat),
                                   opds := fun l => (value (atomSrc w) (casTy w) l, value (casCmp w) (casTy w) l) }
    let does (i : Instr) (form : Word1) (r : Atomic) (once : Bool) : Prop := Passes s t form → Closes s t form →
      let ls := accessed w once t
      (AtomReady s t sp r ls → Performs i s t sp r once ls) ∧
      (ls = [] → exec i s = .next (s.finish { t with needHead := true } form none)) ∧
      ClosingTraps i s t w.hd.sw once sp r.n ls
    (w.nr = false → does (.atom w) (atomForm w) ra (atomOnce w)) ∧ does (.cas w) (casForm w) rc (casOnce w)

/-- Table 6.7, the new value of an integer ATOM: sum modulo 2^w, lesser and greater by signedness, AND, OR, XOR, exchange, and the wrapping
increment and decrement. R145, R159, one read-modify-write of scratch: the old bytes are returned; the new value, where there is one, is written; every other byte
of the allocation reads as before. -/
def Obligations.AtomicOperationsOnScratch : Prop :=
  (∀ (ty old v : Nat), ty ∈ [0, 1, 13, 14] → old < 2 ^ tyWidth ty → v < 2 ^ tyWidth ty →
    let n := tyWidth ty
    let o := BitVec.ofNat n old
    let x := BitVec.ofNat n v
    let sg := tySigned ty
    atomNew 0 ty old v = (o + x).toNat ∧
    atomNew 1 ty old v = (if asInt sg o ≤ asInt sg x then old else v) ∧
    atomNew 2 ty old v = (if asInt sg x ≤ asInt sg o then old else v) ∧
    atomNew 3 ty old v = (o &&& x).toNat ∧
    atomNew 4 ty old v = (o ||| x).toNat ∧
    atomNew 5 ty old v = (o ^^^ x).toNat ∧
    atomNew 6 ty old v = v ∧
    atomNew 7 ty old v = (if old ≥ v then 0 else old + 1) ∧
    atomNew 8 ty old v = (if old = 0 ∨ old > v then v else old - 1)) ∧
  (∀ (s : State) (t : Team) (pr : Probe) (sp : Space) (a n : Nat) (f : Nat → Option Nat), sp ≠ .glob → (s.scratchOf t sp).size ≠ 0 →
    (s.scratchOf t sp).mem.wf = true →
    let r := s.rmw t pr sp a n f
    let old := (s.scratchOf t sp).mem.bytes a n
    r.2 = old ∧
    (f (bytesNat old) = none → r.1 = s) ∧
    (∀ x, f (bytesNat old) = some x → ∀ b, (r.1.scratchOf t sp).mem.get b =
      if a ≤ b ∧ b < a + n then BitVec.ofNat 8 (x >>> (8 * (b - a))) else (s.scratchOf t sp).mem.get b))

/-- R148, what holding a store does: a plain store whose line the open region's youngest stores hold is added to that entry, and any other
takes a new entry at the end of the open region, with the bytes as given. R145, R148, a store performed at its owning slice, under the
translation that its probe found: the line's bytes that the store holds take their values, its other bytes keep theirs, and where the line
stands in the slice or finds room there, every other line keeps its place and no byte at rest changes. -/
def Obligations.HeldAndPerformedStores : Prop :=
  (∀ (t : Team) (r : Region) (sp : Space) (rel : Bool) (scope acc tick line : Nat) (parts : List StorePart),
    t.openRegion = some r → parts ≠ [] →
    let ps := parts.map (fun p => (line, p))
    let t' := t.holdStore sp rel scope acc tick ps
    let probe : Probe := if sp = .glob ∧ t.role ≠ .trailing then .waiting else .none
    (rel = true ∨ mergeTarget r.held sp line = none →
      t' = ({ t with nextId := t.nextId + 1 } : Team).updOpen (fun r => { r with held := r.held ++ [
        { seq := t.nextId, pc := t.arch.pc, acc := acc, probe := probe, issueT := tick, lanes := maskOfList (parts.map (·.lane)),
          kind := .store sp line parts rel scope }] })) ∧
    (∀ q, rel = false → mergeTarget r.held sp line = some q →
      t' = t.updOpen (fun r => { r with held := r.held.map (fun e => if e.seq = q then e.addParts parts scope else e) }))) ∧
  (∀ (s : State) (die team asid line : Nat) (pr : Probe) (p : StorePart) (h : Bool) (base : Nat) (w x k : Bool),
    s.keptAt pr asid (64 * line) = (s, .ok h base w x k) → base % 64 = 0 → p.off + p.data.length ≤ 64 →
    (∀ l, s.slice? asid (64 * line) = some l → l.data.length = 64) → (∀ x, s.watchHits x = []) →
    ((s.slice? asid (64 * line)).isSome = true ∨
      (s.slices.filter (fun l => s.sliceDie (64 * l.line) == s.sliceDie (64 * line))).length < globalLines (s.sliceDie (64 * line))) →
    let s' := s.performStore die pr team asid line [p]
    s'.mem = s.mem ∧ s'.hostMem = s.hostMem ∧ s'.blocks = s.blocks ∧ s'.teams = s.teams ∧
    (∀ i, i < 64 → s'.lineBytes asid (64 * line + i) h (base + i) 1 =
      if p.off ≤ i ∧ i < p.off + p.data.length then [p.data.getD (i - p.off) 0] else s.lineBytes asid (64 * line + i) h (base + i) 1) ∧
    (∀ asid' va', ¬(asid' = asid ∧ va' / 64 = line) → s'.slice? asid' va' = s.slice? asid' va'))

/-- The two memories, in canonical form: a byte written reads back, every other byte reads as before, a run of bytes and a masked run write
theirs alone, and equal reads mean equal memories. -/
def Obligations.MemoryLaws : Prop :=
  (∀ (m : Memory) (a b : Nat) (v : Byte), m.wf = true → (m.set a v).get b = if b = a then v else m.get b) ∧
  (∀ (m : Memory) (a : Nat) (bs : List Byte), m.wf = true →
    ∀ b, (m.put a bs).get b = if a ≤ b ∧ b < a + bs.length then bs.getD (b - a) 0 else m.get b) ∧
  (∀ (m : Memory) (a : Nat) (k : BitVec 64) (bs : List Byte), m.wf = true →
    ∀ b, (m.putMasked a k bs 0).get b = if a ≤ b ∧ b < a + bs.length ∧ k.getLsbD (b - a) = true then bs.getD (b - a) 0 else m.get b) ∧
  (∀ (m m' : Memory), m.wf = true → m'.wf = true → (∀ a, m.get a = m'.get a) → m = m')
namespace Sys2Proof.Claims

/-- The address of a tile move's quarter, its stride, and its rows (R128). -/
def tileAddr (w : FullX) (a : Arch) : Nat :=
  let imm : Word := (w.ext.map (·.imm)).getD 0
  if spaceOf w.space.toNat = .glob then (BitVec.ofNat 64 ((Src.op (opd w.a)).read a 14 0) + imm.signExtend 64).toNat
  else (BitVec.ofNat 32 ((Src.op (opd w.a)).read a 1 0) + imm).toNat

def tileStride (w : FullX) (a : Arch) : Nat := (Src.op (opd w.b)).read a 1 0

/-- A quarter's 512 pieces of 16 bytes: the index of the piece's first element in the quarter, and its address. -/
def quarter (w : FullX) (a : Arch) : List (Nat × Nat) :=
  let m := if spaceOf w.space.toNat = .glob then 2 ^ 64 else 2 ^ 32
  (List.range 512).map (fun p => (4 * p, (tileAddr w a + p / 16 * tileStride w a + 16 * (p % 16)) % m))

/-- A tile move's operands are aligned and its rows lie in their allocation (R128). -/
def TileMoveOk (s : State) (t : Team) (w : FullX) : Prop :=
  let sp := spaceOf w.space.toNat
  let m := if sp = .glob then 2 ^ 64 else 2 ^ 32
  tileAddr w t.arch % 16 = 0 ∧ tileStride w t.arch % 16 = 0 ∧ 256 ≤ tileStride w t.arch ∧
  (sp ≠ .glob → ∀ i, i < 32 → (tileAddr w t.arch + i * tileStride w t.arch) % m + 256 ≤ (s.scratchOf t sp).size)

def qldForm (w : FullX) : Word1 :=
  let f := tileWord (extLen w.ext) w.hd 1 (firstTrap [classCheck 32 w.d, tileBaseCheck (spaceOf w.space.toNat) w.a, scalCheck w.b])
    (fun t => tileCheck t w.d.toNat) (fun _ => { tiles := [w.d.toNat], quarter := some w.set.toNat }) (fun s t => .done s t none)
  { f with sample := true, effect := fun s t => .done s t none }

def qstForm (w : FullX) : Word1 :=
  let f := tileWord (extLen w.ext) w.hd 1 (firstTrap [classCheck 32 w.d, tileBaseCheck (spaceOf w.space.toNat) w.a, scalCheck w.b])
    (fun t => tileCheck t w.d.toNat)
    (fun t => { entries := newEntries t (spaceOf w.space.toNat) false ((quarter w t.arch).map (fun p => p.2 / 64)) })
    (fun s t => .done s t none)
  { f with sample := true, effect := fun s t => .done s t none }

/-- A tile with a quarter replaced. -/
def withQuarter (tile : List Word) (q : Nat) (ws : List Word) : List Word := tile.take (2048 * q) ++ ws ++ tile.drop (2048 * q + 2048)

/-- The form of LDF. -/
def ldfForm (w : FullX) : Word1 :=
  let e := Machine.extOf w.ext
  { len := extLen w.ext, hd := w.hd, caps := if w.perm then 5 else 1, once := true, sample := true,
    check := fun _ _ => firstTrap [vecRun w.d, tileBaseCheck (spaceOf w.space.toNat) w.a, srcCheck 1 (opd w.b), classCheck 8 e.c],
    bounds := fun _ t => firstTrap [runBound t w.d (if w.acc then 8 else 4), boundCheck t 1 (opd w.b)],
    demand := fun _ _ => { dests := (List.range (if w.acc then 8 else 4)).map (w.d.toNat + ·), scales := [e.c.toNat] },
    effect := fun s t => .done s t none }

/-- The lanes of LDF's set and the addresses they form (R124). -/
def ldfLanes (w : FullX) (a : Arch) : List LaneAddr :=
  let e := Machine.extOf w.ext
  let m : MemOpd := { sp := spaceOf w.space.toNat, a := w.a, b := w.b, imm := if w.perm then 0 else e.imm.toInt }
  (List.range 256).map (fun l => (256 * w.set.toNat + l, m.addr a (256 * w.set.toNat + l)))

/-- The bytes that a lane of LDF reads without `.perm` end so far past its address (R124). -/
def ldfReach (w : FullX) (l : Nat) : Nat := if w.acc = false ∧ 128 ≤ l % 256 then 32 else 33

/-- The table of LDF `.perm` as pocket holds it: 32 offsets of 16 bits (R125). -/
def ldfTable (bs : List Byte) : List Nat := (List.range 32).map (fun k => bytesNat (sliceBytes bs (2 * k) 2))

/-- The bytes that LDF `.perm` gathers: lane and address (R125). -/
def ldfGathers (w : FullX) (idx : List Nat) (ls : List LaneAddr) : List LaneAddr :=
  let m := if spaceOf w.space.toNat = .glob then 2 ^ 64 else 2 ^ 32
  ls.flatMap (fun x =>
    ((if w.acc then idx else if x.1 % 256 < 128 then idx.take 16 else idx.drop 16)).map (fun i => (x.1, (x.2 + i) % m)))

end Sys2Proof.Claims

/-- R128, QLD and QST: QLD reads a quarter of a tile, whole, at once, and writes it as a new version; QST holds the quarter's bytes like a
relaxed store; both trap ALIGN for operands that are not multiples of 16 or a stride below 256, and SCRATCH_RANGE for a row outside its
allocation (%eaddr of that trap is the model's choice, log 114). -/
def Obligations.TileMoves : Prop :=
  ∀ (s : State) (t : Team) (w : FullX), t.role ≠ .trailing → s.arrayBusy t = false →
    let sp := spaceOf w.space.toNat
    let q := w.d.toNat
    let ps := quarter w t.arch
    let ls : List LaneAddr := ps.map (fun p => (0, p.2))
    let tr : Trap := { cause := .align, eaddr := BitVec.ofNat 64 (tileAddr w t.arch), einfo := BitVec.ofNat 32 (tileStride w t.arch), once := true }
    let odd : Prop := tileAddr w t.arch % 16 ≠ 0 ∨ tileStride w t.arch % 16 ≠ 0 ∨ tileStride w t.arch < 256
    let row (i : Nat) : Nat := (tileAddr w t.arch + i * tileStride w t.arch) % (if sp = .glob then 2 ^ 64 else 2 ^ 32)
    let outside (i : Instr) : Prop := ∀ k, ¬odd → sp ≠ .glob → k < 32 → (s.scratchOf t sp).size < row k + 256 →
      ∃ a, Traps i s t w.hd.sw { cause := .scratchRange, eaddr := a, once := true }
    (Goes s t (qldForm w) →
      (odd → Traps (.qld w) s t w.hd.sw tr) ∧ outside (.qld w) ∧
      (TileMoveOk s t w → s.gate t sp ls 16 EntryKind.stopsLoad = none → s.loadMustWait t sp ls 16 = false →
        let s1 := (gated s t).1
        let t1 : Team := { (gated s t).2 with nextId := t.nextId + 1 }
        let e (ws : List Word) : LvqEntry :=
          lvqValues t.arch.issued t.arch.pc t.regionId [(0, tileAddr w t.arch)] (ws.map (fun x => (q, 0, x)))
        t.lvqRoom (e (List.replicate 2048 0)) = true →
        ∀ s2 r, s1.readQuarter t1 t.nextId sp ps = (s2, r) → r.bad = [] → s2.teams = s.teams → s.uninitMode t = 0 ∨ r.unset = [] →
          let t2 := (({ t1 with arch := t1.arch.setTiles [(q, withQuarter (t.arch.tile q) w.set.toNat r.words)] } : Team).gather
            t.regionId r.tags).lvqPush { e r.words with note := t.arch.noted t.arch t.arch.issued }
          let d := (qldForm w).demand s t
          exec (.qld w) s = .next ((s2.markHits t2 d).finish (t2.note d) (qldForm w) none))) ∧
    (Goes s t (qstForm w) →
      (odd → Traps (.qst w) s t w.hd.sw tr) ∧ outside (.qst w) ∧
      (TileMoveOk s t w → s.gate t sp ls 16 EntryKind.stopsWrite = none →
        let t1 : Team := { (gated s t).2 with nextId := t.nextId + 1 }
        let parts : List (Nat × StorePart) := ps.map (fun p => (p.2 / 64,
          { acc := t.nextId, pc := t.arch.pc, lane := 0, off := p.2 % 64,
            data := (List.range 4).flatMap (fun j => natBytes 4 ((t.arch.tile q).getD (2048 * w.set.toNat + p.1 + j) 0).toNat) }))
        exec (.qst w) s = .next ((gated s t).1.finish ((probeAccess t true sp ls (t1.holdStore sp false 0 t.nextId s.tick parts)).note
          ((qstForm w).demand s t)) (qstForm w) none)))

/-- R124, R125, LDF: every lane of the set is captured, whatever its masks, with the scale operand's byte; the shape is checked first, then
without `.perm` the lanes' ranges, and with it the table offset. `.perm` reads its table from pocket at issue, and the gathered bytes are
checked and captured like the others. -/
def Obligations.FragmentLoads : Prop :=
  ∀ (s : State) (t : Team) (w : FullX), Goes s t (ldfForm w) → s.arrayBusy t = false →
    let sp := spaceOf w.space.toNat
    let e := Machine.extOf w.ext
    let table := e.imm.toNat
    let ls := ldfLanes w t.arch
    let shape : Prop := t.tw % 256 = 0 ∧ w.set.toNat < t.tw / 256
    let beyond (c : Cause) (xs : List LaneAddr) : Trap :=
      { cause := c, eaddr := BitVec.ofNat 64 ((xs.headD (0, 0)).2), emask := maskOfList (xs.map (·.1)) }
    let report (tr : Trap) : Trap := { tr with once := true }
    let out := ls.filter (fun x => (s.scratchOf t sp).size < x.2 + ldfReach w x.1)
    let acc (idx : List Nat) (unset : List (Nat × Nat)) : Access :=
      { id := t.nextId, word := t.arch.issued, pc := t.arch.pc, region := t.regionId, once := true, susp := false, lost := [],
        kind := .ldf sp w.fmt.toNat w.acc w.perm w.d.toNat e.c.toNat idx unset (BitVec.ofNat 8 (t.arch.sget (e.xc.toNat % 128)).toNat),
        lanes := ls.map (fun x => { lane := x.1, addr := x.2, st := .waiting }) }
    (¬shape → Traps (.ldf w) s t w.hd.sw (divergent 2 0 true)) ∧
    (shape → w.perm = false → sp ≠ .glob → out ≠ [] → Traps (.ldf w) s t w.hd.sw (report (beyond .scratchRange out))) ∧
    (shape → w.perm = false → (sp ≠ .glob → out = []) → s.gate t sp ls 33 EntryKind.stopsLoad = none →
      exec (.ldf w) s = .next ((gated s t).1.finish ({ (gated s t).2 with nextId := t.nextId + 1, accs := t.accs ++ [acc [] []] }.note
        ((ldfForm w).demand s t)) (ldfForm w) none)) ∧
    (shape → w.perm = true → table % 2 ≠ 0 → Traps (.ldf w) s t w.hd.sw { cause := .align, eaddr := BitVec.ofNat 64 table, once := true }) ∧
    (shape → w.perm = true → table % 2 = 0 → (s.scratchOf t .pocket).size < table + 64 →
      Traps (.ldf w) s t w.hd.sw { cause := .scratchRange, eaddr := BitVec.ofNat 64 table, once := true }) ∧
    (shape → w.perm = true → table % 2 = 0 → table + 64 ≤ (s.scratchOf t .pocket).size →
      s.gate t .pocket [(0, table)] 64 EntryKind.stopsLoad = none → s.loadMustWait t .pocket [(0, table)] 64 = false →
      ∀ bs inv, s.readScratch t t.nextId .pocket table 64 = (s, .bytes bs [] inv) →
        let idx := ldfTable bs
        let unset := ((List.range 32).map (fun k => (k, (table + 2 * k) / 4 * 4))).filter (fun x => inv.any (fun v => v.2 == x.2))
        let gathers := ldfGathers w idx ls
        let past := gathers.filter (fun x => (s.scratchOf t sp).size ≤ x.2)
        (sp ≠ .glob → past ≠ [] → Traps (.ldf w) s t w.hd.sw (report (beyond .scratchRange past))) ∧
        ((sp ≠ .glob → past = []) → s.gate t sp gathers 1 EntryKind.stopsLoad = none → (∀ x, s.watchHits x = []) →
          exec (.ldf w) s = .next ((gated s t).1.finish ({ (gated s t).2 with nextId := t.nextId + 1, accs := t.accs ++ [acc idx unset] }.note
            ((ldfForm w).demand s t)) (ldfForm w) none)))

namespace Sys2Proof.Claims

/-- A control word: it executes once for the team. -/
def ctlForm (w : FullT) (check : Option Trap) : Word1 :=
  { len := extLen w.ext, hd := w.hd, once := true, check := fun _ _ => check, effect := fun s t => .done s t none }

/-- A word that transfers control to `target`, the team changed by `f`: at an allowed landing the pc is the target, and otherwise the
word traps with what the landing gives (R50, R230). -/
def Lands (i : Instr) (s : State) (t : Team) (form : Word1) (target : Nat) (f : Team → Team) : Prop :=
  match s.landing t target with
  | (s1, none) => exec i s = .next (s1.finish ((f t).note {}) form (some (BitVec.ofNat 64 target)))
  | (_, some tr) => Traps i s t form.hd.sw { tr with once := form.once }

/-- A word that is about to land on `target`. -/
def landingOn (form : Word1) (target : Nat) : Word1 := { form with targets := fun _ _ => [target] }

/-- A word that changes the team alone and goes on to the next word. -/
def Advances (i : Instr) (s : State) (t t' : Team) (form : Word1) : Prop :=
  exec i s = .next (s.finish (t'.note (form.demand s t)) form none)

/-- The lanes that are live, and a mask's bits in them (Table 10.1). -/
def brcCond (w : FullT) (t : Team) : Prop :=
  let live := lanesOf t.tw t.arch.live
  let on (l : Nat) : Prop := Mask.has (t.arch.kget w.a.toNat) l = true
  match w.b.toNat with
  | 0 => ∃ l ∈ live, on l
  | 1 => ∀ l ∈ live, on l
  | 2 => ∀ l ∈ live, ¬ on l
  | 3 => ∃ l ∈ live, ¬ on l
  | 4 => scalVal t.arch w.a ≠ 0
  | _ => scalVal t.arch w.a = 0

/-- The forms of SPLIT and JOIN. -/
def splitForm (w : FullT) : Word1 :=
  { len := extLen w.ext, hd := w.hd, check := fun _ _ => classCheck 8 w.a,
    bounds := fun _ t => match w.ext with
      | none => none
      | some e =>
        let v0 := e.c.toNat
        let nv := e.xc.toNat % 32
        if nv = 0 then none else if t.regs ≤ v0 then some (boundTrap v0) else if t.regs < v0 + nv then some (boundTrap t.regs) else none
    demand := fun s t => { entries := if s.ejects t w then 2 * (lanesOf t.tw (splitTaken w t)).length else 0 },
    targets := fun _ t => [wrapTo 64 ((t.arch.pc.toNat : Int) + 8 * w.off.toInt), wrapTo 64 ((t.arch.pc.toNat : Int) + 8 * w.b.toNat)]
    effect := fun s t => .done s t none }

def joinForm (w : FullT) : Word1 :=
  { ctlForm w none with
    demand := fun _ t => { dests := match t.arch.stack with
      | .join e :: _ => if e.ej != 0 && e.pend == 0 then (List.range e.nv).map (e.vFirst + ·) else []
      | _ => [] } }

/-- The entry that a SPLIT pushes (R232, R235). -/
def splitEntry (w : FullT) (t : Team) (name join : Nat) : JoinEntry :=
  let e := w.ext.getD { xc := 0, c := 0, imm := 0 }
  { name := name, jpc := BitVec.ofNat 64 join, reconv := t.arch.live, pend := 0, ppc := 0, ej := 0, early := 0, count := 0,
    vFirst := e.c.toNat, nv := e.xc.toNat % 32 }

/-- Team t with a join entry on its stack and the lanes `live` live. -/
def withJoin (t : Team) (j : JoinEntry) (live : Mask) : Team :=
  { t with arch := { t.arch with stack := .join j :: t.arch.stack, live := live } }

/-- What a lane may do at SPLIT on the lantern: the conditions of R211. -/
def mayEject (s : State) (t : Team) (w : FullT) : Prop :=
  let n := (lanesOf t.tw (splitTaken w t)).length
  ∃ e, w.ext = some e ∧ n ≠ 0 ∧ splitRest w t ≠ 0 ∧ n ≤ ((s.gridOf t).map (·.lrec.eject)).getD 0 ∧
    (∀ p ∈ t.pend, p.dest = .none → ∀ x ∈ p.vals, ¬ (e.c.toNat ≤ x.1 ∧ x.1 < e.c.toNat + e.xc.toNat % 32)) ∧
    s.lanternUsed t.loc.pkgCore + n ≤ 64

def closingForm (w : FullT) (check : Option Trap) : Word1 := { ctlForm w check with closing := fun _ _ => true }

/-- The team at a closing word. -/
def atClose (t : Team) : Team := { t with needHead := true }

def spawnForm (w : FullT) : Word1 :=
  let n := w.b.toNat - 0x780
  { len := extLen w.ext, hd := w.hd, once := !(opd w.a).isVec,
    check := fun _ _ => match opd w.a with
      | .vec _ => none
      | .scal r => trapIf (128 < r + n) reservedTrap
      | _ => some reservedTrap
    bounds := fun _ t => match opd w.a with
      | .vec r => if t.regs ≤ r then some (boundTrap r) else if t.regs < r + n then some (boundTrap t.regs) else none
      | _ => none
    demand := fun _ t => { entries := 2 * (spawnLanes w t).length }, effect := fun s t => .done s t none }

/-- The limits of a region at an implicit head. -/
def atFresh (s : State) (t : Team) (w : Word1) : Team := t.raiseFor (w.demand s t)

/-- A word that stands at a fresh head and alone passes a limit: it takes the architectural figure in place of the declared one it passes and finds its room (R338). -/
structure AtFresh (s : State) (t : Team) (w : Word1) : Prop where
  closing : w.closing s t = false
  head    : t.needHead = false
  room    : ∃ r r2, t.openRegion = some r ∧ r.fresh = true ∧ overLimit t r (w.demand s t) = true ∧
    (atFresh s t w).openRegion = some r2 ∧ s.noRoom (atFresh s t w) r2 (w.demand s (atFresh s t w)) = none

def waitvForm (w : FullT) : Word1 :=
  { ctlForm w (firstTrap [scalReg w.d, if w.off.toNat / 4096 = 0 then scalPair w.a else scalCheck w.a, scalCheck w.b]) with sample := true }

end Sys2Proof.Claims

/-- R50, R230, R231, R233: BRA, BRC, BRX, CALL and RET land at their targets or trap BAD_TARGET; a branch not taken goes on; CALL writes
its link and pushes it, within the depth limit of R210; RET pops a call entry and traps JOIN_UNDERFLOW without one. R50, a target that is no multiple of 8 is a bad landing, and nothing else changes. -/
def Obligations.BranchesCallsAndReturns : Prop :=
  (∀ (s : State) (t : Team) (w : FullT),
    let pc := t.arch.pc
    let target := relTarget w t.arch
    (Goes s t (landingOn (ctlForm w none) target) → Lands (.bra w) s t (ctlForm w none) target id) ∧
    (let form := ctlForm w (if w.b.toNat < 4 then classCheck 8 w.a else scalReg w.a)
     (brcCond w t → Goes s t (landingOn form target) → Lands (.brc w) s t form target id) ∧
     (¬ brcCond w t → Goes s t form → Advances (.brc w) s t t form)) ∧
    (∀ n, opd w.a = .scal n → Goes s t (landingOn (ctlForm w (scalPair w.a)) (t.arch.spair n)) →
      Lands (.brx w) s t (ctlForm w (scalPair w.a)) (t.arch.spair n) id) ∧
    (∀ n, opd w.d = .scal n → Goes s t (landingOn (ctlForm w (scalPair w.d)) target) →
      let link := pc + BitVec.ofNat 64 (extLen w.ext)
      let depth := t.arch.stack.length + 1
      (depth ≤ 32 + (s.landing t target).1.spillOf t → Lands (.call w) s t (ctlForm w (scalPair w.d)) target (fun t =>
        let a := t.arch.ssetPair n link.toNat
        { t with arch := { a with stack := .call link :: a.stack } })) ∧
      (32 + (s.landing t target).1.spillOf t < depth → (s.landing t target).2 = none →
        Traps (.call w) s t w.hd.sw { cause := .scratchRange, einfo := BitVec.ofNat 32 (0x80000000 + depth), once := true })) ∧
    (Goes s t (ctlForm w none) →
      (t.arch.stack = [] → Traps (.ret w) s t w.hd.sw { cause := .joinUnderflow, einfo := 4, once := true }) ∧
      (∀ j rest, t.arch.stack = .join j :: rest → Traps (.ret w) s t w.hd.sw { cause := .joinUnderflow, einfo := 5, once := true }) ∧
      (∀ ret rest, t.arch.stack = .call ret :: rest → Goes s t (landingOn (ctlForm w none) ret.toNat) → Lands (.ret w) s t (ctlForm w none) ret.toNat (fun t =>
        { t with arch := { t.arch with stack := rest } })))) ∧
  (∀ (s : State) (t : Team) (target : Nat), target % 8 ≠ 0 →
    s.landing t target = (s, some { cause := .badTarget, eaddr := BitVec.ofNat 64 target }))

/-- R211, R234, R235, SPLIT: with both landings allowed and room on the stack, one entry is pushed; the taken lanes are ejected as
records on their way to the lantern, or are empty, or are all the lanes, or are left pending for the JOIN. -/
def Obligations.Split : Prop :=
  ∀ (s : State) (t : Team) (w : FullT), Goes s t (splitForm w) →
    let pc := t.arch.pc
    let target := wrapTo 64 ((pc.toNat : Int) + 8 * w.off.toInt)
    let join := wrapTo 64 ((pc.toNat : Int) + 8 * w.b.toNat)
    let s1 := (s.landing t target).1
    let s2 := (s1.landing t join).1
    let form := splitForm w
    let taken := t.arch.live &&& t.arch.kget w.a.toNat &&& fullMask t.tw
    let rest := t.arch.live &&& ~~~(t.arch.kget w.a.toNat) &&& fullMask t.tw
    (∀ tr, (s.landing t target).2 = some tr → Traps (.split w) s t w.hd.sw tr) ∧
    (∀ tr, (s.landing t target).2 = none → (s1.landing t join).2 = some tr → Traps (.split w) s t w.hd.sw tr) ∧
    ((s.landing t target).2 = none → (s1.landing t join).2 = none →
      let depth := t.arch.stack.length + 1
      let s3 : State := { s2 with nextUid := s2.nextUid + 1 }
      let j := splitEntry w t s2.nextUid join
      let ends (t' : Team) (pc : Option DWord) : Prop := exec (.split w) s = .next (s3.finish (t'.note (form.demand s t)) form pc)
      (32 + s2.spillOf t < depth →
        Traps (.split w) s t w.hd.sw { cause := .scratchRange, einfo := BitVec.ofNat 32 (0x80000000 + depth) }) ∧
      (depth ≤ 32 + s2.spillOf t → t.role ≠ .trailing →
        (mayEject s3 t w → ∀ e, w.ext = some e →
          let t0 := t.lvqPush (lvqHeader 2 t.arch.issued pc t.regionId)
          ends (withJoin ((lanesOf t.tw taken).foldl (fun (t1 : Team) l =>
              t1.hold (.cont (s3.ejectRecord t0 s2.nextUid target e l)) 0 .none (1 <<< l) s3.tick) t0)
            { j with ej := taken, count := (lanesOf t.tw taken).length } rest) none) ∧
        (¬ mayEject s3 t w →
          (taken = 0 → ends (withJoin t j rest) none) ∧
          (taken ≠ 0 → rest = 0 → ends (withJoin t j taken) (some (BitVec.ofNat 64 target))) ∧
          (taken ≠ 0 → rest ≠ 0 → ends (withJoin t { j with pend := taken, ppc := BitVec.ofNat 64 target } rest) none))))

/-- R236, JOIN: it traps without its entry; runs the pending side; waits for lanes that are out; then takes their records back, sends those
that ended early on in order of their pc, and last reconverges and pops. Records that ended with STATUS 4 trap ARITH_EXC once, before that. -/
def Obligations.Join : Prop :=
  ∀ (s : State) (t : Team) (w : FullT), Goes s t (joinForm w) →
    let form := joinForm w
    let under (n : Word) : Trap := { cause := .joinUnderflow, einfo := n, once := true }
    let ends (t' : Team) (pc : DWord) : Prop := exec (.join w) s = .next (s.finish (t'.note (form.demand s t)) form (some pc))
    (t.arch.stack = [] → Traps (.join w) s t w.hd.sw (under 1)) ∧
    (∀ r rest, t.arch.stack = .call r :: rest → Traps (.join w) s t w.hd.sw (under 2)) ∧
    (∀ e rest, t.arch.stack = .join e :: rest →
      (t.arch.pc ≠ e.jpc → Traps (.join w) s t w.hd.sw (under 3)) ∧
      (t.arch.pc = e.jpc →
        (e.pend ≠ 0 → ends { t with arch := { t.arch with stack := .join { e with pend := 0, ppc := 0 } :: rest, live := e.pend } } e.ppc) ∧
        (e.pend = 0 → t.role ≠ .trailing → t.ctr e ≠ 0 → exec (.join w) s = .next (s.wordWait t .join)) ∧
        (e.pend = 0 → t.role ≠ .trailing → t.ctr e = 0 →
          let rs := t.returned.filter (fun r => r.entry == e.name)
          let t0 := if e.count = 0 then t else t.lvqPush { lvqHeader 2 t.arch.issued t.arch.pc t.regionId with recs := rs }
          let bad := rs.filter (fun r => r.status == 4)
          (∀ b, e.ej ≠ 0 → bad.head? = some b →
            let t1 : Team := { t0 with returned := t0.returned.map (fun r => if r.entry = e.name ∧ r.status = 4 then { r with status := 2 } else r)
                                       recalls := t0.recalls ++ [{ region := t0.nextRegion, recs := bad.map (fun r => (r.entry, r.lane)) }] }
            let tr : Trap := { cause := .arithExc, eaddr := b.pc, emask := maskOfList (bad.map (·.lane)),
                               einfo := (allFlags (bad.map (·.raised))).zeroExtend 32 }
            exec (.join w) s = .next (s.takeTrap t1 tr)) ∧
          ((e.ej = 0 ∨ bad = []) →
            let a := if e.ej = 0 then t.arch else rs.foldl (fun a r => a.writeRecord e r) t.arch
            let e1 : JoinEntry := if e.ej = 0 then e else
              { e with early := maskOfList ((rs.filter (fun r => r.status != 1 && Mask.has e.ej r.lane)).map (·.lane)), ej := 0, count := 0 }
            let out := rs.filter (fun r => Mask.has e1.early r.lane)
            (out = [] → ends { t0 with arch := { a with live := e.reconv &&& ~~~t.arch.exited, stack := rest } }
              (t.arch.pc + BitVec.ofNat 64 (extLen w.ext))) ∧
            (∀ p, (out.map (fun r => r.pc.toNat)).min? = some p →
              let go := maskOfList ((out.filter (fun r => r.pc.toNat == p)).map (·.lane))
              ends { t0 with arch := { a with stack := .join { e1 with early := e1.early &&& ~~~go } :: rest, live := go } } (BitVec.ofNat 64 p))))))

/-- R243–R245, R247: WAITV ends when its comparison holds or its limit has passed, and else parks on its word; YIELD sets its count; SPAWN holds a record a lane, at
most 512 at a time, when the arena has room; LAUNCH holds one entry for an aligned record of the device half. -/
def Obligations.WaitYieldSpawnLaunch : Prop :=
  ∀ (s : State) (t : Team) (w : FullT),
    (Goes s t (waitvForm w) → t.role ≠ .trailing →
      let f := w.off.toNat
      let sp := spaceOf (f / 4096)
      let va := if sp = .glob then (match opd w.a with | .scal n => t.arch.spair n | _ => 0) else scalVal t.arch w.a
      (∀ tr, accessTrap sp (s.scratchOf t sp).size 4 4 true [(0, va)] = some tr → Traps (.waitv w) s t w.hd.sw { tr with once := true }) ∧
      (accessTrap sp (s.scratchOf t sp).size 4 4 true [(0, va)] = none → s.gate t sp [(0, va)] 4 EntryKind.stopsLoad = none →
        s.loadMustWait t sp [(0, va)] 4 = false →
        let t1 := (gated s t).2
        ∀ s2 bs tags inv, (gated s t).1.waitvRead t1 sp va = (s2, .bytes bs tags inv) → bs.length = 4 →
          let s3 := if sp = .glob then s2 else s2.watchTeam t1.uid sp va 4 1 0 t1.arch.pc (some t1.regionId)
          let v := bytesNat bs
          let x := asInt (f / 512 % 2 == 1) (BitVec.ofNat 32 v)
          let y := asInt (f / 512 % 2 == 1) (BitVec.ofNat 32 (scalVal t1.arch w.b))
          let limit := (w.ext.map (fun e => e.imm.toNat)).getD 0
          let since := t1.arch.waitFrom.getD s3.tick
          let cond : Bool := [decide (x = y), decide (x ≠ y), decide (x < y), decide (y ≤ x)].getD (f / 1024 % 4) true
          let past : Bool := limit ≠ 0 && since + limit ≤ s3.tick
          let t2 : Team := { t1 with watch := ((s3.team? t1.uid).map (·.watch)).getD t1.watch }
          let e : LvqEntry := lvqValues t2.arch.issued t2.arch.pc t2.regionId [(0, va)] [(scalOf w.d, 0, BitVec.ofNat 32 v)]
          let t3 := (t2.lvqPush e).gather t2.regionId tags
          inv = [] ∨ s3.uninitMode t2 = 0 →
          ((cond || past) = true → t2.lvqRoom e = true →
            exec (.waitv w) s = .next ((s3.acquireAt t3 (scopeIn sp (f / 64 % 8))).finish
              (({ t3 with arch := { (t3.arch.sset (scalOf w.d) (BitVec.ofNat 32 v)) with waitFrom := none } } : Team).note {}) (waitvForm w) none)) ∧
          ((cond || past) = false → exec (.waitv w) s = .next (s3.waitvAgain t2 sp va (if limit = 0 then none else some (since + limit)))))) ∧
    (Goes s t (ctlForm w (scalCheck w.a)) →
      Advances (.yield w) s t { t with arch := { t.arch with yield := max (scalVal t.arch w.a % 256) 1 } } (ctlForm w (scalCheck w.a))) ∧
    (∀ t0, Goes s t (spawnForm w) ∧ t0 = t ∨ Running s t ∧ Passes s t (spawnForm w) ∧ AtFresh s t (spawnForm w) ∧ t0 = atFresh s t (spawnForm w) →
      t.role ≠ .trailing →
      let ls := spawnLanes w t
      let many : Bool := (opd w.a).isVec && 512 < (lanesOf t.tw t.arch.live).length && !t.arch.spawned
      let t1 := ls.foldl (fun (t1 : Team) l => t1.hold (.spawn (s.spawnRecord t w (w.b.toNat - 0x780) l)) 0 .none (1 <<< l) s.tick) t0
      ((s.die t.loc.chip).arenaUsed + ls.length ≤ (s.die t.loc.chip).arenaCap →
        (many = false → Advances (.spawn w) s t { t1 with arch := { t1.arch with spawned := false } } (spawnForm w)) ∧
        (many = true → exec (.spawn w) s = .next (({ s with issue := none } : State).setTeam
          (({ t1 with arch := { t1.arch with spawned := true } } : Team).note {})))) ∧
      ((s.die t.loc.chip).arenaCap < (s.die t.loc.chip).arenaUsed + ls.length → exec (.spawn w) s = .next (s.wordWait t0 (.wait .arena)))) ∧
    (∀ n, opd w.a = .scal n → Goes s t { ctlForm w (scalPair w.a) with demand := fun _ _ => { entries := 1 } } →
      let va := t.arch.spair n
      let t1 := ({ t with nextId := t.nextId + 1 } : Team).hold (.launch (BitVec.ofNat 64 va)) t.nextId (t.probeOf .glob) 1 s.tick
      (va % 128 ≠ 0 ∨ va < 2 ^ 63 → Traps (.launch w) s t w.hd.sw { cause := .align, eaddr := BitVec.ofNat 64 va, once := true }) ∧
      (va % 128 = 0 → 2 ^ 63 ≤ va → t.role ≠ .trailing →
        exec (.launch w) s = .next (s.finish ((t1.addAccess t.nextId true .launch [(0, va)]).note { entries := 1 }) (ctlForm w (scalPair w.a)) none)))

/-- R224, R248, REGA and REGR: the allotment grows when the registers are free and no older team of the partition waits for some, else the
team waits for them, and a waiting team is granted what is free; it shrinks and frees them; an amount that is 0, no multiple of 16 or out of
range, and a live set still out that the smaller allotment would cut, trap REG_BOUND. -/
def Obligations.Allotment : Prop :=
  ∀ (s : State) (t : Team) (w : FullT),
    let form := closingForm w (if w.ext.isSome then none else scalCheck w.a)
    Running s t → Passes s t form → Closes s t form →
      let n := (srcB w.a w.ext).read t.arch 1 0
      let traps (i : Instr) (info : Nat) : Prop := Traps i s (atClose t) w.hd.sw { cause := .regBound, einfo := BitVec.ofNat 32 info, once := true }
      let most := if t.loc.chip < 4 then 393216 else 196608
      let mayGrow : Prop := n ≠ 0 ∧ n % 16 = 0 ∧ t.regs + n ≤ 1536 ∧ (t.regs + n) * t.tw ≤ most
      let mayShrink : Prop := n ≠ 0 ∧ n % 16 = 0 ∧ 16 + n ≤ t.regs
      let others : Prop := ∃ u ∈ s.partTeams t.loc.pkgCore t.loc.part, u.uid ≠ t.uid ∧ u.wants.isSome = true ∧ u.older (atClose t) = true
      let now : Prop := ¬ others ∧ n * t.tw ≤ s.lanesFree t.loc.pkgCore t.loc.part
      let out (e : JoinEntry) : Prop := e ∈ t.arch.joins ∧ t.ctr e ≠ 0 ∧ e.nv ≠ 0 ∧ t.regs - n < e.vFirst + e.nv
      (¬ mayGrow → traps (.rega w) (0x20000 + n % 65536)) ∧
      (mayGrow → now →
        let t1 : Team := { atClose t with regs := t.regs + n, arch := { t.arch with v := t.arch.v ++ List.replicate n (List.replicate t.tw 0) } }
        exec (.rega w) s = .next (s.finish t1 form none)) ∧
      (mayGrow → ¬ now →
        let t1 : Team := { atClose t with run := .registers n (extLen w.ext) w.hd.sw, waitSlots := 0 }
        exec (.rega w) s = .next ((({ s with issue := none } : State).setTeam t1).grantPart t.loc.pkgCore t.loc.part)) ∧
      (¬ mayShrink → traps (.regr w) (0x20000 + n % 65536)) ∧
      (mayShrink → (∃ e, out e) → ∃ e, out e ∧ traps (.regr w) (0x30000 + max e.vFirst (t.regs - n))) ∧
      (mayShrink → (¬ ∃ e, out e) →
        let t1 : Team := { atClose t with regs := t.regs - n, borrowed := t.borrowed - n * t.tw
                                          arch := { t.arch with v := t.arch.v.take (t.regs - n) } }
        exec (.regr w) s = .next (((s.setTeam t1).grantPart t.loc.pkgCore t.loc.part).finish t1 form none))

namespace Sys2Proof.Claims

/-- What GETSR of a register that is no lane mask gives (Tables 18.4, 18.5, 21.4). -/
def sregValue (s : State) (t : Team) (n : Nat) : Nat :=
  let a := t.arch
  let mode := ((s.gridOf t).map (·.lrec.mode)).getD 0
  let bit (b : Bool) (i : Nat) : Nat := if b then 2 ^ i else 0
  if n = 0x000 then a.flags.toNat
  else if n = 0x001 then a.uninitcnt.toNat
  else if n = 0x002 then a.uninitaddr.toNat
  else if n = 0x003 then a.gdetail.toNat
  else if n = 0x004 then bit (mode.getLsbD 0) 0 + bit (t.role == .trailing) 1 + bit (mode.getLsbD 1) 2 + bit (mode.getLsbD 2) 3 +
    bit (t.kind == .evaluator || t.kind == .task) 4 + bit a.inHandler 5
  else if 0x008 ≤ n ∧ n ≤ 0x00B then (t.cnts.getD (n - 8) []).length
  else if n = 0x010 then t.loc.chip
  else if n = 0x011 then (if t.loc.chip < s.variant.chips then (if t.loc.chip < 4 then 7 else 1) else 0) + 2 ^ 8 * (2 ^ s.variant.chips - 1) +
    2 ^ 16 * (2 ^ (2 * s.variant.chips) - 1)
  else if n = 0x012 then s.spanIdx t
  else if n = 0x013 then s.tick
  else if n = 0x018 then a.tvec.toNat
  else if n = 0x020 then a.bank.epc.toNat
  else if n = 0x021 then a.bank.ecause.toNat
  else if n = 0x022 then a.bank.estat.toNat
  else if n = 0x023 then a.bank.eaddr.toNat
  else if n = 0x024 then a.bank.einfo.toNat
  else if 0x100 ≤ n ∧ n ≤ 0x103 then (a.wpaddr.getD (n - 0x100) 0).toNat
  else if 0x104 ≤ n ∧ n ≤ 0x107 then (s.reg 0 (watchOff t.loc.cl (n - 0x104) + 8)).toNat
  else 0

/-- What SETSR leaves in a register of the team: the writable bits of the value (R359). -/
def sregSet (a : Arch) (n x tw : Nat) (k : Mask) : Arch :=
  let w : Word := BitVec.ofNat 32 x
  let d : DWord := BitVec.ofNat 64 x
  if n = 0x000 then { a with flags := w &&& 0x00001F1F }
  else if n = 0x001 then { a with uninitcnt := w }
  else if n = 0x002 then { a with uninitaddr := w &&& 0xC1FFFFFF, uninitBy := none }
  else if n = 0x018 then { a with tvec := d &&& 0xFFFFFFFFFFFFFFF8 }
  else if n = 0x020 then { a with bank := { a.bank with epc := d } }
  else if n = 0x021 then { a with bank := { a.bank with ecause := w &&& 0xFF } }
  else if n = 0x022 then { a with bank := { a.bank with estat := w &&& 7 } }
  else if n = 0x023 then { a with bank := { a.bank with eaddr := d } }
  else if n = 0x024 then { a with bank := { a.bank with einfo := w } }
  else if n = 0x025 then { a with bank := { a.bank with emask := k &&& fullMask tw } }
  else if n = 0x026 then { a with bank := { a.bank with elive := k &&& fullMask tw } }
  else if 0x100 ≤ n ∧ n ≤ 0x103 then { a with wpaddr := a.wpaddr.set (n - 0x100) d }
  else a

def getsrForm (w : FullS) : Word1 :=
  let n := w.sreg.toNat
  { len := 8, hd := w.hd, once := true,
    check := fun _ t => firstTrap [trapIf (!isNop w.hd && sregHandler n && !t.arch.inHandler) illegalTrap,
      if sregIsMask n then classCheck 8 w.d else if sregIsWide n then scalPair w.d else scalReg w.d]
    effect := fun s t => .done s t none }

def setsrForm (w : FullS) : Word1 :=
  let n := w.sreg.toNat
  { len := extLen w.ext, hd := w.hd, once := true,
    check := fun _ t => firstTrap [trapIf (!isNop w.hd && sregHandler n && !t.arch.inHandler) illegalTrap,
      if w.ext.isSome then none
      else if sregIsMask n then classCheck 8 w.a
      else match opd w.a with
        | .scal r => trapIf (sregIsWide n && r % 2 == 1) reservedTrap
        | .con _ => none
        | _ => some reservedTrap]
    closing := fun _ t => n == 0x018 || (0x104 ≤ n && n ≤ 0x107) ||
      (n == 0 && (BitVec.ofNat 32 (setsrVal w t.arch) ^^^ t.arch.flags) &&& 0x1F00 != 0)
    effect := fun s t => .done s t none }

/-- The form of TRAP and BRK. -/
def trapForm (w : FullS) : Word1 :=
  { len := extLen w.ext, hd := w.hd, check := fun _ _ => trapCheck w, effect := fun s t => .done s t none }

def rteForm (w : FullS) : Word1 :=
  { len := 8, hd := w.hd, once := true, check := fun _ t => trapIf (!isNop w.hd && !t.arch.inHandler) illegalTrap,
    targets := fun _ t => [t.arch.bank.epc.toNat], effect := fun s t => .done s t none }

/-- The forms of LANERD, LANEWR and TRACE. -/
def lanerdForm (w : FullS) : Word1 :=
  let wide := w.sub == 1
  { len := 8, hd := w.hd, once := true,
    check := fun _ _ => firstTrap [if wide then scalPair w.d else scalReg w.d, vecCheck wide w.a, scalCheck w.b]
    bounds := fun _ t => firstTrap [boundCheck t (if wide then 2 else 1) (opd w.a), laneTrap t (scalVal t.arch w.b)]
    effect := fun s t => .done s t none }

def lanewrForm (w : FullS) : Word1 :=
  let wide := w.sub == 1
  { len := 8, hd := w.hd, once := true,
    check := fun _ _ => firstTrap [vecCheck wide w.d, (match opd w.a with
      | .scal _ => srcCheck (if wide then 14 else 1) (opd w.a)
      | .con _ => srcCheck (if wide then 14 else 1) (opd w.a)
      | _ => some reservedTrap), scalCheck w.b]
    bounds := fun _ t => firstTrap [boundCheck t (if wide then 2 else 1) (opd w.d), laneTrap t (scalVal t.arch w.b)]
    demand := fun _ t => { dests := runDests t.arch w.d (if wide then 2 else 1) }
    effect := fun s t => .done s t none }

def traceForm (w : FullS) : Word1 :=
  { len := extLen w.ext, hd := w.hd, check := fun _ _ => firstTrap [scalCheck w.a, if w.ext.isSome then none else scalCheck w.b],
    demand := fun s t => { entries := if s.traces t w.hd then 1 else 0 }, effect := fun s t => .done s t none }

/-- The forms of CAPQ, of MIGR with an operand and of MIGR without. -/
def capqForm (w : FullS) : Word1 := formOf (capqWord w false)

def migrForm (w : FullS) (oper : Bool) : Word1 :=
  { len := 8, hd := w.hd, once := true, check := fun _ _ => if oper then scalCheck w.a else none, closing := fun _ _ => true,
    effect := fun s t => .done s t none }

/-- The one result of a scalar or pair destination. -/
def putScalar (a : Arch) (n : Nat) (wide : Bool) (x : Nat) : Arch :=
  if wide then (a.sset n (BitVec.ofNat 32 x)).sset (n + 1) (BitVec.ofNat 32 (x / 2 ^ 32)) else a.sset n (BitVec.ofNat 32 x)

end Sys2Proof.Claims

/-- R353, R357–R359, R396, GETSR and SETSR of every special register: a read gives the register's value, a counter register's as a result
on its way, which a leading copy passes on and a trailing copy takes over; a mask register is read whole. A write leaves the writable bits of
the value; `%tvec`, `%wpctl` and a change of the enables close first. `%wpctl` takes the value with the team's own core and block, and its
address from `%wpaddr`, unless the host owns the watchpoint. The handler's registers trap ILLEGAL_OP outside it. -/
def Obligations.SpecialRegisters : Prop :=
  ∀ (s : State) (t : Team) (w : FullS), Running s t →
    let n := w.sreg.toNat
    let wide : Bool := (0x020 = n || n = 0x023 || n = 0x018 || n = 0x013 || (0x100 ≤ n && n ≤ 0x103))
    let counter : Prop := (0x008 ≤ n ∧ n ≤ 0x00B) ∨ n = 0x013
    let vals (d x : Nat) : List (Nat × Nat × Word) :=
      (d, 0, BitVec.ofNat 32 x) :: (if wide then [(d + 1, 0, BitVec.ofNat 32 (x / 2 ^ 32))] else [])
    let coming (t : Team) (d x : Nat) : Team :=
      { t with nextId := t.nextId + 1
               pend := t.pend ++ [{ id := t.nextId, pc := t.arch.pc, region := t.regionId, dest := .scal d, lanes := 1, x2 := false, vals := vals d x }] }
    let watchpoint : Prop := 0x104 ≤ n ∧ n ≤ 0x107
    (((0x020 ≤ n ∧ n ≤ 0x026) ∨ (0x100 ≤ n ∧ n ≤ 0x107)) → t.arch.inHandler = false → isNop w.hd = false →
      Traps (.getsr w) s t w.hd.sw { cause := .illegalOp, once := true } ∧ Traps (.setsr w) s t w.hd.sw { cause := .illegalOp, once := true }) ∧
    (Goes s t (getsrForm w) →
      (n = 0x025 → Advances (.getsr w) s t { t with arch := t.arch.kset w.d.toNat (fullMask t.tw) t.arch.bank.emask } (getsrForm w)) ∧
      (n = 0x026 → Advances (.getsr w) s t { t with arch := t.arch.kset w.d.toNat (fullMask t.tw) t.arch.bank.elive } (getsrForm w)) ∧
      (∀ d, n ≠ 0x025 → n ≠ 0x026 → opd w.d = .scal d →
        let x := sregValue s t n
        let e := lvqValues t.arch.issued t.arch.pc t.regionId [] (vals d x)
        (¬ counter → Advances (.getsr w) s t { t with arch := putScalar t.arch d wide x } (getsrForm w)) ∧
        (counter → t.role ≠ .trailing → t.lvqRoom e = true → Advances (.getsr w) s t (coming (t.lvqPush e) d x) (getsrForm w)) ∧
        (counter → t.role = .leading → t.lvqRoom e = false → Waits (.getsr w) s t .lvqRoom) ∧
        (∀ m, counter → t.role = .trailing → s.lvqFind t (atWord 0 t.arch) = some m →
          exec (.getsr w) s = .next ((s.lvqDrop t (atWord 0 t.arch)).finish ((coming t d (lvqNumber m)).note {}) (getsrForm w) none)) ∧
        (counter → t.role = .trailing → s.lvqFind t (atWord 0 t.arch) = none → Waits (.getsr w) s t .lvqEntry))) ∧
    (¬ watchpoint →
      (Goes s t (setsrForm w) → Advances (.setsr w) s t
        { t with arch := sregSet t.arch n (setsrVal w t.arch) t.tw (t.arch.kget w.a.toNat) } (setsrForm w)) ∧
      (Passes s t (setsrForm w) → Closes s t (setsrForm w) → exec (.setsr w) s = .next (s.finish
        { atClose t with arch := sregSet t.arch n (setsrVal w t.arch) t.tw (t.arch.kget w.a.toNat) } (setsrForm w) none))) ∧
    (watchpoint → Passes s t (setsrForm w) → Closes s t (setsrForm w) →
      let off := watchOff t.loc.cl (n - 0x104)
      let blk := ((s.block? t.block).map (·.blockId)).getD 0
      let ctl : Word := (BitVec.ofNat 32 (setsrVal w t.arch) &&& 0xFFFF007F) ||| BitVec.ofNat 32 (256 * blk + 128 * t.loc.core)
      let addr := (t.arch.wpaddr.getD (n - 0x104) 0).toNat / 8 * 8
      let s1 := ((s.setReg 0 (off + 8) ctl).setReg 0 off (BitVec.ofNat 32 addr)).setReg 0 (off + 4) (BitVec.ofNat 32 (addr / 2 ^ 32))
      exec (.setsr w) s = .next ((if (s.reg 0 (off + 8)).getLsbD 14 then s else s1).finish (atClose t) (setsrForm w) none))

/-- R352, R360, R397: TRAP and BRK with lanes acting take their traps, and otherwise go on; BRK stops a cluster whose debug page says so. -/
def Obligations.TrapAndBreak : Prop :=
  ∀ (s : State) (t : Team) (w : FullS),
    let m := t.arch.acting t.tw w.hd
    let info : Word := match w.ext with
      | some e => e.imm
      | none => BitVec.ofNat 32 (scalVal t.arch w.a)
    (Goes s t (trapForm w) →
      (m = 0 → Advances (.trap w) s t t (trapForm w) ∧ Advances (.brk w) s t t (trapForm w)) ∧
      (m ≠ 0 →
        Traps (.trap w) s t w.hd.sw { cause := .userTrap, epc := some (t.arch.pc + BitVec.ofNat 64 (extLen w.ext)), eaddr := t.arch.pc,
                                      einfo := info, emask := m } ∧
        (s.brkStops t.loc.cl = false →
          Traps (.brk w) s t w.hd.sw { cause := .break_, eaddr := t.arch.pc, einfo := info, emask := m }) ∧
        (s.brkStops t.loc.cl = true →
          let stop : StopReq :=
            { cluster := t.loc.cl, trigger := 4, instr := t.arch.pc, addr := 0, wp := 0, core := t.loc.pkgCore,
              slot := 8 * t.loc.part + t.loc.slot, kind := 0, since := s.tick }
          exec (.brk w) s = .next (({ s with issue := none, stopReq := s.stopReq ++ [stop] } : State).setTeam t))))

/-- R361, RTE: outside the handler it traps ILLEGAL_OP and from a handler whose %epc breaks R50 BAD_TARGET; otherwise the live mask is %elive
less the exited lanes, the in-handler bit clears, the pc is %epc at an implicit head, and the accesses that the report left are performed
again. Its one encoding is the rule's. -/
def Obligations.ReturnFromTrap : Prop :=
  ∀ (s : State) (t : Team) (w : FullS),
    ((Instr.rte w).wellFormed = true → w.hd.sw = false → w.hd.pn = false → encode (.rte w) = [0x1C30000000000000]) ∧
    (Running s t → t.arch.inHandler = false → isNop w.hd = false → Traps (.rte w) s t w.hd.sw { cause := .illegalOp, once := true }) ∧
    (Goes s t (rteForm w) →
      match s.landing t t.arch.bank.epc.toNat with
      | (_, some tr) => Traps (.rte w) s t w.hd.sw { tr with once := true }
      | (s1, none) =>
        let back : Team := { t with
          arch := { t.arch with live := t.arch.bank.elive &&& ~~~t.arch.exited, inHandler := false, pc := t.arch.bank.epc, issued := t.arch.issued + 1 }
          accs := t.accs.map (fun (x : Access) => { x with susp := false, lanes := x.lanes.map (fun l => if l.st.isFault then { l with st := .waiting } else l) }) }
        let t1 := back.implicitHead s1.tick
        let s2 : State := { s1 with issue := none }
        (t.accs.any (·.susp) = true → exec (.rte w) s = .next (s2.setTeam { t1 with run := .memory true, waitSlots := 0 })) ∧
        (t.accs.any (·.susp) = false → exec (.rte w) s = .next (s2.setTeam (if w.hd.sw then { t1 with run := .switch } else t1))))

/-- R362, R363: LANERD reads one lane of a vector register, LANEWR writes one and no other, live or not, and a lane past the team's width
traps REG_BOUND; TRACE holds a record when some lane acts and the launching function traces, and else only issues. R275, R276: CAPQ gives the
word of the chiplet that its operand names, in every acting lane or once, and CAPQ.part the clusters of the team's partition there and the
idle ones; a trailing copy takes what its leading copy read. MIGR.caps goes on where the sets are present, moves the block where the
partition has them elsewhere, and traps NO_CAPABLE where it has not; MIGR.req, MIGR.pin and MIGR.unpin leave their mark on the block. -/
def Obligations.LanesTraceAndMigration : Prop :=
  (∀ (s : State) (t : Team) (w : FullS),
    let wide : Bool := w.sub = 1
    let lane := scalVal t.arch w.b
    let past (form : Word1) (f : BitVec 11) : Prop := Running s t ∧ form.check s t = none ∧ isNop w.hd = false ∧
      boundCheck t (if wide then 2 else 1) (opd f) = none ∧ t.tw ≤ lane
    let bad : Trap := { cause := .regBound, einfo := BitVec.ofNat 32 (0x40000 + lane % 65536), once := true }
    (past (lanerdForm w) w.a → Traps (.lanerd w) s t w.hd.sw bad) ∧
    (past (lanewrForm w) w.d → Traps (.lanewr w) s t w.hd.sw bad) ∧
    (∀ d r, opd w.d = .scal d → (opd w.a).vecNum t.arch = some r → Goes s t (lanerdForm w) →
      lane < t.tw ∧
      Advances (.lanerd w) s t { t with arch := putScalar t.arch d wide (if wide then t.arch.vpair r lane else (t.arch.vget r lane).toNat) }
        (lanerdForm w)) ∧
    (∀ r, (opd w.d).vecNum t.arch = some r → Goes s t (lanewrForm w) →
      let x := (Src.op (opd w.a)).read t.arch (if wide then 14 else 1) 0
      let put (a : Arch) (r x : Nat) : Arch := a.vset r (fun l => if l = lane then some (BitVec.ofNat 32 x) else none)
      lane < t.tw ∧
      Advances (.lanewr w) s t { t with arch := if wide then put (put t.arch r x) (r + 1) (x / 2 ^ 32) else put t.arch r x } (lanewrForm w)) ∧
    (Goes s t (traceForm w) →
      let on : Prop := t.arch.acting t.tw w.hd ≠ 0 ∧ ∃ g, s.gridOf t = some g ∧ s.regField g.func 0xA008 0 1 = 1
      let entry : EntryKind := .trace (BitVec.ofNat 16 (scalVal t.arch w.a)) (BitVec.ofNat 32 ((srcB w.b w.ext).read t.arch 1 0)) t.arch.pc
      (¬ on → Advances (.trace w) s t t (traceForm w)) ∧
      (on → Advances (.trace w) s t (t.hold entry 0 .none 0 s.tick) (traceForm w)))) ∧
  (∀ (s : State) (t : Team) (w : FullS),
    let read (l : Nat) : Nat := (Src.op (opd w.a)).read t.arch 1 l
    let chip (c : Nat) : Nat := (if c < s.variant.chips then (if c < 4 then 7 else 1) else 0) + 2 ^ 8 * (2 ^ s.variant.chips - 1) +
      2 ^ 16 * (2 ^ (2 * s.variant.chips) - 1)
    let idle (c : Nat) : Nat :=
      let own := (List.range 4).filter (fun k => decide (c < 8) && decide (c < s.variant.chips) && s.inPart (s.tenantOf t) c k)
      own.length + 256 * (own.filter (fun k => (s.blocksOn c k).isEmpty)).length
    let acting := lanesOf t.tw (t.arch.acting t.tw w.hd)
    let does (i : Instr) (f : Nat → Nat) : Prop :=
      let rs : List (Nat × Nat) := if (opd w.d).isVec then acting.map (fun l => (l, f (read l))) else [(0, f (read (acting.headD 0)))]
      let e := lvqValues t.arch.issued t.arch.pc t.regionId [] (rs.map (fun r => (0, r.1, BitVec.ofNat 32 r.2)))
      let put (a : Arch) (vs : List (Nat × Nat)) : Arch := match opd w.d with
        | .scal n => a.sset n (BitVec.ofNat 32 ((vs.headD (0, 0)).2))
        | o => a.vset ((o.vecNum a).getD 0) (fun l => (vs.find? (fun r => r.1 == l)).map (fun r => BitVec.ofNat 32 r.2))
      (t.role ≠ .trailing → t.lvqRoom e = true → Advances i s t { t.lvqPush e with arch := put t.arch rs } (capqForm w)) ∧
      (t.role = .leading → t.lvqRoom e = false → Waits i s t .lvqRoom) ∧
      (∀ m, t.role = .trailing → s.lvqFind t (atWord 0 t.arch) = some m → m.vals ≠ [] →
        exec i s = .next ((s.lvqDrop t (atWord 0 t.arch)).finish
          (({ t with arch := put t.arch (m.vals.map (fun v => (v.2.1, v.2.2.toNat))) } : Team).note ((capqForm w).demand s t)) (capqForm w) none)) ∧
      (t.role = .trailing → s.lvqFind t (atWord 0 t.arch) = none → Waits i s t .lvqEntry)
    (Goes s t (capqForm w) → does (.capq w) chip ∧ does (.capqPart w) idle) ∧
    (Running s t → Passes s t (migrForm w true) → Closes s t (migrForm w true) →
      let sets := (scalVal t.arch w.a % 8) ||| 1
      let need := (((s.gridOf t).map (·.lrec.caps)).getD 1) ||| sets
      let has := if t.loc.chip < 4 then 7 else 1
      ((sets &&& has) = sets → exec (.migrCaps w) s = .next (s.finish (atClose t) (migrForm w true) none)) ∧
      ((sets &&& has) ≠ sets → s.partHas (s.tenantOf t) need = true →
        let t1 : Team := { (atClose t).closeRegion s.tick with
          needHead := true, run := .migrating, arch := { t.arch with pc := t.arch.pc + 8, issued := t.arch.issued + 1 } }
        let s1 := ({ s with issue := none } : State).setTeam t1
        let both : List Nat := match s.block? t.block with
          | some b => if b.role = .single then [t.block] else [t.block, b.mate]
          | none => []
        let s2 := both.foldl (fun s b => s.updBlock b (fun x => { x with caps := x.caps ||| sets })) s1
        exec (.migrCaps w) s = .next (if s2.mateBehind t1 then s2 else s2.moveAway t.block)) ∧
      ((sets &&& has) ≠ sets → s.partHas (s.tenantOf t) need = false →
        Traps (.migrCaps w) s (atClose t) w.hd.sw { cause := .noCapable, einfo := BitVec.ofNat 32 need, once := true }) ∧
      exec (.migrReq w) s = .next ((s.updBlock t.block (fun b => { b with req := some (scalVal t.arch w.a % 256) })).finish (atClose t)
        (migrForm w true) none)) ∧
    (Running s t → Passes s t (migrForm w false) → Closes s t (migrForm w false) →
      exec (.migrPin w) s = .next ((s.updBlock t.block (fun b => { b with pin := true })).finish (atClose t) (migrForm w false) none) ∧
      exec (.migrUnpin w) s = .next ((s.updBlock t.block (fun b => { b with pin := false })).finish (atClose t) (migrForm w false) none)))

namespace Sys2Proof.Claims

/-- The 64 bytes that a cell-writing word supplies (R264, Table 11.2). -/
def cellData (w : FullM) (op : CellOp) (a : Arch) : List Byte :=
  if op = .gpsn ∨ op = .gpsnSet then poisonRecord (scalVal a w.d) 0 0 0
  else (List.range 16).flatMap (fun j =>
    let x : Word := match opd w.d with
      | .scal n => a.sget (n + j)
      | o => ((o.vecNum a).map (fun n => a.vget n j)).getD 0
    [x.extractLsb' 0 8, x.extractLsb' 8 8, x.extractLsb' 16 8, x.extractLsb' 24 8])

/-- A PAIR word's form. -/
def pairForm (w : PairWord) : Word1 :=
  { len := 8, hd := { sw := w.sw, pred := 0, pn := false },
    check := fun _ _ => (pairRule w.s0 w.s1).map (fun n => { cause := .pairRule, einfo := BitVec.ofNat 32 n }),
    bounds := fun _ t => firstTrap ((slotOpds w.s0 ++ slotOpds w.s1).map (fun o => boundCheck t 1 o.1)),
    demand := fun _ _ => { dests := ([w.s0, w.s1].filter (fun z => z.pop != 0 && slotVec z.d)).map (fun z => slotNum z.d) },
    effect := fun s t => .done s t none }

/-- A mark word's form. -/
def markForm (sw : Bool) : Word1 := { len := 8, hd := { sw := sw, pred := 0, pn := false }, effect := fun s t => .done s t none }

/-- What a head mark leaves, with its region open at it (R43, R337). -/
def marked (s : State) (t : Team) (w : HeadMark) (yield : Bool) : State :=
  let lim (x d : Nat) : Nat := if x = 0 then d else x
  s.finish { (t.closeRegion s.tick).openAt s.tick (lim w.ndest.toNat 64) (lim w.nshadow.toNat 8) with yielded := yield } (markForm w.sw) none

end Sys2Proof.Claims

/-- R264, R265: GDEF, GRES and GPSN check their address and, GDEF, its record, and hold one entry for the cell behind its probe. -/
def Obligations.CellWritingWords : Prop :=
  ∀ (s : State) (t : Team) (w : FullM) (i : Instr) (op : CellOp),
    (i, op) ∈ [(Instr.gdef w, CellOp.gdef), (.gres w, .gres), (.gresSet w, .gresSet), (.gpsn w, .gpsn), (.gpsnSet w, .gpsnSet)] →
    let form := formOf (cellWord w op)
    Goes s t form →
      let va := effAddr w t.arch 0
      let data := cellData w op t.arch
      let sw := w.hd.sw
      (va % 64 ≠ 0 → Traps i s t sw { cause := .align, eaddr := BitVec.ofNat 64 va, once := true }) ∧
      (va % 64 = 0 → va < 2 ^ 63 → Traps i s t sw { cause := .access, eaddr := BitVec.ofNat 64 va, einfo := 0x02000000, once := true }) ∧
      (va % 64 = 0 → 2 ^ 63 ≤ va →
        (∀ off, op = .gdef → geodeRecordBad data = some off →
          Traps i s t sw { cause := .geodeState, eaddr := BitVec.ofNat 64 va, einfo := BitVec.ofNat 32 off, once := true,
                           detail := some (gdetailOf t.depth 11) }) ∧
        (op ≠ .gdef ∨ geodeRecordBad data = none → s.gate t .glob [(0, va)] 64 EntryKind.stopsWrite = none →
          let s1 := (gated s t).1
          let t1 : Team := { (gated s t).2 with nextId := t.nextId + 1 }
          let t2 := t1.hold (.cell op va data) t.nextId (t.probeOf .glob) 1 s1.tick
          exec i s = .next (s1.finish
            ((if t.role = .trailing then t2 else t2.addAccess t.nextId true (.probe (some op)) [(0, va)]).note { entries := 1 }) form none)))

/-- R39–R44, Table 2.8: both slots of a PAIR read the state before it, write in their order and gather their flags, or trap ARITH_EXC with
nothing written; the integer operations are those of 32-bit words; a head mark opens a region with its declared limits; a padding
mark only advances the pc. -/
def Obligations.PairsAndMarks : Prop :=
  (∀ (s : State) (t : Team) (w : PairWord), Goes s t (pairForm w) →
    let r0 := slotResults s t w.s0
    let r1 := slotResults r0.1 t w.s1
    let fl := allFlags ((r0.2 ++ r1.2).map (fun r : LaneResult => r.2.2))
    let en := t.arch.enables
    (fl &&& en = 0 → exec (.pair w) s = .next (r1.1.finish
      (({ t with arch := ((t.arch.writeSlot w.s0 r0.2).writeSlot w.s1 r1.2).orFlags fl } : Team).note ((pairForm w).demand s t)) (pairForm w) none)) ∧
    (fl &&& en ≠ 0 →
      let lanes := ((if slotVec w.s0.d then r0.2 else []) ++ (if slotVec w.s1.d then r1.2 else [])).filter (fun r : LaneResult => r.2.2 &&& en != 0)
      Traps (.pair w) s t w.sw { cause := .arithExc, eaddr := t.arch.pc, once := lanes.isEmpty, einfo := fl.zeroExtend 32,
                                 emask := maskOfList (lanes.map (fun r : LaneResult => r.1)) })) ∧
  (∀ d x : BitVec 32,
    let op (pop : Nat) : Nat := (slotOp pop d.toNat x.toNat).1
    op 0x03 = (d + x).toNat ∧ op 0x05 = (d - x).toNat ∧ op 0x07 = (d * x).toNat ∧
    op 0x08 = (if d.toInt ≤ x.toInt then d else x).toNat ∧ op 0x09 = (if x.toInt ≤ d.toInt then d else x).toNat ∧
    op 0x0A = min d.toNat x.toNat ∧ op 0x0B = max d.toNat x.toNat ∧
    op 0x0C = (d &&& x).toNat ∧ op 0x0E = (d ||| x).toNat ∧ op 0x10 = (d ^^^ x).toNat ∧ op 0x12 = (d &&& ~~~x).toNat ∧ op 0x13 = (~~~x).toNat ∧
    op 0x14 = (d <<< x.toNat).toNat ∧ op 0x16 = (d >>> x.toNat).toNat ∧ op 0x18 = (d.sshiftRight x.toNat).toNat ∧
    op 0x1A = (d.rotateLeft x.toNat).toNat ∧ op 0x1C = (-x).toNat) ∧
  (∀ (s : State) (t : Team) (w : HeadMark), Running s t →
    (t.inFlight < 4 →
      exec (.regionHead w) s = .next (marked s t w false) ∧ exec (.regionHeadYield w) s = .next (marked s t w true)) ∧
    (4 ≤ t.inFlight →
      let waits := ({ s with issue := none } : State).setTeam { t.closeRegion s.tick with needHead := true, run := .wait .regionSlot, waitSlots := 0 }
      exec (.regionHead w) s = .next waits ∧ exec (.regionHeadYield w) s = .next waits)) ∧
  (∀ (s : State) (t : Team), Running s t →
    (Goes s t (markForm true) → exec (.padding true) s = .next (s.finish (t.note {}) (markForm true) none)) ∧
    exec (.padding false) s = .next (s.setTeam { t with arch := { t.arch with pc := t.arch.pc + 8 } }))

namespace Sys2Proof.Claims

/-- An engine word's form. -/
def engForm (w : FullE) (check : Option Trap) (entries : Nat) : Word1 :=
  { len := extLen w.ext, hd := w.hd, once := true, check := fun _ _ => check, demand := fun _ _ => { entries := entries },
    effect := fun s t => .done s t none }

def tmovForm (w : FullM) : Word1 :=
  { len := 8, hd := w.hd, once := true, sample := true, check := fun _ _ => firstTrap [scalReg w.d, scalCheck w.a, scalCheck w.b],
    demand := fun _ t => { entries := if scalVal t.arch w.b = 0 then 0 else 1 }, effect := fun s t => .done s t none }

/-- The operation that a request adds (R167, R168, R170), under the next name. -/
def newOp (s : State) (t : Team) (r : EngReq) : EngOp :=
  { id := s.nextUid, team := t.uid, owner := .team, block := t.block, core := t.loc.core, span := ((s.block? t.block).map (·.span)).getD 0,
    grid := t.grid, asid := s.asidOf t, die := t.loc.chip, tenant := s.tenantOf t, region := t.regionId, cls := r.cls, pc := t.arch.pc, word := t.arch.issued,
    told := false, younger := 0, kind := r.kind, src := r.src, dst := r.dst, state := .held, index := [], slot := none, nextRead := 0, staged := [], committed := [],
    bytes := 0, strikes := [], sha := List.replicate 25 0, barrier := r.barrier, digest := r.digest, digestOk := false, page := none, fail := none }

/-- A request is counted, and held in the open region; the counter at its limit, and an empty token bucket of a request to another device,
park the team instead (R168, R170, R176). -/
def Requests (i : Instr) (s : State) (t : Team) (form : Word1) (r : EngReq) : Prop :=
  let full := 255 ≤ (t.cnts.getD r.cls []).length
  let remote := (r.src.spaceNo = 0 ∧ s.isRemote r.src.base = true) ∨ (r.dst.spaceNo = 0 ∧ s.isRemote r.dst.base = true) ∨
    ∃ a, r.digest = some a ∧ s.isRemote a = true
  let dry := (s.die t.loc.chip).buckets.getD (s.tenantOf t) 0 ≤ 0
  let t1 := if t.role = .trailing then t else { t with cnts := t.cnts.modify r.cls (fun c => c ++ [s.nextUid]) }
  let count (x : EngOp) : EngOp := if t.role ≠ .trailing ∧ x.team = t.uid ∧ x.cls = r.cls then { x with younger := x.younger + 1 } else x
  let s1 : State := { s with nextUid := s.nextUid + 1, ops := s.ops.map count ++ [newOp s t r] }
  (t.role ≠ .trailing → full → exec i s = .next (s.wordWait t (.wait (.counter r.cls 254)))) ∧
  (t.role ≠ .trailing → ¬ full → remote → dry → exec i s = .next (s.wordWait t (.wait .bucket))) ∧
  (t.role = .trailing ∨ (¬ full ∧ ¬ (remote ∧ dry)) →
    exec i s = .next (s1.finish ((t1.hold (.engine s.nextUid) 0 .none 0 s.tick).note { entries := 1 }) form none))

/-- A word holds one entry in its region (R183, R186). -/
def Holds (i : Instr) (s : State) (t : Team) (form : Word1) (k : EntryKind) : Prop :=
  exec i s = .next (s.finish ((t.hold k 0 .none 0 s.tick).note { entries := 1 }) form none)

/-- A word that executes once traps with the first of its checks that fails, or else does something. -/
def Unless (i : Instr) (s : State) (t : Team) (sw : Bool) (traps : List (Option Trap)) (does : Prop) : Prop :=
  match firstTrap traps with
  | some tr => Traps i s t sw { tr with once := true }
  | none => does

/-- The space of an engine word's object, and its range. -/
def objSpace (w : FullE) : Space := spaceOf (w.sub.toNat % 4)

def inScratch (s : State) (t : Team) (sp : Space) (off align len : Nat) : Prop :=
  off % align = 0 ∧ off + len ≤ (s.scratchOf t sp).size

/-- A wait ends with an acquire and a value in D, which a leading copy passes on (R179, R365). -/
def WaitEnds (i : Instr) (s : State) (t : Team) (form : Word1) (d : BitVec 11) (scope : Nat) (x : Word) : Prop :=
  ∀ n, opd d = .scal n →
    let e : LvqEntry := { lvqValues t.arch.issued t.arch.pc t.regionId [] [(n, 0, x)] with kind := 2 }
    let t1 := (gated s t).2.lvqPush e
    (t.lvqRoom e = true →
      exec i s = .next (((gated s t).1.acquireAt t1 scope).finish (({ t1 with arch := t1.arch.sset n x } : Team).note {}) form none)) ∧
    (t.lvqRoom e = false → exec i s = .next ((gated s t).1.wordWait t (.wait .lvqRoom)))

/-- A wait whose condition needs a failed operation of the team's takes its trap (R177; which one is the model's choice, log 118). -/
def WaitFails (i : Instr) (s s1 : State) (t1 : Team) (needs : EngOp → Bool) : Prop :=
  ∀ o, s1.failedFor t1 needs = some o → exec i s = .next ((s1.tellOp o.id).takeTrap
    { t1 with recalls := t1.recalls ++ [{ region := t1.nextRegion, op := some o.id }] } (o.trap t1.depth))

/-- A trailing copy at a wait takes what its leading copy found, or waits for it (R365). -/
def TrailWait (i : Instr) (s : State) (t : Team) (form : Word1) (f : LvqEntry → Team → Team) : Prop :=
  (∀ e, s.lvqFind t (atWord 2 t.arch) = some e →
    exec i s = .next ((s.lvqDrop t (atWord 2 t.arch)).finish ((f e t).note {}) form none)) ∧
  (s.lvqFind t (atWord 2 t.arch) = none → Waits i s t .lvqEntry)

/-- The value that an entry holds. -/
def firstValue (d : BitVec 11) (e : LvqEntry) (t : Team) : Team :=
  { t with arch := t.arch.sset (scalOf d) ((e.vals.head?.map (fun x => x.2.2)).getD 0) }

end Sys2Proof.Claims

/-- R165, R167, R168, R170, R173, R180, R181, R186, TMOV, COPY, GATHER and PLFILL: past their checks they count an operation with the shapes
of their records and hold its request; a move of no byte and a gather of no entry only issue. -/
def Obligations.EngineRequests : Prop :=
  (∀ (s : State) (t : Team) (w : FullE),
    let x := shapeOf t.arch w.src.toNat
    let y := shapeOf t.arch w.dst.toNat
    let bar := barrierOf w.ext
    let traps := s.barrierTraps t bar
    let sw := w.hd.sw
    let ux (copy dig : Bool) : ShapeUse := { dest := false, copy := copy, digest := dig, size := s.sizeOf t x.spaceNo }
    let uy (copy dig : Bool) : ShapeUse := { dest := true, copy := copy, digest := dig, size := s.sizeOf t y.spaceNo }
    (digestReg w.ext = none → Goes s t (engForm w none 1) →
      Unless (.copy w) s t sw [traps.1, leadTrap t (shapeChecks x y (ux true false) (uy true false) (x.total != y.total)), traps.2]
        (Requests (.copy w) s t (engForm w none 1) { cls := w.cnt.toNat, kind := .copy, src := x, dst := y, barrier := bar, digest := none })) ∧
    (∀ f n, digestReg w.ext = some f → opd f = .scal n → Goes s t (engForm w (scalPair f) 1) →
      let a := t.arch.spair n
      Unless (.copy w) s t sw [traps.1, leadTrap t (shapeChecks x y (ux true true) (uy true true) (x.total != y.total)),
          trapIf (a % 64 != 0) { cause := .align, eaddr := BitVec.ofNat 64 a, once := true }, traps.2]
        (Requests (.copy w) s t (engForm w (scalPair f) 1)
          { cls := w.cnt.toNat, kind := .copy, src := x, dst := y, barrier := bar, digest := some a })) ∧
    (let form : Word1 := { engForm w (firstTrap [scalCheck w.a, scalCheck w.b]) 0 with
                           demand := fun _ t => { entries := if scalVal t.arch w.b = 0 then 0 else 1 } }
     let off := scalVal t.arch w.a
     let n := scalVal t.arch w.b
     Goes s t form →
      (n = 0 → Advances (.gather w) s t t form) ∧
      (n ≠ 0 → Unless (.gather w) s t sw [objTrap (s.scratchOf t (objSpace w)).size off 4 (4 * n), traps.1,
          leadTrap t (shapeChecks x y (ux false false) (uy false false) (x.planes != 1 || n * x.rowb != y.total)), traps.2]
        (Requests (.gather w) s t form
          { cls := w.cnt.toNat, kind := .gather (objSpace w) off n, src := x, dst := y, barrier := bar, digest := none }))) ∧
    (let form := engForm w (scalCheck w.a) 1
     let off := scalVal t.arch w.a
     let sp := objSpace w
     let g := gourOf (s.seenObject t sp off 64)
     let ring : Shape := { base := g.base, rowb := g.nslot * g.bytes, rows := 1, rstr := g.nslot * g.bytes, planes := 1, pstr := 0,
                           flags := BitVec.ofNat 32 (w.sub.toNat % 4) }
     let dst : Shape := { base := 0, rowb := x.total, rows := 1, rstr := x.total, planes := 1, pstr := 0, flags := BitVec.ofNat 32 (w.sub.toNat % 4) }
     let size := (s.scratchOf t sp).size
     Goes s t form →
      Unless (.plfill w) s t sw [objTrap size off 64 64, leadTrap t (trapIf g.bad { cause := .gourMisuse, einfo := 1, once := true }),
          leadTrap t (shapeChecks x ring (ux false false) { dest := true, copy := false, digest := false, size := size } (g.bytes < x.total))]
        (Requests (.plfill w) s t form
          { cls := w.cnt.toNat, kind := .fill (objRef t sp off), src := x, dst := dst, barrier := none, digest := none }))) ∧
  (∀ (s : State) (t : Team) (w : FullM), Goes s t (tmovForm w) →
    let d := scalVal t.arch w.d
    let a := scalVal t.arch w.a
    let len := scalVal t.arch w.b
    let flat (sp off : Nat) : Shape :=
      { base := off, rowb := len, rows := 1, rstr := len, planes := 1, pstr := 0, flags := BitVec.ofNat 32 (sp + 16) }
    let align (off : Nat) : Option Trap := trapIf (off % 4 != 0 || len % 4 != 0) { cause := .align, eaddr := BitVec.ofNat 64 off, once := true }
    let range (sp off : Nat) : Option Trap :=
      trapIf (s.sizeOf t sp < off + len) { cause := .scratchRange, eaddr := BitVec.ofNat 64 off, once := true }
    Unless (.tmov w) s t w.hd.sw [align d, align a, range w.space.toNat d, range w.sub.toNat a]
      ((len = 0 → Advances (.tmov w) s t t (tmovForm w)) ∧
       (len ≠ 0 → Requests (.tmov w) s t (tmovForm w)
          { cls := 0, kind := .tmov len, src := flat w.sub.toNat a, dst := flat w.space.toNat d, barrier := none, digest := none })))

/-- R177, R179, R182, R183, R186, WAITC, BWAIT and PLWAIT: the wait ends with an acquire when its condition holds, and parks the team when it
does not; a failed operation whose decrement, arrival or fill the condition needs traps instead. BWAIT and PLWAIT read their object as an access
does, behind an SC fence (R199). A trailing copy takes what its leading copy found (R365). -/
def Obligations.EngineWaits : Prop :=
  ∀ (s : State) (t : Team) (w : FullE),
    let sp := objSpace w
    let off := scalVal t.arch w.a
    let s1 := (gated s t).1
    let t1 := (gated s t).2
    let lead : Prop := t.role ≠ .trailing
    (let form := engForm w (scalCheck w.a) 0
     let thr := scalVal t.arch w.a
     let needs (o : EngOp) : Bool := o.cls == w.cnt.toNat && thr ≤ o.younger
     Goes s t form →
      (lead → (t.cnts.getD w.cnt.toNat []).length ≤ thr →
        (s.failedFor t needs = none →
          exec (.waitc w) s = .next ((s.acquireAt t 2).finish ((t.lvqPush (lvqHeader 2 t.arch.issued t.arch.pc t.regionId)).note {}) form none)) ∧
        WaitFails (.waitc w) s s t needs) ∧
      (lead → thr < (t.cnts.getD w.cnt.toNat []).length → Waits (.waitc w) s t (.counter w.cnt.toNat thr)) ∧
      (¬ lead → TrailWait (.waitc w) s t form (fun _ t => t))) ∧
    (let form := engForm w (firstTrap [scalReg w.d, scalCheck w.a, scalCheck w.b]) 0
     let bs := s1.seenObject t1 sp off 16
     let ph := scalVal t.arch w.b
     let needs (o : EngOp) : Bool := o.barrier == some (sp, off)
     Goes s t form → inScratch s t sp off 16 16 →
      (lead → s.gate t sp [(0, off)] 16 EntryKind.stopsWrite = none → fieldAt bs 0 1 = 0x5B → (fieldAt bs 1 1).testBit 0 = false →
        (fieldAt bs 12 4 ≠ ph → WaitEnds (.bwait w) s t form w.d (max 2 (scopeIn sp 5)) (BitVec.ofNat 32 (fieldAt bs 12 4))) ∧
        (fieldAt bs 12 4 = ph → WaitFails (.bwait w) s s1 t1 needs ∧
          (s1.failedFor t1 needs = none → exec (.bwait w) s = .next (s1.wordWait t (.wait (.phase sp off (BitVec.ofNat 32 ph))))))) ∧
      (∀ c, lead → s.gate t sp [(0, off)] 16 EntryKind.stopsWrite = some c → Waits (.bwait w) s t c) ∧
      (¬ lead → TrailWait (.bwait w) s t form (firstValue w.d))) ∧
    (let form := engForm w (firstTrap [scalReg w.d, scalCheck w.a, scalCheck w.b]) 0
     let g := gourOf (s1.seenObject t1 sp off 64)
     let q := scalVal t.arch w.b
     let needs (o : EngOp) : Bool := o.fillsFor (objRef t1 sp off) g q
     Goes s t form → inScratch s t sp off 64 64 →
      (lead → s.gate t sp [(0, off)] 64 EntryKind.stopsWrite = none → g.bad = false → (q + 2 ^ 32 - g.ridx) % 2 ^ 32 < 2 ^ 31 →
        ((q + 2 ^ 32 - g.ridx) % 2 ^ 32 < (g.cidx + 2 ^ 32 - g.ridx) % 2 ^ 32 →
          WaitEnds (.plwait w) s t form w.d (scopeIn sp 5) (BitVec.ofNat 32 (g.base + q % max 1 g.nslot * g.bytes))) ∧
        ((g.cidx + 2 ^ 32 - g.ridx) % 2 ^ 32 ≤ (q + 2 ^ 32 - g.ridx) % 2 ^ 32 → WaitFails (.plwait w) s s1 t1 needs ∧
          (s1.failedFor t1 needs = none → exec (.plwait w) s = .next (s1.wordWait t (.wait (.gourSlot sp off q)))))) ∧
      (∀ c, lead → s.gate t sp [(0, off)] 64 EntryKind.stopsWrite = some c → Waits (.plwait w) s t c) ∧
      (¬ lead → TrailWait (.plwait w) s t form (firstValue w.d)))

/-- R178, R183, R186, ARRIVE, BINIT, PLINIT and PLREL: past their checks they hold one entry that acts on the object when it is performed. -/
def Obligations.BarrierAndGourActions : Prop :=
  ∀ (s : State) (t : Team) (w : FullE), t.role ≠ .trailing →
    let sp := objSpace w
    let off := scalVal t.arch w.a
    let b := scalVal t.arch w.b
    let form := engForm w (firstTrap [scalCheck w.a, scalCheck w.b]) 1
    let size := (s.scratchOf t sp).size
    let sync (n : Word) : Trap := { cause := .syncMismatch, einfo := n, once := true }
    let gour (n : Word) : Trap := { cause := .gourMisuse, einfo := n, once := true }
    let g := gourOf (s.seenObject t sp off 64)
    let from_ (i : Nat) : Nat := (i + 2 ^ 32 - g.ridx) % 2 ^ 32
    (Goes s t form →
      Unless (.arrive w) s t w.hd.sw [objTrap size off 16 16, trapIf (fieldAt (s.seenObject t sp off 16) 0 1 != 0x5B) (sync 0x10)]
        (Holds (.arrive w) s t form (.arrive sp off b)) ∧
      Unless (.binit w) s t w.hd.sw [objTrap size off 16 16, trapIf (b == 0) (sync 0x12)] (Holds (.binit w) s t form (.binit sp off b)) ∧
      Unless (.plrel w) s t w.hd.sw [objTrap size off 64 64, trapIf g.bad (gour 1), trapIf (2 ^ 31 ≤ from_ b) (gour 3),
          trapIf (from_ g.cidx ≤ from_ b) (gour 4)] (Holds (.plrel w) s t form (.plrel sp off b))) ∧
    (let e := Machine.extOf w.ext
     let form := engForm w (firstTrap [scalCheck w.a, scalCheck w.b, scalCheck e.c]) 1
     let bytes := scalVal t.arch e.c
     let nslot := e.imm.toNat % 65536
     let nrel := e.imm.toNat / 65536 % 256
     let fits : Prop := nslot ≠ 0 ∧ nslot ≤ 256 ∧ nrel ≠ 0 ∧ nrel ≤ 16 ∧ bytes ≠ 0 ∧ bytes % 16 = 0 ∧ b % 16 = 0 ∧ b + nslot * bytes ≤ size ∧
       (off + 64 ≤ b ∨ b + nslot * bytes ≤ off)
     Goes s t form → inScratch s t sp off 64 64 →
       (fits → Holds (.plinit w) s t form (.plinit sp off b bytes nslot nrel)) ∧ (¬ fits → Traps (.plinit w) s t w.hd.sw (gour 2)))

namespace Sys2Proof.Claims

/-- Every live lane that has not exited is live: the team may meet at a barrier (R241). -/
def together (t : Team) : Prop := t.arch.live = (fullMask t.tw &&& ~~~t.arch.exited)

/-- A team arrives at an instance: it opens it or joins it, and parks; the instance then completes if every member has arrived. The arrival is
a release (Table 8.3): the core's outbound buffer drains first, and while an entry of it must wait the team waits too. Under another mask, or
where the team is no member, the instance closes and every team at it traps, the arriving one too. -/
def Arrives (i : Instr) (s : State) (t : Team) (at_ : BarAt) (kind id len : Nat) (sw : Bool) (mask : BitVec 16) : Prop :=
  let b := s.bar? at_
  let now := if b.isOpen then (if t.uid ∈ b.arrived then b.arrived else b.arrived ++ [t.uid]) else [t.uid]
  let fails (code : Nat) : Prop :=
    let tr : Trap := { cause := .syncMismatch, einfo := BitVec.ofNat 32 code, once := true }
    let s1 := b.arrived.foldl (fun s u => if u = t.uid then s else s.failBarrier u code) (s.setBar BarInst.closed at_)
    exec i s = .next ((s1.takeTrap (atClose t) tr).afterStep t.uid t.arch.pc)
  (b.isOpen = false ∨ (b.mask = mask ∧ t.uid ∈ s.barMembers b at_) →
    (∀ s0, s.releaseAt t at_.scope = some s0 →
      let s1 := ({ s0 with issue := none } : State).setTeam { atClose t with run := .barrier kind id len sw, waitSlots := 0 }
      let s2 := s1.setBar { isOpen := true, mask := mask, arrived := now } at_
      exec i s = .next ((s2.barComplete at_).afterStep t.uid t.arch.pc)) ∧
    (s.releaseAt t at_.scope = none → exec i s =
      .next ((({ s.drainAll t.loc.pkgCore with issue := none } : State).setTeam { atClose t with run := .wait .clearance }).afterStep t.uid t.arch.pc)) ∧
    ((s.core t.loc.pkgCore).outbound = [] → s.releaseAt t at_.scope = some s)) ∧
  (b.isOpen = true → b.mask ≠ mask → fails 0x22) ∧
  (b.isOpen = true → b.mask = mask → t.uid ∉ s.barMembers b at_ → fails 0x23)

end Sys2Proof.Claims

/-- R220, R240, R241, BARB, BARD and BARG of a team that is no trailing copy: past the checks the team arrives at its instance; a divergent
team, a bad operand, a mask without it, a grid without the gang mode and a team of another kind trap; an instance that is closed, or
misses a member, does not complete. -/
def Obligations.Barriers : Prop :=
  (∀ (s : State) (t : Team) (w : FullT), Running s t → t.role ≠ .trailing →
    let sync (n : Word) : Trap := { cause := .syncMismatch, einfo := n, once := true }
    let len := extLen w.ext
    let sw := w.hd.sw
    let id := scalVal t.arch w.a
    let m := (srcB w.b w.ext).read t.arch 1 0
    let n := if t.kind = .ordinary then ((s.gridOf t).map (·.lrec.teams)).getD 1 else 1
    let names := if m = 0 then 2 ^ n - 1 else m
    let mode := ((s.gridOf t).map (·.lrec.mode)).getD 0
    let barb := closingForm w (firstTrap [scalCheck w.a, if w.ext.isSome then none else scalCheck w.b])
    let ok : Prop := id ≤ 3 ∧ m < 65536 ∧ m ≤ 2 ^ n - 1 ∧ names.testBit t.idx = true
    (Passes s t barb → Closes s t barb →
      (together t → ok → Arrives (.barb w) s t (.block t.block id) 0 id len sw (BitVec.ofNat 16 names)) ∧
      (together t → ¬ ok → Traps (.barb w) s (atClose t) sw (sync 0x21)) ∧
      (¬ together t → Traps (.barb w) s (atClose t) sw (divergent 4 0 true))) ∧
    (Passes s t (closingForm w (scalCheck w.a)) → Closes s t (closingForm w (scalCheck w.a)) → together t →
      (mode.getLsbD 3 = false → Traps (.bard w) s (atClose t) sw (sync 0x20)) ∧
      (mode.getLsbD 3 = true → t.kind ≠ .ordinary → Traps (.bard w) s (atClose t) sw (sync 0x24)) ∧
      (mode.getLsbD 3 = true → t.kind = .ordinary →
        (1 < id → Traps (.bard w) s (atClose t) sw (sync 0x21)) ∧
        (id ≤ 1 → Arrives (.bard w) s t (.span (((s.block? t.block).map (·.span)).getD 0) id) 1 id len sw 0))) ∧
    (Passes s t (closingForm w none) → Closes s t (closingForm w none) → together t →
      (mode.getLsbD 4 = false → Traps (.barg w) s (atClose t) sw (sync 0x20)) ∧
      (mode.getLsbD 4 = true → t.kind ≠ .ordinary → Traps (.barg w) s (atClose t) sw (sync 0x24)) ∧
      (mode.getLsbD 4 = true → t.kind = .ordinary → Arrives (.barg w) s t (.grid t.grid) 2 0 len sw 0))) ∧
  (∀ (s : State) (at_ : BarAt), (s.bar? at_).isOpen = false ∨ (∃ u ∈ s.barMembers (s.bar? at_) at_, u ∉ (s.bar? at_).arrived) → s.barComplete at_ = s)

/-- R188, R239, EXIT: the live lanes exit and leave every join entry; while lanes remain the team goes to the JOIN of its innermost entry
with none live; with none remaining, no operation of its own out and none left to it, the team leaves the part. -/
def Obligations.Exit : Prop :=
  ∀ (s : State) (t : Team) (w : FullT), Running s t → Passes s t (closingForm w none) → Closes s t (closingForm w none) →
    let out := t.arch.live
    let exited := t.arch.exited ||| out
    let less (m : Mask) : Mask := m &&& ~~~out
    let cut (e : StackEntry) : StackEntry := match e with
      | .join j => .join { j with reconv := less j.reconv, pend := less j.pend, early := less j.early }
      | .call r => .call r
    let stack := (t.arch.stack.map cut).dropWhile (fun e => match e with | .call _ => true | .join _ => false)
    let t1 := atClose t
    (∀ j rest, stack = .join j :: rest → exited &&& fullMask t.tw ≠ fullMask t.tw →
      exec (.exit w) s = .next (s.finish { t1 with arch := { t.arch with exited := exited, live := 0, stack := stack } } (closingForm w none) (some j.jpc))) ∧
    (stack = [] ∨ exited &&& fullMask t.tw = fullMask t.tw →
      let s2 := (s.passOps t1).1
      let t2 := (s.passOps t1).2
      ((∀ c ∈ t2.cnts, c = []) → t2.lvq = [] → s2.failedOp t2 = none → s2.lastOps t2 = [] →
        exec (.exit w) s = .next ((s2.exitTeam t2).afterStep t.uid t.arch.pc)) ∧
      ((∃ c ∈ t2.cnts, c ≠ []) →
        exec (.exit w) s = .next ((({ s2 with issue := none } : State).setTeam { t2 with run := .wait .drain, waitSlots := 0 }).afterStep t.uid t.arch.pc)))

namespace Sys2Proof.Claims

/-- An event takes place: it leaves s1, in which the units then do what follows of itself. -/
def Happens (e : Instr) (s s1 : State) : Prop := exec e s = .next s1.settle

/-- An event whose condition does not hold: the machine stays as it is. -/
def Idle (e : Instr) (s : State) : Prop := exec e s = .next s

/-- Values of a result written into the newest state of a team and into its younger checkpoints (R28, R340). -/
def delivered (t : Team) (region : Nat) (d : Dest) (vs : List (Nat × Nat × Word)) : Team :=
  let f (a : Arch) : Arch := vs.foldl (fun a v => a.deliverReg d v.1 v.2.1 v.2.2) a
  { t with arch := f t.arch, regions := t.regions.map (fun r => if region < r.id then { r with ckpt := f r.ckpt } else r) }

/-- Teams of a partition that are no continuation. -/
def isHere (core part : Nat) (t : Team) : Bool := t.kind != .lantern && t.loc.pkgCore == core && t.loc.part == part

end Sys2Proof.Claims

/-- R27, R152, R221, R222, R257, ISSUE_SLOT, WAIT_CONDITION_MET, CONTINUATION_RUN and the events that wake a team: a free slot goes to the
partition's choice; a met condition makes its team ready; lanes that may be performed again are marked so. -/
def Obligations.IssueAndWakeEvents : Prop :=
  (∀ (s : State) (core part : Nat) (p : Team), s.issue = none →
    let s1 := s.settle.passMarkers (isHere core part)
    let cand := s1.candidates core part
    pickTeam cand = some p →
      exec (.issueSlot core part) s = .next { s1 with
        issue := some p.uid, teams := s1.teams.map (fun t => if isHere core part t then t.afterSlot p.uid (cand.map (·.uid)) else t) }) ∧
  (∀ (cand : List Team) (p : Team), pickTeam cand = some p →
    p ∈ cand ∧ ((∃ t ∈ cand, 256 ≤ t.waitSlots) → 256 ≤ p.waitSlots) ∧
    ((∀ t ∈ cand, t.waitSlots < 256) → ∀ t ∈ cand, t.prio ≤ p.prio)) ∧
  (∀ (s : State) (u : Nat) (t : Team), s.team? u = some t → t.exiting = false →
    (∃ c, t.run = .wait c ∧ s.condHolds t c = true) ∨ (t.run = .join ∧ t.joinMet = true) →
    Happens (.waitConditionMet u) s (s.setTeam { t with run := .ready })) ∧
  (∀ (s s1 : State) (core u : Nat), s.issue = none →
    let mine (t : Team) : Bool := t.kind == .lantern && t.loc.pkgCore == core
    (s.settle.passMarkers mine).nextCont core = some (s1, u) → (s1.team? u).isSome = true →
      exec (.continuationRun core) s = .next { s1 with
        issue := some u, teams := s1.teams.map (fun t => if mine t then { t with yielded := t.uid == u } else t) }) ∧
  (∀ (s : State) (u : Nat) (t : Team), s.team? u = some t →
    Happens (.laneReplay u) s (((s.countReplays t).setTeam (s.replayed t)).resume u) ∧
    Happens (.openBufferRetry u) s ((s.setTeam { t with accs := t.accs.filterMap (fun a => a.redo (s.roomNow (s.asidOf t) a)) }).resume u)) ∧
  (∀ (s : State) (u cell : Nat) (t : Team) (m : Bool), (u, cell) ∈ s.wakes → s.team? u = some t → t.run = .memory m →
    let s1 : State := { s with wakes := s.wakes.erase (u, cell) }
    Happens (.geodeWake u cell) s ((s1.setTeam (s1.woken t cell)).resume u))

/-- R28, R144, R152, R153, R160, R365–R369: answers come back. Results of long latency are written into the newest state and the younger
checkpoints, and an operation on an array is over; a probe's answer reaches the lanes that it serves and stays with its entry; the lanes of a
load that may be performed at one instant are performed, with `.rp` once every core of the partition has drained; a pending atomic whose zones
have cleared, whose work elsewhere is answered and whose signature agrees returns its old values, and a leading copy passes them on; a
core's outbound buffer drains; a trailing copy takes its values, or finds another address; equal signatures of closed regions are marked and
unequal ones restart both copies. Where a condition does not hold the machine stays as it is. -/
def Obligations.AnswersComeBack : Prop :=
  (∀ (s : State) (t : Team) (p : Pending) (lanes : Mask), s.team? t.uid = some t → t.pend.find? (fun x => x.id == p.id) = some p →
    let left := p.lanes &&& ~~~lanes
    let t1 : Team := t.updRegion p.region (fun r => { r with checks := r.checks.map (fun c => if c.id = p.id then { c with doneT := some s.tick } else c) })
    let rest := t.pend.filter (fun x => x.id != p.id)
    let come := p.vals.filter (fun v => Mask.has lanes v.2.1)
    ((∃ x ∈ s.atoms, x.team = t.uid ∧ x.seq = p.id) → Idle (.longLatencyResult t.uid p.id lanes) s) ∧
    ((∀ x ∈ s.atoms, ¬ (x.team = t.uid ∧ x.seq = p.id)) →
      (p.dest = .none → Happens (.longLatencyResult t.uid p.id lanes) s ((s.setTeam { t1 with pend := rest }).resume t.uid)) ∧
      (p.dest ≠ .none → left = 0 → Happens (.longLatencyResult t.uid p.id lanes) s
        ((s.setTeam { delivered t1 p.region p.dest come with pend := rest }).resume t.uid)) ∧
      (p.dest ≠ .none → left ≠ 0 → Happens (.longLatencyResult t.uid p.id lanes) s
        ((s.setTeam { delivered t p.region p.dest come with
          pend := t.pend.map (fun x => if x.id = p.id then { x with lanes := left, vals := x.vals.filter (fun v => !Mask.has lanes v.2.1) } else x)
        }).resume t.uid)))) ∧
  (∀ (s : State) (t : Team) (e : Entry), s.team? t.uid = some t →
    (t.regions.flatMap (·.held)).find? (fun x => x.seq == e.seq && t.probing x) = some e →
    let r := s.probeEntry t e
    let found := r.1.probeFound t e
    let lane (a : Access) (l : LaneAcc) : LaneAcc := if e.served.contains (a.id, l.lane) && l.st == .waiting then { l with st := r.2 } else l
    let t1 : Team := { t with
      accs := t.accs.map (fun a => { a with lanes := a.lanes.map (lane a) })
      regions := t.regions.map (fun g => { g with held := g.held.map (fun x =>
        if x.seq = e.seq ∧ r.2 = .done ∧ x.probe.good = false then { x with probe := found } else x) }) }
    (r.2 = .done → Happens (.probeResponse t.uid e.seq) s (((r.1.dropGood (r.1.asidOf t) e.kind.globalLines).setTeam t1).resume t.uid)) ∧
    (r.2 ≠ .done → Happens (.probeResponse t.uid e.seq) s ((r.1.setTeam t1).resume t.uid))) ∧
  (∀ (s : State) (t : Team) (n : Nat), s.team? t.uid = some t → (∀ x ∈ t.regions.flatMap (·.held), x.seq = n → t.probing x = false) →
    Idle (.probeResponse t.uid n) s) ∧
  (∀ (s : State) (t : Team) (a : Access) (lanes : Mask) (cached : Bool), s.team? t.uid = some t → t.accs.find? (fun x => x.id == a.id) = some a →
    let ls := a.instant t lanes
    let free : Prop := t.role ≠ .trailing ∧ a.kind.returns = true ∧ ls ≠ [] ∧ (∀ b ∈ t.accs, b.id < a.id → b.holds = false) ∧
      (∀ x ∈ s.atoms, ¬ (x.team = t.uid ∧ x.seq < a.id ∧ x.acq = true)) ∧ t.roomFor a ls.length = true
    let s1 := s.drainPart (s.tenantOf t)
    (free → a.kind.rp = false → Happens (.memoryResponse t.uid a.id lanes cached) s ((s.respond t a ls cached).resume t.uid)) ∧
    (free → a.kind.rp = true →
      (s1.partDrained (s1.tenantOf t) = true → Happens (.memoryResponse t.uid a.id lanes cached) s ((s1.respond t a ls cached).resume t.uid)) ∧
      (s1.partDrained (s1.tenantOf t) = false → exec (.memoryResponse t.uid a.id lanes cached) s = .next s1)) ∧
    (¬ free → Idle (.memoryResponse t.uid a.id lanes cached) s)) ∧
  (∀ (s : State) (x : PendAtom), s.atoms.find? (fun y => y.id == x.id) = some x →
    (s.team? x.team = none → exec (.atomPendingEnd x.id) s = .next { s with atoms := s.atoms.filter (fun y => y.id != x.id) }) ∧
    (∀ t, s.team? x.team = some t →
      let clear : Prop := x.sigOk = true ∧ ∀ z ∈ x.own :: x.target, x.t + 64 ≤ s.recv t.loc.chip z
      (¬ clear → Idle (.atomPendingEnd x.id) s) ∧
      (s.atomWork t x = none → Idle (.atomPendingEnd x.id) s) ∧
      (∀ s1 more, clear → s.atomWork t x = some (s1, more) →
        let u := (s1.team? x.team).getD t
        let olds := x.olds ++ more
        let u1 : Team := { delivered u x.region x.dest (x.returns olds) with
          pend := u.pend.filter (fun p => p.id != x.seq), lvq := if u.role = .leading then u.lvq ++ [x.entry olds] else u.lvq }
        let s2 : State := { s1 with atoms := s1.atoms.filter (fun y => y.id != x.id) }
        (u.role ≠ .leading ∨ lvqUsed u.lvq + (x.entry olds).bytes ≤ 16384 →
          Happens (.atomPendingEnd x.id) s (((if x.acq then s2.acquireAt u1 x.scope else s2).setTeam u1).resume x.team)) ∧
        (u.role = .leading → 16384 < lvqUsed u.lvq + (x.entry olds).bytes → Idle (.atomPendingEnd x.id) s)))) ∧
  (∀ (s : State) (core n : Nat), Happens (.outboundDrain core n) s (s.drainOut core n)) ∧
  (∀ (s : State) (t m : Team), s.team? t.uid = some t → t.role = .trailing → s.team? t.mate = some m →
    (nextTake t.accs m.lvq = none → Happens (.loadValueQueueTake t.uid) s (s.resume t.uid)) ∧
    (∀ a e, nextTake t.accs m.lvq = some (a, e) →
      let s1 := s.lvqDrop t (fun x => x == e)
      ((∀ x ∈ e.addrs, ∃ l ∈ a.lanes, l.lane = x.1 ∧ l.addr = x.2) →
        let t1 := (delivered t a.region a.kind.dest e.vals).deliverWith a.region (fun y => y.noteWords a.word e.note)
        Happens (.loadValueQueueTake t.uid) s ((s1.setTeam (e.addrs.foldl (fun (t : Team) x => t.setLane a.id x.1 .done) t1)).resume t.uid)) ∧
      ((∃ x ∈ e.addrs, ∀ l ∈ a.lanes, ¬ (l.lane = x.1 ∧ l.addr = x.2)) →
        Happens (.loadValueQueueTake t.uid) s (s1.mismatch m.uid t.uid a.region (s1.sigDiff m t a.region))))) ∧
  (∀ (s : State) (t : Team), s.team? t.uid = some t → t.role ≠ .trailing → Idle (.loadValueQueueTake t.uid) s) ∧
  (∀ (s : State) (t m : Team) (r x : Region), s.team? t.uid = some t → t.role = .leading → s.nextCompare t = some (m, r, x) →
    (s.signature r = s.signature x → r.head = x.head →
      let mark (u : Team) : Team := u.updRegion r.id (fun (y : Region) => { y with sig := some (s.signature r) })
      Happens (.signatureCompare t.uid) s { (s.updTeam t.uid mark).updTeam m.uid mark with
        atoms := s.atoms.map (fun (y : PendAtom) => if y.team = t.uid ∧ y.region = r.id then { y with sigOk := true } else y) }) ∧
    (s.signature r ≠ s.signature x ∨ r.head ≠ x.head →
      Happens (.signatureCompare t.uid) s (s.mismatch t.uid m.uid r.id ((s.signature r ^^^ s.signature x).setWidth 32)))) ∧
  (∀ (s : State) (t : Team), s.team? t.uid = some t → t.role ≠ .leading ∨ s.nextCompare t = none → Idle (.signatureCompare t.uid) s)

/-- R165, R170, R174, R177, R180, R186, the engine's own steps: a released request starts when it is the oldest that its partition's turn and a
free engine allow; a running operation probes and reads its next chunk, and commits one that has cleared; when none of that number is staged
it only looks whether it is complete; a gour gives its oldest fill the next sequence while the ring has room, counts the release whose
sequence is RIDX, and takes a PLINIT once every accepted fill has committed. What may not happen yet leaves the machine as it is. -/
def Obligations.EngineEvents : Prop :=
  (∀ (s : State) (o : EngOp), s.op? o.id = some o →
    (s.mayStart o = true → Happens (.engineRequestStart o.id) s (s.startOp o)) ∧
    (s.mayStart o = false → Idle (.engineRequestStart o.id) s) ∧
    (s.mayStart o = true → o.state = .queued ∧ s.opStopped o = false ∧ s.engNext o.die = some o.tenant ∧
      (s.ops.filter (fun x => x.die == o.die && x.state == EngState.running && !s.opStopped x)).length < 4 ∧
      (s.ops.find? (fun x => x.die == o.die && x.tenant == o.tenant && s.startable x)).map (·.id) = some o.id) ∧
    (o.state = .running → s.opStopped o = false →
      (∀ n, o.nextChunk = some n → Happens (.chunkRead o.id) s (s.fetchChunk o n)) ∧
      (o.nextChunk = none → Idle (.chunkRead o.id) s) ∧
      (∀ c, o.staged.find? (fun x => x.num == c.num) = some c →
        (s.mayCommit o c = true → Happens (.chunkCommit o.id c.num) s ((s.commitChunk o c).afterChunk o.id)) ∧
        (s.mayCommit o c = false → Idle (.chunkCommit o.id c.num) s)) ∧
      (∀ n, (∀ c ∈ o.staged, c.num ≠ n) → Happens (.chunkCommit o.id n) s (s.afterChunk o.id))) ∧
    (o.state ≠ .running ∨ s.opStopped o = true → ∀ n, Idle (.chunkRead o.id) s ∧ Idle (.chunkCommit o.id n) s) ∧
    (∀ c, s.mayCommit o c = true → s.tagsClear o.die c.tags = true ∧ (o.digest.isSome = true → c.num = o.committed.length) ∧
      ∀ k ∈ o.chunkAt c.num, s.pendingAt (spaceOf o.dst.spaceNo) (o.placeKey (spaceOf o.dst.spaceNo)).1 (o.placeKey (spaceOf o.dst.spaceNo)).2
        (o.dst.at true k) 1 = false)) ∧
  (∀ (s : State) (obj : ObjRef),
    let g := gourOf (s.gourAt obj)
    let away (i : Nat) : Nat := (i + 2 ^ 32 - g.ridx) % 2 ^ 32
    let still : Prop := s.gourLive obj = false ∨ s.gourPending obj = true
    (∀ op, s.nextFill obj = some op →
      (¬ still → away g.widx < g.nslot → Happens (.gourFillAccept obj) s
        (((s.updBlock obj.block (fun b => b.dropGour obj (.fill op))).putGour obj 12 (natBytes 4 (g.widx + 1))).updOp op
          (fun o => { o with slot := some g.widx, dst := { o.dst with base := g.base + g.widx % max 1 g.nslot * g.bytes } }))) ∧
      (still ∨ g.nslot ≤ away g.widx → Idle (.gourFillAccept obj) s)) ∧
    (s.nextFill obj = none → Idle (.gourFillAccept obj) s) ∧
    (.rel g.ridx ∈ s.gourQueue obj → ¬ still →
      let s1 := s.updBlock obj.block (fun b => b.dropGour obj (.rel g.ridx))
      (g.rcnt + 1 = g.nrel → Happens (.gourReleaseApply obj) s ((s1.putGour obj 24 (natBytes 4 0)).putGour obj 20 (natBytes 4 (g.ridx + 1)))) ∧
      (g.rcnt + 1 ≠ g.nrel → Happens (.gourReleaseApply obj) s (s1.putGour obj 24 (natBytes 4 (g.rcnt + 1))))) ∧
    (.rel g.ridx ∉ s.gourQueue obj ∨ still → Idle (.gourReleaseApply obj) s) ∧
    (∀ t e rest sp off base bytes nslot nrel, s.plinitTeam obj = some (t, e, rest) → e.kind = .plinit sp off base bytes nslot nrel →
      (g.widx = g.cidx → s.gourPending obj = false → Happens (.plinitApply obj) s
        ((s.setTeam { t with relq := rest }).putGour obj 0 (gourBytes base bytes nslot nrel))) ∧
      (g.widx ≠ g.cidx ∨ s.gourPending obj = true → Idle (.plinitApply obj) s)))

/-- R22, R133, R134, R175, R304, R310, R333–R335, R344, R347, R349–R351: the tick, and what sensors, checkers, collectors, links and the watchdog
bring. A tick counts at the hub and on every die, replaces cache lines, refills the buckets and catches up what the echo network must have
brought. A disturbance and a held structure's error put a notice in the log and on its way to every die that is present; an error at rest marks
the data; a check event is logged and is a kind-3 notice; a notice is delivered in its zone's order; a clear-through is received; a wait on
another die's zone that has run out strikes its region, chunk or atomic, and lost data strike their region; a die that disagrees on the tick
raises kind-2 notices of its five zones; a failed die ends its grids and a failed stack keeps them, and the zones of either count as struck;
a link's 17th failure in a row takes it down. -/
def Obligations.SensorAndNoticeEvents : Prop :=
  (∀ (s : State) (a : TickArgs),
    let s1 := ({ s with tick := (s.tick + 1) % 2 ^ 64, stalled := s.stalled.filter (fun x => !a.rerouted.contains x) } : State).replace a
    let count (c : Nat) : Nat := if a.missed.contains c then 0 else if a.doubled.contains c then 2 else 1
    let s2 : State := { s1 with dies := s1.dies.mapIdx (fun c d => { d with tick := (d.tick + count c) % 2 ^ 64 }) }
    let s3 := (s2.dieList.foldl (fun s d => s.refill d) s2.endBallast.showBudget).arbitrate
    Happens (.tick a) s (s3.dieList.foldl (fun s d => s.variant.zones.foldl (fun s z => s.catchUp d z) s) s3)) ∧
  (∀ (s : State) (zone kind sensor stamp : Nat),
    let due : Prop := zone ∈ s.variant.zones ∧ kind < 3 ∧ sensor < sensorCount zone kind ∧ stamp ≤ s.tick ∧ s.tick ≤ stamp + [44, 36, 28].getD kind 0
    let n : Notice := { zone := zone, stamp := stamp, kind := kind, sensor := sensor }
    (due → Happens (.sensorDisturbance zone kind sensor stamp) s { s with
      log := s.log ++ [.notice n], flying := s.flying ++ [{ n := n, sent := s.tick, dies := (List.range 8).filter s.chipOk }] }) ∧
    (¬ due → Idle (.sensorDisturbance zone kind sensor stamp) s)) ∧
  (∀ (s : State),
    (∀ z, z ∈ s.variant.zones →
      let n : Notice := { zone := z, stamp := s.tick, kind := 4, sensor := 0 }
      let count := ((s.ecc.find? (fun x => x.1 == z)).map (·.2)).getD 0
      Happens (.storageCheckError (.held z)) s { s with
        log := s.log ++ [.notice n], flying := s.flying ++ [{ n := n, sent := s.tick, dies := (List.range 8).filter s.chipOk }] } ∧
      exec (.correctableEccError z) s = .next { s with ecc := s.ecc.filter (fun x => x.1 != z) ++ [(z, count + 1)] }) ∧
    (∀ z, z ∉ s.variant.zones → Idle (.storageCheckError (.held z)) s ∧ Idle (.correctableEccError z) s) ∧
    (∀ pa, s.physOk pa = true → exec (.storageCheckError (.cell pa)) s = .next { s with badCells := insertNat s.badCells (lineOf pa) }) ∧
    (∀ pa, s.physOk pa = false → Idle (.storageCheckError (.cell pa)) s) ∧
    (∀ b off, exec (.storageCheckError (.chamber b off)) s = .next { s with badChamb := s.badChamb ++ [(b, off / 4)] } ∧
      exec (.storageCheckError (.gallery b off)) s = .next { s with badGall := s.badGall ++ [(b, off / 4)] })) ∧
  (∀ (s : State) (t : Team) (addr : DWord) (x y : Nat), s.team? t.uid = some t →
    let reports : Prop := x ≠ y ∧ x < 63 ∧ ∃ r ∈ t.regions, ∃ c ∈ r.checks, c.pc = addr ∧ y ∈ c.sums ∧ ∀ n, c.doneT = some n → s.tick ≤ n + 32
    let b := ((s.block? t.block).map (fun (b : Block) => b.idx)).getD 0
    (reports → Happens (.checkEvent t.uid addr x y) s (State.raise { s with log := s.log ++ [LogEnt.checkEvent t.loc.zone s.tick addr b x y] }
      { zone := t.loc.zone, stamp := s.tick, kind := 3, sensor := 0 })) ∧
    (¬ reports → Idle (.checkEvent t.uid addr x y) s)) ∧
  (∀ (s : State) (die : Nat) (n : Notice),
    (∀ f, (n.zone, die) ∉ s.stalled → s.flying.find? (fun f => f.n.zone == n.zone && f.dies.contains die) = some f → f.n = n →
      Happens (.noticeReceived die n) s (((s.bring die n.zone (f.sent - 1)).landed die n).notice die n)) ∧
    ((n.zone, die) ∈ s.stalled → Idle (.noticeReceived die n) s) ∧
    ((∀ f ∈ s.flying, ¬ (f.n = n ∧ die ∈ f.dies)) → Idle (.noticeReceived die n) s)) ∧
  (∀ (s : State) (die z c : Nat),
    let comes : Prop := s.chipOk die = true ∧ z ∈ s.variant.zones ∧ c < s.tick ∧ s.recv die z < c ∧ (z, die) ∉ s.stalled ∧
      (∀ f ∈ s.flying, ¬ (f.n.zone = z ∧ f.sent ≤ c ∧ die ∈ f.dies)) ∧ s.clearCap die z c = c
    (comes → Happens (.clearThroughReceived die z c) s (s.updDie die (fun d => { d with crecv := d.crecv.set z c }))) ∧
    (¬ comes → Idle (.clearThroughReceived die z c) s)) ∧
  (∀ (s : State) (t : Team) (g z : Nat), s.team? t.uid = some t →
    let logged (die : Nat) : State := { s with log := s.log ++ [LogEnt.linkClearance z die (s.arrivalPort z die)] }
    let tag := (t.regions.find? (fun x => x.id == g)).bind (fun r => r.imports.of z)
    (∀ f l, tag = some (f, l) →
      (s.overdue t.loc.chip z l = true → Happens (.clearanceTimeout (.region t.uid g z)) s ((logged t.loc.chip).strike t.uid g z f 7)) ∧
      (s.overdue t.loc.chip z l = false → Idle (.clearanceTimeout (.region t.uid g z)) s)) ∧
    (∀ n, tag = none → t.lostFrom g z = some n →
      (n + 16384 ≤ (s.die t.loc.chip).tick → Happens (.clearanceTimeout (.region t.uid g z)) s ((logged t.loc.chip).strike t.uid g z n 7)) ∧
      ((s.die t.loc.chip).tick < n + 16384 → Idle (.clearanceTimeout (.region t.uid g z)) s)) ∧
    (tag = none → t.lostFrom g z = none → Idle (.clearanceTimeout (.region t.uid g z)) s) ∧
    (∀ x, s.atoms.find? (fun y => y.id == x.id) = some x → x.team = t.uid →
      (x.target.find? (fun z => s.overdue t.loc.chip z x.t) = some z →
        Happens (.clearanceTimeout (.atomic x.id)) s ((logged t.loc.chip).strike t.uid x.region z x.t 7)) ∧
      ((∀ z ∈ x.target, s.overdue t.loc.chip z x.t = false) → Idle (.clearanceTimeout (.atomic x.id)) s))) ∧
  (∀ (s : State) (o : EngOp) (c : Chunk) (z f l : Nat), s.op? o.id = some o → o.staged.find? (fun x => x.num == c.num) = some c →
    c.tags.of z = some (f, l) →
    (s.overdue o.die z l = true → Happens (.clearanceTimeout (.chunk o.id c.num z)) s
      (State.strikeChunk { s with log := s.log ++ [LogEnt.linkClearance z o.die (s.arrivalPort z o.die)] } o.id c.num z)) ∧
    (s.overdue o.die z l = false → Idle (.clearanceTimeout (.chunk o.id c.num z)) s)) ∧
  (∀ (s : State) (die z l : Nat), s.overdue die z l = true ↔
    ownDie z ≠ some die ∧ s.recv die z < l + 64 ∧ l + 16384 ≤ (s.die die).tick) ∧
  (∀ (s : State) (die : Nat),
    let d := s.die die
    (s.chipOk die = true → d.tick = s.tick → s.tick % 1024 = 0 →
      exec (.tickCheck die) s = .next (s.updDie die (fun d => { d with agreed := s.tick }))) ∧
    (s.chipOk die = true → d.tick ≠ s.tick →
      let s1 := (List.range 5).foldl (fun (s : State) k => s.raise { zone := 5 * die + k, stamp := d.agreed, kind := 2, sensor := 0 }) s
      Happens (.tickCheck die) s (s1.updDie die (fun d => { d with tick := s1.tick, agreed := s1.tick }))) ∧
    (s.chipOk die = false ∨ (d.tick = s.tick ∧ s.tick % 1024 ≠ 0) → Idle (.tickCheck die) s)) ∧
  (∀ (s : State) (k : Nat),
    (k < s.variant.stackCount → (s.stack k).failed = false →
      Happens (.dieFailed (.stack k)) s
        ((({ s with log := s.log ++ [LogEnt.dieFailed (.stack k)] } : State).updStack k (fun x => { x with failed := true })).strikeZone (stackZone k))) ∧
    (s.variant.stackCount ≤ k ∨ (s.stack k).failed = true → Idle (.dieFailed (.stack k)) s) ∧
    (s.chipOk k = true →
      let s1 : State := { s with log := s.log ++ [LogEnt.dieFailed (.die k)] }
      let s2 := (s1.gridsOn k).foldl (fun (s : State) g => s.abortGrid g 0 .clearanceTimeout) s1
      Happens (.dieFailed (.die k)) s
        (((List.range 5).map (5 * k + ·)).foldl (fun s z => s.strikeZone z) (s2.updDie k (fun d => { d with failed := true })))) ∧
    (s.chipOk k = false → Idle (.dieFailed (.die k)) s)) ∧
  (∀ (s : State) (link : Link) (again : Bool),
    let n := (if again then ((s.flits.find? (fun x => x.1 == link)).map (·.2)).getD 0 else 0) + 1
    let rest := s.flits.filter (fun x => x.1 != link)
    (s.linkThere link = true → n < 17 → exec (.linkFlitError link again) s = .next { s with flits := rest ++ [(link, n)] }) ∧
    (s.linkThere link = true → 17 ≤ n → Happens (.linkFlitError link again) s (({ s with flits := rest } : State).linkDown link)) ∧
    (s.linkThere link = false → Idle (.linkFlitError link again) s))

/-- R213, R215–R219, R225, R226, R246, R247, R254–R256, R269, R274, R308, R311–R320, the dispatcher's steps. A waiting block whose turn comes is
placed, restored, or placed where its move takes it. A queue's or a request's record is read to its end and launched, waits for its page, or
fails. A waiting block that fits nowhere stops its victims. A stop is acknowledged once every unit is quiet, a moving pair's with its other copy;
one that is late resets the cluster; a save puts the block away, and the team that it was stopped for takes its slot. A grid that may complete
writes its record, or waits for its page or for a pending word there, or logs that it cannot. An evaluator or a task team starts on a free slot; one that has waited long
for none has a block stopped. What may not happen yet leaves the machine as it is. -/
def Obligations.DispatcherEvents : Prop :=
  (∀ (s : State) (b : Block), s.block? b.uid = some b →
    (∀ g s1, s.grid? b.grid = some g → s.waitsTurn b = true → s.turn b.uid (s.waiting g.tenant) [] = some s1 →
      (b.state = .pending → Happens (.blockPlace b.uid) s s1) ∧
      (b.state = .saved → b.move = 0 → Happens (.blockRestore b.uid) s s1) ∧
      (b.state = .saved → b.move ≠ 0 → Happens (.migrationPlace b.uid) s s1)) ∧
    (s.waitsTurn b = false ∨ (∀ g, s.grid? b.grid = some g → s.turn b.uid (s.waiting g.tenant) [] = none) →
      Idle (.blockPlace b.uid) s ∧ Idle (.blockRestore b.uid) s ∧ Idle (.migrationPlace b.uid) s) ∧
    (b.state ≠ .pending → Idle (.blockPlace b.uid) s) ∧
    (b.state ≠ .saved → Idle (.blockRestore b.uid) s ∧ Idle (.migrationPlace b.uid) s)) ∧
  (∀ (s : State) (f q : Nat), f < 9 → q < 4 →
    let off := 0x40 * q
    let w := s.queueRead f q
    let begun : Prop := ∃ x ∈ s.waitPage, x.job = .record (.queue f q)
    let ready : Prop := s.reg f (off + 0x0C) ≠ s.reg f (off + 0x10) ∧ s.regField f (off + 8) 0 1 ≠ 0 ∧ s.regField f (off + 8) 2 1 ≠ 1
    let at_ := s.reg64 f off / 128 * 128 + 128 * ((s.reg f (off + 0x10)).toNat % 2 ^ s.regField f (off + 8) 4 4)
    (¬ begun → w = { job := .record (.queue f q), asid := (s.ctx f q).asid, page := 0, va := at_, part := s.queueTenant f q, old := false }) ∧
    (begun ∨ ready →
      (∀ s1 bs, s.readRecord w.asid w.va = (s1, .bytes bs) →
        let s2 := ({ s1 with nextUid := s1.nextUid + 1 } : State).jobDone w.job
        let s3 := if w.old then s2 else s2.setReg f (off + 0x10) (s2.reg f (off + 0x10) + 1)
        let last := (s3.grids.filter (fun g => g.fromQ && g.func == f && g.queue == q)).getLast?.map (·.uid)
        let after := if s3.regField f (off + 8) 3 1 = 1 then last else none
        Happens (.launchRecordRead (.queue f q)) s (s3.launch bs (newGrid s1.nextUid (recordOf bs) w.part f q w.asid true s3.tick after))) ∧
      (∀ s1 page, s.readRecord w.asid w.va = (s1, .wait page) → exec (.launchRecordRead (.queue f q)) s = .next (s1.awaitRead w page)) ∧
      (∀ s1, s.readRecord w.asid w.va = (s1, .fail) →
        exec (.launchRecordRead (.queue f q)) s = .next ((s1.jobDone w.job).setField f (off + 8) 2 1 1))) ∧
    (¬ begun → ¬ ready → Idle (.launchRecordRead (.queue f q)) s)) ∧
  (∀ (s : State) (r : LaunchReq), s.launches.find? (fun x => x.id == r.id) = some r →
    let gone (s : State) : State := { s.jobDone (.record (.request r.id)) with launches := s.launches.filter (fun x => x.id != r.id) }
    (∀ s1 bs, s.readRecord r.asid r.addr.toNat = (s1, .bytes bs) →
      let s2 : State := { gone s1 with nextUid := s1.nextUid + 1 }
      let x := recordOf bs
      Happens (.launchRecordRead (.request r.id)) s (s2.launch bs
        (newGrid s1.nextUid { x with prio := if 7 < x.prio then x.prio else min x.prio r.prio } r.tenant r.func r.queue r.asid false s2.tick none))) ∧
    (∀ s1 page, s.readRecord r.asid r.addr.toNat = (s1, .wait page) →
      exec (.launchRecordRead (.request r.id)) s = .next (s1.awaitPage (.record (.request r.id)) r.asid page)) ∧
    (∀ s1, s.readRecord r.asid r.addr.toNat = (s1, .fail) → exec (.launchRecordRead (.request r.id)) s = .next (gone s1))) ∧
  (∀ (s : State) (b : Block) (g : Grid) (sp : Span), s.block? b.uid = some b → s.grid? b.grid = some g → s.span? b.span = some sp →
    (s.waitsTurn b = true → s.victims b g sp ≠ [] →
      Happens (.preempt b.uid) s ((s.victims b g sp).foldl (fun s v => match s.block? v.uid with
        | some v => if v.state = .resident then s.stopPair v 0 else s
        | none => s) s)) ∧
    (s.waitsTurn b = false ∨ s.victims b g sp = [] → Idle (.preempt b.uid) s)) ∧
  (∀ (s : State) (b : Block) (why since : Nat), s.block? b.uid = some b → b.state = .stopping why since →
    let s1 := (s.unstick b.uid).settle
    (s1.blockQuiet b.uid = false → exec (.stopAcknowledged b.uid) s = .next s1) ∧
    (s1.blockQuiet b.uid = true → s1.followMove b = none → exec (.stopAcknowledged b.uid) s = .next
      (((s1.gatherConts b.uid).dropStaged b.uid).updBlock b.uid (fun x => { x with state := .saving why }))) ∧
    (∀ m, s1.blockQuiet b.uid = true → s1.followMove b = some m →
      let n := ((s1.teamsOf b.uid).head?.map (·.barbs)).getD 0
      exec (.stopAcknowledged b.uid) s = .next (if s1.atMovePoint m.uid n then
        (s1.updBlock m.uid (fun x => { x with move := b.move, req := b.req })).stopBlock m.uid why else s1)) ∧
    (∀ unit,
      let here := s.blocksOn b.chip b.cluster
      let t1 : State := { s with log := s.log ++ [LogEnt.ackMissing b.uid unit] }
      let t2 := (here.map (·.grid)).eraseDups.foldl (fun (s : State) g => s.abortGrid g 0 .preempt) t1
      let t3 := here.foldl (fun (s : State) x => s.updBlock x.uid (fun x => { x with state := .resident })) t2
      let reset (s : State) (c : Nat) : State := s.updCore c (fun c => { c with readCache := [], outbound := [], lantern := [] })
      let t4 := reset (reset t3 (8 * b.chip + 2 * b.cluster)) (8 * b.chip + 2 * b.cluster + 1)
      (since + 32768 ≤ s.tick → s.blockQuiet b.uid = false → Happens (.ackTimeout b.uid unit) s (t4.queueTest b.chip b.cluster)) ∧
      (s.tick < since + 32768 ∨ s.blockQuiet b.uid = true → Idle (.ackTimeout b.uid unit) s))) ∧
  (∀ (s : State) (b : Block) (why : Nat), s.block? b.uid = some b → b.state = .saving why →
    let s1 := (s.saveBlock b why).updBlock b.uid (fun b => { b with claim := none })
    (b.claim = none → Happens (.saveComplete b.uid) s s1) ∧
    (∀ k i, b.claim = some (.evaluator k i) → Happens (.saveComplete b.uid) s ((s1.placeEvaluator k i).getD s1)) ∧
    (∀ die bin, b.claim = some (.task die bin) → Happens (.saveComplete b.uid) s
      (if (s1.die die).taskWait.isSome && (s1.die die).lastBin == bin then (s1.formTask die).1 else s1))) ∧
  (∀ (s : State) (b : Block), s.block? b.uid = some b →
    ((∀ why since, b.state ≠ .stopping why since) → Idle (.stopAcknowledged b.uid) s ∧ ∀ unit, Idle (.ackTimeout b.uid unit) s) ∧
    ((∀ why, b.state ≠ .saving why) → Idle (.saveComplete b.uid) s)) ∧
  (∀ (s : State) (g : Grid), s.grid? g.uid = some g →
    let va := g.lrec.compaddr.toNat
    let lost (s : State) : State := ({ s with log := s.log ++ [LogEnt.compFault g.lrec.gridtag] } : State).dropGrid g.uid
    let r := s.drainPackage.translate g.asid va
    (s.mayComplete g = false → Idle (.completionRecord g.uid) s) ∧
    (s.mayComplete g = true → va = 0 → Happens (.completionRecord g.uid) s (s.dropGrid g.uid)) ∧
    (s.mayComplete g = true → va ≠ 0 →
      (∀ h base a b pr, r.2.check .write false = .ok h base a b pr →
        (r.1.tagAt h base ≠ .value → Happens (.completionRecord g.uid) s (lost r.1)) ∧
        (r.1.tagAt h base = .value → r.1.pendingAt .glob g.asid 0 va 16 = true → exec (.completionRecord g.uid) s = .next r.1) ∧
        (r.1.tagAt h base = .value → r.1.pendingAt .glob g.asid 0 va 16 = false → Happens (.completionRecord g.uid) s
          ((((r.1.unmark h base 16).sliceWrite g.asid va h base pr (natBytes 8 g.lrec.compval.toNat ++ natBytes 4 (g.status.getD 0).toNat ++
            natBytes 4 0)).cleanSlices (fun l => l.asid == g.asid)).dropGrid g.uid))) ∧
      (r.2.check .write false = .absent →
        ((r.1.startMiss g.asid va 1 g.lrec.gridtag).2 = true → exec (.completionRecord g.uid) s =
          .next ((r.1.startMiss g.asid va 1 g.lrec.gridtag).1.awaitPage (.completion g.uid) g.asid (missPage va))) ∧
        ((r.1.startMiss g.asid va 1 g.lrec.gridtag).2 = false → Happens (.completionRecord g.uid) s (lost (r.1.startMiss g.asid va 1 g.lrec.gridtag).1))) ∧
      (∀ d, r.2.check .write false = .remote d → Happens (.completionRecord g.uid) s
        ((r.1.sendLink (r.1.sliceDie va) g.asid 16 (.remoteWrite d g.asid va (natBytes 8 g.lrec.compval.toNat ++
          natBytes 4 (g.status.getD 0).toNat ++ natBytes 4 0))).dropGrid g.uid)) ∧
      (∀ c, r.2.check .write false = .bad c → Happens (.completionRecord g.uid) s (lost r.1)))) ∧
  (∀ (s : State) (k i : Nat),
    ((s.stack k).buffer.getD i none = none → Idle (.evaluatorPlace k i) s ∧ Idle (.evalSlotTimeout (.evaluator k i)) s) ∧
    (∀ e g, (s.stack k).buffer.getD i none = some e → s.grid? e.grid = some g →
      let sets := fieldAt e.record 0x08 2
      let span := ((s.team? e.opener).bind (fun t => (s.block? t.block).map (·.span))).getD 0
      let start := s.startGuest (e.guest g span) (s.evalClusters e g)
        (fun t => { t with depth := e.depth, ticket := some e.ticket, lineage := e.lineage, cell := some e.cell })
      (g.status.isSome = true → Idle (.evaluatorPlace k i) s) ∧
      (g.status = none → s.partHas g.tenant sets = false → Happens (.evaluatorPlace k i) s (s.noEvaluator e)) ∧
      (g.status = none → s.partHas g.tenant sets = true → start = none → Idle (.evaluatorPlace k i) s) ∧
      (∀ s1 l, g.status = none → s.partHas g.tenant sets = true → start = some (s1, l) →
        Happens (.evaluatorPlace k i) s { s1.updStack k (fun st => { st with buffer := st.buffer.set i none }) with
          mem := s1.mem.put (64 * e.cell + 0x1C) (natBytes 4 (l.pkgCore + 64 * l.coreSlot)) }) ∧
      (∀ b, s.slotVictim (s.evalClusters e g) = some b →
        (e.since + 16384 ≤ s.tick → s.placeEvaluator k i = none → Happens (.evalSlotTimeout (.evaluator k i)) s
          ((s.stopFor b (.evaluator k i)).updStack k (fun st => { st with buffer := st.buffer.set i (some { e with since := s.tick }) }))) ∧
        (s.tick < e.since + 16384 ∨ (s.placeEvaluator k i).isSome = true → Idle (.evalSlotTimeout (.evaluator k i)) s)) ∧
      (s.slotVictim (s.evalClusters e g) = none → Idle (.evalSlotTimeout (.evaluator k i)) s))) ∧
  (∀ (s : State) (die bin since : Nat) (r : TaskRec) (rs : List TaskRec) (g : Grid), (s.die die).gather = r :: rs → s.grid? r.grid = some g →
    (s.die die).taskWait = some since →
    (∀ b, s.slotVictim (s.guestClusters g.tenant g.lrec.caps die) = some b →
      ((s.die die).lastBin = bin → since + 16384 ≤ s.tick → (s.formTask die).2 = false → Happens (.evalSlotTimeout (.task die bin)) s
        ((s.stopFor b (.task die bin)).updDie die (fun d => { d with taskWait := some s.tick }))) ∧
      ((s.die die).lastBin ≠ bin ∨ s.tick < since + 16384 ∨ (s.formTask die).2 = true → Idle (.evalSlotTimeout (.task die bin)) s)) ∧
    (s.slotVictim (s.guestClusters g.tenant g.lrec.caps die) = none → Idle (.evalSlotTimeout (.task die bin)) s)) ∧
  (∀ (s : State) (die : Nat),
    (s.chipOk die = false ∨ (s.die die).draining = none → Idle (.taskTeamForm die) s) ∧
    (∀ d r rs, s.chipOk die = true → (s.die die).draining = some d → d.gather = r :: rs →
      let s1 := s.updDie die (fun _ => d)
      let taken (_ : Die) : Die := { d with bins := d.bins.modify d.lastBin (fun b => takeOff b (r :: rs)), drain := d.drain - (r :: rs).length, taskWait := none }
      ((∀ g, s1.grid? r.grid = some g → g.status.isSome = true) → exec (.taskTeamForm die) s = .next (s1.updDie die taken)) ∧
      (∀ g, s1.grid? r.grid = some g → g.status = none →
        let start := s1.startGuest (taskGuest g (((s1.span? r.span).map (·.idx)).getD 0) r (r :: rs)) (s1.guestClusters g.tenant g.lrec.caps die) id
        (∀ s2 l, start = some (s2, l) → Happens (.taskTeamForm die) s (s2.updDie die taken)) ∧
        (start = none → exec (.taskTeamForm die) s =
          .next (s1.updDie die (fun d => { d with taskWait := some (d.taskWait.getD s1.tick) }))))))

namespace Sys2Proof.Claims

/-- R213, R331, R363, R389, R4, writes of a function's registers that start something: a queue is enabled, which checks it and zeroes its indices,
disabled, or moved on; an attestation is asked for; the trace ring is set up; a debug session ends. Any aligned write goes as its register says,
and function 9 stands for the management controller. -/
def RegisterEvents : Prop :=
  (∀ (s : State) (f q : Nat) (val : Word),
    let off := 0x40 * q + 8
    let en := s.regField f off 0 1
    (f < 9 → q < 4 → val.getLsbD 0 = true → en = 0 →
      let s1 := s.writeMasked f off (if f = 0 then 0x7F8 else 0xF8) 0x4 val
      (s1.queueBad f q = true → Happens (.launchQueueEnable f q val) s (s1.setField f off 2 1 1)) ∧
      (s1.queueBad f q = false → Happens (.launchQueueEnable f q val) s
        ((((s1.outdateRead f q).setField f off 0 1 1).setReg f (off + 4) 0).setReg f (off + 8) 0))) ∧
    (f < 9 → q < 4 → val.getLsbD 0 = false → en = 1 →
      Happens (.launchQueueDisable f q val) s ((s.writeMasked f off 0x8 0x4 val).setField f off 0 1 0)) ∧
    (f < 9 → q < 4 → s.recovery = false →
      ((val - s.reg f (off + 8)).toNat ≤ 2 ^ s.regField f off 4 4 → Happens (.launchQueueWidx f q val) s (s.setReg f (off + 4) val)) ∧
      (2 ^ s.regField f off 4 4 < (val - s.reg f (off + 8)).toNat →
        Happens (.launchQueueWidx f q val) s ((s.setField f off 2 1 1).setField f off 0 1 0))) ∧
    (9 ≤ f ∨ 4 ≤ q ∨ val.getLsbD 0 = false ∨ en = 1 → Idle (.launchQueueEnable f q val) s) ∧
    (9 ≤ f ∨ 4 ≤ q ∨ val.getLsbD 0 = true ∨ en = 0 → Idle (.launchQueueDisable f q val) s) ∧
    (9 ≤ f ∨ 4 ≤ q ∨ s.recovery = true → Idle (.launchQueueWidx f q val) s)) ∧
  (∀ (s : State) (f : Nat) (val : Word),
    (f < 9 → val.getLsbD 0 = true →
      let s1 := s.writeMasked f 0x7008 0 0x4 val
      let at_ := s1.reg64 f 0x7000 / 4096 * 4096
      (s1.hostTakes at_ 8192 = true → Happens (.attestationRequest f val) s
        (({ s1 with hostMem := s1.hostMem.put at_ (s1.report f (s1.hostMem.bytes at_ 64)) } : State).setField f 0x7008 1 1 1)) ∧
      (s1.hostTakes at_ 8192 = false → Happens (.attestationRequest f val) s (s1.setField f 0x7008 2 1 1))) ∧
    (9 ≤ f ∨ val.getLsbD 0 = false → Idle (.attestationRequest f val) s) ∧
    (f < 9 → s.recovery = false → val.getLsbD 0 = true →
      let size := val.toNat / 2 % 32
      (7 ≤ size → size ≤ 24 → Happens (.traceEnable f val) s (s.writeMasked f 0xA008 0x3F 0 val)) ∧
      (size < 7 ∨ 24 < size → Happens (.traceEnable f val) s s)) ∧
    (9 ≤ f ∨ s.recovery = true ∨ val.getLsbD 0 = false → Idle (.traceEnable f val) s) ∧
    (f < 9 → s.recovery = false → val.getLsbD 0 = false → s.regField f 0xC000 0 1 = 1 →
      let s1 := s.writeMasked f 0xC000 0x3 0 val
      Happens (.debugDisable f val) s (s1.unfreeze ((s1.stopped.filter (fun x => x.2 == f)).map (·.1)))) ∧
    (9 ≤ f ∨ s.recovery = true ∨ val.getLsbD 0 = true ∨ s.regField f 0xC000 0 1 = 0 → Idle (.debugDisable f val) s) ∧
    (∀ off, off % 4 = 0 → off < 0x10000 →
      (f < 9 → Happens (.registerWrite f off val) s (s.writeReg f off val)) ∧
      (f = 9 → Happens (.registerWrite f off val) s (s.writeMc off val))) ∧
    (∀ off, 10 ≤ f ∨ off % 4 ≠ 0 ∨ 0x10000 ≤ off → Idle (.registerWrite f off val) s))

/-- R308, R312, R321, writes of a partition's control word: W1C bits clear, a new SUSPEND stops the partition's blocks, EN written 0 ends
the partition unless it is ending already, and EN written 1 checks its record. -/
def PartitionEvents : Prop :=
  ∀ (s : State) (p : Nat) (val : Word), p < 8 → s.recovery = false →
    let off := partOff p + 0x1C
    let s1 := s.writeMasked 0 off 0x2 0x8 val
    let s2 := if val.getLsbD 1 = true ∧ s.partSuspend p = false then s1.stopPart p 2 else s1
    (s.partEn p = false → val.getLsbD 0 = true →
      (∀ c, s2.recovery = false → s2.partBad p = some c → Happens (.partitionEnable p val) s ((s2.setField 0 off 3 1 1).setField 0 off 4 4 c)) ∧
      (s2.recovery = false → s2.partBad p = none → Happens (.partitionEnable p val) s (s2.setField 0 off 0 1 1).attachAll)) ∧
    (s.partEn p = true → val.getLsbD 0 = false →
      (p ∉ s2.closing → Happens (.partitionDisable p val) s (s2.disablePart p)) ∧
      (p ∈ s2.closing → Happens (.partitionDisable p val) s s2)) ∧
    (s.partSuspend p = false → val.getLsbD 1 = true → (s.partEn p = true ↔ val.getLsbD 0 = true) → Happens (.suspend p val) s (s1.stopPart p 2)) ∧
    (s.partSuspend p = true → val.getLsbD 1 = false → (s.partEn p = true ↔ val.getLsbD 0 = true) → Happens (.suspendClear p val) s s1) ∧
    (s.partSuspend p = false → val.getLsbD 1 = true → Happens (.suspend p val) s (s.writePartCtl p val)) ∧
    (s.partSuspend p = true → val.getLsbD 1 = false → Happens (.suspendClear p val) s (s.writePartCtl p val)) ∧
    (s.partEn p = true ∨ val.getLsbD 0 = false → Idle (.partitionEnable p val) s) ∧
    (s.partEn p = false ∨ val.getLsbD 0 = true → Idle (.partitionDisable p val) s) ∧
    (s.partSuspend p = true ∨ val.getLsbD 1 = false → Idle (.suspend p val) s) ∧
    (s.partSuspend p = false ∨ val.getLsbD 1 = true → Idle (.suspendClear p val) s)

/-- R389–R393, R398, R399, the commands of a debug page: while BUSY only a waiting SAVE is tried again; a cluster out of reach ends in error 0x20 and,
for the commands on a team, a session that is off in 0x21; a team that is not there or not frozen in 0x24, STEPTRAP without a trap vector
in 0x25; else the command is carried out. -/
def DebugEvents : Prop :=
  ∀ (s : State) (f : Nat) (cmd : Word), f < 9 → s.recovery = false →
    let c := dbgCmd cmd
    let row : Nat → Instr := fun n => match n with
      | 1 => .stoppart f cmd
      | 2 => .stopclus f cmd
      | 3 => .resume f cmd
      | 4 => .step f cmd
      | 5 => .steptrap f cmd
      | 6 => .inspect f cmd
      | 7 => .save f cmd
      | _ => .load f cmd
    let s1 := (s.setReg f 0xC004 (cmd &&& 0x000F1FFF)).setField f 0xC004 31 1 1
    (∀ n, 1 ≤ n → n ≤ 8 → c.op ≠ n → Idle (row n) s) ∧
    (1 ≤ c.op → c.op ≤ 8 → s.regField f 0xC004 31 1 = 1 →
      (c.op = 7 → dbgCmd (s.reg f 0xC004) = c → Happens (row c.op) s (s.trySave f c)) ∧
      (c.op ≠ 7 ∨ dbgCmd (s.reg f 0xC004) ≠ c → Happens (row c.op) s s)) ∧
    (1 ≤ c.op → c.op ≤ 8 → s.regField f 0xC004 31 1 ≠ 1 →
      (s1.dbgReach f c.cluster = false → Happens (row c.op) s (s1.dbgErr f 0x20)) ∧
      (s1.dbgReach f c.cluster = true → 3 < c.op → s1.regField f 0xC000 0 1 = 0 → Happens (row c.op) s (s1.dbgErr f 0x21)) ∧
      (s1.dbgReach f c.cluster = true → c.op ≤ 3 ∨ s1.regField f 0xC000 0 1 ≠ 0 →
        (c.op = 1 → Happens (.stoppart f cmd) s (s1.stopTeams f
          (fun t => t.kind != .lantern && t.loc.cl == c.cluster && t.loc.core == c.core && t.loc.part == c.psel) (s1.cmdStop 1 c.cluster))) ∧
        (c.op = 2 → Happens (.stopclus f cmd) s (s1.stopTeams f (fun t => t.loc.cl == c.cluster) (s1.cmdStop 2 c.cluster))) ∧
        (c.op = 3 → Happens (.resume f cmd) s ((s1.unfreeze [c.cluster]).dbgDone f)) ∧
        (4 ≤ c.op → c.op ≤ 7 → (∀ t, s1.dbgTeam c = some t → t.frozen = false) → Happens (row c.op) s (s1.dbgErr f 0x24)) ∧
        (∀ t, s1.dbgTeam c = some t → t.frozen = true →
          (c.op = 4 → Happens (.step f cmd) s (s1.setTeam { t with stepMode := .armed f false })) ∧
          (c.op = 5 → t.arch.tvec ≠ 0 → Happens (.steptrap f cmd) s (s1.setTeam { t with stepMode := .armed f true })) ∧
          (c.op = 5 → t.arch.tvec = 0 → Happens (.steptrap f cmd) s (s1.dbgErr f 0x25)) ∧
          (c.op = 6 → Happens (.inspect f cmd) s (s1.dbgGive f (pad64 (s1.teamImage t) ++ t.pendingSection))) ∧
          (c.op = 7 → t.regions = [] → Happens (.save f cmd) s (s1.dbgGive f (storedForm (s1.teamImage t)))) ∧
          (c.op = 7 → t.regions ≠ [] → Happens (.save f cmd) s s1)) ∧
        (c.op = 8 → Happens (.load f cmd) s (s1.loadTeam f c))))

/-- R297–R300, missing translations and their answers, and the dropping of present ones: RESP answers the fault that its tag names, a fault that
runs out of time fails with code 0x12, an ATS answer fills the slices or finds no access, and a command of either kind starts and completes. -/
def TranslationEvents : Prop :=
  (∀ (s : State) (f : Nat) (val : Word), s.recovery = false →
    let kind := val.toNat / 2 ^ 14 % 4
    (s.missTag f val = none → (kind = 0 → Happens (.respMapped f val) s s) ∧ (kind = 1 → Happens (.respFail f val) s s)) ∧
    (∀ m, s.missTag f val = some m →
      let r := s.translate m.asid m.page
      let job (w : DispWait) : Bool := match w.job with
        | .record _ => true
        | _ => false
      (kind = 0 → r.2 = .absent → Happens (.respMapped f val) s (r.1.failPage m 0x10)) ∧
      (kind = 0 → r.2 ≠ .absent → Happens (.respMapped f val) s { r.1 with
        misses := r.1.misses.filter (fun x => x != m)
        waitPage := r.1.waitPage.filter (fun w => !(w.asid == m.asid && w.page == m.page && !job w)) }) ∧
      (kind = 1 → Happens (.respFail f val) s (s.failPage m 0x10))) ∧
    (kind ≠ 0 → Idle (.respMapped f val) s) ∧ (kind ≠ 1 → Idle (.respFail f val) s)) ∧
  (∀ (s : State) (m : Miss), s.misses.find? (fun x => x.slice == m.slice && x.entry == m.entry) = some m →
    (m.since + 16777216 ≤ s.tick → Happens (.faultTimeout m.slice m.entry) s (s.failPage m 0x12)) ∧
    (s.tick < m.since + 16777216 → Idle (.faultTimeout m.slice m.entry) s)) ∧
  (∀ (s : State) (c : AtsAnswer),
    let cs := s.ctxs.filter (fun x => x.valid && x.host && x.pasid == c.pasid)
    let fits : Prop := 4096 ≤ c.bytes ∧ c.va % 4096 = 0 ∧ deviceHalf c.va = false ∧ cs ≠ []
    let ms := s.misses.filter (fun m => m.host && cs.any (fun x => s.missOf x.asid m) && c.va ≤ m.page && m.page < c.va + c.bytes)
    (fits → c.granted = true →
      let s1 := cs.foldl (fun (s : State) x => s.fillRange c x) s
      Happens (.atsCompletion c) s { s1 with misses := s1.misses.filter (fun m => !ms.contains m) }) ∧
    (fits → c.granted = false → Happens (.atsCompletion c) s (ms.foldl (fun (s : State) m => s.noAccess m c.pasid) s)) ∧
    (¬ fits → Idle (.atsCompletion c) s)) ∧
  (∀ (s : State) (m : Miss) (pasid : Nat),
    (m.pri = false → s.noAccess m pasid = { s with
      misses := s.misses.map (fun x => if x = m then { m with pri := true } else x), hostOut := s.hostOut ++ [.pageRequest pasid m.page m.kind] }) ∧
    (m.pri = true → s.noAccess m pasid = s.failPage m 0x11)) ∧
  (∀ (s : State) (pasid : Nat) (va : DWord) (bytes : Nat),
    let cs := s.ctxs.filter (fun x => x.valid && x.host && x.pasid == pasid)
    let v : Inval := { func := (cs.head?.map (·.func)).getD 0, ats := some pasid, asids := cs.map (·.asid), lo := va.toNat, hi := va.toNat + bytes,
                       flush := false, since := s.tick }
    Happens (.atsInvalidate pasid va bytes) s { s with
      invs := s.invs ++ [v], tlb := s.tlb.filter (fun e => !(v.asids.contains e.asid && v.meets e.va e.bytes)) }) ∧
  (∀ (s : State) (f : Nat) (val : Word),
    (f < 9 → s.recovery = false → val.getLsbD 2 = true → s.regField f 0x200C 31 1 = 1 → Happens (.invalidate f val) s s) ∧
    (f < 9 → s.recovery = false → val.getLsbD 2 = true → s.regField f 0x200C 31 1 ≠ 1 →
      let s1 := s.writeMasked f 0x200C 0xB 0 val
      let n := (s1.reg f 0x2008).toNat
      let lo := s1.reg64 f 0x2000 / 65536 * 65536
      let v : Inval := { func := f, ats := none, asids := [(s1.ctx f (s1.regField f 0x200C 0 2)).asid], lo := if n = 0 then 0 else lo,
                         hi := if n = 0 then 2 ^ 64 else lo + 65536 * n, flush := val.getLsbD 3, since := s1.tick }
      Happens (.invalidate f val) s ((s1.setField f 0x200C 31 1 1).startInval v)) ∧
    (9 ≤ f ∨ s.recovery = true ∨ val.getLsbD 2 = false → Idle (.invalidate f val) s)) ∧
  (∀ (s : State) (f : Nat),
    (s.invs.find? (fun x => x.func == f && s.invalDone x) = none → Idle (.invalidationComplete f) s) ∧
    (∀ v, s.invs.find? (fun x => x.func == f && s.invalDone x) = some v →
      let s1 := if v.flush then s.flushRange v else s
      let s2 : State := { s1 with invs := s1.invs.erase v }
      (v.ats = none → Happens (.invalidationComplete f) s (s2.setField f 0x200C 31 1 0)) ∧
      (∀ p, v.ats = some p → Happens (.invalidationComplete f) s { s2 with hostOut := s2.hostOut ++ [HostMsg.invalidated p] })))

/-- R302, R305, R176, what the aperture and other packages read and write: through a valid window a read answers with its data, an access that
cannot be made sets WINERR, a write stands staged under a hub tag; of another package, listed and with its link up, an access to this package
stands staged or is refused, and data, a probe's answer or a refusal answers what this package asked. -/
def OutsideEvents : Prop :=
  (∀ (s : State) (f off : Nat),
    let unsupported (s : State) : State := ({ s with hostOut := s.hostOut ++ [HostMsg.unsupported f] } : State).winErr f
    (∀ bytes, s.recovery = false → f < 9 → bytes ≠ 0 → off + bytes ≤ 2 ^ 28 →
      (s.window f off = none → Happens (.apertureRead f off bytes) s (unsupported s)) ∧
      (∀ asid va, s.window f off = some (asid, va) →
        let r := s.outsideReads (.aperture f) asid (linePieces (bytes / 64 + 2) va bytes) [] []
        (∀ bs tags, r.2 = .ok bs tags → Happens (.apertureRead f off bytes) s { r.1 with hostOut := r.1.hostOut ++ [HostMsg.readDone f bs] }) ∧
        (∀ c, r.2 = .fail c → Happens (.apertureRead f off bytes) s (unsupported r.1)) ∧
        (r.2 = .wait → exec (.apertureRead f off bytes) s = .next r.1))) ∧
    (∀ bytes, s.recovery = true ∨ 9 ≤ f ∨ bytes = 0 ∨ 2 ^ 28 < off + bytes → Idle (.apertureRead f off bytes) s) ∧
    (∀ data, s.recovery = false → f < 9 → data ≠ [] → off + data.length ≤ 2 ^ 28 →
      (s.window f off = none → Happens (.apertureWrite f off data) s (s.winErr f)) ∧
      (∀ asid va, s.window f off = some (asid, va) →
        let p : Posted := { src := .aperture f, asid := asid, va := va, want := 0, data := data, tags := Tags.empty.add hubZone s.tick s.tick }
        Happens (.apertureWrite f off data) s { s with posted := s.posted ++ [p] })) ∧
    (∀ data, s.recovery = true ∨ 9 ≤ f ∨ data = [] ∨ 2 ^ 28 < off + data.length → Idle (.apertureWrite f off data) s)) ∧
  (∀ (s : State) (r : RemoteReq),
    let va := r.va.toNat
    let there : Prop := s.deviceUp r.device = true ∧ deviceHalf va = true
    let here : Prop := there ∧ deviceOf va = s.devNum
    let away : Prop := there ∧ deviceOf va ≠ s.devNum
    let p : Posted := { src := .device r.device, asid := r.asid, va := va, want := 0, data := [], tags := Tags.empty.add hubZone s.tick s.tick }
    let stands (q : Posted) : Prop :=
      (s.ctxOf r.asid = none → Happens (.remoteAccess r) s (s.sendLink (s.sliceDie va) r.asid 0 (.remoteRefused r.device 0x05))) ∧
      ((s.ctxOf r.asid).isSome = true → Happens (.remoteAccess r) s { s with posted := s.posted ++ [q] })
    (¬ there → Idle (.remoteAccess r) s) ∧
    (∀ n, r.kind = .read n → (here → n ≠ 0 → stands { p with want := n }) ∧ (¬ here ∨ n = 0 → Idle (.remoteAccess r) s)) ∧
    (∀ d, r.kind = .write d → (here → d ≠ [] → stands { p with data := d }) ∧ (¬ here ∨ d = [] → Idle (.remoteAccess r) s)) ∧
    (∀ op ty width vs, r.kind = .atom op ty width vs →
      (here → stands { p with atom := some (op, ty, width, vs) }) ∧ (¬ here → Idle (.remoteAccess r) s)) ∧
    (r.kind = .probe → (here → stands { p with probe := true }) ∧ (¬ here → Idle (.remoteAccess r) s)) ∧
    (∀ d, r.kind = .data d →
      (away → s.asked r d.isEmpty = true → Happens (.remoteAccess r) s { s.answered r d.isEmpty with remoteIn := s.remoteIn ++ [(r.asid, va, d)] }) ∧
      (¬ away ∨ s.asked r d.isEmpty = false → Idle (.remoteAccess r) s)) ∧
    (r.kind = .refused →
      (away → s.asked r false = true ∨ s.asked r true = true → Happens (.remoteAccess r) s (s.remoteFailed r)) ∧
      (¬ away ∨ (s.asked r false = false ∧ s.asked r true = false) → Idle (.remoteAccess r) s)))

/-- R22, R323–R329, R372, R373, R400, field tests, power, samples and reset: a unit's test and a queued cluster's full test set with their marks; a
measured interval with its ration levels and ballast; leases accepted, ignored and expired; a sample's record in its ring, or dropped and
counted; the package reset, which keeps host memory and what the boot ROM will find. -/
def PowerAndTestEvents : Prop :=
  (∀ (s : State) (cluster unit : Nat),
    let off := testOff 0 cluster
    let there : Prop := cluster < 32 ∧ s.clusterThere cluster = true
    (there → unit ≠ 0 → unit ≤ 8 →
      exec (.fieldTestStep cluster unit true) s = .next { s with log := s.log ++ [LogEnt.unitTest cluster unit true] } ∧
      exec (.fieldTestStep cluster unit false) s = .next
        ((({ s with log := s.log ++ [LogEnt.unitTest cluster unit false] } : State).setField 0 off 8 8 unit).queueTest 0 cluster)) ∧
    (¬ there ∨ unit = 0 ∨ 8 < unit → ∀ pass, Idle (.fieldTestStep cluster unit pass) s) ∧
    (there → s.regField 0 off 0 1 ≠ 0 → s.blocksOn (cluster / 4) (cluster % 4) = [] →
      (let s1 := ({ s with log := s.log ++ [LogEnt.unitTest cluster unit false] } : State).setField 0 off 0 1 0
       exec (.fieldTestQueue cluster unit false) s = .next ((s1.setField 0 off 2 1 1).setField 0 off 8 8 unit)) ∧
      (let s1 := ({ s with log := s.log ++ [LogEnt.unitTest cluster unit true] } : State).setField 0 off 0 1 0
       exec (.fieldTestQueue cluster unit true) s = .next
         ((s1.setField 0 off 1 1 0).setField 0 off 16 16 (min (s1.regField 0 off 16 16 + 1) 65535)))) ∧
    (¬ there ∨ s.regField 0 off 0 1 = 0 ∨ s.blocksOn (cluster / 4) (cluster % 4) ≠ [] → ∀ pass, Idle (.fieldTestQueue cluster unit pass) s)) ∧
  (∀ (s : State) (d : DrawSample),
    (s.power.lastAt + 10500 ≤ s.tick →
      let s1 := s.draw.2.showBudget
      let held := s1.heldDraw d
      let ballast := held / 100 - d.package
      let ration := (List.range 32).map (fun n => s1.newLevel d s.draw.1.toNat n (s1.power.ration.getD n 0))
      let s2 := s1.draw.2
      let s3 : State := { s2 with power := { s2.power with
        ration := ration, ballast := s2.runBallast ballast s1.draw.1, lastDraw := held, lastAt := s2.tick / 10500 * 10500 } }
      exec (.powerInterval d) s = .next (((s3.setField 0 0x6004 0 16 (held / 100)).setField 0 0x6004 16 16 ballast).setField 0 0x601C 2 1
        (if ballast = 0 then 0 else 1))) ∧
    (s.tick < s.power.lastAt + 10500 → Idle (.powerInterval d) s)) ∧
  (∀ (s : State) (now : DWord) (rec : List Byte),
    let seq := fieldAt rec 0 8
    let good : Prop := fieldAt rec 0x14 12 = 0 ∧ (∀ l, s.power.lastSeq = some l → l < seq) ∧ now.toNat < fieldAt rec 8 8
    (rec.length = 32 → good →
      exec (.leaseRecord now rec) s = .next (s.acceptLease seq (fieldAt rec 8 8) (fieldAt rec 0x10 2) (fieldAt rec 0x12 2))) ∧
    (rec.length = 32 → ¬ good → exec (.leaseRecord now rec) s = .next (s.ignoreLease seq)) ∧
    (rec.length ≠ 32 → Idle (.leaseRecord now rec) s)) ∧
  (∀ (s : State) (now : DWord),
    (s.regField 0 0x601C 0 1 ≠ 0 → s.reg64 0 0x6010 ≤ now.toNat →
      exec (.leaseExpiry now) s = .next (((s.setField 0 0x601C 0 1 0).setField 0 0x601C 1 1 1).setTarget (s.regField 0 0x6018 0 16))) ∧
    (s.regField 0 0x601C 0 1 = 0 ∨ now.toNat < s.reg64 0 0x6010 → Idle (.leaseExpiry now) s)) ∧
  (∀ (s : State) (i : Nat) (x : Sample), s.samples[i]? = some x →
    let s1 : State := { s with samples := s.samples.eraseIdx i, free := s.free + 9 }
    let size := s1.regField x.func 0xC02C 0 5
    let w := (s1.reg x.func 0xC030).toNat
    let used := (s1.reg x.func 0xC030 - s1.reg x.func 0xC034).toNat
    (x.doneT.isSome = true ∨ x.squashed = true → used < 2 ^ size →
      exec (.sampleRecord i) s = .next ((s1.hostPut (s1.reg64 x.func 0xC024 / 4096 * 4096 + 64 * (w % 2 ^ size)) (x.record s.free)).setReg x.func 0xC030
        (BitVec.ofNat 32 (w + 1)))) ∧
    (x.doneT.isSome = true ∨ x.squashed = true → 2 ^ size ≤ used →
      exec (.sampleRecord i) s = .next (s1.setReg x.func 0xC038 (BitVec.ofNat 32 (min ((s1.reg x.func 0xC038).toNat + 1) 0xFFFFFFFF)))) ∧
    (x.doneT = none → x.squashed = false → Idle (.sampleRecord i) s)) ∧
  (∀ (s : State), exec .packageReset s = .next { State.resetOf s.variant with
    hostMem := s.hostMem, hostBad := s.hostBad, agenda := s.agenda, free := s.free, boot := s.boot, recovery := !s.boot.good })

/-- R374–R379, the core dump and the checkpoint: a dump that an abort began is written, or is lost to a buffer that is too small or refused; a
checkpoint request is checked and waits for the step word, which is read every 1,050 ticks; then its partitions are suspended, saved, and its
shards copied; ABORT ends it while it waits. -/
def DumpAndCheckpointEvents : Prop :=
  (∀ (s : State) (f : Nat),
    (s.grids.find? (fun x => x.func == f && x.dump == DumpState.writing) = none → Idle (.dumpWrite f) s) ∧
    (∀ g, s.grids.find? (fun x => x.func == f && x.dump == DumpState.writing) = some g →
      let size := 4096 * (s.reg f 0x9008).toNat
      let at_ := s.reg64 f 0x9000 / 4096 * 4096
      let past (s : State) : State := ((s.updGrid g.uid (fun g => { g with dump := .ended })).setField f 0x900C 1 1 0).setField f 0x900C 2 1 1
      (384 ≤ size → s.hostTakes at_ 4096 = true →
        Happens (.dumpWrite f) s (past { s with hostMem := s.hostMem.put at_ (s.dumpBytes g at_ size) })) ∧
      (size < 384 ∨ s.hostTakes at_ 4096 = false →
        Happens (.dumpWrite f) s (past (({ s with log := s.log ++ [LogEnt.dumpFault f] } : State).setField f 0x900C 3 1 1))))) ∧
  (∀ (s : State) (val : Word), s.recovery = false →
    let s1 := s.writeMasked 0 0xD038 0 0xC val
    let busy := s.regField 0 0xD038 1 1 = 1
    let ended : Prop := val.getLsbD 4 = true ∧ busy ∧ s1.ckpt.phase = .waiting
    let begun : State := { s1.setField 0 0xD038 1 1 1 with
      ckpt := { phase := .waiting, shards := s1.shardList.map (·.1), sums := [], op := none, pollAt := s1.tick } }
    (val.getLsbD 0 = true → ¬ busy →
      (s1.ckptValid = true → Happens (.checkpointGo val) s begun) ∧
      (s1.ckptValid = false → Happens (.checkpointGo val) s ((s1.setField 0 0xD038 3 1 1).setField 0 0xD038 8 4 1))) ∧
    (val.getLsbD 0 = true → busy → ¬ ended → Happens (.checkpointGo val) s s1) ∧
    (val.getLsbD 0 = true → ended → Happens (.checkpointGo val) s ((s1.jobDone .stepWord).ckptErr 5)) ∧
    (ended → Happens (.checkpointAbort val) s ((s1.jobDone .stepWord).ckptErr 5)) ∧
    (val.getLsbD 4 = true → val.getLsbD 0 = false → ¬ ended → Happens (.checkpointAbort val) s s1) ∧
    (val.getLsbD 0 = false → Idle (.checkpointGo val) s) ∧ (val.getLsbD 4 = false → Idle (.checkpointAbort val) s)) ∧
  (∀ (s : State),
    let polled : State := { s with ckpt := { s.ckpt with pollAt := s.tick + 1050 } }
    let saved : Prop := ∀ p ∈ s.ckptParts, s.regField 0 (partOff p + 0x1C) 2 1 = 1
    (s.ckpt.phase = .idle → Idle .stepWordPoll s) ∧
    (s.ckpt.phase = .waiting → s.tick < s.ckpt.pollAt → Idle .stepWordPoll s) ∧
    (s.ckpt.phase = .waiting → s.ckpt.pollAt ≤ s.tick →
      let r := polled.readStep
      let s1 := r.1.jobDone .stepWord
      (r.2 = .fail → Happens .stepWordPoll s (r.1.ckptErr 2)) ∧
      (∀ page, r.2 = .wait page → exec .stepWordPoll s = .next r.1) ∧
      (∀ bs, r.2 = .bytes bs →
        (bytesNat bs ≠ (s1.reg 0 0xD008).toNat → exec .stepWordPoll s = .next s1) ∧
        (bytesNat bs = (s1.reg 0 0xD008).toNat → Happens .stepWordPoll s { s1.suspendParts with ckpt := { s1.ckpt with phase := .suspending } }))) ∧
    (s.ckpt.phase = .suspending → saved → Happens .stepWordPoll s { s with ckpt := { s.ckpt with phase := .copying } }) ∧
    (s.ckpt.phase = .suspending → ¬ saved → Idle .stepWordPoll s) ∧
    (s.ckpt.phase = .copying → Happens .stepWordPoll s s.copyShards))

end Sys2Proof.Claims

/-- The host's side, R4, R22, R213, R297–R302, R305, R308, R312, R323–R331, R363, R372–R379, R389–R393, R398–R400: what each event of the host, of
other packages and of the management's firmware does on every path, and that it leaves the machine as it is where its condition does not
hold. The parts are named after what they are about. -/
def Obligations.HostEvents : Prop :=
  RegisterEvents ∧ PartitionEvents ∧ DebugEvents ∧ TranslationEvents ∧ OutsideEvents ∧ PowerAndTestEvents ∧ DumpAndCheckpointEvents

namespace Sys2Proof.Claims

/-- The number of a sign and a magnitude. -/
def signed (neg : Bool) (x : Rat) : Rat := if neg then -x else x

/-- The formats of Table 3.1 that have an exponent field. -/
def fieldFormats : List Fmt := [.f64, .f32, .f16, .bf16, .e4m3, .e5m2]

/-- The magnitudes of Table 3.3, code by code, in units of 2^−10. -/
def mk8Table : List Nat :=
  [0, 1048576, 1, 524288, 2, 4, 131072, 262144, 8, 12, 16, 24, 32768, 49152, 65536, 98304] ++
  [32, 40, 48, 56, 64, 80, 96, 112, 8192, 10240, 12288, 14336, 16384, 20480, 24576, 28672] ++
  [128, 144, 160, 176, 192, 208, 224, 240, 256, 288, 320, 352, 384, 416, 448, 480] ++
  [2048, 2304, 2560, 2816, 3072, 3328, 3584, 3840, 4096, 4608, 5120, 5632, 6144, 6656, 7168, 7680] ++
  [512, 528, 544, 560, 576, 592, 608, 624, 640, 656, 672, 688, 704, 720, 736, 752] ++
  [768, 784, 800, 816, 832, 848, 864, 880, 896, 912, 928, 944, 960, 976, 992, 1008] ++
  [1024, 1056, 1088, 1120, 1152, 1184, 1216, 1248, 1280, 1312, 1344, 1376, 1408, 1440, 1472, 1504] ++
  [1536, 1568, 1600, 1632, 1664, 1696, 1728, 1760, 1792, 1824, 1856, 1888, 1920, 1952, 1984, 2016]

/-- The causes of Table 18.3 in its order, with their codes. -/
def causeTable : List (Cause × Nat) :=
  [(.illegalOp, 0x01), (.migrate, 0x02), (.noCapable, 0x03), (.badTarget, 0x04), (.regBound, 0x05), (.operandReserved, 0x06),
   (.pairRule, 0x07), (.pageFault, 0x10), (.access, 0x11), (.align, 0x12), (.scratchRange, 0x13), (.scratchUninit, 0x14)] ++
  [(.shapeInvalid, 0x18), (.gourMisuse, 0x19), (.selfDep, 0x20), (.evalDepth, 0x21), (.poisonLoad, 0x22), (.geodeState, 0x23),
   (.syncMismatch, 0x28), (.divergentCollective, 0x29), (.joinUnderflow, 0x2A), (.arithExc, 0x30), (.redundantLimit, 0x38)] ++
  [(.residueLimit, 0x39), (.strikeLimit, 0x3A), (.clearanceTimeout, 0x3B), (.watch, 0x40), (.break_, 0x41), (.step, 0x42),
   (.userTrap, 0x48), (.preempt, 0x50)]

/-- The banked registers that a trap leaves (R352): %epc is the word's own address unless the raising rule gives another; %estat tells a
deferred report, a word that executes once and a trailing copy (Table 18.2). -/
def bankOf (t : Team) (tr : Trap) : Banked :=
  { epc := tr.epc.getD t.arch.pc, ecause := BitVec.ofNat 32 tr.cause.code,
    estat := (BitVec.ofBool (t.role == .trailing) ++ BitVec.ofBool tr.once ++ BitVec.ofBool tr.deferred).setWidth 32,
    eaddr := tr.eaddr, einfo := tr.einfo, emask := tr.emask, elive := t.arch.live }

/-- The state after a word's effect on team t, and after the single step that the word may have been. -/
def ended (s : State) (t : Team) (w : Word1) : State :=
  (match w.effect s t with
   | .done s' t' pc => (s'.markHits t' (w.demand s t)).finish (t'.note (w.demand s t)) w pc
   | .trap tr => s.wordTrap t w tr
   | .wait s' run => s'.wordWait t run
   | .act s' => s').afterStep t.uid t.arch.pc

end Sys2Proof.Claims

/-- R58, R60–R62, Tables 3.1 and 3.3, the number that a code is: sign, biased exponent and significand, subnormals, infinities and NaNs of the
six formats with an exponent field, and the MK8 codes. -/
def Obligations.NumberFormats : Prop :=
  (∀ (f : Fmt) (c : Nat), f ∈ fieldFormats → c < 2 ^ f.width →
    let neg := c.testBit (f.width - 1)
    let m := c % 2 ^ f.mbits
    let ex := c / 2 ^ f.mbits % 2 ^ f.ebits
    let top : Prop := f ≠ .e4m3 ∧ ex = 2 ^ f.ebits - 1
    let nan : Prop := (top ∧ m ≠ 0) ∨ (f = .e4m3 ∧ c % 128 = 127)
    let frac : Rat := (m : Rat) / 2 ^ f.mbits
    (nan ↔ (f.read c).isNan = true) ∧
    (top → m = 0 → f.read c = .inf neg) ∧
    (¬ nan → ¬ top → ratOf (f.read c) = some (signed neg
      (if ex = 0 then (2 : Rat) ^ (1 - f.bias : Int) * frac else (2 : Rat) ^ ((ex : Int) - f.bias) * (1 + frac))))) ∧
  (∀ (f : Fmt) (c : Nat) (x : Rat), f ∈ fieldFormats → ratOf (f.read c) = some x → ∃ y, ratOf (f.read f.maxCode) = some y ∧ x.abs ≤ y) ∧
  (fieldFormats.map (fun f => (f.width, f.ebits, f.mbits, f.bias)) =
    [(64, 11, 52, 1023), (32, 8, 23, 127), (16, 5, 10, 15), (16, 8, 7, 127), (8, 4, 3, 7), (8, 5, 2, 15)]) ∧
  (fieldFormats.map Fmt.maxCode = [0x7FEFFFFFFFFFFFFF, 0x7F7FFFFF, 0x7BFF, 0x7F7F, 0x7E, 0x7B]) ∧
  (fieldFormats.map Fmt.nan = [0x7FF8000000000000, 0x7FC00000, 0x7E00, 0x7FC0, 0x7F, 0x7E]) ∧
  (Fmt.nan .mk8 = 0x80 ∧ Fmt.mk8.read 0x80 = .nan false) ∧
  (∀ c, c < 128 → ratOf (Fmt.mk8.read c) = some ((mk8Table.getD c 0 : Rat) / 1024)) ∧
  (∀ c, 0 < c → c < 128 → ratOf (Fmt.mk8.read (c + 128)) = some (-((mk8Table.getD c 0 : Rat) / 1024)))

/-- R35, relative targets: pc + 8 × offset, from OFF14 or from IMM32 with OFF14 = 0; a non-zero OFF14 beside IMM32 is reserved. -/
def Obligations.RelativeTargets : Prop :=
  ∀ (w : FullT) (a : Arch),
    (w.ext = none → BitVec.ofNat 64 (relTarget w a) = a.pc + 8 * w.off.signExtend 64 ∧ -8192 ≤ w.off.toInt ∧ w.off.toInt ≤ 8191) ∧
    (∀ e, w.ext = some e →
      BitVec.ofNat 64 (relTarget w a) = a.pc + 8 * e.imm.signExtend 64 ∧
      (w.off ≠ 0 → (Instr.bra w).wellFormed = false ∧ (Instr.brc w).wellFormed = false ∧ (Instr.call w).wellFormed = false)) ∧
    relTarget w a < 2 ^ 64

/-- A step with the issue slot granted: the word at the team's pc, with its extension word where X is 1, is decoded and executed by its
meaning; a word that decodes to nothing traps ILLEGAL_OP; one that cannot be fetched parks the team, a continuation too, or traps; a
continuation that would trap there ends (R26, R38, R212, R238, R295). With the slot free one event runs by its meaning: the agenda's first, or
the default one (log 1, the model's choice). -/
def Obligations.StepRunsTheDecodedWord : Prop :=
  (∀ (s : State), s.issue = none →
    (∀ e rest, s.agenda = e :: rest → e.isWord = false → step s = exec e { s with agenda := rest }) ∧
    (∀ e rest, s.agenda = e :: rest → e.isWord = true → step s = .next { s with agenda := rest }) ∧
    (s.agenda = [] → step s = exec s.nextEvent { s with odd := !s.odd })) ∧
  (∀ (s : State) (u : Nat), s.issue = some u → s.team? u = none → step s = .next { s with issue := none }) ∧
  (∀ (s : State) (t : Team), s.issue = some t.uid → s.team? t.uid = some t →
    let pc := t.arch.pc.toNat
    let illegal (s1 : State) : Prop := (t.kind ≠ .lantern → step s = .next (s1.takeTrap t { cause := .illegalOp })) ∧
      (t.kind = .lantern → step s = .next (s1.lanternEnd t 2))
    let parks (s1 : State) (va : Nat) : Prop := step s = .next (({ s1 with issue := none } : State).setTeam { t with run := .fetch va, waitSlots := 0 })
    let faults (s1 : State) (c : Cause) (code : Nat) : Prop := c ≠ .illegalOp →
      (t.kind ≠ .lantern → step s = .next (s1.takeTrap t { cause := c, eaddr := t.arch.pc, einfo := BitVec.ofNat 32 (code * 2 ^ 24) })) ∧
      (t.kind = .lantern → step s = .next (s1.lanternEnd t 2))
    (∀ s1 w, s.fetchWord t false pc = (s1, .word w) → wantsExt w = false →
      (∀ i n, decodeWords w none = .ok (i, n) → step s = exec i s1) ∧
      (∀ e, decodeWords w none = .error e → illegal s1)) ∧
    (∀ s1 w, s.fetchWord t false pc = (s1, .word w) → wantsExt w = true →
      (∀ s2 x, s1.fetchWord t false ((pc + 8) % 2 ^ 64) = (s2, .word x) →
        (∀ i n, decodeWords w (some x) = .ok (i, n) → step s = exec i s2) ∧
        (∀ e, decodeWords w (some x) = .error e → illegal s2)) ∧
      (∀ s2 va, s1.fetchWord t false ((pc + 8) % 2 ^ 64) = (s2, .miss va) → parks s2 va) ∧
      (∀ s2 c code, s1.fetchWord t false ((pc + 8) % 2 ^ 64) = (s2, .bad c code) → faults s2 c code)) ∧
    (∀ s1 va, s.fetchWord t false pc = (s1, .miss va) → parks s1 va) ∧
    (∀ s1 c code, s.fetchWord t false pc = (s1, .bad c code) → faults s1 c code) ∧
    (∀ s1 h base x y z, s.translate (s.asidOf t) pc = (s1, .ok h base x y z) →
      (Xlate.ok h base x y z).check .fetch t.arch.inHandler = .ok h base x y z → s1.badData h base = false →
      s.fetchWord t false pc = (s1, .word (BitVec.ofNat 64 (leNat
        (s1.overlayPending .glob (s.asidOf t) 0 pc (s1.lineBytes (s.asidOf t) pc h base 8)))))))

/-- Words that the spec writes out decode to the instructions they stand for. -/
def Obligations.WrittenWordsDecode : Prop :=
  let hd : Head := { sw := false, pred := 0, pn := false }
  decodeTableWord 64 0x1800000000000002 = some (.bra { hd := hd, d := 0, a := 0, b := 0, off := 2, ext := none }) ∧
  decodeTableWord 64 0x1860000000000000 = some (.join { hd := hd, d := 0, a := 0, b := 0, off := 0, ext := none }) ∧
  decodeTableWord 64 0x1C30000000000000 = some (.rte { hd := hd, d := 0, a := 0, b := 0, sreg := 0, sub := 0, ext := none }) ∧
  decodeTableWord 64 0x1C24001E14000000 =
    some (.trap { hd := { sw := false, pred := 2, pn := false }, d := 0, a := 0x785, b := 0, sreg := 0, sub := 0, ext := none }) ∧
  decodeTableWord 64 0x8000000000000010 = none ∧ decodeTableWord 64 0x2300000000000000 = none ∧
  decodeTableWord 64 0x0820016028002D80 =
    some (.bscale { hd := hd, d := 11, a := 10, b := 0, dt := 11, st := 6, rm := 0, sat := false, sub := 0, ext := none })

/-- Decoding the encoding of a well-formed instruction gives it back, with its length, whatever stands behind it: no bit of an encoding
is dropped. -/
def Obligations.DecodeOfEncode : Prop :=
  ∀ (i : Instr) (rest : List Byte), i.isWord = true → i.wellFormed = true →
    decode (encodeBytes i ++ rest) = .ok (i, (encodeBytes i).length)

/-- The other direction: whatever decodes is well-formed, and its bytes are its encoding, so that no two words mean one instruction and
no reserved encoding is accepted (R26, R32–R44, R49, R55). -/
def Obligations.EncodeOfDecode : Prop :=
  ∀ (bs : List Byte) (i : Instr) (n : Nat), decode bs = .ok (i, n) →
    i.isWord = true ∧ i.wellFormed = true ∧ bs.take n = encodeBytes i ∧ n = (encodeBytes i).length

/-- Every step keeps both memories in canonical form: addresses rising, no byte listed that an unlisted address reads as. -/
def Obligations.StepKeepsMemoryCanonical : Prop :=
  ∀ (s s' : State), s.mem.wf = true → s.hostMem.wf = true → step s = .next s' → s'.mem.wf = true ∧ s'.hostMem.wf = true

/-- The package right after reset: the tick count is 0 (R22), nothing is placed or in flight, both memories list nothing and are canonical,
and every register reads 0 but those of the power page whose reset values Table 16.8 gives. -/
def Obligations.ResetState : Prop :=
  let s := State.reset
  s.tick = 0 ∧ s.issue = none ∧ s.teams = [] ∧ s.blocks = [] ∧ s.spans = [] ∧ s.grids = [] ∧ s.ops = [] ∧ s.atoms = [] ∧ s.tlb = [] ∧
  s.slices = [] ∧ s.misses = [] ∧ s.hostOut = [] ∧ s.mem = [] ∧ s.hostMem = [] ∧ s.mem.wf = true ∧ s.hostMem.wf = true ∧
  (∀ a, s.mem.get a = Memory.fill ∧ s.hostMem.get a = Memory.fill) ∧
  (∀ f off, s.reg f off =
    if f = 0 ∧ off = 0x6000 then 0x04B004B0 else if f = 0 ∧ off = 0x6018 then 0x03E804B0 else if f = 0 ∧ off = 0x601C then 2 else 0)

/-- R352, R355, Tables 18.2 and 18.3, taking a trap. A handled one saves the banked registers, makes every lane live that is neither exited
nor ejected, sets the in-handler bit and goes to %tvec at an implicit head; no vector, scalar, mask or index register, no tile, no flag and
no control-stack entry changes, and a leading copy's queue grows only by a trap that its trailing copy must be told of. An unhandled one ends the grid ABORTED with its cause, unless the grid has ended. POISON_LOAD also drops the team's lines from its
core's read cache (R205). Nothing else of the state changes. -/
def Obligations.TakingATrap : Prop :=
  (∀ (s : State) (t : Team) (tr : Trap), (s.team? t.uid).isSome = true →
    let s' := s.takeTrap t tr
    let open_ : Bool := t.inFlight < 4
    (t.arch.tvec ≠ 0 → t.arch.inHandler = false →
      ({ s' with teams := s.teams, issue := s.issue, cores := s.cores } : State) = s ∧
      (∀ c, s'.core c = if c = t.loc.pkgCore ∧ tr.cause = .poisonLoad ∧ t.role ≠ .trailing then
        { s.core c with readCache := (s.core c).readCache.filter (fun l => l.asid ≠ s.asidOf t) } else s.core c) ∧
      (∀ u, u ≠ t.uid → s'.team? u = s.team? u) ∧
      ∃ t', s'.team? t.uid = some t' ∧ t'.run = .ready ∧ t'.pend = t.pend ∧ t'.accs = t.accs ∧ t'.deferred = t.deferred ∧
        (t.role ≠ .leading ∨ tr.reported = false → t'.lvq = t.lvq) ∧
        t'.arch = { t.arch with
          bank := bankOf t tr, gdetail := tr.detail.getD t.arch.gdetail, live := fullMask t.tw &&& ~~~(t.arch.exited ||| t.arch.ejected),
          inHandler := true, pc := t.arch.tvec } ∧
        (open_ = true → t'.needHead = false ∧ t'.openRegion.map (·.head) = some t.arch.tvec) ∧
        (open_ = false → t'.needHead = true ∧ t'.openRegion = none)) ∧
    (t.arch.tvec = 0 ∨ t.arch.inHandler = true →
      (∀ u, u ≠ t.uid → s'.team? u = s.team? u) ∧ s'.mem = s.mem ∧ s'.hostMem = s.hostMem ∧ s'.blocks = s.blocks ∧
      s'.team? t.uid = some { t with run := .ready, arch := { t.arch with bank := bankOf t tr, gdetail := tr.detail.getD t.arch.gdetail } } ∧
      (∀ g, s.grid? t.grid = some g → s'.grid? t.grid = some
        (if g.status = none then { g with status := some (BitVec.ofNat 32 (0x10 + 256 * tr.cause.code)), aborted := some (t.uid, s.tick) } else g)) ∧
      (∀ u, u ≠ t.grid → s'.grid? u = s.grid? u))) ∧
  (∀ (c : Cause), (c, c.code) ∈ causeTable)

/-- The frame of a word whose effect is done. The end of any word changes the issue slot, the samples and its own team alone; passing a
memory gate changes caches alone, and those only for an SC fence that it passes. A lane-by-lane word of the statements above changes, of its team, the pc, the count of words
and its destination in the lanes it writes, and there it leaves the result. -/
def Obligations.FrameOfWords : Prop :=
  (∀ (s : State) (t : Team) (w : Word1) (pc : Option DWord),
    let s' := s.finish t w pc
    ({ s' with teams := s.teams, issue := s.issue, samples := s.samples, sampleN := s.sampleN } : State) = s ∧
    (∀ u, u ≠ t.uid → s'.team? u = s.team? u)) ∧
  (∀ (s : State) (t : Team),
    ({ (gated s t).1 with cores := s.cores, slices := s.slices } : State) = s ∧
    (t.arch.scFence = none → (gated s t).1 = s) ∧
    (∀ c, ((gated s t).1.core c).outbound = (s.core c).outbound ∧ ((gated s t).1.core c).lantern = (s.core c).lantern) ∧
    (gated s t).2 = { t with arch := { t.arch with scFence := none } }) ∧
  (∀ (s : State) (t : Team) (o : AluOp) (val : Nat → Nat), Running s t →
    let s' := wrote s t o val
    let a := t.arch
    let ls := lanes o t
    let pair : Bool := o.kind == .pair
    let vec (n : Nat) : Prop := o.kind ≠ .mask ∧ ∃ d, (opd o.d).vecNum a = some d ∧ (n = d ∨ (pair = true ∧ n = d + 1))
    let scal (n : Nat) : Prop := o.kind ≠ .mask ∧ ls ≠ [] ∧ ∃ d, opd o.d = .scal d ∧ (n = d ∨ (pair = true ∧ n = d + 1))
    (∀ b, s'.mem.get b = s.mem.get b ∧ s'.hostMem.get b = s.hostMem.get b) ∧ s'.blocks = s.blocks ∧ s'.spans = s.spans ∧
    ∃ t', s'.team? t.uid = some t' ∧ t'.accs = t.accs ∧ t'.pend = t.pend ∧ t'.deferred = t.deferred ∧
      t'.regions.map (·.held) = t.regions.map (·.held) ∧
      t'.arch.pc = a.pc + BitVec.ofNat 64 (extLen o.ext) ∧
      ({ t'.arch with pc := a.pc, issued := a.issued, v := a.v, s := a.s, k := a.k } : Arch) = a ∧
      (∀ n l, ¬ (vec n ∧ l ∈ ls) → t'.arch.vget n l = a.vget n l) ∧
      (∀ n, ¬ scal n → t'.arch.sget n = a.sget n) ∧
      (∀ k, ¬ (o.kind = .mask ∧ k = o.d.toNat) → t'.arch.kget k = a.kget k) ∧
      (∀ d l, o.kind ≠ .mask → (opd o.d).vecNum a = some d → l ∈ ls → d < a.v.length → l < (a.v.getD d []).length →
        t'.arch.vget d l = BitVec.ofNat 32 (val l)) ∧
      (∀ d l, o.kind = .pair → (opd o.d).vecNum a = some d → l ∈ ls → d + 1 < a.v.length → l < (a.v.getD (d + 1) []).length →
        t'.arch.vget (d + 1) l = BitVec.ofNat 32 (val l / 2 ^ 32)) ∧
      (∀ d, o.kind ≠ .mask → opd o.d = .scal d → d + 1 < a.s.length →
        t'.arch.sget d = BitVec.ofNat 32 (val 0) ∧ (o.kind = .pair → t'.arch.sget (d + 1) = BitVec.ofNat 32 (val 0 / 2 ^ 32))))

/-- While no atomic is pending, no instruction word writes memory at rest: an instruction's stores are held, and the events that perform them
write. The words left out act on a cache or on memory where they stand: PF fills a slice, which may write a line back; ATOM and CAS act at their
target; BARB, BARD and BARG drain the core's outbound buffer; the read of a cell by WAITV and QLD may open it; EXIT ends its evaluator's
cell. Of the host memory, the transfers too are left out, whose fetch of a target may start a page fault with its record (R50, R143, R148, R160,
R164, R206, R297). A pending atomic is undone by a squash, which the capability trap of any word can bring (R160, R269). -/
def Obligations.WordsWriteNoMemory : Prop :=
  ∀ (i : Instr) (s s' : State), i.isWord = true → s.atoms = [] → exec i s = .next s' →
    (∀ w, i ≠ .waitv w) → (∀ w, i ≠ .qld w) → (∀ w, i ≠ .pf w) → (∀ w, i ≠ .atom w) → (∀ w, i ≠ .cas w) → (∀ w, i ≠ .exit w) →
    (∀ w, i ≠ .barb w) → (∀ w, i ≠ .bard w) → (∀ w, i ≠ .barg w) →
    (∀ a, s'.mem.get a = s.mem.get a) ∧
    ((∀ w, i ≠ .bra w) → (∀ w, i ≠ .brc w) → (∀ w, i ≠ .call w) → (∀ w, i ≠ .brx w) → (∀ w, i ≠ .ret w) → (∀ w, i ≠ .split w) →
      (∀ w, i ≠ .join w) → (∀ w, i ≠ .rte w) → ∀ a, s'.hostMem.get a = s.hostMem.get a)

/-- R131, R148, R229, R336–R339, regions and room. A word without an open region opens one, or waits for a slot when four are in flight. One that
would pass a limit of its region stands at an implicit head first, and at a fresh one takes the architectural figure in place of the declared one it passes. One without room
in the rename store, the hold buffers or the QSB waits for it. Otherwise it has its effect. -/
def Obligations.RegionsAndRoom : Prop :=
  ∀ (s : State) (t : Team) (w : Word1), Running s t → Passes s t w → (∀ t1, w.closing s t1 = false) →
    let headless : Prop := t.needHead = true ∨ t.openRegion = none
    let waits (t1 : Team) (c : WaitOn) : Prop := issueWord w s = .next ((s.wordWait t1 (.wait c)).afterStep t.uid t.arch.pc)
    let finds (t1 : Team) : Prop := ∀ r, t1.openRegion = some r →
      (s.noRoom t1 r (w.demand s t1) = none → issueWord w s = .next (ended s t1 w)) ∧
      (∀ c, s.noRoom t1 r (w.demand s t1) = some c → waits t1 c)
    (headless → 4 ≤ t.inFlight → waits t .regionSlot) ∧
    (∀ t1, headless ∧ t.inFlight < 4 ∧ t1 = t.openAt s.tick 64 8 ∨ ¬ headless ∧ t1 = t → ∀ r, t1.openRegion = some r →
      (overLimit t1 r (w.demand s t1) = false → finds t1) ∧
      (overLimit t1 r (w.demand s t1) = true → r.fresh = true → finds (atFresh s t1 w)) ∧
      (overLimit t1 r (w.demand s t1) = true → r.fresh = false →
        (4 ≤ t1.inFlight → waits (t1.implicitHead s.tick) .regionSlot) ∧
        (t1.inFlight < 4 → (∀ r2, (t1.implicitHead s.tick).openRegion = some r2 → overLimit (t1.implicitHead s.tick) r2 (w.demand s t1) = false) →
          finds (t1.implicitHead s.tick))))
end

