-- ==== Sys2Proof/Laws/State.lean ====
section
/-! SUPPORT. What each named update of the state leaves alone, one lemma a field and update. -/

namespace Sys2Proof.Laws

open Sys2Proof.Machine

/-! ### setTeam -/

@[simp] theorem setTeam_variant (s : State) (t : Team) : (s.setTeam t).variant = s.variant := rfl
@[simp] theorem setTeam_tick (s : State) (t : Team) : (s.setTeam t).tick = s.tick := rfl
@[simp] theorem setTeam_issue (s : State) (t : Team) : (s.setTeam t).issue = s.issue := rfl
@[simp] theorem setTeam_agenda (s : State) (t : Team) : (s.setTeam t).agenda = s.agenda := rfl
@[simp] theorem setTeam_odd (s : State) (t : Team) : (s.setTeam t).odd = s.odd := rfl
@[simp] theorem setTeam_free (s : State) (t : Team) : (s.setTeam t).free = s.free := rfl
@[simp] theorem setTeam_nextUid (s : State) (t : Team) : (s.setTeam t).nextUid = s.nextUid := rfl
@[simp] theorem setTeam_recovery (s : State) (t : Team) : (s.setTeam t).recovery = s.recovery := rfl
@[simp] theorem setTeam_blocks (s : State) (t : Team) : (s.setTeam t).blocks = s.blocks := rfl
@[simp] theorem setTeam_spans (s : State) (t : Team) : (s.setTeam t).spans = s.spans := rfl
@[simp] theorem setTeam_grids (s : State) (t : Team) : (s.setTeam t).grids = s.grids := rfl
@[simp] theorem setTeam_ops (s : State) (t : Team) : (s.setTeam t).ops = s.ops := rfl
@[simp] theorem setTeam_cores (s : State) (t : Team) : (s.setTeam t).cores = s.cores := rfl
@[simp] theorem setTeam_dies (s : State) (t : Team) : (s.setTeam t).dies = s.dies := rfl
@[simp] theorem setTeam_memStacks (s : State) (t : Team) : (s.setTeam t).memStacks = s.memStacks := rfl
@[simp] theorem setTeam_mem (s : State) (t : Team) : (s.setTeam t).mem = s.mem := rfl
@[simp] theorem setTeam_hostMem (s : State) (t : Team) : (s.setTeam t).hostMem = s.hostMem := rfl
@[simp] theorem setTeam_hostBad (s : State) (t : Team) : (s.setTeam t).hostBad = s.hostBad := rfl
@[simp] theorem setTeam_cellTags (s : State) (t : Team) : (s.setTeam t).cellTags = s.cellTags := rfl
@[simp] theorem setTeam_gresBytes (s : State) (t : Team) : (s.setTeam t).gresBytes = s.gresBytes := rfl
@[simp] theorem setTeam_gresReads (s : State) (t : Team) : (s.setTeam t).gresReads = s.gresReads := rfl
@[simp] theorem setTeam_badCells (s : State) (t : Team) : (s.setTeam t).badCells = s.badCells := rfl
@[simp] theorem setTeam_badChamb (s : State) (t : Team) : (s.setTeam t).badChamb = s.badChamb := rfl
@[simp] theorem setTeam_badGall (s : State) (t : Team) : (s.setTeam t).badGall = s.badGall := rfl
@[simp] theorem setTeam_slices (s : State) (t : Team) : (s.setTeam t).slices = s.slices := rfl
@[simp] theorem setTeam_tlb (s : State) (t : Team) : (s.setTeam t).tlb = s.tlb := rfl
@[simp] theorem setTeam_misses (s : State) (t : Team) : (s.setTeam t).misses = s.misses := rfl
@[simp] theorem setTeam_atoms (s : State) (t : Team) : (s.setTeam t).atoms = s.atoms := rfl
@[simp] theorem setTeam_stopReq (s : State) (t : Team) : (s.setTeam t).stopReq = s.stopReq := rfl
@[simp] theorem setTeam_wakes (s : State) (t : Team) : (s.setTeam t).wakes = s.wakes := rfl
@[simp] theorem setTeam_edges (s : State) (t : Team) : (s.setTeam t).edges = s.edges := rfl
@[simp] theorem setTeam_flying (s : State) (t : Team) : (s.setTeam t).flying = s.flying := rfl
@[simp] theorem setTeam_stalled (s : State) (t : Team) : (s.setTeam t).stalled = s.stalled := rfl
@[simp] theorem setTeam_flits (s : State) (t : Team) : (s.setTeam t).flits = s.flits := rfl
@[simp] theorem setTeam_downDev (s : State) (t : Team) : (s.setTeam t).downDev = s.downDev := rfl
@[simp] theorem setTeam_devNum (s : State) (t : Team) : (s.setTeam t).devNum = s.devNum := rfl
@[simp] theorem setTeam_listed (s : State) (t : Team) : (s.setTeam t).listed = s.listed := rfl
@[simp] theorem setTeam_boot (s : State) (t : Team) : (s.setTeam t).boot = s.boot := rfl
@[simp] theorem setTeam_ecc (s : State) (t : Team) : (s.setTeam t).ecc = s.ecc := rfl
@[simp] theorem setTeam_log (s : State) (t : Team) : (s.setTeam t).log = s.log := rfl
@[simp] theorem setTeam_hostOut (s : State) (t : Team) : (s.setTeam t).hostOut = s.hostOut := rfl
@[simp] theorem setTeam_linkQ (s : State) (t : Team) : (s.setTeam t).linkQ = s.linkQ := rfl
@[simp] theorem setTeam_remoteIn (s : State) (t : Team) : (s.setTeam t).remoteIn = s.remoteIn := rfl
@[simp] theorem setTeam_launches (s : State) (t : Team) : (s.setTeam t).launches = s.launches := rfl
@[simp] theorem setTeam_waitPage (s : State) (t : Team) : (s.setTeam t).waitPage = s.waitPage := rfl
@[simp] theorem setTeam_samples (s : State) (t : Team) : (s.setTeam t).samples = s.samples := rfl
@[simp] theorem setTeam_sampleN (s : State) (t : Team) : (s.setTeam t).sampleN = s.sampleN := rfl
@[simp] theorem setTeam_stopped (s : State) (t : Team) : (s.setTeam t).stopped = s.stopped := rfl
@[simp] theorem setTeam_bar (s : State) (t : Team) : (s.setTeam t).bar = s.bar := rfl
@[simp] theorem setTeam_power (s : State) (t : Team) : (s.setTeam t).power = s.power := rfl
@[simp] theorem setTeam_invs (s : State) (t : Team) : (s.setTeam t).invs = s.invs := rfl
@[simp] theorem setTeam_posted (s : State) (t : Team) : (s.setTeam t).posted = s.posted := rfl
@[simp] theorem setTeam_closing (s : State) (t : Team) : (s.setTeam t).closing = s.closing := rfl
@[simp] theorem setTeam_ckpt (s : State) (t : Team) : (s.setTeam t).ckpt = s.ckpt := rfl

/-! ### updTeam -/

@[simp] theorem updTeam_variant (s : State) (u : Nat) (f : Team → Team) : (s.updTeam u f).variant = s.variant := rfl
@[simp] theorem updTeam_tick (s : State) (u : Nat) (f : Team → Team) : (s.updTeam u f).tick = s.tick := rfl
@[simp] theorem updTeam_issue (s : State) (u : Nat) (f : Team → Team) : (s.updTeam u f).issue = s.issue := rfl
@[simp] theorem updTeam_agenda (s : State) (u : Nat) (f : Team → Team) : (s.updTeam u f).agenda = s.agenda := rfl
@[simp] theorem updTeam_odd (s : State) (u : Nat) (f : Team → Team) : (s.updTeam u f).odd = s.odd := rfl
@[simp] theorem updTeam_free (s : State) (u : Nat) (f : Team → Team) : (s.updTeam u f).free = s.free := rfl
@[simp] theorem updTeam_nextUid (s : State) (u : Nat) (f : Team → Team) : (s.updTeam u f).nextUid = s.nextUid := rfl
@[simp] theorem updTeam_recovery (s : State) (u : Nat) (f : Team → Team) : (s.updTeam u f).recovery = s.recovery := rfl
@[simp] theorem updTeam_blocks (s : State) (u : Nat) (f : Team → Team) : (s.updTeam u f).blocks = s.blocks := rfl
@[simp] theorem updTeam_spans (s : State) (u : Nat) (f : Team → Team) : (s.updTeam u f).spans = s.spans := rfl
@[simp] theorem updTeam_grids (s : State) (u : Nat) (f : Team → Team) : (s.updTeam u f).grids = s.grids := rfl
@[simp] theorem updTeam_ops (s : State) (u : Nat) (f : Team → Team) : (s.updTeam u f).ops = s.ops := rfl
@[simp] theorem updTeam_cores (s : State) (u : Nat) (f : Team → Team) : (s.updTeam u f).cores = s.cores := rfl
@[simp] theorem updTeam_dies (s : State) (u : Nat) (f : Team → Team) : (s.updTeam u f).dies = s.dies := rfl
@[simp] theorem updTeam_memStacks (s : State) (u : Nat) (f : Team → Team) : (s.updTeam u f).memStacks = s.memStacks := rfl
@[simp] theorem updTeam_mem (s : State) (u : Nat) (f : Team → Team) : (s.updTeam u f).mem = s.mem := rfl
@[simp] theorem updTeam_hostMem (s : State) (u : Nat) (f : Team → Team) : (s.updTeam u f).hostMem = s.hostMem := rfl
@[simp] theorem updTeam_hostBad (s : State) (u : Nat) (f : Team → Team) : (s.updTeam u f).hostBad = s.hostBad := rfl
@[simp] theorem updTeam_cellTags (s : State) (u : Nat) (f : Team → Team) : (s.updTeam u f).cellTags = s.cellTags := rfl
@[simp] theorem updTeam_gresBytes (s : State) (u : Nat) (f : Team → Team) : (s.updTeam u f).gresBytes = s.gresBytes := rfl
@[simp] theorem updTeam_gresReads (s : State) (u : Nat) (f : Team → Team) : (s.updTeam u f).gresReads = s.gresReads := rfl
@[simp] theorem updTeam_badCells (s : State) (u : Nat) (f : Team → Team) : (s.updTeam u f).badCells = s.badCells := rfl
@[simp] theorem updTeam_badChamb (s : State) (u : Nat) (f : Team → Team) : (s.updTeam u f).badChamb = s.badChamb := rfl
@[simp] theorem updTeam_badGall (s : State) (u : Nat) (f : Team → Team) : (s.updTeam u f).badGall = s.badGall := rfl
@[simp] theorem updTeam_slices (s : State) (u : Nat) (f : Team → Team) : (s.updTeam u f).slices = s.slices := rfl
@[simp] theorem updTeam_tlb (s : State) (u : Nat) (f : Team → Team) : (s.updTeam u f).tlb = s.tlb := rfl
@[simp] theorem updTeam_misses (s : State) (u : Nat) (f : Team → Team) : (s.updTeam u f).misses = s.misses := rfl
@[simp] theorem updTeam_atoms (s : State) (u : Nat) (f : Team → Team) : (s.updTeam u f).atoms = s.atoms := rfl
@[simp] theorem updTeam_stopReq (s : State) (u : Nat) (f : Team → Team) : (s.updTeam u f).stopReq = s.stopReq := rfl
@[simp] theorem updTeam_wakes (s : State) (u : Nat) (f : Team → Team) : (s.updTeam u f).wakes = s.wakes := rfl
@[simp] theorem updTeam_edges (s : State) (u : Nat) (f : Team → Team) : (s.updTeam u f).edges = s.edges := rfl
@[simp] theorem updTeam_flying (s : State) (u : Nat) (f : Team → Team) : (s.updTeam u f).flying = s.flying := rfl
@[simp] theorem updTeam_stalled (s : State) (u : Nat) (f : Team → Team) : (s.updTeam u f).stalled = s.stalled := rfl
@[simp] theorem updTeam_flits (s : State) (u : Nat) (f : Team → Team) : (s.updTeam u f).flits = s.flits := rfl
@[simp] theorem updTeam_downDev (s : State) (u : Nat) (f : Team → Team) : (s.updTeam u f).downDev = s.downDev := rfl
@[simp] theorem updTeam_devNum (s : State) (u : Nat) (f : Team → Team) : (s.updTeam u f).devNum = s.devNum := rfl
@[simp] theorem updTeam_listed (s : State) (u : Nat) (f : Team → Team) : (s.updTeam u f).listed = s.listed := rfl
@[simp] theorem updTeam_boot (s : State) (u : Nat) (f : Team → Team) : (s.updTeam u f).boot = s.boot := rfl
@[simp] theorem updTeam_ecc (s : State) (u : Nat) (f : Team → Team) : (s.updTeam u f).ecc = s.ecc := rfl
@[simp] theorem updTeam_log (s : State) (u : Nat) (f : Team → Team) : (s.updTeam u f).log = s.log := rfl
@[simp] theorem updTeam_hostOut (s : State) (u : Nat) (f : Team → Team) : (s.updTeam u f).hostOut = s.hostOut := rfl
@[simp] theorem updTeam_linkQ (s : State) (u : Nat) (f : Team → Team) : (s.updTeam u f).linkQ = s.linkQ := rfl
@[simp] theorem updTeam_remoteIn (s : State) (u : Nat) (f : Team → Team) : (s.updTeam u f).remoteIn = s.remoteIn := rfl
@[simp] theorem updTeam_launches (s : State) (u : Nat) (f : Team → Team) : (s.updTeam u f).launches = s.launches := rfl
@[simp] theorem updTeam_waitPage (s : State) (u : Nat) (f : Team → Team) : (s.updTeam u f).waitPage = s.waitPage := rfl
@[simp] theorem updTeam_samples (s : State) (u : Nat) (f : Team → Team) : (s.updTeam u f).samples = s.samples := rfl
@[simp] theorem updTeam_sampleN (s : State) (u : Nat) (f : Team → Team) : (s.updTeam u f).sampleN = s.sampleN := rfl
@[simp] theorem updTeam_stopped (s : State) (u : Nat) (f : Team → Team) : (s.updTeam u f).stopped = s.stopped := rfl
@[simp] theorem updTeam_bar (s : State) (u : Nat) (f : Team → Team) : (s.updTeam u f).bar = s.bar := rfl
@[simp] theorem updTeam_power (s : State) (u : Nat) (f : Team → Team) : (s.updTeam u f).power = s.power := rfl
@[simp] theorem updTeam_invs (s : State) (u : Nat) (f : Team → Team) : (s.updTeam u f).invs = s.invs := rfl
@[simp] theorem updTeam_posted (s : State) (u : Nat) (f : Team → Team) : (s.updTeam u f).posted = s.posted := rfl
@[simp] theorem updTeam_closing (s : State) (u : Nat) (f : Team → Team) : (s.updTeam u f).closing = s.closing := rfl
@[simp] theorem updTeam_ckpt (s : State) (u : Nat) (f : Team → Team) : (s.updTeam u f).ckpt = s.ckpt := rfl

/-! ### updBlock -/

@[simp] theorem updBlock_variant (s : State) (u : Nat) (f : Block → Block) : (s.updBlock u f).variant = s.variant := rfl
@[simp] theorem updBlock_tick (s : State) (u : Nat) (f : Block → Block) : (s.updBlock u f).tick = s.tick := rfl
@[simp] theorem updBlock_issue (s : State) (u : Nat) (f : Block → Block) : (s.updBlock u f).issue = s.issue := rfl
@[simp] theorem updBlock_agenda (s : State) (u : Nat) (f : Block → Block) : (s.updBlock u f).agenda = s.agenda := rfl
@[simp] theorem updBlock_odd (s : State) (u : Nat) (f : Block → Block) : (s.updBlock u f).odd = s.odd := rfl
@[simp] theorem updBlock_free (s : State) (u : Nat) (f : Block → Block) : (s.updBlock u f).free = s.free := rfl
@[simp] theorem updBlock_nextUid (s : State) (u : Nat) (f : Block → Block) : (s.updBlock u f).nextUid = s.nextUid := rfl
@[simp] theorem updBlock_recovery (s : State) (u : Nat) (f : Block → Block) : (s.updBlock u f).recovery = s.recovery := rfl
@[simp] theorem updBlock_teams (s : State) (u : Nat) (f : Block → Block) : (s.updBlock u f).teams = s.teams := rfl
@[simp] theorem updBlock_spans (s : State) (u : Nat) (f : Block → Block) : (s.updBlock u f).spans = s.spans := rfl
@[simp] theorem updBlock_grids (s : State) (u : Nat) (f : Block → Block) : (s.updBlock u f).grids = s.grids := rfl
@[simp] theorem updBlock_ops (s : State) (u : Nat) (f : Block → Block) : (s.updBlock u f).ops = s.ops := rfl
@[simp] theorem updBlock_cores (s : State) (u : Nat) (f : Block → Block) : (s.updBlock u f).cores = s.cores := rfl
@[simp] theorem updBlock_dies (s : State) (u : Nat) (f : Block → Block) : (s.updBlock u f).dies = s.dies := rfl
@[simp] theorem updBlock_memStacks (s : State) (u : Nat) (f : Block → Block) : (s.updBlock u f).memStacks = s.memStacks := rfl
@[simp] theorem updBlock_mem (s : State) (u : Nat) (f : Block → Block) : (s.updBlock u f).mem = s.mem := rfl
@[simp] theorem updBlock_hostMem (s : State) (u : Nat) (f : Block → Block) : (s.updBlock u f).hostMem = s.hostMem := rfl
@[simp] theorem updBlock_hostBad (s : State) (u : Nat) (f : Block → Block) : (s.updBlock u f).hostBad = s.hostBad := rfl
@[simp] theorem updBlock_cellTags (s : State) (u : Nat) (f : Block → Block) : (s.updBlock u f).cellTags = s.cellTags := rfl
@[simp] theorem updBlock_gresBytes (s : State) (u : Nat) (f : Block → Block) : (s.updBlock u f).gresBytes = s.gresBytes := rfl
@[simp] theorem updBlock_gresReads (s : State) (u : Nat) (f : Block → Block) : (s.updBlock u f).gresReads = s.gresReads := rfl
@[simp] theorem updBlock_badCells (s : State) (u : Nat) (f : Block → Block) : (s.updBlock u f).badCells = s.badCells := rfl
@[simp] theorem updBlock_badChamb (s : State) (u : Nat) (f : Block → Block) : (s.updBlock u f).badChamb = s.badChamb := rfl
@[simp] theorem updBlock_badGall (s : State) (u : Nat) (f : Block → Block) : (s.updBlock u f).badGall = s.badGall := rfl
@[simp] theorem updBlock_slices (s : State) (u : Nat) (f : Block → Block) : (s.updBlock u f).slices = s.slices := rfl
@[simp] theorem updBlock_tlb (s : State) (u : Nat) (f : Block → Block) : (s.updBlock u f).tlb = s.tlb := rfl
@[simp] theorem updBlock_misses (s : State) (u : Nat) (f : Block → Block) : (s.updBlock u f).misses = s.misses := rfl
@[simp] theorem updBlock_atoms (s : State) (u : Nat) (f : Block → Block) : (s.updBlock u f).atoms = s.atoms := rfl
@[simp] theorem updBlock_stopReq (s : State) (u : Nat) (f : Block → Block) : (s.updBlock u f).stopReq = s.stopReq := rfl
@[simp] theorem updBlock_wakes (s : State) (u : Nat) (f : Block → Block) : (s.updBlock u f).wakes = s.wakes := rfl
@[simp] theorem updBlock_edges (s : State) (u : Nat) (f : Block → Block) : (s.updBlock u f).edges = s.edges := rfl
@[simp] theorem updBlock_flying (s : State) (u : Nat) (f : Block → Block) : (s.updBlock u f).flying = s.flying := rfl
@[simp] theorem updBlock_stalled (s : State) (u : Nat) (f : Block → Block) : (s.updBlock u f).stalled = s.stalled := rfl
@[simp] theorem updBlock_flits (s : State) (u : Nat) (f : Block → Block) : (s.updBlock u f).flits = s.flits := rfl
@[simp] theorem updBlock_downDev (s : State) (u : Nat) (f : Block → Block) : (s.updBlock u f).downDev = s.downDev := rfl
@[simp] theorem updBlock_devNum (s : State) (u : Nat) (f : Block → Block) : (s.updBlock u f).devNum = s.devNum := rfl
@[simp] theorem updBlock_listed (s : State) (u : Nat) (f : Block → Block) : (s.updBlock u f).listed = s.listed := rfl
@[simp] theorem updBlock_boot (s : State) (u : Nat) (f : Block → Block) : (s.updBlock u f).boot = s.boot := rfl
@[simp] theorem updBlock_ecc (s : State) (u : Nat) (f : Block → Block) : (s.updBlock u f).ecc = s.ecc := rfl
@[simp] theorem updBlock_log (s : State) (u : Nat) (f : Block → Block) : (s.updBlock u f).log = s.log := rfl
@[simp] theorem updBlock_hostOut (s : State) (u : Nat) (f : Block → Block) : (s.updBlock u f).hostOut = s.hostOut := rfl
@[simp] theorem updBlock_linkQ (s : State) (u : Nat) (f : Block → Block) : (s.updBlock u f).linkQ = s.linkQ := rfl
@[simp] theorem updBlock_remoteIn (s : State) (u : Nat) (f : Block → Block) : (s.updBlock u f).remoteIn = s.remoteIn := rfl
@[simp] theorem updBlock_launches (s : State) (u : Nat) (f : Block → Block) : (s.updBlock u f).launches = s.launches := rfl
@[simp] theorem updBlock_waitPage (s : State) (u : Nat) (f : Block → Block) : (s.updBlock u f).waitPage = s.waitPage := rfl
@[simp] theorem updBlock_samples (s : State) (u : Nat) (f : Block → Block) : (s.updBlock u f).samples = s.samples := rfl
@[simp] theorem updBlock_sampleN (s : State) (u : Nat) (f : Block → Block) : (s.updBlock u f).sampleN = s.sampleN := rfl
@[simp] theorem updBlock_stopped (s : State) (u : Nat) (f : Block → Block) : (s.updBlock u f).stopped = s.stopped := rfl
@[simp] theorem updBlock_bar (s : State) (u : Nat) (f : Block → Block) : (s.updBlock u f).bar = s.bar := rfl
@[simp] theorem updBlock_power (s : State) (u : Nat) (f : Block → Block) : (s.updBlock u f).power = s.power := rfl
@[simp] theorem updBlock_invs (s : State) (u : Nat) (f : Block → Block) : (s.updBlock u f).invs = s.invs := rfl
@[simp] theorem updBlock_posted (s : State) (u : Nat) (f : Block → Block) : (s.updBlock u f).posted = s.posted := rfl
@[simp] theorem updBlock_closing (s : State) (u : Nat) (f : Block → Block) : (s.updBlock u f).closing = s.closing := rfl
@[simp] theorem updBlock_ckpt (s : State) (u : Nat) (f : Block → Block) : (s.updBlock u f).ckpt = s.ckpt := rfl

/-! ### updGrid -/

@[simp] theorem updGrid_variant (s : State) (u : Nat) (f : Grid → Grid) : (s.updGrid u f).variant = s.variant := rfl
@[simp] theorem updGrid_tick (s : State) (u : Nat) (f : Grid → Grid) : (s.updGrid u f).tick = s.tick := rfl
@[simp] theorem updGrid_issue (s : State) (u : Nat) (f : Grid → Grid) : (s.updGrid u f).issue = s.issue := rfl
@[simp] theorem updGrid_agenda (s : State) (u : Nat) (f : Grid → Grid) : (s.updGrid u f).agenda = s.agenda := rfl
@[simp] theorem updGrid_odd (s : State) (u : Nat) (f : Grid → Grid) : (s.updGrid u f).odd = s.odd := rfl
@[simp] theorem updGrid_free (s : State) (u : Nat) (f : Grid → Grid) : (s.updGrid u f).free = s.free := rfl
@[simp] theorem updGrid_nextUid (s : State) (u : Nat) (f : Grid → Grid) : (s.updGrid u f).nextUid = s.nextUid := rfl
@[simp] theorem updGrid_recovery (s : State) (u : Nat) (f : Grid → Grid) : (s.updGrid u f).recovery = s.recovery := rfl
@[simp] theorem updGrid_teams (s : State) (u : Nat) (f : Grid → Grid) : (s.updGrid u f).teams = s.teams := rfl
@[simp] theorem updGrid_blocks (s : State) (u : Nat) (f : Grid → Grid) : (s.updGrid u f).blocks = s.blocks := rfl
@[simp] theorem updGrid_spans (s : State) (u : Nat) (f : Grid → Grid) : (s.updGrid u f).spans = s.spans := rfl
@[simp] theorem updGrid_ops (s : State) (u : Nat) (f : Grid → Grid) : (s.updGrid u f).ops = s.ops := rfl
@[simp] theorem updGrid_cores (s : State) (u : Nat) (f : Grid → Grid) : (s.updGrid u f).cores = s.cores := rfl
@[simp] theorem updGrid_dies (s : State) (u : Nat) (f : Grid → Grid) : (s.updGrid u f).dies = s.dies := rfl
@[simp] theorem updGrid_memStacks (s : State) (u : Nat) (f : Grid → Grid) : (s.updGrid u f).memStacks = s.memStacks := rfl
@[simp] theorem updGrid_mem (s : State) (u : Nat) (f : Grid → Grid) : (s.updGrid u f).mem = s.mem := rfl
@[simp] theorem updGrid_hostMem (s : State) (u : Nat) (f : Grid → Grid) : (s.updGrid u f).hostMem = s.hostMem := rfl
@[simp] theorem updGrid_hostBad (s : State) (u : Nat) (f : Grid → Grid) : (s.updGrid u f).hostBad = s.hostBad := rfl
@[simp] theorem updGrid_cellTags (s : State) (u : Nat) (f : Grid → Grid) : (s.updGrid u f).cellTags = s.cellTags := rfl
@[simp] theorem updGrid_gresBytes (s : State) (u : Nat) (f : Grid → Grid) : (s.updGrid u f).gresBytes = s.gresBytes := rfl
@[simp] theorem updGrid_gresReads (s : State) (u : Nat) (f : Grid → Grid) : (s.updGrid u f).gresReads = s.gresReads := rfl
@[simp] theorem updGrid_badCells (s : State) (u : Nat) (f : Grid → Grid) : (s.updGrid u f).badCells = s.badCells := rfl
@[simp] theorem updGrid_badChamb (s : State) (u : Nat) (f : Grid → Grid) : (s.updGrid u f).badChamb = s.badChamb := rfl
@[simp] theorem updGrid_badGall (s : State) (u : Nat) (f : Grid → Grid) : (s.updGrid u f).badGall = s.badGall := rfl
@[simp] theorem updGrid_slices (s : State) (u : Nat) (f : Grid → Grid) : (s.updGrid u f).slices = s.slices := rfl
@[simp] theorem updGrid_tlb (s : State) (u : Nat) (f : Grid → Grid) : (s.updGrid u f).tlb = s.tlb := rfl
@[simp] theorem updGrid_misses (s : State) (u : Nat) (f : Grid → Grid) : (s.updGrid u f).misses = s.misses := rfl
@[simp] theorem updGrid_atoms (s : State) (u : Nat) (f : Grid → Grid) : (s.updGrid u f).atoms = s.atoms := rfl
@[simp] theorem updGrid_stopReq (s : State) (u : Nat) (f : Grid → Grid) : (s.updGrid u f).stopReq = s.stopReq := rfl
@[simp] theorem updGrid_wakes (s : State) (u : Nat) (f : Grid → Grid) : (s.updGrid u f).wakes = s.wakes := rfl
@[simp] theorem updGrid_edges (s : State) (u : Nat) (f : Grid → Grid) : (s.updGrid u f).edges = s.edges := rfl
@[simp] theorem updGrid_flying (s : State) (u : Nat) (f : Grid → Grid) : (s.updGrid u f).flying = s.flying := rfl
@[simp] theorem updGrid_stalled (s : State) (u : Nat) (f : Grid → Grid) : (s.updGrid u f).stalled = s.stalled := rfl
@[simp] theorem updGrid_flits (s : State) (u : Nat) (f : Grid → Grid) : (s.updGrid u f).flits = s.flits := rfl
@[simp] theorem updGrid_downDev (s : State) (u : Nat) (f : Grid → Grid) : (s.updGrid u f).downDev = s.downDev := rfl
@[simp] theorem updGrid_devNum (s : State) (u : Nat) (f : Grid → Grid) : (s.updGrid u f).devNum = s.devNum := rfl
@[simp] theorem updGrid_listed (s : State) (u : Nat) (f : Grid → Grid) : (s.updGrid u f).listed = s.listed := rfl
@[simp] theorem updGrid_boot (s : State) (u : Nat) (f : Grid → Grid) : (s.updGrid u f).boot = s.boot := rfl
@[simp] theorem updGrid_ecc (s : State) (u : Nat) (f : Grid → Grid) : (s.updGrid u f).ecc = s.ecc := rfl
@[simp] theorem updGrid_log (s : State) (u : Nat) (f : Grid → Grid) : (s.updGrid u f).log = s.log := rfl
@[simp] theorem updGrid_hostOut (s : State) (u : Nat) (f : Grid → Grid) : (s.updGrid u f).hostOut = s.hostOut := rfl
@[simp] theorem updGrid_linkQ (s : State) (u : Nat) (f : Grid → Grid) : (s.updGrid u f).linkQ = s.linkQ := rfl
@[simp] theorem updGrid_remoteIn (s : State) (u : Nat) (f : Grid → Grid) : (s.updGrid u f).remoteIn = s.remoteIn := rfl
@[simp] theorem updGrid_launches (s : State) (u : Nat) (f : Grid → Grid) : (s.updGrid u f).launches = s.launches := rfl
@[simp] theorem updGrid_waitPage (s : State) (u : Nat) (f : Grid → Grid) : (s.updGrid u f).waitPage = s.waitPage := rfl
@[simp] theorem updGrid_samples (s : State) (u : Nat) (f : Grid → Grid) : (s.updGrid u f).samples = s.samples := rfl
@[simp] theorem updGrid_sampleN (s : State) (u : Nat) (f : Grid → Grid) : (s.updGrid u f).sampleN = s.sampleN := rfl
@[simp] theorem updGrid_stopped (s : State) (u : Nat) (f : Grid → Grid) : (s.updGrid u f).stopped = s.stopped := rfl
@[simp] theorem updGrid_bar (s : State) (u : Nat) (f : Grid → Grid) : (s.updGrid u f).bar = s.bar := rfl
@[simp] theorem updGrid_power (s : State) (u : Nat) (f : Grid → Grid) : (s.updGrid u f).power = s.power := rfl
@[simp] theorem updGrid_invs (s : State) (u : Nat) (f : Grid → Grid) : (s.updGrid u f).invs = s.invs := rfl
@[simp] theorem updGrid_posted (s : State) (u : Nat) (f : Grid → Grid) : (s.updGrid u f).posted = s.posted := rfl
@[simp] theorem updGrid_closing (s : State) (u : Nat) (f : Grid → Grid) : (s.updGrid u f).closing = s.closing := rfl
@[simp] theorem updGrid_ckpt (s : State) (u : Nat) (f : Grid → Grid) : (s.updGrid u f).ckpt = s.ckpt := rfl

/-! ### updSpan -/

@[simp] theorem updSpan_variant (s : State) (u : Nat) (f : Span → Span) : (s.updSpan u f).variant = s.variant := rfl
@[simp] theorem updSpan_tick (s : State) (u : Nat) (f : Span → Span) : (s.updSpan u f).tick = s.tick := rfl
@[simp] theorem updSpan_issue (s : State) (u : Nat) (f : Span → Span) : (s.updSpan u f).issue = s.issue := rfl
@[simp] theorem updSpan_agenda (s : State) (u : Nat) (f : Span → Span) : (s.updSpan u f).agenda = s.agenda := rfl
@[simp] theorem updSpan_odd (s : State) (u : Nat) (f : Span → Span) : (s.updSpan u f).odd = s.odd := rfl
@[simp] theorem updSpan_free (s : State) (u : Nat) (f : Span → Span) : (s.updSpan u f).free = s.free := rfl
@[simp] theorem updSpan_nextUid (s : State) (u : Nat) (f : Span → Span) : (s.updSpan u f).nextUid = s.nextUid := rfl
@[simp] theorem updSpan_recovery (s : State) (u : Nat) (f : Span → Span) : (s.updSpan u f).recovery = s.recovery := rfl
@[simp] theorem updSpan_teams (s : State) (u : Nat) (f : Span → Span) : (s.updSpan u f).teams = s.teams := rfl
@[simp] theorem updSpan_blocks (s : State) (u : Nat) (f : Span → Span) : (s.updSpan u f).blocks = s.blocks := rfl
@[simp] theorem updSpan_grids (s : State) (u : Nat) (f : Span → Span) : (s.updSpan u f).grids = s.grids := rfl
@[simp] theorem updSpan_ops (s : State) (u : Nat) (f : Span → Span) : (s.updSpan u f).ops = s.ops := rfl
@[simp] theorem updSpan_cores (s : State) (u : Nat) (f : Span → Span) : (s.updSpan u f).cores = s.cores := rfl
@[simp] theorem updSpan_dies (s : State) (u : Nat) (f : Span → Span) : (s.updSpan u f).dies = s.dies := rfl
@[simp] theorem updSpan_memStacks (s : State) (u : Nat) (f : Span → Span) : (s.updSpan u f).memStacks = s.memStacks := rfl
@[simp] theorem updSpan_mem (s : State) (u : Nat) (f : Span → Span) : (s.updSpan u f).mem = s.mem := rfl
@[simp] theorem updSpan_hostMem (s : State) (u : Nat) (f : Span → Span) : (s.updSpan u f).hostMem = s.hostMem := rfl
@[simp] theorem updSpan_hostBad (s : State) (u : Nat) (f : Span → Span) : (s.updSpan u f).hostBad = s.hostBad := rfl
@[simp] theorem updSpan_cellTags (s : State) (u : Nat) (f : Span → Span) : (s.updSpan u f).cellTags = s.cellTags := rfl
@[simp] theorem updSpan_gresBytes (s : State) (u : Nat) (f : Span → Span) : (s.updSpan u f).gresBytes = s.gresBytes := rfl
@[simp] theorem updSpan_gresReads (s : State) (u : Nat) (f : Span → Span) : (s.updSpan u f).gresReads = s.gresReads := rfl
@[simp] theorem updSpan_badCells (s : State) (u : Nat) (f : Span → Span) : (s.updSpan u f).badCells = s.badCells := rfl
@[simp] theorem updSpan_badChamb (s : State) (u : Nat) (f : Span → Span) : (s.updSpan u f).badChamb = s.badChamb := rfl
@[simp] theorem updSpan_badGall (s : State) (u : Nat) (f : Span → Span) : (s.updSpan u f).badGall = s.badGall := rfl
@[simp] theorem updSpan_slices (s : State) (u : Nat) (f : Span → Span) : (s.updSpan u f).slices = s.slices := rfl
@[simp] theorem updSpan_tlb (s : State) (u : Nat) (f : Span → Span) : (s.updSpan u f).tlb = s.tlb := rfl
@[simp] theorem updSpan_misses (s : State) (u : Nat) (f : Span → Span) : (s.updSpan u f).misses = s.misses := rfl
@[simp] theorem updSpan_atoms (s : State) (u : Nat) (f : Span → Span) : (s.updSpan u f).atoms = s.atoms := rfl
@[simp] theorem updSpan_stopReq (s : State) (u : Nat) (f : Span → Span) : (s.updSpan u f).stopReq = s.stopReq := rfl
@[simp] theorem updSpan_wakes (s : State) (u : Nat) (f : Span → Span) : (s.updSpan u f).wakes = s.wakes := rfl
@[simp] theorem updSpan_edges (s : State) (u : Nat) (f : Span → Span) : (s.updSpan u f).edges = s.edges := rfl
@[simp] theorem updSpan_flying (s : State) (u : Nat) (f : Span → Span) : (s.updSpan u f).flying = s.flying := rfl
@[simp] theorem updSpan_stalled (s : State) (u : Nat) (f : Span → Span) : (s.updSpan u f).stalled = s.stalled := rfl
@[simp] theorem updSpan_flits (s : State) (u : Nat) (f : Span → Span) : (s.updSpan u f).flits = s.flits := rfl
@[simp] theorem updSpan_downDev (s : State) (u : Nat) (f : Span → Span) : (s.updSpan u f).downDev = s.downDev := rfl
@[simp] theorem updSpan_devNum (s : State) (u : Nat) (f : Span → Span) : (s.updSpan u f).devNum = s.devNum := rfl
@[simp] theorem updSpan_listed (s : State) (u : Nat) (f : Span → Span) : (s.updSpan u f).listed = s.listed := rfl
@[simp] theorem updSpan_boot (s : State) (u : Nat) (f : Span → Span) : (s.updSpan u f).boot = s.boot := rfl
@[simp] theorem updSpan_ecc (s : State) (u : Nat) (f : Span → Span) : (s.updSpan u f).ecc = s.ecc := rfl
@[simp] theorem updSpan_log (s : State) (u : Nat) (f : Span → Span) : (s.updSpan u f).log = s.log := rfl
@[simp] theorem updSpan_hostOut (s : State) (u : Nat) (f : Span → Span) : (s.updSpan u f).hostOut = s.hostOut := rfl
@[simp] theorem updSpan_linkQ (s : State) (u : Nat) (f : Span → Span) : (s.updSpan u f).linkQ = s.linkQ := rfl
@[simp] theorem updSpan_remoteIn (s : State) (u : Nat) (f : Span → Span) : (s.updSpan u f).remoteIn = s.remoteIn := rfl
@[simp] theorem updSpan_launches (s : State) (u : Nat) (f : Span → Span) : (s.updSpan u f).launches = s.launches := rfl
@[simp] theorem updSpan_waitPage (s : State) (u : Nat) (f : Span → Span) : (s.updSpan u f).waitPage = s.waitPage := rfl
@[simp] theorem updSpan_samples (s : State) (u : Nat) (f : Span → Span) : (s.updSpan u f).samples = s.samples := rfl
@[simp] theorem updSpan_sampleN (s : State) (u : Nat) (f : Span → Span) : (s.updSpan u f).sampleN = s.sampleN := rfl
@[simp] theorem updSpan_stopped (s : State) (u : Nat) (f : Span → Span) : (s.updSpan u f).stopped = s.stopped := rfl
@[simp] theorem updSpan_bar (s : State) (u : Nat) (f : Span → Span) : (s.updSpan u f).bar = s.bar := rfl
@[simp] theorem updSpan_power (s : State) (u : Nat) (f : Span → Span) : (s.updSpan u f).power = s.power := rfl
@[simp] theorem updSpan_invs (s : State) (u : Nat) (f : Span → Span) : (s.updSpan u f).invs = s.invs := rfl
@[simp] theorem updSpan_posted (s : State) (u : Nat) (f : Span → Span) : (s.updSpan u f).posted = s.posted := rfl
@[simp] theorem updSpan_closing (s : State) (u : Nat) (f : Span → Span) : (s.updSpan u f).closing = s.closing := rfl
@[simp] theorem updSpan_ckpt (s : State) (u : Nat) (f : Span → Span) : (s.updSpan u f).ckpt = s.ckpt := rfl

/-! ### updOp -/

@[simp] theorem updOp_variant (s : State) (u : Nat) (f : EngOp → EngOp) : (s.updOp u f).variant = s.variant := rfl
@[simp] theorem updOp_tick (s : State) (u : Nat) (f : EngOp → EngOp) : (s.updOp u f).tick = s.tick := rfl
@[simp] theorem updOp_issue (s : State) (u : Nat) (f : EngOp → EngOp) : (s.updOp u f).issue = s.issue := rfl
@[simp] theorem updOp_agenda (s : State) (u : Nat) (f : EngOp → EngOp) : (s.updOp u f).agenda = s.agenda := rfl
@[simp] theorem updOp_odd (s : State) (u : Nat) (f : EngOp → EngOp) : (s.updOp u f).odd = s.odd := rfl
@[simp] theorem updOp_free (s : State) (u : Nat) (f : EngOp → EngOp) : (s.updOp u f).free = s.free := rfl
@[simp] theorem updOp_nextUid (s : State) (u : Nat) (f : EngOp → EngOp) : (s.updOp u f).nextUid = s.nextUid := rfl
@[simp] theorem updOp_recovery (s : State) (u : Nat) (f : EngOp → EngOp) : (s.updOp u f).recovery = s.recovery := rfl
@[simp] theorem updOp_teams (s : State) (u : Nat) (f : EngOp → EngOp) : (s.updOp u f).teams = s.teams := rfl
@[simp] theorem updOp_blocks (s : State) (u : Nat) (f : EngOp → EngOp) : (s.updOp u f).blocks = s.blocks := rfl
@[simp] theorem updOp_spans (s : State) (u : Nat) (f : EngOp → EngOp) : (s.updOp u f).spans = s.spans := rfl
@[simp] theorem updOp_grids (s : State) (u : Nat) (f : EngOp → EngOp) : (s.updOp u f).grids = s.grids := rfl
@[simp] theorem updOp_cores (s : State) (u : Nat) (f : EngOp → EngOp) : (s.updOp u f).cores = s.cores := rfl
@[simp] theorem updOp_dies (s : State) (u : Nat) (f : EngOp → EngOp) : (s.updOp u f).dies = s.dies := rfl
@[simp] theorem updOp_memStacks (s : State) (u : Nat) (f : EngOp → EngOp) : (s.updOp u f).memStacks = s.memStacks := rfl
@[simp] theorem updOp_mem (s : State) (u : Nat) (f : EngOp → EngOp) : (s.updOp u f).mem = s.mem := rfl
@[simp] theorem updOp_hostMem (s : State) (u : Nat) (f : EngOp → EngOp) : (s.updOp u f).hostMem = s.hostMem := rfl
@[simp] theorem updOp_hostBad (s : State) (u : Nat) (f : EngOp → EngOp) : (s.updOp u f).hostBad = s.hostBad := rfl
@[simp] theorem updOp_cellTags (s : State) (u : Nat) (f : EngOp → EngOp) : (s.updOp u f).cellTags = s.cellTags := rfl
@[simp] theorem updOp_gresBytes (s : State) (u : Nat) (f : EngOp → EngOp) : (s.updOp u f).gresBytes = s.gresBytes := rfl
@[simp] theorem updOp_gresReads (s : State) (u : Nat) (f : EngOp → EngOp) : (s.updOp u f).gresReads = s.gresReads := rfl
@[simp] theorem updOp_badCells (s : State) (u : Nat) (f : EngOp → EngOp) : (s.updOp u f).badCells = s.badCells := rfl
@[simp] theorem updOp_badChamb (s : State) (u : Nat) (f : EngOp → EngOp) : (s.updOp u f).badChamb = s.badChamb := rfl
@[simp] theorem updOp_badGall (s : State) (u : Nat) (f : EngOp → EngOp) : (s.updOp u f).badGall = s.badGall := rfl
@[simp] theorem updOp_slices (s : State) (u : Nat) (f : EngOp → EngOp) : (s.updOp u f).slices = s.slices := rfl
@[simp] theorem updOp_tlb (s : State) (u : Nat) (f : EngOp → EngOp) : (s.updOp u f).tlb = s.tlb := rfl
@[simp] theorem updOp_misses (s : State) (u : Nat) (f : EngOp → EngOp) : (s.updOp u f).misses = s.misses := rfl
@[simp] theorem updOp_atoms (s : State) (u : Nat) (f : EngOp → EngOp) : (s.updOp u f).atoms = s.atoms := rfl
@[simp] theorem updOp_stopReq (s : State) (u : Nat) (f : EngOp → EngOp) : (s.updOp u f).stopReq = s.stopReq := rfl
@[simp] theorem updOp_wakes (s : State) (u : Nat) (f : EngOp → EngOp) : (s.updOp u f).wakes = s.wakes := rfl
@[simp] theorem updOp_edges (s : State) (u : Nat) (f : EngOp → EngOp) : (s.updOp u f).edges = s.edges := rfl
@[simp] theorem updOp_flying (s : State) (u : Nat) (f : EngOp → EngOp) : (s.updOp u f).flying = s.flying := rfl
@[simp] theorem updOp_stalled (s : State) (u : Nat) (f : EngOp → EngOp) : (s.updOp u f).stalled = s.stalled := rfl
@[simp] theorem updOp_flits (s : State) (u : Nat) (f : EngOp → EngOp) : (s.updOp u f).flits = s.flits := rfl
@[simp] theorem updOp_downDev (s : State) (u : Nat) (f : EngOp → EngOp) : (s.updOp u f).downDev = s.downDev := rfl
@[simp] theorem updOp_devNum (s : State) (u : Nat) (f : EngOp → EngOp) : (s.updOp u f).devNum = s.devNum := rfl
@[simp] theorem updOp_listed (s : State) (u : Nat) (f : EngOp → EngOp) : (s.updOp u f).listed = s.listed := rfl
@[simp] theorem updOp_boot (s : State) (u : Nat) (f : EngOp → EngOp) : (s.updOp u f).boot = s.boot := rfl
@[simp] theorem updOp_ecc (s : State) (u : Nat) (f : EngOp → EngOp) : (s.updOp u f).ecc = s.ecc := rfl
@[simp] theorem updOp_log (s : State) (u : Nat) (f : EngOp → EngOp) : (s.updOp u f).log = s.log := rfl
@[simp] theorem updOp_hostOut (s : State) (u : Nat) (f : EngOp → EngOp) : (s.updOp u f).hostOut = s.hostOut := rfl
@[simp] theorem updOp_linkQ (s : State) (u : Nat) (f : EngOp → EngOp) : (s.updOp u f).linkQ = s.linkQ := rfl
@[simp] theorem updOp_remoteIn (s : State) (u : Nat) (f : EngOp → EngOp) : (s.updOp u f).remoteIn = s.remoteIn := rfl
@[simp] theorem updOp_launches (s : State) (u : Nat) (f : EngOp → EngOp) : (s.updOp u f).launches = s.launches := rfl
@[simp] theorem updOp_waitPage (s : State) (u : Nat) (f : EngOp → EngOp) : (s.updOp u f).waitPage = s.waitPage := rfl
@[simp] theorem updOp_samples (s : State) (u : Nat) (f : EngOp → EngOp) : (s.updOp u f).samples = s.samples := rfl
@[simp] theorem updOp_sampleN (s : State) (u : Nat) (f : EngOp → EngOp) : (s.updOp u f).sampleN = s.sampleN := rfl
@[simp] theorem updOp_stopped (s : State) (u : Nat) (f : EngOp → EngOp) : (s.updOp u f).stopped = s.stopped := rfl
@[simp] theorem updOp_bar (s : State) (u : Nat) (f : EngOp → EngOp) : (s.updOp u f).bar = s.bar := rfl
@[simp] theorem updOp_power (s : State) (u : Nat) (f : EngOp → EngOp) : (s.updOp u f).power = s.power := rfl
@[simp] theorem updOp_invs (s : State) (u : Nat) (f : EngOp → EngOp) : (s.updOp u f).invs = s.invs := rfl
@[simp] theorem updOp_posted (s : State) (u : Nat) (f : EngOp → EngOp) : (s.updOp u f).posted = s.posted := rfl
@[simp] theorem updOp_closing (s : State) (u : Nat) (f : EngOp → EngOp) : (s.updOp u f).closing = s.closing := rfl
@[simp] theorem updOp_ckpt (s : State) (u : Nat) (f : EngOp → EngOp) : (s.updOp u f).ckpt = s.ckpt := rfl

/-! ### updCore -/

@[simp] theorem updCore_variant (s : State) (u : Nat) (f : Core → Core) : (s.updCore u f).variant = s.variant := rfl
@[simp] theorem updCore_tick (s : State) (u : Nat) (f : Core → Core) : (s.updCore u f).tick = s.tick := rfl
@[simp] theorem updCore_issue (s : State) (u : Nat) (f : Core → Core) : (s.updCore u f).issue = s.issue := rfl
@[simp] theorem updCore_agenda (s : State) (u : Nat) (f : Core → Core) : (s.updCore u f).agenda = s.agenda := rfl
@[simp] theorem updCore_odd (s : State) (u : Nat) (f : Core → Core) : (s.updCore u f).odd = s.odd := rfl
@[simp] theorem updCore_free (s : State) (u : Nat) (f : Core → Core) : (s.updCore u f).free = s.free := rfl
@[simp] theorem updCore_nextUid (s : State) (u : Nat) (f : Core → Core) : (s.updCore u f).nextUid = s.nextUid := rfl
@[simp] theorem updCore_recovery (s : State) (u : Nat) (f : Core → Core) : (s.updCore u f).recovery = s.recovery := rfl
@[simp] theorem updCore_teams (s : State) (u : Nat) (f : Core → Core) : (s.updCore u f).teams = s.teams := rfl
@[simp] theorem updCore_blocks (s : State) (u : Nat) (f : Core → Core) : (s.updCore u f).blocks = s.blocks := rfl
@[simp] theorem updCore_spans (s : State) (u : Nat) (f : Core → Core) : (s.updCore u f).spans = s.spans := rfl
@[simp] theorem updCore_grids (s : State) (u : Nat) (f : Core → Core) : (s.updCore u f).grids = s.grids := rfl
@[simp] theorem updCore_ops (s : State) (u : Nat) (f : Core → Core) : (s.updCore u f).ops = s.ops := rfl
@[simp] theorem updCore_dies (s : State) (u : Nat) (f : Core → Core) : (s.updCore u f).dies = s.dies := rfl
@[simp] theorem updCore_memStacks (s : State) (u : Nat) (f : Core → Core) : (s.updCore u f).memStacks = s.memStacks := rfl
@[simp] theorem updCore_mem (s : State) (u : Nat) (f : Core → Core) : (s.updCore u f).mem = s.mem := rfl
@[simp] theorem updCore_hostMem (s : State) (u : Nat) (f : Core → Core) : (s.updCore u f).hostMem = s.hostMem := rfl
@[simp] theorem updCore_hostBad (s : State) (u : Nat) (f : Core → Core) : (s.updCore u f).hostBad = s.hostBad := rfl
@[simp] theorem updCore_cellTags (s : State) (u : Nat) (f : Core → Core) : (s.updCore u f).cellTags = s.cellTags := rfl
@[simp] theorem updCore_gresBytes (s : State) (u : Nat) (f : Core → Core) : (s.updCore u f).gresBytes = s.gresBytes := rfl
@[simp] theorem updCore_gresReads (s : State) (u : Nat) (f : Core → Core) : (s.updCore u f).gresReads = s.gresReads := rfl
@[simp] theorem updCore_badCells (s : State) (u : Nat) (f : Core → Core) : (s.updCore u f).badCells = s.badCells := rfl
@[simp] theorem updCore_badChamb (s : State) (u : Nat) (f : Core → Core) : (s.updCore u f).badChamb = s.badChamb := rfl
@[simp] theorem updCore_badGall (s : State) (u : Nat) (f : Core → Core) : (s.updCore u f).badGall = s.badGall := rfl
@[simp] theorem updCore_slices (s : State) (u : Nat) (f : Core → Core) : (s.updCore u f).slices = s.slices := rfl
@[simp] theorem updCore_tlb (s : State) (u : Nat) (f : Core → Core) : (s.updCore u f).tlb = s.tlb := rfl
@[simp] theorem updCore_misses (s : State) (u : Nat) (f : Core → Core) : (s.updCore u f).misses = s.misses := rfl
@[simp] theorem updCore_atoms (s : State) (u : Nat) (f : Core → Core) : (s.updCore u f).atoms = s.atoms := rfl
@[simp] theorem updCore_stopReq (s : State) (u : Nat) (f : Core → Core) : (s.updCore u f).stopReq = s.stopReq := rfl
@[simp] theorem updCore_wakes (s : State) (u : Nat) (f : Core → Core) : (s.updCore u f).wakes = s.wakes := rfl
@[simp] theorem updCore_edges (s : State) (u : Nat) (f : Core → Core) : (s.updCore u f).edges = s.edges := rfl
@[simp] theorem updCore_flying (s : State) (u : Nat) (f : Core → Core) : (s.updCore u f).flying = s.flying := rfl
@[simp] theorem updCore_stalled (s : State) (u : Nat) (f : Core → Core) : (s.updCore u f).stalled = s.stalled := rfl
@[simp] theorem updCore_flits (s : State) (u : Nat) (f : Core → Core) : (s.updCore u f).flits = s.flits := rfl
@[simp] theorem updCore_downDev (s : State) (u : Nat) (f : Core → Core) : (s.updCore u f).downDev = s.downDev := rfl
@[simp] theorem updCore_devNum (s : State) (u : Nat) (f : Core → Core) : (s.updCore u f).devNum = s.devNum := rfl
@[simp] theorem updCore_listed (s : State) (u : Nat) (f : Core → Core) : (s.updCore u f).listed = s.listed := rfl
@[simp] theorem updCore_boot (s : State) (u : Nat) (f : Core → Core) : (s.updCore u f).boot = s.boot := rfl
@[simp] theorem updCore_ecc (s : State) (u : Nat) (f : Core → Core) : (s.updCore u f).ecc = s.ecc := rfl
@[simp] theorem updCore_log (s : State) (u : Nat) (f : Core → Core) : (s.updCore u f).log = s.log := rfl
@[simp] theorem updCore_hostOut (s : State) (u : Nat) (f : Core → Core) : (s.updCore u f).hostOut = s.hostOut := rfl
@[simp] theorem updCore_linkQ (s : State) (u : Nat) (f : Core → Core) : (s.updCore u f).linkQ = s.linkQ := rfl
@[simp] theorem updCore_remoteIn (s : State) (u : Nat) (f : Core → Core) : (s.updCore u f).remoteIn = s.remoteIn := rfl
@[simp] theorem updCore_launches (s : State) (u : Nat) (f : Core → Core) : (s.updCore u f).launches = s.launches := rfl
@[simp] theorem updCore_waitPage (s : State) (u : Nat) (f : Core → Core) : (s.updCore u f).waitPage = s.waitPage := rfl
@[simp] theorem updCore_samples (s : State) (u : Nat) (f : Core → Core) : (s.updCore u f).samples = s.samples := rfl
@[simp] theorem updCore_sampleN (s : State) (u : Nat) (f : Core → Core) : (s.updCore u f).sampleN = s.sampleN := rfl
@[simp] theorem updCore_stopped (s : State) (u : Nat) (f : Core → Core) : (s.updCore u f).stopped = s.stopped := rfl
@[simp] theorem updCore_bar (s : State) (u : Nat) (f : Core → Core) : (s.updCore u f).bar = s.bar := rfl
@[simp] theorem updCore_power (s : State) (u : Nat) (f : Core → Core) : (s.updCore u f).power = s.power := rfl
@[simp] theorem updCore_invs (s : State) (u : Nat) (f : Core → Core) : (s.updCore u f).invs = s.invs := rfl
@[simp] theorem updCore_posted (s : State) (u : Nat) (f : Core → Core) : (s.updCore u f).posted = s.posted := rfl
@[simp] theorem updCore_closing (s : State) (u : Nat) (f : Core → Core) : (s.updCore u f).closing = s.closing := rfl
@[simp] theorem updCore_ckpt (s : State) (u : Nat) (f : Core → Core) : (s.updCore u f).ckpt = s.ckpt := rfl

/-! ### updDie -/

@[simp] theorem updDie_variant (s : State) (u : Nat) (f : Die → Die) : (s.updDie u f).variant = s.variant := rfl
@[simp] theorem updDie_tick (s : State) (u : Nat) (f : Die → Die) : (s.updDie u f).tick = s.tick := rfl
@[simp] theorem updDie_issue (s : State) (u : Nat) (f : Die → Die) : (s.updDie u f).issue = s.issue := rfl
@[simp] theorem updDie_agenda (s : State) (u : Nat) (f : Die → Die) : (s.updDie u f).agenda = s.agenda := rfl
@[simp] theorem updDie_odd (s : State) (u : Nat) (f : Die → Die) : (s.updDie u f).odd = s.odd := rfl
@[simp] theorem updDie_free (s : State) (u : Nat) (f : Die → Die) : (s.updDie u f).free = s.free := rfl
@[simp] theorem updDie_nextUid (s : State) (u : Nat) (f : Die → Die) : (s.updDie u f).nextUid = s.nextUid := rfl
@[simp] theorem updDie_recovery (s : State) (u : Nat) (f : Die → Die) : (s.updDie u f).recovery = s.recovery := rfl
@[simp] theorem updDie_teams (s : State) (u : Nat) (f : Die → Die) : (s.updDie u f).teams = s.teams := rfl
@[simp] theorem updDie_blocks (s : State) (u : Nat) (f : Die → Die) : (s.updDie u f).blocks = s.blocks := rfl
@[simp] theorem updDie_spans (s : State) (u : Nat) (f : Die → Die) : (s.updDie u f).spans = s.spans := rfl
@[simp] theorem updDie_grids (s : State) (u : Nat) (f : Die → Die) : (s.updDie u f).grids = s.grids := rfl
@[simp] theorem updDie_ops (s : State) (u : Nat) (f : Die → Die) : (s.updDie u f).ops = s.ops := rfl
@[simp] theorem updDie_cores (s : State) (u : Nat) (f : Die → Die) : (s.updDie u f).cores = s.cores := rfl
@[simp] theorem updDie_memStacks (s : State) (u : Nat) (f : Die → Die) : (s.updDie u f).memStacks = s.memStacks := rfl
@[simp] theorem updDie_mem (s : State) (u : Nat) (f : Die → Die) : (s.updDie u f).mem = s.mem := rfl
@[simp] theorem updDie_hostMem (s : State) (u : Nat) (f : Die → Die) : (s.updDie u f).hostMem = s.hostMem := rfl
@[simp] theorem updDie_hostBad (s : State) (u : Nat) (f : Die → Die) : (s.updDie u f).hostBad = s.hostBad := rfl
@[simp] theorem updDie_cellTags (s : State) (u : Nat) (f : Die → Die) : (s.updDie u f).cellTags = s.cellTags := rfl
@[simp] theorem updDie_gresBytes (s : State) (u : Nat) (f : Die → Die) : (s.updDie u f).gresBytes = s.gresBytes := rfl
@[simp] theorem updDie_gresReads (s : State) (u : Nat) (f : Die → Die) : (s.updDie u f).gresReads = s.gresReads := rfl
@[simp] theorem updDie_badCells (s : State) (u : Nat) (f : Die → Die) : (s.updDie u f).badCells = s.badCells := rfl
@[simp] theorem updDie_badChamb (s : State) (u : Nat) (f : Die → Die) : (s.updDie u f).badChamb = s.badChamb := rfl
@[simp] theorem updDie_badGall (s : State) (u : Nat) (f : Die → Die) : (s.updDie u f).badGall = s.badGall := rfl
@[simp] theorem updDie_slices (s : State) (u : Nat) (f : Die → Die) : (s.updDie u f).slices = s.slices := rfl
@[simp] theorem updDie_tlb (s : State) (u : Nat) (f : Die → Die) : (s.updDie u f).tlb = s.tlb := rfl
@[simp] theorem updDie_misses (s : State) (u : Nat) (f : Die → Die) : (s.updDie u f).misses = s.misses := rfl
@[simp] theorem updDie_atoms (s : State) (u : Nat) (f : Die → Die) : (s.updDie u f).atoms = s.atoms := rfl
@[simp] theorem updDie_stopReq (s : State) (u : Nat) (f : Die → Die) : (s.updDie u f).stopReq = s.stopReq := rfl
@[simp] theorem updDie_wakes (s : State) (u : Nat) (f : Die → Die) : (s.updDie u f).wakes = s.wakes := rfl
@[simp] theorem updDie_edges (s : State) (u : Nat) (f : Die → Die) : (s.updDie u f).edges = s.edges := rfl
@[simp] theorem updDie_flying (s : State) (u : Nat) (f : Die → Die) : (s.updDie u f).flying = s.flying := rfl
@[simp] theorem updDie_stalled (s : State) (u : Nat) (f : Die → Die) : (s.updDie u f).stalled = s.stalled := rfl
@[simp] theorem updDie_flits (s : State) (u : Nat) (f : Die → Die) : (s.updDie u f).flits = s.flits := rfl
@[simp] theorem updDie_downDev (s : State) (u : Nat) (f : Die → Die) : (s.updDie u f).downDev = s.downDev := rfl
@[simp] theorem updDie_devNum (s : State) (u : Nat) (f : Die → Die) : (s.updDie u f).devNum = s.devNum := rfl
@[simp] theorem updDie_listed (s : State) (u : Nat) (f : Die → Die) : (s.updDie u f).listed = s.listed := rfl
@[simp] theorem updDie_boot (s : State) (u : Nat) (f : Die → Die) : (s.updDie u f).boot = s.boot := rfl
@[simp] theorem updDie_ecc (s : State) (u : Nat) (f : Die → Die) : (s.updDie u f).ecc = s.ecc := rfl
@[simp] theorem updDie_log (s : State) (u : Nat) (f : Die → Die) : (s.updDie u f).log = s.log := rfl
@[simp] theorem updDie_hostOut (s : State) (u : Nat) (f : Die → Die) : (s.updDie u f).hostOut = s.hostOut := rfl
@[simp] theorem updDie_linkQ (s : State) (u : Nat) (f : Die → Die) : (s.updDie u f).linkQ = s.linkQ := rfl
@[simp] theorem updDie_remoteIn (s : State) (u : Nat) (f : Die → Die) : (s.updDie u f).remoteIn = s.remoteIn := rfl
@[simp] theorem updDie_launches (s : State) (u : Nat) (f : Die → Die) : (s.updDie u f).launches = s.launches := rfl
@[simp] theorem updDie_waitPage (s : State) (u : Nat) (f : Die → Die) : (s.updDie u f).waitPage = s.waitPage := rfl
@[simp] theorem updDie_samples (s : State) (u : Nat) (f : Die → Die) : (s.updDie u f).samples = s.samples := rfl
@[simp] theorem updDie_sampleN (s : State) (u : Nat) (f : Die → Die) : (s.updDie u f).sampleN = s.sampleN := rfl
@[simp] theorem updDie_stopped (s : State) (u : Nat) (f : Die → Die) : (s.updDie u f).stopped = s.stopped := rfl
@[simp] theorem updDie_bar (s : State) (u : Nat) (f : Die → Die) : (s.updDie u f).bar = s.bar := rfl
@[simp] theorem updDie_power (s : State) (u : Nat) (f : Die → Die) : (s.updDie u f).power = s.power := rfl
@[simp] theorem updDie_invs (s : State) (u : Nat) (f : Die → Die) : (s.updDie u f).invs = s.invs := rfl
@[simp] theorem updDie_posted (s : State) (u : Nat) (f : Die → Die) : (s.updDie u f).posted = s.posted := rfl
@[simp] theorem updDie_closing (s : State) (u : Nat) (f : Die → Die) : (s.updDie u f).closing = s.closing := rfl
@[simp] theorem updDie_ckpt (s : State) (u : Nat) (f : Die → Die) : (s.updDie u f).ckpt = s.ckpt := rfl

/-! ### updStack -/

@[simp] theorem updStack_variant (s : State) (u : Nat) (f : Stack → Stack) : (s.updStack u f).variant = s.variant := rfl
@[simp] theorem updStack_tick (s : State) (u : Nat) (f : Stack → Stack) : (s.updStack u f).tick = s.tick := rfl
@[simp] theorem updStack_issue (s : State) (u : Nat) (f : Stack → Stack) : (s.updStack u f).issue = s.issue := rfl
@[simp] theorem updStack_agenda (s : State) (u : Nat) (f : Stack → Stack) : (s.updStack u f).agenda = s.agenda := rfl
@[simp] theorem updStack_odd (s : State) (u : Nat) (f : Stack → Stack) : (s.updStack u f).odd = s.odd := rfl
@[simp] theorem updStack_free (s : State) (u : Nat) (f : Stack → Stack) : (s.updStack u f).free = s.free := rfl
@[simp] theorem updStack_nextUid (s : State) (u : Nat) (f : Stack → Stack) : (s.updStack u f).nextUid = s.nextUid := rfl
@[simp] theorem updStack_recovery (s : State) (u : Nat) (f : Stack → Stack) : (s.updStack u f).recovery = s.recovery := rfl
@[simp] theorem updStack_teams (s : State) (u : Nat) (f : Stack → Stack) : (s.updStack u f).teams = s.teams := rfl
@[simp] theorem updStack_blocks (s : State) (u : Nat) (f : Stack → Stack) : (s.updStack u f).blocks = s.blocks := rfl
@[simp] theorem updStack_spans (s : State) (u : Nat) (f : Stack → Stack) : (s.updStack u f).spans = s.spans := rfl
@[simp] theorem updStack_grids (s : State) (u : Nat) (f : Stack → Stack) : (s.updStack u f).grids = s.grids := rfl
@[simp] theorem updStack_ops (s : State) (u : Nat) (f : Stack → Stack) : (s.updStack u f).ops = s.ops := rfl
@[simp] theorem updStack_cores (s : State) (u : Nat) (f : Stack → Stack) : (s.updStack u f).cores = s.cores := rfl
@[simp] theorem updStack_dies (s : State) (u : Nat) (f : Stack → Stack) : (s.updStack u f).dies = s.dies := rfl
@[simp] theorem updStack_mem (s : State) (u : Nat) (f : Stack → Stack) : (s.updStack u f).mem = s.mem := rfl
@[simp] theorem updStack_hostMem (s : State) (u : Nat) (f : Stack → Stack) : (s.updStack u f).hostMem = s.hostMem := rfl
@[simp] theorem updStack_hostBad (s : State) (u : Nat) (f : Stack → Stack) : (s.updStack u f).hostBad = s.hostBad := rfl
@[simp] theorem updStack_cellTags (s : State) (u : Nat) (f : Stack → Stack) : (s.updStack u f).cellTags = s.cellTags := rfl
@[simp] theorem updStack_gresBytes (s : State) (u : Nat) (f : Stack → Stack) : (s.updStack u f).gresBytes = s.gresBytes := rfl
@[simp] theorem updStack_gresReads (s : State) (u : Nat) (f : Stack → Stack) : (s.updStack u f).gresReads = s.gresReads := rfl
@[simp] theorem updStack_badCells (s : State) (u : Nat) (f : Stack → Stack) : (s.updStack u f).badCells = s.badCells := rfl
@[simp] theorem updStack_badChamb (s : State) (u : Nat) (f : Stack → Stack) : (s.updStack u f).badChamb = s.badChamb := rfl
@[simp] theorem updStack_badGall (s : State) (u : Nat) (f : Stack → Stack) : (s.updStack u f).badGall = s.badGall := rfl
@[simp] theorem updStack_slices (s : State) (u : Nat) (f : Stack → Stack) : (s.updStack u f).slices = s.slices := rfl
@[simp] theorem updStack_tlb (s : State) (u : Nat) (f : Stack → Stack) : (s.updStack u f).tlb = s.tlb := rfl
@[simp] theorem updStack_misses (s : State) (u : Nat) (f : Stack → Stack) : (s.updStack u f).misses = s.misses := rfl
@[simp] theorem updStack_atoms (s : State) (u : Nat) (f : Stack → Stack) : (s.updStack u f).atoms = s.atoms := rfl
@[simp] theorem updStack_stopReq (s : State) (u : Nat) (f : Stack → Stack) : (s.updStack u f).stopReq = s.stopReq := rfl
@[simp] theorem updStack_wakes (s : State) (u : Nat) (f : Stack → Stack) : (s.updStack u f).wakes = s.wakes := rfl
@[simp] theorem updStack_edges (s : State) (u : Nat) (f : Stack → Stack) : (s.updStack u f).edges = s.edges := rfl
@[simp] theorem updStack_flying (s : State) (u : Nat) (f : Stack → Stack) : (s.updStack u f).flying = s.flying := rfl
@[simp] theorem updStack_stalled (s : State) (u : Nat) (f : Stack → Stack) : (s.updStack u f).stalled = s.stalled := rfl
@[simp] theorem updStack_flits (s : State) (u : Nat) (f : Stack → Stack) : (s.updStack u f).flits = s.flits := rfl
@[simp] theorem updStack_downDev (s : State) (u : Nat) (f : Stack → Stack) : (s.updStack u f).downDev = s.downDev := rfl
@[simp] theorem updStack_devNum (s : State) (u : Nat) (f : Stack → Stack) : (s.updStack u f).devNum = s.devNum := rfl
@[simp] theorem updStack_listed (s : State) (u : Nat) (f : Stack → Stack) : (s.updStack u f).listed = s.listed := rfl
@[simp] theorem updStack_boot (s : State) (u : Nat) (f : Stack → Stack) : (s.updStack u f).boot = s.boot := rfl
@[simp] theorem updStack_ecc (s : State) (u : Nat) (f : Stack → Stack) : (s.updStack u f).ecc = s.ecc := rfl
@[simp] theorem updStack_log (s : State) (u : Nat) (f : Stack → Stack) : (s.updStack u f).log = s.log := rfl
@[simp] theorem updStack_hostOut (s : State) (u : Nat) (f : Stack → Stack) : (s.updStack u f).hostOut = s.hostOut := rfl
@[simp] theorem updStack_linkQ (s : State) (u : Nat) (f : Stack → Stack) : (s.updStack u f).linkQ = s.linkQ := rfl
@[simp] theorem updStack_remoteIn (s : State) (u : Nat) (f : Stack → Stack) : (s.updStack u f).remoteIn = s.remoteIn := rfl
@[simp] theorem updStack_launches (s : State) (u : Nat) (f : Stack → Stack) : (s.updStack u f).launches = s.launches := rfl
@[simp] theorem updStack_waitPage (s : State) (u : Nat) (f : Stack → Stack) : (s.updStack u f).waitPage = s.waitPage := rfl
@[simp] theorem updStack_samples (s : State) (u : Nat) (f : Stack → Stack) : (s.updStack u f).samples = s.samples := rfl
@[simp] theorem updStack_sampleN (s : State) (u : Nat) (f : Stack → Stack) : (s.updStack u f).sampleN = s.sampleN := rfl
@[simp] theorem updStack_stopped (s : State) (u : Nat) (f : Stack → Stack) : (s.updStack u f).stopped = s.stopped := rfl
@[simp] theorem updStack_bar (s : State) (u : Nat) (f : Stack → Stack) : (s.updStack u f).bar = s.bar := rfl
@[simp] theorem updStack_power (s : State) (u : Nat) (f : Stack → Stack) : (s.updStack u f).power = s.power := rfl
@[simp] theorem updStack_invs (s : State) (u : Nat) (f : Stack → Stack) : (s.updStack u f).invs = s.invs := rfl
@[simp] theorem updStack_posted (s : State) (u : Nat) (f : Stack → Stack) : (s.updStack u f).posted = s.posted := rfl
@[simp] theorem updStack_closing (s : State) (u : Nat) (f : Stack → Stack) : (s.updStack u f).closing = s.closing := rfl
@[simp] theorem updStack_ckpt (s : State) (u : Nat) (f : Stack → Stack) : (s.updStack u f).ckpt = s.ckpt := rfl

/-! ### vset -/

@[simp] theorem vset_pc (a : Arch) (r : Nat) (g : Nat → Option Word) : (a.vset r g).pc = a.pc := rfl
@[simp] theorem vset_s (a : Arch) (r : Nat) (g : Nat → Option Word) : (a.vset r g).s = a.s := rfl
@[simp] theorem vset_x (a : Arch) (r : Nat) (g : Nat → Option Word) : (a.vset r g).x = a.x := rfl
@[simp] theorem vset_k (a : Arch) (r : Nat) (g : Nat → Option Word) : (a.vset r g).k = a.k := rfl
@[simp] theorem vset_live (a : Arch) (r : Nat) (g : Nat → Option Word) : (a.vset r g).live = a.live := rfl
@[simp] theorem vset_exited (a : Arch) (r : Nat) (g : Nat → Option Word) : (a.vset r g).exited = a.exited := rfl
@[simp] theorem vset_flags (a : Arch) (r : Nat) (g : Nat → Option Word) : (a.vset r g).flags = a.flags := rfl
@[simp] theorem vset_uninitcnt (a : Arch) (r : Nat) (g : Nat → Option Word) : (a.vset r g).uninitcnt = a.uninitcnt := rfl
@[simp] theorem vset_uninitaddr (a : Arch) (r : Nat) (g : Nat → Option Word) : (a.vset r g).uninitaddr = a.uninitaddr := rfl
@[simp] theorem vset_uninitBy (a : Arch) (r : Nat) (g : Nat → Option Word) : (a.vset r g).uninitBy = a.uninitBy := rfl
@[simp] theorem vset_gdetail (a : Arch) (r : Nat) (g : Nat → Option Word) : (a.vset r g).gdetail = a.gdetail := rfl
@[simp] theorem vset_stack (a : Arch) (r : Nat) (g : Nat → Option Word) : (a.vset r g).stack = a.stack := rfl
@[simp] theorem vset_tiles (a : Arch) (r : Nat) (g : Nat → Option Word) : (a.vset r g).tiles = a.tiles := rfl
@[simp] theorem vset_esc (a : Arch) (r : Nat) (g : Nat → Option Word) : (a.vset r g).esc = a.esc := rfl
@[simp] theorem vset_inHandler (a : Arch) (r : Nat) (g : Nat → Option Word) : (a.vset r g).inHandler = a.inHandler := rfl
@[simp] theorem vset_tvec (a : Arch) (r : Nat) (g : Nat → Option Word) : (a.vset r g).tvec = a.tvec := rfl
@[simp] theorem vset_bank (a : Arch) (r : Nat) (g : Nat → Option Word) : (a.vset r g).bank = a.bank := rfl
@[simp] theorem vset_yield (a : Arch) (r : Nat) (g : Nat → Option Word) : (a.vset r g).yield = a.yield := rfl
@[simp] theorem vset_scFence (a : Arch) (r : Nat) (g : Nat → Option Word) : (a.vset r g).scFence = a.scFence := rfl
@[simp] theorem vset_wpaddr (a : Arch) (r : Nat) (g : Nat → Option Word) : (a.vset r g).wpaddr = a.wpaddr := rfl
@[simp] theorem vset_waitFrom (a : Arch) (r : Nat) (g : Nat → Option Word) : (a.vset r g).waitFrom = a.waitFrom := rfl
@[simp] theorem vset_spawned (a : Arch) (r : Nat) (g : Nat → Option Word) : (a.vset r g).spawned = a.spawned := rfl
@[simp] theorem vset_issued (a : Arch) (r : Nat) (g : Nat → Option Word) : (a.vset r g).issued = a.issued := rfl

/-! ### sset -/

@[simp] theorem sset_pc (a : Arch) (r : Nat) (w : Word) : (a.sset r w).pc = a.pc := rfl
@[simp] theorem sset_v (a : Arch) (r : Nat) (w : Word) : (a.sset r w).v = a.v := rfl
@[simp] theorem sset_x (a : Arch) (r : Nat) (w : Word) : (a.sset r w).x = a.x := rfl
@[simp] theorem sset_k (a : Arch) (r : Nat) (w : Word) : (a.sset r w).k = a.k := rfl
@[simp] theorem sset_live (a : Arch) (r : Nat) (w : Word) : (a.sset r w).live = a.live := rfl
@[simp] theorem sset_exited (a : Arch) (r : Nat) (w : Word) : (a.sset r w).exited = a.exited := rfl
@[simp] theorem sset_flags (a : Arch) (r : Nat) (w : Word) : (a.sset r w).flags = a.flags := rfl
@[simp] theorem sset_uninitcnt (a : Arch) (r : Nat) (w : Word) : (a.sset r w).uninitcnt = a.uninitcnt := rfl
@[simp] theorem sset_uninitaddr (a : Arch) (r : Nat) (w : Word) : (a.sset r w).uninitaddr = a.uninitaddr := rfl
@[simp] theorem sset_uninitBy (a : Arch) (r : Nat) (w : Word) : (a.sset r w).uninitBy = a.uninitBy := rfl
@[simp] theorem sset_gdetail (a : Arch) (r : Nat) (w : Word) : (a.sset r w).gdetail = a.gdetail := rfl
@[simp] theorem sset_stack (a : Arch) (r : Nat) (w : Word) : (a.sset r w).stack = a.stack := rfl
@[simp] theorem sset_tiles (a : Arch) (r : Nat) (w : Word) : (a.sset r w).tiles = a.tiles := rfl
@[simp] theorem sset_esc (a : Arch) (r : Nat) (w : Word) : (a.sset r w).esc = a.esc := rfl
@[simp] theorem sset_inHandler (a : Arch) (r : Nat) (w : Word) : (a.sset r w).inHandler = a.inHandler := rfl
@[simp] theorem sset_tvec (a : Arch) (r : Nat) (w : Word) : (a.sset r w).tvec = a.tvec := rfl
@[simp] theorem sset_bank (a : Arch) (r : Nat) (w : Word) : (a.sset r w).bank = a.bank := rfl
@[simp] theorem sset_yield (a : Arch) (r : Nat) (w : Word) : (a.sset r w).yield = a.yield := rfl
@[simp] theorem sset_scFence (a : Arch) (r : Nat) (w : Word) : (a.sset r w).scFence = a.scFence := rfl
@[simp] theorem sset_wpaddr (a : Arch) (r : Nat) (w : Word) : (a.sset r w).wpaddr = a.wpaddr := rfl
@[simp] theorem sset_waitFrom (a : Arch) (r : Nat) (w : Word) : (a.sset r w).waitFrom = a.waitFrom := rfl
@[simp] theorem sset_spawned (a : Arch) (r : Nat) (w : Word) : (a.sset r w).spawned = a.spawned := rfl
@[simp] theorem sset_issued (a : Arch) (r : Nat) (w : Word) : (a.sset r w).issued = a.issued := rfl

/-! ### orFlags -/

@[simp] theorem orFlags_pc (a : Arch) (g : Flags) : (a.orFlags g).pc = a.pc := rfl
@[simp] theorem orFlags_s (a : Arch) (g : Flags) : (a.orFlags g).s = a.s := rfl
@[simp] theorem orFlags_v (a : Arch) (g : Flags) : (a.orFlags g).v = a.v := rfl
@[simp] theorem orFlags_x (a : Arch) (g : Flags) : (a.orFlags g).x = a.x := rfl
@[simp] theorem orFlags_k (a : Arch) (g : Flags) : (a.orFlags g).k = a.k := rfl
@[simp] theorem orFlags_live (a : Arch) (g : Flags) : (a.orFlags g).live = a.live := rfl
@[simp] theorem orFlags_exited (a : Arch) (g : Flags) : (a.orFlags g).exited = a.exited := rfl
@[simp] theorem orFlags_uninitcnt (a : Arch) (g : Flags) : (a.orFlags g).uninitcnt = a.uninitcnt := rfl
@[simp] theorem orFlags_uninitaddr (a : Arch) (g : Flags) : (a.orFlags g).uninitaddr = a.uninitaddr := rfl
@[simp] theorem orFlags_uninitBy (a : Arch) (g : Flags) : (a.orFlags g).uninitBy = a.uninitBy := rfl
@[simp] theorem orFlags_gdetail (a : Arch) (g : Flags) : (a.orFlags g).gdetail = a.gdetail := rfl
@[simp] theorem orFlags_stack (a : Arch) (g : Flags) : (a.orFlags g).stack = a.stack := rfl
@[simp] theorem orFlags_tiles (a : Arch) (g : Flags) : (a.orFlags g).tiles = a.tiles := rfl
@[simp] theorem orFlags_esc (a : Arch) (g : Flags) : (a.orFlags g).esc = a.esc := rfl
@[simp] theorem orFlags_inHandler (a : Arch) (g : Flags) : (a.orFlags g).inHandler = a.inHandler := rfl
@[simp] theorem orFlags_tvec (a : Arch) (g : Flags) : (a.orFlags g).tvec = a.tvec := rfl
@[simp] theorem orFlags_bank (a : Arch) (g : Flags) : (a.orFlags g).bank = a.bank := rfl
@[simp] theorem orFlags_yield (a : Arch) (g : Flags) : (a.orFlags g).yield = a.yield := rfl
@[simp] theorem orFlags_scFence (a : Arch) (g : Flags) : (a.orFlags g).scFence = a.scFence := rfl
@[simp] theorem orFlags_wpaddr (a : Arch) (g : Flags) : (a.orFlags g).wpaddr = a.wpaddr := rfl
@[simp] theorem orFlags_waitFrom (a : Arch) (g : Flags) : (a.orFlags g).waitFrom = a.waitFrom := rfl
@[simp] theorem orFlags_spawned (a : Arch) (g : Flags) : (a.orFlags g).spawned = a.spawned := rfl
@[simp] theorem orFlags_issued (a : Arch) (g : Flags) : (a.orFlags g).issued = a.issued := rfl

/-! ### ssetPair -/

@[simp] theorem ssetPair_pc (a : Arch) (r x : Nat) : (a.ssetPair r x).pc = a.pc := rfl
@[simp] theorem ssetPair_v (a : Arch) (r x : Nat) : (a.ssetPair r x).v = a.v := rfl
@[simp] theorem ssetPair_x (a : Arch) (r x : Nat) : (a.ssetPair r x).x = a.x := rfl
@[simp] theorem ssetPair_k (a : Arch) (r x : Nat) : (a.ssetPair r x).k = a.k := rfl
@[simp] theorem ssetPair_live (a : Arch) (r x : Nat) : (a.ssetPair r x).live = a.live := rfl
@[simp] theorem ssetPair_exited (a : Arch) (r x : Nat) : (a.ssetPair r x).exited = a.exited := rfl
@[simp] theorem ssetPair_flags (a : Arch) (r x : Nat) : (a.ssetPair r x).flags = a.flags := rfl
@[simp] theorem ssetPair_uninitcnt (a : Arch) (r x : Nat) : (a.ssetPair r x).uninitcnt = a.uninitcnt := rfl
@[simp] theorem ssetPair_uninitaddr (a : Arch) (r x : Nat) : (a.ssetPair r x).uninitaddr = a.uninitaddr := rfl
@[simp] theorem ssetPair_uninitBy (a : Arch) (r x : Nat) : (a.ssetPair r x).uninitBy = a.uninitBy := rfl
@[simp] theorem ssetPair_gdetail (a : Arch) (r x : Nat) : (a.ssetPair r x).gdetail = a.gdetail := rfl
@[simp] theorem ssetPair_stack (a : Arch) (r x : Nat) : (a.ssetPair r x).stack = a.stack := rfl
@[simp] theorem ssetPair_tiles (a : Arch) (r x : Nat) : (a.ssetPair r x).tiles = a.tiles := rfl
@[simp] theorem ssetPair_esc (a : Arch) (r x : Nat) : (a.ssetPair r x).esc = a.esc := rfl
@[simp] theorem ssetPair_inHandler (a : Arch) (r x : Nat) : (a.ssetPair r x).inHandler = a.inHandler := rfl
@[simp] theorem ssetPair_tvec (a : Arch) (r x : Nat) : (a.ssetPair r x).tvec = a.tvec := rfl
@[simp] theorem ssetPair_bank (a : Arch) (r x : Nat) : (a.ssetPair r x).bank = a.bank := rfl
@[simp] theorem ssetPair_yield (a : Arch) (r x : Nat) : (a.ssetPair r x).yield = a.yield := rfl
@[simp] theorem ssetPair_scFence (a : Arch) (r x : Nat) : (a.ssetPair r x).scFence = a.scFence := rfl
@[simp] theorem ssetPair_wpaddr (a : Arch) (r x : Nat) : (a.ssetPair r x).wpaddr = a.wpaddr := rfl
@[simp] theorem ssetPair_waitFrom (a : Arch) (r x : Nat) : (a.ssetPair r x).waitFrom = a.waitFrom := rfl
@[simp] theorem ssetPair_spawned (a : Arch) (r x : Nat) : (a.ssetPair r x).spawned = a.spawned := rfl
@[simp] theorem ssetPair_issued (a : Arch) (r x : Nat) : (a.ssetPair r x).issued = a.issued := rfl

/-! ### kset -/

@[simp] theorem kset_pc (a : Arch) (r : Nat) (m x : Mask) : (a.kset r m x).pc = a.pc := by unfold Arch.kset; split <;> rfl
@[simp] theorem kset_s (a : Arch) (r : Nat) (m x : Mask) : (a.kset r m x).s = a.s := by unfold Arch.kset; split <;> rfl
@[simp] theorem kset_v (a : Arch) (r : Nat) (m x : Mask) : (a.kset r m x).v = a.v := by unfold Arch.kset; split <;> rfl
@[simp] theorem kset_x (a : Arch) (r : Nat) (m x : Mask) : (a.kset r m x).x = a.x := by unfold Arch.kset; split <;> rfl
@[simp] theorem kset_live (a : Arch) (r : Nat) (m x : Mask) : (a.kset r m x).live = a.live := by unfold Arch.kset; split <;> rfl
@[simp] theorem kset_exited (a : Arch) (r : Nat) (m x : Mask) : (a.kset r m x).exited = a.exited := by unfold Arch.kset; split <;> rfl
@[simp] theorem kset_flags (a : Arch) (r : Nat) (m x : Mask) : (a.kset r m x).flags = a.flags := by unfold Arch.kset; split <;> rfl
@[simp] theorem kset_uninitcnt (a : Arch) (r : Nat) (m x : Mask) : (a.kset r m x).uninitcnt = a.uninitcnt := by unfold Arch.kset; split <;> rfl
@[simp] theorem kset_uninitaddr (a : Arch) (r : Nat) (m x : Mask) : (a.kset r m x).uninitaddr = a.uninitaddr := by unfold Arch.kset; split <;> rfl
@[simp] theorem kset_uninitBy (a : Arch) (r : Nat) (m x : Mask) : (a.kset r m x).uninitBy = a.uninitBy := by unfold Arch.kset; split <;> rfl
@[simp] theorem kset_gdetail (a : Arch) (r : Nat) (m x : Mask) : (a.kset r m x).gdetail = a.gdetail := by unfold Arch.kset; split <;> rfl
@[simp] theorem kset_stack (a : Arch) (r : Nat) (m x : Mask) : (a.kset r m x).stack = a.stack := by unfold Arch.kset; split <;> rfl
@[simp] theorem kset_tiles (a : Arch) (r : Nat) (m x : Mask) : (a.kset r m x).tiles = a.tiles := by unfold Arch.kset; split <;> rfl
@[simp] theorem kset_esc (a : Arch) (r : Nat) (m x : Mask) : (a.kset r m x).esc = a.esc := by unfold Arch.kset; split <;> rfl
@[simp] theorem kset_inHandler (a : Arch) (r : Nat) (m x : Mask) : (a.kset r m x).inHandler = a.inHandler := by unfold Arch.kset; split <;> rfl
@[simp] theorem kset_tvec (a : Arch) (r : Nat) (m x : Mask) : (a.kset r m x).tvec = a.tvec := by unfold Arch.kset; split <;> rfl
@[simp] theorem kset_bank (a : Arch) (r : Nat) (m x : Mask) : (a.kset r m x).bank = a.bank := by unfold Arch.kset; split <;> rfl
@[simp] theorem kset_yield (a : Arch) (r : Nat) (m x : Mask) : (a.kset r m x).yield = a.yield := by unfold Arch.kset; split <;> rfl
@[simp] theorem kset_scFence (a : Arch) (r : Nat) (m x : Mask) : (a.kset r m x).scFence = a.scFence := by unfold Arch.kset; split <;> rfl
@[simp] theorem kset_wpaddr (a : Arch) (r : Nat) (m x : Mask) : (a.kset r m x).wpaddr = a.wpaddr := by unfold Arch.kset; split <;> rfl
@[simp] theorem kset_waitFrom (a : Arch) (r : Nat) (m x : Mask) : (a.kset r m x).waitFrom = a.waitFrom := by unfold Arch.kset; split <;> rfl
@[simp] theorem kset_spawned (a : Arch) (r : Nat) (m x : Mask) : (a.kset r m x).spawned = a.spawned := by unfold Arch.kset; split <;> rfl
@[simp] theorem kset_issued (a : Arch) (r : Nat) (m x : Mask) : (a.kset r m x).issued = a.issued := by unfold Arch.kset; split <;> rfl

/-! ### updOpen -/

@[simp] theorem updOpen_uid (t : Team) (f : Region → Region) : (t.updOpen f).uid = t.uid := rfl
@[simp] theorem updOpen_kind (t : Team) (f : Region → Region) : (t.updOpen f).kind = t.kind := rfl
@[simp] theorem updOpen_loc (t : Team) (f : Region → Region) : (t.updOpen f).loc = t.loc := rfl
@[simp] theorem updOpen_grid (t : Team) (f : Region → Region) : (t.updOpen f).grid = t.grid := rfl
@[simp] theorem updOpen_block (t : Team) (f : Region → Region) : (t.updOpen f).block = t.block := rfl
@[simp] theorem updOpen_idx (t : Team) (f : Region → Region) : (t.updOpen f).idx = t.idx := rfl
@[simp] theorem updOpen_tw (t : Team) (f : Region → Region) : (t.updOpen f).tw = t.tw := rfl
@[simp] theorem updOpen_gw (t : Team) (f : Region → Region) : (t.updOpen f).gw = t.gw := rfl
@[simp] theorem updOpen_regs (t : Team) (f : Region → Region) : (t.updOpen f).regs = t.regs := rfl
@[simp] theorem updOpen_acc (t : Team) (f : Region → Region) : (t.updOpen f).acc = t.acc := rfl
@[simp] theorem updOpen_arch (t : Team) (f : Region → Region) : (t.updOpen f).arch = t.arch := rfl
@[simp] theorem updOpen_needHead (t : Team) (f : Region → Region) : (t.updOpen f).needHead = t.needHead := rfl
@[simp] theorem updOpen_nextRegion (t : Team) (f : Region → Region) : (t.updOpen f).nextRegion = t.nextRegion := rfl
@[simp] theorem updOpen_nextId (t : Team) (f : Region → Region) : (t.updOpen f).nextId = t.nextId := rfl
@[simp] theorem updOpen_relq (t : Team) (f : Region → Region) : (t.updOpen f).relq = t.relq := rfl
@[simp] theorem updOpen_accs (t : Team) (f : Region → Region) : (t.updOpen f).accs = t.accs := rfl
@[simp] theorem updOpen_pend (t : Team) (f : Region → Region) : (t.updOpen f).pend = t.pend := rfl
@[simp] theorem updOpen_deferred (t : Team) (f : Region → Region) : (t.updOpen f).deferred = t.deferred := rfl
@[simp] theorem updOpen_run (t : Team) (f : Region → Region) : (t.updOpen f).run = t.run := rfl
@[simp] theorem updOpen_frozen (t : Team) (f : Region → Region) : (t.updOpen f).frozen = t.frozen := rfl
@[simp] theorem updOpen_stepMode (t : Team) (f : Region → Region) : (t.updOpen f).stepMode = t.stepMode := rfl
@[simp] theorem updOpen_cnts (t : Team) (f : Region → Region) : (t.updOpen f).cnts = t.cnts := rfl
@[simp] theorem updOpen_returned (t : Team) (f : Region → Region) : (t.updOpen f).returned = t.returned := rfl
@[simp] theorem updOpen_waitSlots (t : Team) (f : Region → Region) : (t.updOpen f).waitSlots = t.waitSlots := rfl
@[simp] theorem updOpen_yielded (t : Team) (f : Region → Region) : (t.updOpen f).yielded = t.yielded := rfl
@[simp] theorem updOpen_age (t : Team) (f : Region → Region) : (t.updOpen f).age = t.age := rfl
@[simp] theorem updOpen_prio (t : Team) (f : Region → Region) : (t.updOpen f).prio = t.prio := rfl
@[simp] theorem updOpen_depth (t : Team) (f : Region → Region) : (t.updOpen f).depth = t.depth := rfl
@[simp] theorem updOpen_ticket (t : Team) (f : Region → Region) : (t.updOpen f).ticket = t.ticket := rfl
@[simp] theorem updOpen_lineage (t : Team) (f : Region → Region) : (t.updOpen f).lineage = t.lineage := rfl
@[simp] theorem updOpen_cell (t : Team) (f : Region → Region) : (t.updOpen f).cell = t.cell := rfl
@[simp] theorem updOpen_strikes (t : Team) (f : Region → Region) : (t.updOpen f).strikes = t.strikes := rfl
@[simp] theorem updOpen_residues (t : Team) (f : Region → Region) : (t.updOpen f).residues = t.residues := rfl
@[simp] theorem updOpen_mismatches (t : Team) (f : Region → Region) : (t.updOpen f).mismatches = t.mismatches := rfl
@[simp] theorem updOpen_strikeHead (t : Team) (f : Region → Region) : (t.updOpen f).strikeHead = t.strikeHead := rfl
@[simp] theorem updOpen_checkHead (t : Team) (f : Region → Region) : (t.updOpen f).checkHead = t.checkHead := rfl
@[simp] theorem updOpen_missHead (t : Team) (f : Region → Region) : (t.updOpen f).missHead = t.missHead := rfl
@[simp] theorem updOpen_borrowed (t : Team) (f : Region → Region) : (t.updOpen f).borrowed = t.borrowed := rfl
@[simp] theorem updOpen_cont (t : Team) (f : Region → Region) : (t.updOpen f).cont = t.cont := rfl
@[simp] theorem updOpen_role (t : Team) (f : Region → Region) : (t.updOpen f).role = t.role := rfl
@[simp] theorem updOpen_mate (t : Team) (f : Region → Region) : (t.updOpen f).mate = t.mate := rfl
@[simp] theorem updOpen_lvq (t : Team) (f : Region → Region) : (t.updOpen f).lvq = t.lvq := rfl
@[simp] theorem updOpen_barbs (t : Team) (f : Region → Region) : (t.updOpen f).barbs = t.barbs := rfl
@[simp] theorem updOpen_watch (t : Team) (f : Region → Region) : (t.updOpen f).watch = t.watch := rfl
@[simp] theorem updOpen_recalls (t : Team) (f : Region → Region) : (t.updOpen f).recalls = t.recalls := rfl
@[simp] theorem updOpen_unread (t : Team) (f : Region → Region) : (t.updOpen f).unread = t.unread := rfl
@[simp] theorem updOpen_exiting (t : Team) (f : Region → Region) : (t.updOpen f).exiting = t.exiting := rfl

/-! ### closeRegion -/

@[simp] theorem closeRegion_uid (t : Team) (k : Nat) : (t.closeRegion k).uid = t.uid := rfl
@[simp] theorem closeRegion_kind (t : Team) (k : Nat) : (t.closeRegion k).kind = t.kind := rfl
@[simp] theorem closeRegion_loc (t : Team) (k : Nat) : (t.closeRegion k).loc = t.loc := rfl
@[simp] theorem closeRegion_grid (t : Team) (k : Nat) : (t.closeRegion k).grid = t.grid := rfl
@[simp] theorem closeRegion_block (t : Team) (k : Nat) : (t.closeRegion k).block = t.block := rfl
@[simp] theorem closeRegion_idx (t : Team) (k : Nat) : (t.closeRegion k).idx = t.idx := rfl
@[simp] theorem closeRegion_tw (t : Team) (k : Nat) : (t.closeRegion k).tw = t.tw := rfl
@[simp] theorem closeRegion_gw (t : Team) (k : Nat) : (t.closeRegion k).gw = t.gw := rfl
@[simp] theorem closeRegion_regs (t : Team) (k : Nat) : (t.closeRegion k).regs = t.regs := rfl
@[simp] theorem closeRegion_acc (t : Team) (k : Nat) : (t.closeRegion k).acc = t.acc := rfl
@[simp] theorem closeRegion_arch (t : Team) (k : Nat) : (t.closeRegion k).arch = t.arch := rfl
@[simp] theorem closeRegion_needHead (t : Team) (k : Nat) : (t.closeRegion k).needHead = t.needHead := rfl
@[simp] theorem closeRegion_nextRegion (t : Team) (k : Nat) : (t.closeRegion k).nextRegion = t.nextRegion := rfl
@[simp] theorem closeRegion_nextId (t : Team) (k : Nat) : (t.closeRegion k).nextId = t.nextId := rfl
@[simp] theorem closeRegion_relq (t : Team) (k : Nat) : (t.closeRegion k).relq = t.relq := rfl
@[simp] theorem closeRegion_accs (t : Team) (k : Nat) : (t.closeRegion k).accs = t.accs := rfl
@[simp] theorem closeRegion_pend (t : Team) (k : Nat) : (t.closeRegion k).pend = t.pend := rfl
@[simp] theorem closeRegion_deferred (t : Team) (k : Nat) : (t.closeRegion k).deferred = t.deferred := rfl
@[simp] theorem closeRegion_run (t : Team) (k : Nat) : (t.closeRegion k).run = t.run := rfl
@[simp] theorem closeRegion_frozen (t : Team) (k : Nat) : (t.closeRegion k).frozen = t.frozen := rfl
@[simp] theorem closeRegion_stepMode (t : Team) (k : Nat) : (t.closeRegion k).stepMode = t.stepMode := rfl
@[simp] theorem closeRegion_cnts (t : Team) (k : Nat) : (t.closeRegion k).cnts = t.cnts := rfl
@[simp] theorem closeRegion_returned (t : Team) (k : Nat) : (t.closeRegion k).returned = t.returned := rfl
@[simp] theorem closeRegion_waitSlots (t : Team) (k : Nat) : (t.closeRegion k).waitSlots = t.waitSlots := rfl
@[simp] theorem closeRegion_yielded (t : Team) (k : Nat) : (t.closeRegion k).yielded = t.yielded := rfl
@[simp] theorem closeRegion_age (t : Team) (k : Nat) : (t.closeRegion k).age = t.age := rfl
@[simp] theorem closeRegion_prio (t : Team) (k : Nat) : (t.closeRegion k).prio = t.prio := rfl
@[simp] theorem closeRegion_depth (t : Team) (k : Nat) : (t.closeRegion k).depth = t.depth := rfl
@[simp] theorem closeRegion_ticket (t : Team) (k : Nat) : (t.closeRegion k).ticket = t.ticket := rfl
@[simp] theorem closeRegion_lineage (t : Team) (k : Nat) : (t.closeRegion k).lineage = t.lineage := rfl
@[simp] theorem closeRegion_cell (t : Team) (k : Nat) : (t.closeRegion k).cell = t.cell := rfl
@[simp] theorem closeRegion_strikes (t : Team) (k : Nat) : (t.closeRegion k).strikes = t.strikes := rfl
@[simp] theorem closeRegion_residues (t : Team) (k : Nat) : (t.closeRegion k).residues = t.residues := rfl
@[simp] theorem closeRegion_mismatches (t : Team) (k : Nat) : (t.closeRegion k).mismatches = t.mismatches := rfl
@[simp] theorem closeRegion_strikeHead (t : Team) (k : Nat) : (t.closeRegion k).strikeHead = t.strikeHead := rfl
@[simp] theorem closeRegion_checkHead (t : Team) (k : Nat) : (t.closeRegion k).checkHead = t.checkHead := rfl
@[simp] theorem closeRegion_missHead (t : Team) (k : Nat) : (t.closeRegion k).missHead = t.missHead := rfl
@[simp] theorem closeRegion_borrowed (t : Team) (k : Nat) : (t.closeRegion k).borrowed = t.borrowed := rfl
@[simp] theorem closeRegion_cont (t : Team) (k : Nat) : (t.closeRegion k).cont = t.cont := rfl
@[simp] theorem closeRegion_role (t : Team) (k : Nat) : (t.closeRegion k).role = t.role := rfl
@[simp] theorem closeRegion_mate (t : Team) (k : Nat) : (t.closeRegion k).mate = t.mate := rfl
@[simp] theorem closeRegion_lvq (t : Team) (k : Nat) : (t.closeRegion k).lvq = t.lvq := rfl
@[simp] theorem closeRegion_barbs (t : Team) (k : Nat) : (t.closeRegion k).barbs = t.barbs := rfl
@[simp] theorem closeRegion_watch (t : Team) (k : Nat) : (t.closeRegion k).watch = t.watch := rfl
@[simp] theorem closeRegion_recalls (t : Team) (k : Nat) : (t.closeRegion k).recalls = t.recalls := rfl
@[simp] theorem closeRegion_unread (t : Team) (k : Nat) : (t.closeRegion k).unread = t.unread := rfl
@[simp] theorem closeRegion_exiting (t : Team) (k : Nat) : (t.closeRegion k).exiting = t.exiting := rfl

/-! ### updRegion -/

@[simp] theorem updRegion_uid (t : Team) (i : Nat) (f : Region → Region) : (t.updRegion i f).uid = t.uid := rfl
@[simp] theorem updRegion_kind (t : Team) (i : Nat) (f : Region → Region) : (t.updRegion i f).kind = t.kind := rfl
@[simp] theorem updRegion_loc (t : Team) (i : Nat) (f : Region → Region) : (t.updRegion i f).loc = t.loc := rfl
@[simp] theorem updRegion_grid (t : Team) (i : Nat) (f : Region → Region) : (t.updRegion i f).grid = t.grid := rfl
@[simp] theorem updRegion_block (t : Team) (i : Nat) (f : Region → Region) : (t.updRegion i f).block = t.block := rfl
@[simp] theorem updRegion_idx (t : Team) (i : Nat) (f : Region → Region) : (t.updRegion i f).idx = t.idx := rfl
@[simp] theorem updRegion_tw (t : Team) (i : Nat) (f : Region → Region) : (t.updRegion i f).tw = t.tw := rfl
@[simp] theorem updRegion_gw (t : Team) (i : Nat) (f : Region → Region) : (t.updRegion i f).gw = t.gw := rfl
@[simp] theorem updRegion_regs (t : Team) (i : Nat) (f : Region → Region) : (t.updRegion i f).regs = t.regs := rfl
@[simp] theorem updRegion_acc (t : Team) (i : Nat) (f : Region → Region) : (t.updRegion i f).acc = t.acc := rfl
@[simp] theorem updRegion_arch (t : Team) (i : Nat) (f : Region → Region) : (t.updRegion i f).arch = t.arch := rfl
@[simp] theorem updRegion_needHead (t : Team) (i : Nat) (f : Region → Region) : (t.updRegion i f).needHead = t.needHead := rfl
@[simp] theorem updRegion_nextRegion (t : Team) (i : Nat) (f : Region → Region) : (t.updRegion i f).nextRegion = t.nextRegion := rfl
@[simp] theorem updRegion_nextId (t : Team) (i : Nat) (f : Region → Region) : (t.updRegion i f).nextId = t.nextId := rfl
@[simp] theorem updRegion_relq (t : Team) (i : Nat) (f : Region → Region) : (t.updRegion i f).relq = t.relq := rfl
@[simp] theorem updRegion_accs (t : Team) (i : Nat) (f : Region → Region) : (t.updRegion i f).accs = t.accs := rfl
@[simp] theorem updRegion_pend (t : Team) (i : Nat) (f : Region → Region) : (t.updRegion i f).pend = t.pend := rfl
@[simp] theorem updRegion_deferred (t : Team) (i : Nat) (f : Region → Region) : (t.updRegion i f).deferred = t.deferred := rfl
@[simp] theorem updRegion_run (t : Team) (i : Nat) (f : Region → Region) : (t.updRegion i f).run = t.run := rfl
@[simp] theorem updRegion_frozen (t : Team) (i : Nat) (f : Region → Region) : (t.updRegion i f).frozen = t.frozen := rfl
@[simp] theorem updRegion_stepMode (t : Team) (i : Nat) (f : Region → Region) : (t.updRegion i f).stepMode = t.stepMode := rfl
@[simp] theorem updRegion_cnts (t : Team) (i : Nat) (f : Region → Region) : (t.updRegion i f).cnts = t.cnts := rfl
@[simp] theorem updRegion_returned (t : Team) (i : Nat) (f : Region → Region) : (t.updRegion i f).returned = t.returned := rfl
@[simp] theorem updRegion_waitSlots (t : Team) (i : Nat) (f : Region → Region) : (t.updRegion i f).waitSlots = t.waitSlots := rfl
@[simp] theorem updRegion_yielded (t : Team) (i : Nat) (f : Region → Region) : (t.updRegion i f).yielded = t.yielded := rfl
@[simp] theorem updRegion_age (t : Team) (i : Nat) (f : Region → Region) : (t.updRegion i f).age = t.age := rfl
@[simp] theorem updRegion_prio (t : Team) (i : Nat) (f : Region → Region) : (t.updRegion i f).prio = t.prio := rfl
@[simp] theorem updRegion_depth (t : Team) (i : Nat) (f : Region → Region) : (t.updRegion i f).depth = t.depth := rfl
@[simp] theorem updRegion_ticket (t : Team) (i : Nat) (f : Region → Region) : (t.updRegion i f).ticket = t.ticket := rfl
@[simp] theorem updRegion_lineage (t : Team) (i : Nat) (f : Region → Region) : (t.updRegion i f).lineage = t.lineage := rfl
@[simp] theorem updRegion_cell (t : Team) (i : Nat) (f : Region → Region) : (t.updRegion i f).cell = t.cell := rfl
@[simp] theorem updRegion_strikes (t : Team) (i : Nat) (f : Region → Region) : (t.updRegion i f).strikes = t.strikes := rfl
@[simp] theorem updRegion_residues (t : Team) (i : Nat) (f : Region → Region) : (t.updRegion i f).residues = t.residues := rfl
@[simp] theorem updRegion_mismatches (t : Team) (i : Nat) (f : Region → Region) : (t.updRegion i f).mismatches = t.mismatches := rfl
@[simp] theorem updRegion_strikeHead (t : Team) (i : Nat) (f : Region → Region) : (t.updRegion i f).strikeHead = t.strikeHead := rfl
@[simp] theorem updRegion_checkHead (t : Team) (i : Nat) (f : Region → Region) : (t.updRegion i f).checkHead = t.checkHead := rfl
@[simp] theorem updRegion_missHead (t : Team) (i : Nat) (f : Region → Region) : (t.updRegion i f).missHead = t.missHead := rfl
@[simp] theorem updRegion_borrowed (t : Team) (i : Nat) (f : Region → Region) : (t.updRegion i f).borrowed = t.borrowed := rfl
@[simp] theorem updRegion_cont (t : Team) (i : Nat) (f : Region → Region) : (t.updRegion i f).cont = t.cont := rfl
@[simp] theorem updRegion_role (t : Team) (i : Nat) (f : Region → Region) : (t.updRegion i f).role = t.role := rfl
@[simp] theorem updRegion_mate (t : Team) (i : Nat) (f : Region → Region) : (t.updRegion i f).mate = t.mate := rfl
@[simp] theorem updRegion_lvq (t : Team) (i : Nat) (f : Region → Region) : (t.updRegion i f).lvq = t.lvq := rfl
@[simp] theorem updRegion_barbs (t : Team) (i : Nat) (f : Region → Region) : (t.updRegion i f).barbs = t.barbs := rfl
@[simp] theorem updRegion_watch (t : Team) (i : Nat) (f : Region → Region) : (t.updRegion i f).watch = t.watch := rfl
@[simp] theorem updRegion_recalls (t : Team) (i : Nat) (f : Region → Region) : (t.updRegion i f).recalls = t.recalls := rfl
@[simp] theorem updRegion_unread (t : Team) (i : Nat) (f : Region → Region) : (t.updRegion i f).unread = t.unread := rfl
@[simp] theorem updRegion_exiting (t : Team) (i : Nat) (f : Region → Region) : (t.updRegion i f).exiting = t.exiting := rfl

/-! ### openAt -/

@[simp] theorem openAt_uid (t : Team) (k d n : Nat) : (t.openAt k d n).uid = t.uid := rfl
@[simp] theorem openAt_kind (t : Team) (k d n : Nat) : (t.openAt k d n).kind = t.kind := rfl
@[simp] theorem openAt_loc (t : Team) (k d n : Nat) : (t.openAt k d n).loc = t.loc := rfl
@[simp] theorem openAt_grid (t : Team) (k d n : Nat) : (t.openAt k d n).grid = t.grid := rfl
@[simp] theorem openAt_block (t : Team) (k d n : Nat) : (t.openAt k d n).block = t.block := rfl
@[simp] theorem openAt_idx (t : Team) (k d n : Nat) : (t.openAt k d n).idx = t.idx := rfl
@[simp] theorem openAt_tw (t : Team) (k d n : Nat) : (t.openAt k d n).tw = t.tw := rfl
@[simp] theorem openAt_gw (t : Team) (k d n : Nat) : (t.openAt k d n).gw = t.gw := rfl
@[simp] theorem openAt_regs (t : Team) (k d n : Nat) : (t.openAt k d n).regs = t.regs := rfl
@[simp] theorem openAt_acc (t : Team) (k d n : Nat) : (t.openAt k d n).acc = t.acc := rfl
@[simp] theorem openAt_arch (t : Team) (k d n : Nat) : (t.openAt k d n).arch = t.arch := rfl
@[simp] theorem openAt_nextId (t : Team) (k d n : Nat) : (t.openAt k d n).nextId = t.nextId := rfl
@[simp] theorem openAt_relq (t : Team) (k d n : Nat) : (t.openAt k d n).relq = t.relq := rfl
@[simp] theorem openAt_accs (t : Team) (k d n : Nat) : (t.openAt k d n).accs = t.accs := rfl
@[simp] theorem openAt_pend (t : Team) (k d n : Nat) : (t.openAt k d n).pend = t.pend := rfl
@[simp] theorem openAt_deferred (t : Team) (k d n : Nat) : (t.openAt k d n).deferred = t.deferred := rfl
@[simp] theorem openAt_run (t : Team) (k d n : Nat) : (t.openAt k d n).run = t.run := rfl
@[simp] theorem openAt_frozen (t : Team) (k d n : Nat) : (t.openAt k d n).frozen = t.frozen := rfl
@[simp] theorem openAt_stepMode (t : Team) (k d n : Nat) : (t.openAt k d n).stepMode = t.stepMode := rfl
@[simp] theorem openAt_cnts (t : Team) (k d n : Nat) : (t.openAt k d n).cnts = t.cnts := rfl
@[simp] theorem openAt_returned (t : Team) (k d n : Nat) : (t.openAt k d n).returned = t.returned := rfl
@[simp] theorem openAt_waitSlots (t : Team) (k d n : Nat) : (t.openAt k d n).waitSlots = t.waitSlots := rfl
@[simp] theorem openAt_yielded (t : Team) (k d n : Nat) : (t.openAt k d n).yielded = t.yielded := rfl
@[simp] theorem openAt_age (t : Team) (k d n : Nat) : (t.openAt k d n).age = t.age := rfl
@[simp] theorem openAt_prio (t : Team) (k d n : Nat) : (t.openAt k d n).prio = t.prio := rfl
@[simp] theorem openAt_depth (t : Team) (k d n : Nat) : (t.openAt k d n).depth = t.depth := rfl
@[simp] theorem openAt_ticket (t : Team) (k d n : Nat) : (t.openAt k d n).ticket = t.ticket := rfl
@[simp] theorem openAt_lineage (t : Team) (k d n : Nat) : (t.openAt k d n).lineage = t.lineage := rfl
@[simp] theorem openAt_cell (t : Team) (k d n : Nat) : (t.openAt k d n).cell = t.cell := rfl
@[simp] theorem openAt_strikes (t : Team) (k d n : Nat) : (t.openAt k d n).strikes = t.strikes := rfl
@[simp] theorem openAt_residues (t : Team) (k d n : Nat) : (t.openAt k d n).residues = t.residues := rfl
@[simp] theorem openAt_mismatches (t : Team) (k d n : Nat) : (t.openAt k d n).mismatches = t.mismatches := rfl
@[simp] theorem openAt_strikeHead (t : Team) (k d n : Nat) : (t.openAt k d n).strikeHead = t.strikeHead := rfl
@[simp] theorem openAt_checkHead (t : Team) (k d n : Nat) : (t.openAt k d n).checkHead = t.checkHead := rfl
@[simp] theorem openAt_missHead (t : Team) (k d n : Nat) : (t.openAt k d n).missHead = t.missHead := rfl
@[simp] theorem openAt_borrowed (t : Team) (k d n : Nat) : (t.openAt k d n).borrowed = t.borrowed := rfl
@[simp] theorem openAt_cont (t : Team) (k d n : Nat) : (t.openAt k d n).cont = t.cont := rfl
@[simp] theorem openAt_role (t : Team) (k d n : Nat) : (t.openAt k d n).role = t.role := rfl
@[simp] theorem openAt_mate (t : Team) (k d n : Nat) : (t.openAt k d n).mate = t.mate := rfl
@[simp] theorem openAt_lvq (t : Team) (k d n : Nat) : (t.openAt k d n).lvq = t.lvq := rfl
@[simp] theorem openAt_barbs (t : Team) (k d n : Nat) : (t.openAt k d n).barbs = t.barbs := rfl
@[simp] theorem openAt_watch (t : Team) (k d n : Nat) : (t.openAt k d n).watch = t.watch := rfl
@[simp] theorem openAt_recalls (t : Team) (k d n : Nat) : (t.openAt k d n).recalls = t.recalls := rfl
@[simp] theorem openAt_unread (t : Team) (k d n : Nat) : (t.openAt k d n).unread = t.unread := rfl
@[simp] theorem openAt_exiting (t : Team) (k d n : Nat) : (t.openAt k d n).exiting = t.exiting := rfl

/-! ### implicitHead -/

@[simp] theorem implicitHead_uid (t : Team) (k : Nat) : (t.implicitHead k).uid = t.uid := by unfold Team.implicitHead; dsimp only; split <;> rfl
@[simp] theorem implicitHead_kind (t : Team) (k : Nat) : (t.implicitHead k).kind = t.kind := by unfold Team.implicitHead; dsimp only; split <;> rfl
@[simp] theorem implicitHead_loc (t : Team) (k : Nat) : (t.implicitHead k).loc = t.loc := by unfold Team.implicitHead; dsimp only; split <;> rfl
@[simp] theorem implicitHead_grid (t : Team) (k : Nat) : (t.implicitHead k).grid = t.grid := by unfold Team.implicitHead; dsimp only; split <;> rfl
@[simp] theorem implicitHead_block (t : Team) (k : Nat) : (t.implicitHead k).block = t.block := by unfold Team.implicitHead; dsimp only; split <;> rfl
@[simp] theorem implicitHead_idx (t : Team) (k : Nat) : (t.implicitHead k).idx = t.idx := by unfold Team.implicitHead; dsimp only; split <;> rfl
@[simp] theorem implicitHead_tw (t : Team) (k : Nat) : (t.implicitHead k).tw = t.tw := by unfold Team.implicitHead; dsimp only; split <;> rfl
@[simp] theorem implicitHead_gw (t : Team) (k : Nat) : (t.implicitHead k).gw = t.gw := by unfold Team.implicitHead; dsimp only; split <;> rfl
@[simp] theorem implicitHead_regs (t : Team) (k : Nat) : (t.implicitHead k).regs = t.regs := by unfold Team.implicitHead; dsimp only; split <;> rfl
@[simp] theorem implicitHead_acc (t : Team) (k : Nat) : (t.implicitHead k).acc = t.acc := by unfold Team.implicitHead; dsimp only; split <;> rfl
@[simp] theorem implicitHead_arch (t : Team) (k : Nat) : (t.implicitHead k).arch = t.arch := by unfold Team.implicitHead; dsimp only; split <;> rfl
@[simp] theorem implicitHead_nextId (t : Team) (k : Nat) : (t.implicitHead k).nextId = t.nextId := by unfold Team.implicitHead; dsimp only; split <;> rfl
@[simp] theorem implicitHead_relq (t : Team) (k : Nat) : (t.implicitHead k).relq = t.relq := by unfold Team.implicitHead; dsimp only; split <;> rfl
@[simp] theorem implicitHead_accs (t : Team) (k : Nat) : (t.implicitHead k).accs = t.accs := by unfold Team.implicitHead; dsimp only; split <;> rfl
@[simp] theorem implicitHead_pend (t : Team) (k : Nat) : (t.implicitHead k).pend = t.pend := by unfold Team.implicitHead; dsimp only; split <;> rfl
@[simp] theorem implicitHead_deferred (t : Team) (k : Nat) : (t.implicitHead k).deferred = t.deferred := by unfold Team.implicitHead; dsimp only; split <;> rfl
@[simp] theorem implicitHead_run (t : Team) (k : Nat) : (t.implicitHead k).run = t.run := by unfold Team.implicitHead; dsimp only; split <;> rfl
@[simp] theorem implicitHead_frozen (t : Team) (k : Nat) : (t.implicitHead k).frozen = t.frozen := by unfold Team.implicitHead; dsimp only; split <;> rfl
@[simp] theorem implicitHead_stepMode (t : Team) (k : Nat) : (t.implicitHead k).stepMode = t.stepMode := by unfold Team.implicitHead; dsimp only; split <;> rfl
@[simp] theorem implicitHead_cnts (t : Team) (k : Nat) : (t.implicitHead k).cnts = t.cnts := by unfold Team.implicitHead; dsimp only; split <;> rfl
@[simp] theorem implicitHead_returned (t : Team) (k : Nat) : (t.implicitHead k).returned = t.returned := by unfold Team.implicitHead; dsimp only; split <;> rfl
@[simp] theorem implicitHead_waitSlots (t : Team) (k : Nat) : (t.implicitHead k).waitSlots = t.waitSlots := by unfold Team.implicitHead; dsimp only; split <;> rfl
@[simp] theorem implicitHead_yielded (t : Team) (k : Nat) : (t.implicitHead k).yielded = t.yielded := by unfold Team.implicitHead; dsimp only; split <;> rfl
@[simp] theorem implicitHead_age (t : Team) (k : Nat) : (t.implicitHead k).age = t.age := by unfold Team.implicitHead; dsimp only; split <;> rfl
@[simp] theorem implicitHead_prio (t : Team) (k : Nat) : (t.implicitHead k).prio = t.prio := by unfold Team.implicitHead; dsimp only; split <;> rfl
@[simp] theorem implicitHead_depth (t : Team) (k : Nat) : (t.implicitHead k).depth = t.depth := by unfold Team.implicitHead; dsimp only; split <;> rfl
@[simp] theorem implicitHead_ticket (t : Team) (k : Nat) : (t.implicitHead k).ticket = t.ticket := by unfold Team.implicitHead; dsimp only; split <;> rfl
@[simp] theorem implicitHead_lineage (t : Team) (k : Nat) : (t.implicitHead k).lineage = t.lineage := by unfold Team.implicitHead; dsimp only; split <;> rfl
@[simp] theorem implicitHead_cell (t : Team) (k : Nat) : (t.implicitHead k).cell = t.cell := by unfold Team.implicitHead; dsimp only; split <;> rfl
@[simp] theorem implicitHead_strikes (t : Team) (k : Nat) : (t.implicitHead k).strikes = t.strikes := by unfold Team.implicitHead; dsimp only; split <;> rfl
@[simp] theorem implicitHead_residues (t : Team) (k : Nat) : (t.implicitHead k).residues = t.residues := by unfold Team.implicitHead; dsimp only; split <;> rfl
@[simp] theorem implicitHead_mismatches (t : Team) (k : Nat) : (t.implicitHead k).mismatches = t.mismatches := by unfold Team.implicitHead; dsimp only; split <;> rfl
@[simp] theorem implicitHead_strikeHead (t : Team) (k : Nat) : (t.implicitHead k).strikeHead = t.strikeHead := by unfold Team.implicitHead; dsimp only; split <;> rfl
@[simp] theorem implicitHead_checkHead (t : Team) (k : Nat) : (t.implicitHead k).checkHead = t.checkHead := by unfold Team.implicitHead; dsimp only; split <;> rfl
@[simp] theorem implicitHead_missHead (t : Team) (k : Nat) : (t.implicitHead k).missHead = t.missHead := by unfold Team.implicitHead; dsimp only; split <;> rfl
@[simp] theorem implicitHead_borrowed (t : Team) (k : Nat) : (t.implicitHead k).borrowed = t.borrowed := by unfold Team.implicitHead; dsimp only; split <;> rfl
@[simp] theorem implicitHead_cont (t : Team) (k : Nat) : (t.implicitHead k).cont = t.cont := by unfold Team.implicitHead; dsimp only; split <;> rfl
@[simp] theorem implicitHead_role (t : Team) (k : Nat) : (t.implicitHead k).role = t.role := by unfold Team.implicitHead; dsimp only; split <;> rfl
@[simp] theorem implicitHead_mate (t : Team) (k : Nat) : (t.implicitHead k).mate = t.mate := by unfold Team.implicitHead; dsimp only; split <;> rfl
@[simp] theorem implicitHead_lvq (t : Team) (k : Nat) : (t.implicitHead k).lvq = t.lvq := by unfold Team.implicitHead; dsimp only; split <;> rfl
@[simp] theorem implicitHead_barbs (t : Team) (k : Nat) : (t.implicitHead k).barbs = t.barbs := by unfold Team.implicitHead; dsimp only; split <;> rfl
@[simp] theorem implicitHead_watch (t : Team) (k : Nat) : (t.implicitHead k).watch = t.watch := by unfold Team.implicitHead; dsimp only; split <;> rfl
@[simp] theorem implicitHead_recalls (t : Team) (k : Nat) : (t.implicitHead k).recalls = t.recalls := by unfold Team.implicitHead; dsimp only; split <;> rfl
@[simp] theorem implicitHead_unread (t : Team) (k : Nat) : (t.implicitHead k).unread = t.unread := by unfold Team.implicitHead; dsimp only; split <;> rfl
@[simp] theorem implicitHead_exiting (t : Team) (k : Nat) : (t.implicitHead k).exiting = t.exiting := by unfold Team.implicitHead; dsimp only; split <;> rfl

end Sys2Proof.Laws
end

