-- ==== Sys2Proof/Laws/Issue.lean ====
section
/-! SUPPORT. How a word that a running team executes ends: one lemma for each end that its effect can have. -/

namespace Sys2Proof.Laws

open Sys2Proof.Machine

/-- A team that is looked up bears the uid asked for. -/
theorem team?_uid {s : State} {u : Nat} {t : Team} (h : s.team? u = some t) : t.uid = u := by
  have := List.find?_some h
  simpa using this

/-- Looking up a uid in a list of teams after one has been replaced. -/
theorem find_replaced (t : Team) (u : Nat) (l : List Team) :
    (l.map (fun x => if x.uid = t.uid then t else x)).find? (fun x => x.uid == u) =
      if u = t.uid then (l.find? (fun x => x.uid == u)).map (fun _ => t) else l.find? (fun x => x.uid == u) := by
  induction l with
  | nil => simp
  | cons x xs ih =>
    simp only [List.map_cons, List.find?_cons, ih]
    by_cases hx : x.uid = t.uid <;> by_cases hu : u = t.uid
    · simp [hx, hu]
    · have h1 : (t.uid == u) = false := by simpa using fun e => hu e.symm
      simp [hx, hu, h1]
    · have h1 : (x.uid == u) = false := by simpa [hu] using hx
      subst hu; simp only [h1, hx, if_false, if_true]
    · simp [hx, hu]

/-- Replacing a resident team makes the lookup of its uid give the replacement. -/
theorem team?_setTeam {s : State} {t : Team} (h : (s.team? t.uid).isSome) : (s.setTeam t).team? t.uid = some t := by
  obtain ⟨x, hx⟩ := Option.isSome_iff_exists.mp h
  have := find_replaced t t.uid s.teams
  unfold State.team? at hx
  unfold State.team? State.setTeam
  simp only [this, if_true, hx, Option.map_some]

/-- Replacing one team leaves the lookup of another. -/
theorem team?_setTeam_ne {s : State} {t : Team} {u : Nat} (h : u ≠ t.uid) : (s.setTeam t).team? u = s.team? u := by
  have := find_replaced t u s.teams
  unfold State.team? State.setTeam
  simp only [this, h, if_false]

/-- Sampling touches no team. -/
@[simp] theorem noteSample_teams (s : State) (t : Team) (n : Nat) : (s.noteSample t n).teams = s.teams := by
  unfold State.noteSample; split
  · rfl
  · dsimp only; split <;> rfl

/-- A word that has issued leaves its team resident, with the single step it was under. -/
theorem finish_team {s : State} {t : Team} {w : Word1} {pc : Option DWord} (h : (s.team? t.uid).isSome) :
    ∃ t', (s.finish t w pc).team? t.uid = some t' ∧ t'.stepMode = t.stepMode := by
  unfold State.finish
  dsimp only
  have key : ∀ (n : Nat) (x : Team), x.uid = t.uid → ((({ (if w.sample && n != 0 then s.noteSample t n else s) with issue := none } : State).setTeam x).team? t.uid) = some x := by
    intro n x hx
    rw [← hx]
    apply team?_setTeam
    rw [hx]
    have : (({ (if w.sample && n != 0 then s.noteSample t n else s) with issue := none } : State).team? t.uid) = s.team? t.uid := by
      unfold State.team?; split <;> simp
    rw [this]; exact h
  split
  · split
    · exact ⟨_, key _ _ rfl, rfl⟩
    · exact ⟨_, key _ _ rfl, rfl⟩
  · exact ⟨_, key _ _ rfl, rfl⟩

/-- With no single step asked for, nothing follows a word. -/
theorem afterStep_off {s : State} {u : Nat} {pc : DWord} (h : ∀ t, s.team? u = some t → t.stepMode = .off) : s.afterStep u pc = s := by
  unfold State.afterStep
  split
  · rfl
  · rename_i t ht
    simp [h t ht]

/-- The issuing team. -/
theorem running_issuer {s : State} {t : Team} (h : Running s t) : s.issuer = some t := by
  unfold State.issuer; rw [h.issue]; exact h.team

/-- A word that passes the decode order runs as its kind says. -/
theorem runWord_passes {s : State} {t : Team} {w : Word1} (hr : Running s t) (hp : Passes s t w) :
    s.runWord t w = if w.closing s t then s.runClosing t w else s.runOpen t w := by
  unfold State.runWord
  simp only [hr.alone, hr.kind, Bool.false_and, hp.check, hp.pred, hp.bounds]
  simp [hp.caps, hp.targets]

/-- A word with its region, limits and room has its effect. -/
theorem runOpen_fits {s : State} {t : Team} {w : Word1} (hf : Fits s t w) :
    s.runOpen t w = match w.effect s t with
      | .done s' t' pc => (s'.markHits t' (w.demand s t)).finish (t'.note (w.demand s t)) w pc
      | .trap tr => s.wordTrap t w tr
      | .wait s' run => s'.wordWait t run
      | .act s' => s' := by
  obtain ⟨r, hr, ho, hn⟩ := hf.room
  unfold State.runOpen Team.withHead
  simp [hf.head, hr, ho, hn] <;> (cases h : w.effect s t <;> simp)

/-- What issuing a word comes to when it fits. -/
theorem issueWord_fits {s : State} {t : Team} {w : Word1} (hr : Running s t) (hp : Passes s t w) (hf : Fits s t w) :
    issueWord w s = .next ((match w.effect s t with
      | .done s' t' pc => (s'.markHits t' (w.demand s t)).finish (t'.note (w.demand s t)) w pc
      | .trap tr => s.wordTrap t w tr
      | .wait s' run => s'.wordWait t run
      | .act s' => s').afterStep t.uid t.arch.pc) := by
  unfold issueWord
  rw [running_issuer hr]
  simp only
  rw [runWord_passes hr hp, hf.closing]
  simp only [Bool.false_eq_true, if_false]
  rw [runOpen_fits hf]

/-- A word that writes no tile meets no staged one. -/
@[simp] theorem markHits_none (s : State) (t : Team) {d : Demand} (h : d.tiles = []) : s.markHits t d = s := by
  simp [State.markHits, h]

/-- Tile writes that meet staged tiles move no team. -/
theorem markHits_team (s : State) (t : Team) (d : Demand) (u : Nat) :
    ((s.markHits t d).team? u).isSome = (s.team? u).isSome := by
  unfold State.markHits State.team?
  split
  · rfl
  · induction s.teams with
    | nil => rfl
    | cons x xs ih =>
      simp only [List.map_cons, List.find?_cons]
      cases h : x.uid == u
      · simpa [h] using ih
      · simp

/-- A word that fits and whose effect is done issues. -/
theorem issueWord_done {s s' : State} {t t' : Team} {w : Word1} {pc : Option DWord} (hr : Running s t) (hp : Passes s t w) (hf : Fits s t w)
    (he : w.effect s t = .done s' t' pc) (hu : t'.uid = t.uid) (hs : t'.stepMode = t.stepMode) (hin : s'.teams = s.teams) :
    issueWord w s = .next ((s'.markHits t' (w.demand s t)).finish (t'.note (w.demand s t)) w pc) := by
  rw [issueWord_fits hr hp hf, he]
  simp only
  have hu' : (t'.note (w.demand s t)).uid = t.uid := hu
  have hs' : (t'.note (w.demand s t)).stepMode = t.stepMode := hs
  have ht : ((s'.markHits t' (w.demand s t)).team? (t'.note (w.demand s t)).uid).isSome := by
    have : s'.team? t.uid = s.team? t.uid := by unfold State.team?; rw [hin]
    rw [hu', markHits_team, this, hr.team]; rfl
  obtain ⟨x, hx, hxs⟩ := finish_team (w := w) (pc := pc) ht
  rw [afterStep_off]
  intro y hy
  rw [← hu', hx] at hy
  cases hy
  rw [hxs, hs', hr.step]

/-- What issuing a closing word comes to when nothing is left to wait for. -/
theorem issueWord_closes {s : State} {t : Team} {w : Word1} (hr : Running s t) (hp : Passes s t w) (hc : Closes s t w) :
    issueWord w s = .next ((match w.effect s { t with needHead := true } with
      | .done s' t' pc => s'.finish t' w pc
      | .trap tr => s.wordTrap { t with needHead := true } w tr
      | .wait s' run => ({ s' with issue := none }.setTeam { { t with needHead := true } with run := run })
      | .act s' => s').afterStep t.uid t.arch.pc) := by
  unfold issueWord
  rw [running_issuer hr]
  simp only
  rw [runWord_passes hr hp, hc.closing]
  simp only [if_true]
  unfold State.runClosing
  have ha : s.parkAcquire t = s := by unfold State.parkAcquire; rw [hc.acquired]; rfl
  simp [ha, hc.park, hc.failed, hc.drained] <;> (cases h : w.effect s { t with needHead := true } <;> simp)

/-- A closing word whose effect is done issues. -/
theorem issueWord_closed {s s' : State} {t t' : Team} {w : Word1} {pc : Option DWord} (hr : Running s t) (hp : Passes s t w)
    (hc : Closes s t w) (he : w.effect s { t with needHead := true } = .done s' t' pc) (hu : t'.uid = t.uid)
    (hs : t'.stepMode = t.stepMode) (hin : s'.teams = s.teams) :
    issueWord w s = .next (s'.finish t' w pc) := by
  rw [issueWord_closes hr hp hc, he]
  simp only
  have ht : (s'.team? t'.uid).isSome := by
    have : s'.team? t.uid = s.team? t.uid := by unfold State.team?; rw [hin]
    rw [hu, this, hr.team]; rfl
  obtain ⟨x, hx, hxs⟩ := finish_team (w := w) (pc := pc) ht
  rw [afterStep_off]
  intro y hy
  rw [← hu, hx] at hy
  cases hy
  rw [hxs, hs, hr.step]

/-- What a POISON_LOAD trap acquires moves no team. -/
@[simp] theorem poisonAcquire_team (s : State) (t : Team) (tr : Trap) (u : Nat) : (s.poisonAcquire t tr).team? u = s.team? u := by
  unfold State.poisonAcquire; split <;> rfl

/-- Taking a trap leaves the team resident, with the single step it was under. -/
theorem takeTrap_team {s : State} {t : Team} {tr : Trap} (h : (s.team? t.uid).isSome) :
    ∃ t', (s.takeTrap t tr).team? t.uid = some t' ∧ t'.stepMode = t.stepMode := by
  unfold State.takeTrap
  dsimp only
  split
  · have ha : ∀ (s : State) (u g n : Nat) (c : Cause), (s.abortGrid g n c).team? u = s.team? u := fun _ _ _ _ _ => rfl
    rw [ha]
    exact ⟨_, team?_setTeam (t := { t with arch := _, run := _ }) (by rw [poisonAcquire_team]; exact h), rfl⟩
  · generalize hx : Team.implicitHead _ _ = x
    have hu : x.uid = t.uid := by rw [← hx]; simp
    have hs : x.stepMode = t.stepMode := by rw [← hx]; simp
    refine ⟨x, ?_, hs⟩
    rw [← hu]; apply team?_setTeam; rw [hu, poisonAcquire_team]; exact h

/-- A report changes nothing but %estat's once bit. -/
@[simp] theorem report_cause (w : Word1) (tr : Trap) : (w.report tr).cause = tr.cause := rfl

/-- A word that does not execute once reports as the raising rule says. -/
theorem report_lanes {w : Word1} (tr : Trap) (h : w.once = false) : w.report tr = tr := by
  cases tr; simp [Word1.report, h]

/-- A word that executes once says so. -/
theorem report_once {w : Word1} (tr : Trap) (h : w.once = true) : w.report tr = { tr with once := true } := by
  simp [Word1.report, h]

/-- Discarding a marker's own report changes no name. -/
theorem quiet_names (t : Team) (w : Word1) : (t.quiet w).uid = t.uid ∧ (t.quiet w).stepMode = t.stepMode := by
  unfold Team.quiet; split <;> exact ⟨rfl, rfl⟩

/-- A word that fits and whose effect is a precise trap takes it. -/
theorem issueWord_trap {s : State} {t : Team} {w : Word1} {tr : Trap} (hr : Running s t) (hp : Passes s t w) (hf : Fits s t w)
    (he : w.effect s t = .trap tr) :
    issueWord w s = .next (s.takeTrap (t.quiet w) (w.report tr)) := by
  rw [issueWord_fits hr hp hf, he]
  simp only
  have hk : s.wordTrap t w tr = s.takeTrap (t.quiet w) (w.report tr) := by
    unfold State.wordTrap
    have := hr.kind
    cases h : t.kind <;> simp [h] at this ⊢
  rw [hk]
  congr 1
  apply afterStep_off
  intro y hy
  have ht : ∃ t', (s.takeTrap (t.quiet w) (w.report tr)).team? t.uid = some t' ∧ t'.stepMode = t.stepMode := by
    obtain ⟨hu, hs⟩ := quiet_names t w
    rw [← hu, ← hs]
    exact takeTrap_team (by rw [hu, hr.team]; rfl)
  obtain ⟨x, hx, hxs⟩ := ht
  rw [hx] at hy; cases hy; rw [hxs, hr.step]

/-- A word that must wait leaves its team resident, with the single step it was under. -/
theorem wordWait_team {s : State} {t : Team} {r : RunState} (h : (s.team? t.uid).isSome) :
    ∃ t', (s.wordWait t r).team? t.uid = some t' ∧ t'.stepMode = t.stepMode := by
  unfold State.wordWait
  dsimp only
  have key : ∀ (x : Team), x.uid = t.uid → (({ s with issue := none } : State).setTeam x).team? t.uid = some x := by
    intro x hx
    rw [← hx]
    apply team?_setTeam
    rw [hx]; exact h
  generalize hb : (_ || t.role == Role.trailing : Bool) = b
  cases b
  · refine ⟨_, key _ ?_, ?_⟩ <;> simp [Team.lvqPush] <;> split <;> rfl
  · exact ⟨_, key _ rfl, rfl⟩

/-- A word that fits and must wait waits. -/
theorem issueWord_wait {s s' : State} {t : Team} {w : Word1} {r : RunState} (hr : Running s t) (hp : Passes s t w) (hf : Fits s t w)
    (he : w.effect s t = .wait s' r) (hin : s'.teams = s.teams) :
    issueWord w s = .next (s'.wordWait t r) := by
  rw [issueWord_fits hr hp hf, he]
  simp only
  have ht : (s'.team? t.uid).isSome := by
    have : s'.team? t.uid = s.team? t.uid := by unfold State.team?; rw [hin]
    rw [this, hr.team]; rfl
  obtain ⟨x, hx, hxs⟩ := wordWait_team (r := r) ht
  rw [afterStep_off]
  intro y hy
  rw [hx] at hy
  cases hy
  rw [hxs, hr.step]

/-- A word that agrees with another in what the decode order reads passes where that one does. -/
theorem passes_congr {s : State} {t : Team} {w w' : Word1} (h : Passes s t w) (h1 : w'.caps = w.caps) (h2 : w'.check s t = w.check s t)
    (h3 : w'.hd = w.hd) (h4 : w'.bounds s t = w.bounds s t) (h5 : w'.targets s t = w.targets s t) : Passes s t w' :=
  ⟨by rw [h1]; exact h.caps, by rw [h2]; exact h.check, by rw [h3]; exact h.pred, by rw [h4]; exact h.bounds, by rw [h5]; exact h.targets⟩

/-- A word of the same kind and demand as another fits where that one does. -/
theorem fits_congr {s : State} {t : Team} {w w' : Word1} (h : Fits s t w) (h1 : w'.closing s t = w.closing s t)
    (h2 : w'.demand s t = w.demand s t) : Fits s t w' :=
  ⟨by rw [h1]; exact h.closing, h.head, by rw [h2]; exact h.room⟩

/-- The end of a word depends on its length, header and counting alone. -/
theorem finish_congr (s : State) (t : Team) {w w' : Word1} (pc : Option DWord) (h1 : w'.len = w.len) (h2 : w'.hd = w.hd) (h3 : w'.once = w.once)
    (h4 : w'.sample = w.sample) : s.finish t w' pc = s.finish t w pc := by
  unfold State.finish; rw [h1, h2, h3, h4]

end Sys2Proof.Laws
end

