-- ==== Sys2Proof/Laws/Memory.lean ====
section
/-! SUPPORT. The canonical form of memory: every memory operation keeps it, and the memory after reset has it. -/

namespace Sys2Proof.Laws

open Sys2Proof.Machine

/-- A memory in canonical form whose addresses all lie at or above a. -/
def Memory.above (a : Nat) (m : Memory) : Prop := m.wf = true ∧ ∀ c ∈ m, a ≤ c.1

/-- The canonical form, entry by entry. -/
theorem Memory.wf_cons (c : Host.Cell) (m : Memory) :
    Memory.wf (c :: m) = true ↔ c.2 ≠ Memory.fill ∧ Memory.wf m = true ∧ ∀ d ∈ m, c.1 < d.1 := by
  induction m generalizing c with
  | nil => simp [Memory.wf]
  | cons d m ih =>
    simp only [Memory.wf, Bool.and_eq_true, decide_eq_true_eq, bne_iff_ne, List.mem_cons, forall_eq_or_imp]
    constructor
    · rintro ⟨⟨h1, h2⟩, h3⟩
      exact ⟨h2, h3, h1, fun x hx => Nat.lt_trans h1 (((ih d).mp h3).2.2 x hx)⟩
    · rintro ⟨h1, h2, h3, -⟩
      exact ⟨⟨h3, h1⟩, h2⟩

/-- The entries after a write are the written one and entries there before. -/
theorem Memory.mem_set {m : Memory} {a : Nat} {b : Byte} {c : Host.Cell} (h : c ∈ m.set a b) : c = (a, b) ∨ c ∈ m := by
  induction m with
  | nil =>
    unfold Memory.set at h; split at h
    · simp at h
    · simp at h; exact .inl h
  | cons d m ih =>
    unfold Memory.set at h
    split at h
    · rcases List.mem_cons.mp h with h | h
      · exact .inr (by simp [h])
      · rcases ih h with h | h
        · exact .inl h
        · exact .inr (by simp [h])
    · split at h <;> split at h <;> simp only [List.mem_cons] at h ⊢
      · exact .inr (.inr h)
      · exact h.imp id .inr
      · exact .inr h
      · exact h

/-- A write keeps the canonical form. -/
theorem Memory.set_wf {m : Memory} (h : m.wf = true) (a : Nat) (b : Byte) : (m.set a b).wf = true := by
  induction m with
  | nil =>
    unfold Memory.set; split
    · rfl
    · simp_all [Memory.wf]
  | cons c m ih =>
    obtain ⟨h1, h2, h3⟩ := (Memory.wf_cons c m).mp h
    unfold Memory.set
    split
    · rename_i hlt
      refine (Memory.wf_cons _ _).mpr ⟨h1, ih h2, fun d hd => ?_⟩
      rcases Memory.mem_set hd with rfl | hd
      · exact hlt
      · exact h3 d hd
    · rename_i hge
      split
      · rename_i heq
        split
        · exact h2
        · rename_i hb
          exact (Memory.wf_cons _ _).mpr ⟨hb, h2, fun d hd => heq ▸ h3 d hd⟩
      · rename_i hne
        split
        · exact h
        · rename_i hb
          refine (Memory.wf_cons _ _).mpr ⟨hb, h, fun d hd => ?_⟩
          rcases List.mem_cons.mp hd with rfl | hd
          · show a < d.1; omega
          · have := h3 d hd; show a < d.1; omega

/-- A run of bytes keeps the canonical form. -/
theorem Memory.put_wf {m : Memory} (h : m.wf = true) (a : Nat) (bs : List Byte) : (m.put a bs).wf = true := by
  induction bs generalizing m a with
  | nil => exact h
  | cons b bs ih => exact ih (Memory.set_wf h a b) (a + 1)

/-- A masked run of bytes keeps the canonical form. -/
theorem Memory.putMasked_wf {m : Memory} (h : m.wf = true) (a : Nat) (mask : BitVec 64) (bs : List Byte) (i : Nat) :
    (m.putMasked a mask bs i).wf = true := by
  induction bs generalizing m i with
  | nil => exact h
  | cons b bs ih =>
    unfold Memory.putMasked
    refine ih ?_ (i + 1)
    split
    · exact Memory.set_wf h _ _
    · exact h

/-- Both memories after reset are in canonical form. -/
theorem reset_wf : State.reset.mem.wf = true ∧ State.reset.hostMem.wf = true := ⟨rfl, rfl⟩

end Sys2Proof.Laws
end

