-- ==== Sys2Proof/Laws/PerInstr.lean ====
section
/-! SUPPORT. Every instruction's encoding has the shape of Table 2.1: a first word whose kind is not that of an extension word, and one
extension word after it exactly when it is a full instruction with X = 1 (R26, R36); an event row has no words. -/

namespace Sys2Proof.Laws

open Sys2Proof

/-- A bit of a field is a bit of its word. -/
theorem fld_bit (w : DWord) (lo len i : Nat) : (fld w lo len).getLsbD i = (decide (i < len) && w.getLsbD (lo + i)) := by
  simp [fld]

/-- A two-bit field by its bits. -/
theorem fld2_eq (w : DWord) (lo : Nat) (b : BitVec 2) (h0 : w.getLsbD lo = b.getLsbD 0) (h1 : w.getLsbD (lo + 1) = b.getLsbD 1) :
    fld w lo 2 = b := by
  apply BitVec.eq_of_getLsbD_eq
  intro i hi
  rw [fld_bit]
  obtain rfl | rfl : i = 0 ∨ i = 1 := by omega
  · simpa using h0
  · simpa using h1

/-- What the encoding of an instruction row looks like. -/
def Encoded.Statement (i : Instr) : Prop :=
  i.isWord = true → ∃ w rest, encode i = w :: rest ∧ fld w 62 2 ≠ 2 ∧ (∀ x ∈ rest, fld x 62 2 = 2) ∧
    rest.length = if fld w 62 2 = 0 ∧ bitAt w 14 = true then 1 else 0

/-- An extension word has kind 10. -/
theorem ext_kind (e : Ext) : fld e.word 62 2 = 2 := by
  apply fld2_eq <;> exact BitVec.getLsbD_append.trans (by simp only [BitVec.getLsbD_append]; simp)

/-- A full instruction's words have the shape. -/
theorem fullWords_shape (op : BitVec 9) (hd : Head) (d a b : BitVec 11) (m : BitVec 14) (e : Option Ext) :
    ∃ w rest, fullWords op hd d a b m e = w :: rest ∧ fld w 62 2 ≠ 2 ∧ (∀ x ∈ rest, fld x 62 2 = 2) ∧
      rest.length = if fld w 62 2 = 0 ∧ bitAt w 14 = true then 1 else 0 := by
  refine ⟨_, _, rfl, ?_⟩
  generalize hw : (0#2 ++ BitVec.ofBool hd.sw ++ op ++ hd.pred ++ BitVec.ofBool hd.pn ++ d ++ a ++ b ++ BitVec.ofBool e.isSome ++ m : DWord) = w
  have hk : fld w 62 2 = 0 := by
    subst hw
    apply fld2_eq <;> exact BitVec.getLsbD_append.trans (by simp only [BitVec.getLsbD_append, BitVec.getLsbD_ofBool]; simp)
  have hx : bitAt w 14 = e.isSome := by
    subst hw
    exact BitVec.getLsbD_append.trans (by simp only [BitVec.getLsbD_append, BitVec.getLsbD_ofBool]; simp)
  rw [hk, hx]
  cases e with
  | none => simp
  | some x => simp [ext_kind]

/-- A single word that is no full instruction and no extension word has the shape. -/
theorem one_shape {w : DWord} (h : fld w 62 2 = 1 ∨ fld w 62 2 = 3) :
    ∃ v rest, [w] = v :: rest ∧ fld v 62 2 ≠ 2 ∧ (∀ x ∈ rest, fld x 62 2 = 2) ∧
      rest.length = if fld v 62 2 = 0 ∧ bitAt v 14 = true then 1 else 0 := by
  refine ⟨w, [], rfl, ?_⟩
  rcases h with h | h <;> simp [h]

/-- The kind of a pair word and of a head mark. -/
theorem pair_kind (p : PairWord) : fld p.word 62 2 = 1 := by
  apply fld2_eq <;> exact BitVec.getLsbD_append.trans (by simp only [BitVec.getLsbD_append, BitVec.getLsbD_ofBool]; simp)

theorem mark_kind (mk : BitVec 5) (m : HeadMark) : fld (m.word mk) 62 2 = 3 := by
  apply fld2_eq <;> exact BitVec.getLsbD_append.trans (by simp only [BitVec.getLsbD_append, BitVec.getLsbD_ofBool]; simp)

theorem Encoded.nop (w : FullA) : Encoded.Statement (.nop w) := fun _ => fullWords_shape ..
theorem Encoded.mov (w : FullA) : Encoded.Statement (.mov w) := fun _ => fullWords_shape ..
theorem Encoded.ldi (w : FullA) : Encoded.Statement (.ldi w) := fun _ => fullWords_shape ..
theorem Encoded.sel (w : FullA) : Encoded.Statement (.sel w) := fun _ => fullWords_shape ..
theorem Encoded.iadd (w : FullA) : Encoded.Statement (.iadd w) := fun _ => fullWords_shape ..
theorem Encoded.isub (w : FullA) : Encoded.Statement (.isub w) := fun _ => fullWords_shape ..
theorem Encoded.imul (w : FullA) : Encoded.Statement (.imul w) := fun _ => fullWords_shape ..
theorem Encoded.imulh (w : FullA) : Encoded.Statement (.imulh w) := fun _ => fullWords_shape ..
theorem Encoded.imad (w : FullA) : Encoded.Statement (.imad w) := fun _ => fullWords_shape ..
theorem Encoded.imin (w : FullA) : Encoded.Statement (.imin w) := fun _ => fullWords_shape ..
theorem Encoded.imax (w : FullA) : Encoded.Statement (.imax w) := fun _ => fullWords_shape ..
theorem Encoded.iabs (w : FullA) : Encoded.Statement (.iabs w) := fun _ => fullWords_shape ..
theorem Encoded.ineg (w : FullA) : Encoded.Statement (.ineg w) := fun _ => fullWords_shape ..
theorem Encoded.and (w : FullA) : Encoded.Statement (.and w) := fun _ => fullWords_shape ..
theorem Encoded.or (w : FullA) : Encoded.Statement (.or w) := fun _ => fullWords_shape ..
theorem Encoded.xor (w : FullA) : Encoded.Statement (.xor w) := fun _ => fullWords_shape ..
theorem Encoded.andn (w : FullA) : Encoded.Statement (.andn w) := fun _ => fullWords_shape ..
theorem Encoded.not (w : FullA) : Encoded.Statement (.not w) := fun _ => fullWords_shape ..
theorem Encoded.shl (w : FullA) : Encoded.Statement (.shl w) := fun _ => fullWords_shape ..
theorem Encoded.shr (w : FullA) : Encoded.Statement (.shr w) := fun _ => fullWords_shape ..
theorem Encoded.sar (w : FullA) : Encoded.Statement (.sar w) := fun _ => fullWords_shape ..
theorem Encoded.rotl (w : FullA) : Encoded.Statement (.rotl w) := fun _ => fullWords_shape ..
theorem Encoded.bfx (w : FullA) : Encoded.Statement (.bfx w) := fun _ => fullWords_shape ..
theorem Encoded.bfi (w : FullA) : Encoded.Statement (.bfi w) := fun _ => fullWords_shape ..
theorem Encoded.popc (w : FullA) : Encoded.Statement (.popc w) := fun _ => fullWords_shape ..
theorem Encoded.clz (w : FullA) : Encoded.Statement (.clz w) := fun _ => fullWords_shape ..
theorem Encoded.brev (w : FullA) : Encoded.Statement (.brev w) := fun _ => fullWords_shape ..
theorem Encoded.icmp (w : FullA) : Encoded.Statement (.icmp w) := fun _ => fullWords_shape ..
theorem Encoded.lea (w : FullA) : Encoded.Statement (.lea w) := fun _ => fullWords_shape ..
theorem Encoded.iadd64 (w : FullA) : Encoded.Statement (.iadd64 w) := fun _ => fullWords_shape ..
theorem Encoded.isub64 (w : FullA) : Encoded.Statement (.isub64 w) := fun _ => fullWords_shape ..
theorem Encoded.icmp64 (w : FullA) : Encoded.Statement (.icmp64 w) := fun _ => fullWords_shape ..
theorem Encoded.iadds (w : FullA) : Encoded.Statement (.iadds w) := fun _ => fullWords_shape ..
theorem Encoded.dot4 (w : FullA) : Encoded.Statement (.dot4 w) := fun _ => fullWords_shape ..
theorem Encoded.permb (w : FullA) : Encoded.Statement (.permb w) := fun _ => fullWords_shape ..
theorem Encoded.fadd (w : FullA) : Encoded.Statement (.fadd w) := fun _ => fullWords_shape ..
theorem Encoded.fsub (w : FullA) : Encoded.Statement (.fsub w) := fun _ => fullWords_shape ..
theorem Encoded.fmul (w : FullA) : Encoded.Statement (.fmul w) := fun _ => fullWords_shape ..
theorem Encoded.ffma (w : FullA) : Encoded.Statement (.ffma w) := fun _ => fullWords_shape ..
theorem Encoded.fmin (w : FullA) : Encoded.Statement (.fmin w) := fun _ => fullWords_shape ..
theorem Encoded.fmax (w : FullA) : Encoded.Statement (.fmax w) := fun _ => fullWords_shape ..
theorem Encoded.fcmp (w : FullA) : Encoded.Statement (.fcmp w) := fun _ => fullWords_shape ..
theorem Encoded.fclass (w : FullA) : Encoded.Statement (.fclass w) := fun _ => fullWords_shape ..
theorem Encoded.frcp (w : FullA) : Encoded.Statement (.frcp w) := fun _ => fullWords_shape ..
theorem Encoded.frsq (w : FullA) : Encoded.Statement (.frsq w) := fun _ => fullWords_shape ..
theorem Encoded.fsqrt (w : FullA) : Encoded.Statement (.fsqrt w) := fun _ => fullWords_shape ..
theorem Encoded.fex2 (w : FullA) : Encoded.Statement (.fex2 w) := fun _ => fullWords_shape ..
theorem Encoded.flg2 (w : FullA) : Encoded.Statement (.flg2 w) := fun _ => fullWords_shape ..
theorem Encoded.fsin (w : FullA) : Encoded.Statement (.fsin w) := fun _ => fullWords_shape ..
theorem Encoded.fcos (w : FullA) : Encoded.Statement (.fcos w) := fun _ => fullWords_shape ..
theorem Encoded.ftanh (w : FullA) : Encoded.Statement (.ftanh w) := fun _ => fullWords_shape ..
theorem Encoded.frnd (w : FullA) : Encoded.Statement (.frnd w) := fun _ => fullWords_shape ..
theorem Encoded.ffmax (w : FullA) : Encoded.Statement (.ffmax w) := fun _ => fullWords_shape ..
theorem Encoded.cvt (w : FullC) : Encoded.Statement (.cvt w) := fun _ => fullWords_shape ..
theorem Encoded.cvtsr (w : FullC) : Encoded.Statement (.cvtsr w) := fun _ => fullWords_shape ..
theorem Encoded.bscale (w : FullC) : Encoded.Statement (.bscale w) := fun _ => fullWords_shape ..
theorem Encoded.shfl (w : FullC) : Encoded.Statement (.shfl w) := fun _ => fullWords_shape ..
theorem Encoded.bcast (w : FullC) : Encoded.Statement (.bcast w) := fun _ => fullWords_shape ..
theorem Encoded.vote (w : FullC) : Encoded.Statement (.vote w) := fun _ => fullWords_shape ..
theorem Encoded.redux (w : FullC) : Encoded.Statement (.redux w) := fun _ => fullWords_shape ..
theorem Encoded.scan (w : FullC) : Encoded.Statement (.scan w) := fun _ => fullWords_shape ..
theorem Encoded.elect (w : FullC) : Encoded.Statement (.elect w) := fun _ => fullWords_shape ..
theorem Encoded.kand (w : FullC) : Encoded.Statement (.kand w) := fun _ => fullWords_shape ..
theorem Encoded.kor (w : FullC) : Encoded.Statement (.kor w) := fun _ => fullWords_shape ..
theorem Encoded.kxor (w : FullC) : Encoded.Statement (.kxor w) := fun _ => fullWords_shape ..
theorem Encoded.knot (w : FullC) : Encoded.Statement (.knot w) := fun _ => fullWords_shape ..
theorem Encoded.kmov (w : FullC) : Encoded.Statement (.kmov w) := fun _ => fullWords_shape ..
theorem Encoded.kpop (w : FullC) : Encoded.Statement (.kpop w) := fun _ => fullWords_shape ..
theorem Encoded.kfirst (w : FullC) : Encoded.Statement (.kfirst w) := fun _ => fullWords_shape ..
theorem Encoded.mma (w : FullX) : Encoded.Statement (.mma w) := fun _ => fullWords_shape ..
theorem Encoded.mmam (w : FullX) : Encoded.Statement (.mmam w) := fun _ => fullWords_shape ..
theorem Encoded.mmq (w : FullX) : Encoded.Statement (.mmq w) := fun _ => fullWords_shape ..
theorem Encoded.qscale (w : FullX) : Encoded.Statement (.qscale w) := fun _ => fullWords_shape ..
theorem Encoded.qzero (w : FullX) : Encoded.Statement (.qzero w) := fun _ => fullWords_shape ..
theorem Encoded.qld (w : FullX) : Encoded.Statement (.qld w) := fun _ => fullWords_shape ..
theorem Encoded.qst (w : FullX) : Encoded.Statement (.qst w) := fun _ => fullWords_shape ..
theorem Encoded.qcvt (w : FullX) : Encoded.Statement (.qcvt w) := fun _ => fullWords_shape ..
theorem Encoded.qmov (w : FullX) : Encoded.Statement (.qmov w) := fun _ => fullWords_shape ..
theorem Encoded.ldf (w : FullX) : Encoded.Statement (.ldf w) := fun _ => fullWords_shape ..
theorem Encoded.qadd (w : FullX) : Encoded.Statement (.qadd w) := fun _ => fullWords_shape ..
theorem Encoded.ld (w : FullM) : Encoded.Statement (.ld w) := fun _ => fullWords_shape ..
theorem Encoded.st (w : FullM) : Encoded.Statement (.st w) := fun _ => fullWords_shape ..
theorem Encoded.lda (w : FullM) : Encoded.Statement (.lda w) := fun _ => fullWords_shape ..
theorem Encoded.stl (w : FullM) : Encoded.Statement (.stl w) := fun _ => fullWords_shape ..
theorem Encoded.atom (w : FullM) : Encoded.Statement (.atom w) := fun _ => fullWords_shape ..
theorem Encoded.cas (w : FullM) : Encoded.Statement (.cas w) := fun _ => fullWords_shape ..
theorem Encoded.fence (w : FullM) : Encoded.Statement (.fence w) := fun _ => fullWords_shape ..
theorem Encoded.pf (w : FullM) : Encoded.Statement (.pf w) := fun _ => fullWords_shape ..
theorem Encoded.tmov (w : FullM) : Encoded.Statement (.tmov w) := fun _ => fullWords_shape ..
theorem Encoded.sinv (w : FullM) : Encoded.Statement (.sinv w) := fun _ => fullWords_shape ..
theorem Encoded.copy (w : FullE) : Encoded.Statement (.copy w) := fun _ => fullWords_shape ..
theorem Encoded.gather (w : FullE) : Encoded.Statement (.gather w) := fun _ => fullWords_shape ..
theorem Encoded.waitc (w : FullE) : Encoded.Statement (.waitc w) := fun _ => fullWords_shape ..
theorem Encoded.plinit (w : FullE) : Encoded.Statement (.plinit w) := fun _ => fullWords_shape ..
theorem Encoded.plfill (w : FullE) : Encoded.Statement (.plfill w) := fun _ => fullWords_shape ..
theorem Encoded.plwait (w : FullE) : Encoded.Statement (.plwait w) := fun _ => fullWords_shape ..
theorem Encoded.plrel (w : FullE) : Encoded.Statement (.plrel w) := fun _ => fullWords_shape ..
theorem Encoded.arrive (w : FullE) : Encoded.Statement (.arrive w) := fun _ => fullWords_shape ..
theorem Encoded.bwait (w : FullE) : Encoded.Statement (.bwait w) := fun _ => fullWords_shape ..
theorem Encoded.binit (w : FullE) : Encoded.Statement (.binit w) := fun _ => fullWords_shape ..
theorem Encoded.bra (w : FullT) : Encoded.Statement (.bra w) := fun _ => fullWords_shape ..
theorem Encoded.brc (w : FullT) : Encoded.Statement (.brc w) := fun _ => fullWords_shape ..
theorem Encoded.brx (w : FullT) : Encoded.Statement (.brx w) := fun _ => fullWords_shape ..
theorem Encoded.call (w : FullT) : Encoded.Statement (.call w) := fun _ => fullWords_shape ..
theorem Encoded.ret (w : FullT) : Encoded.Statement (.ret w) := fun _ => fullWords_shape ..
theorem Encoded.split (w : FullT) : Encoded.Statement (.split w) := fun _ => fullWords_shape ..
theorem Encoded.join (w : FullT) : Encoded.Statement (.join w) := fun _ => fullWords_shape ..
theorem Encoded.barb (w : FullT) : Encoded.Statement (.barb w) := fun _ => fullWords_shape ..
theorem Encoded.bard (w : FullT) : Encoded.Statement (.bard w) := fun _ => fullWords_shape ..
theorem Encoded.barg (w : FullT) : Encoded.Statement (.barg w) := fun _ => fullWords_shape ..
theorem Encoded.waitv (w : FullT) : Encoded.Statement (.waitv w) := fun _ => fullWords_shape ..
theorem Encoded.yield (w : FullT) : Encoded.Statement (.yield w) := fun _ => fullWords_shape ..
theorem Encoded.spawn (w : FullT) : Encoded.Statement (.spawn w) := fun _ => fullWords_shape ..
theorem Encoded.launch (w : FullT) : Encoded.Statement (.launch w) := fun _ => fullWords_shape ..
theorem Encoded.exit (w : FullT) : Encoded.Statement (.exit w) := fun _ => fullWords_shape ..
theorem Encoded.rega (w : FullT) : Encoded.Statement (.rega w) := fun _ => fullWords_shape ..
theorem Encoded.regr (w : FullT) : Encoded.Statement (.regr w) := fun _ => fullWords_shape ..
theorem Encoded.getsr (w : FullS) : Encoded.Statement (.getsr w) := fun _ => fullWords_shape ..
theorem Encoded.setsr (w : FullS) : Encoded.Statement (.setsr w) := fun _ => fullWords_shape ..
theorem Encoded.trap (w : FullS) : Encoded.Statement (.trap w) := fun _ => fullWords_shape ..
theorem Encoded.rte (w : FullS) : Encoded.Statement (.rte w) := fun _ => fullWords_shape ..
theorem Encoded.brk (w : FullS) : Encoded.Statement (.brk w) := fun _ => fullWords_shape ..
theorem Encoded.lanerd (w : FullS) : Encoded.Statement (.lanerd w) := fun _ => fullWords_shape ..
theorem Encoded.lanewr (w : FullS) : Encoded.Statement (.lanewr w) := fun _ => fullWords_shape ..
theorem Encoded.capq (w : FullS) : Encoded.Statement (.capq w) := fun _ => fullWords_shape ..
theorem Encoded.capqPart (w : FullS) : Encoded.Statement (.capqPart w) := fun _ => fullWords_shape ..
theorem Encoded.migrCaps (w : FullS) : Encoded.Statement (.migrCaps w) := fun _ => fullWords_shape ..
theorem Encoded.migrReq (w : FullS) : Encoded.Statement (.migrReq w) := fun _ => fullWords_shape ..
theorem Encoded.migrPin (w : FullS) : Encoded.Statement (.migrPin w) := fun _ => fullWords_shape ..
theorem Encoded.migrUnpin (w : FullS) : Encoded.Statement (.migrUnpin w) := fun _ => fullWords_shape ..
theorem Encoded.gdef (w : FullM) : Encoded.Statement (.gdef w) := fun _ => fullWords_shape ..
theorem Encoded.gres (w : FullM) : Encoded.Statement (.gres w) := fun _ => fullWords_shape ..
theorem Encoded.gresSet (w : FullM) : Encoded.Statement (.gresSet w) := fun _ => fullWords_shape ..
theorem Encoded.gqry (w : FullM) : Encoded.Statement (.gqry w) := fun _ => fullWords_shape ..
theorem Encoded.gpsn (w : FullM) : Encoded.Statement (.gpsn w) := fun _ => fullWords_shape ..
theorem Encoded.gpsnSet (w : FullM) : Encoded.Statement (.gpsnSet w) := fun _ => fullWords_shape ..
theorem Encoded.ldn (w : FullM) : Encoded.Statement (.ldn w) := fun _ => fullWords_shape ..
theorem Encoded.trace (w : FullS) : Encoded.Statement (.trace w) := fun _ => fullWords_shape ..
theorem Encoded.pair (w : PairWord) : Encoded.Statement (.pair w) := fun _ => one_shape (.inl (pair_kind _))
theorem Encoded.regionHead (w : HeadMark) : Encoded.Statement (.regionHead w) := fun _ => one_shape (.inr (mark_kind _ _))
theorem Encoded.regionHeadYield (w : HeadMark) : Encoded.Statement (.regionHeadYield w) := fun _ => one_shape (.inr (mark_kind _ _))
theorem Encoded.padding (sw : Bool) : Encoded.Statement (.padding sw) := fun _ => one_shape (.inr (by cases sw <;> rfl))
theorem Encoded.issueSlot (core part : Nat) : Encoded.Statement (.issueSlot core part) := by intro h; cases h
theorem Encoded.tick (t : TickArgs) : Encoded.Statement (.tick t) := by intro h; cases h
theorem Encoded.sensorDisturbance (zone kind sensor stamp : Nat) : Encoded.Statement (.sensorDisturbance zone kind sensor stamp) := by intro h; cases h
theorem Encoded.storageCheckError (e : StorageError) : Encoded.Statement (.storageCheckError e) := by intro h; cases h
theorem Encoded.checkEvent (team : Nat) (addr : DWord) (computed checked : Nat) : Encoded.Statement (.checkEvent team addr computed checked) := by intro h; cases h
theorem Encoded.noticeReceived (die : Nat) (n : Notice) : Encoded.Statement (.noticeReceived die n) := by intro h; cases h
theorem Encoded.clearThroughReceived (die zone c : Nat) : Encoded.Statement (.clearThroughReceived die zone c) := by intro h; cases h
theorem Encoded.outboundDrain (core n : Nat) : Encoded.Statement (.outboundDrain core n) := by intro h; cases h
theorem Encoded.clearanceTimeout (what : TimeoutOf) : Encoded.Statement (.clearanceTimeout what) := by intro h; cases h
theorem Encoded.tickCheck (die : Nat) : Encoded.Statement (.tickCheck die) := by intro h; cases h
theorem Encoded.dieFailed (unit : FailedUnit) : Encoded.Statement (.dieFailed unit) := by intro h; cases h
theorem Encoded.linkFlitError (link : Link) (again : Bool) : Encoded.Statement (.linkFlitError link again) := by intro h; cases h
theorem Encoded.atomPendingEnd (id : Nat) : Encoded.Statement (.atomPendingEnd id) := by intro h; cases h
theorem Encoded.memoryResponse (team acc : Nat) (lanes : Mask) (useCache : Bool) : Encoded.Statement (.memoryResponse team acc lanes useCache) := by intro h; cases h
theorem Encoded.laneReplay (team : Nat) : Encoded.Statement (.laneReplay team) := by intro h; cases h
theorem Encoded.engineRequestStart (op : Nat) : Encoded.Statement (.engineRequestStart op) := by intro h; cases h
theorem Encoded.chunkRead (op : Nat) : Encoded.Statement (.chunkRead op) := by intro h; cases h
theorem Encoded.chunkCommit (op chunk : Nat) : Encoded.Statement (.chunkCommit op chunk) := by intro h; cases h
theorem Encoded.gourFillAccept (obj : ObjRef) : Encoded.Statement (.gourFillAccept obj) := by intro h; cases h
theorem Encoded.gourReleaseApply (obj : ObjRef) : Encoded.Statement (.gourReleaseApply obj) := by intro h; cases h
theorem Encoded.plinitApply (obj : ObjRef) : Encoded.Statement (.plinitApply obj) := by intro h; cases h
theorem Encoded.waitConditionMet (team : Nat) : Encoded.Statement (.waitConditionMet team) := by intro h; cases h
theorem Encoded.continuationRun (core : Nat) : Encoded.Statement (.continuationRun core) := by intro h; cases h
theorem Encoded.geodeWake (team : Nat) (cell : Nat) : Encoded.Statement (.geodeWake team cell) := by intro h; cases h
theorem Encoded.openBufferRetry (team : Nat) : Encoded.Statement (.openBufferRetry team) := by intro h; cases h
theorem Encoded.evaluatorPlace (stack entry : Nat) : Encoded.Statement (.evaluatorPlace stack entry) := by intro h; cases h
theorem Encoded.evalSlotTimeout (who : Waiting) : Encoded.Statement (.evalSlotTimeout who) := by intro h; cases h
theorem Encoded.taskTeamForm (die : Nat) : Encoded.Statement (.taskTeamForm die) := by intro h; cases h
theorem Encoded.launchRecordRead (src : LaunchSource) : Encoded.Statement (.launchRecordRead src) := by intro h; cases h
theorem Encoded.blockPlace (block : Nat) : Encoded.Statement (.blockPlace block) := by intro h; cases h
theorem Encoded.completionRecord (grid : Nat) : Encoded.Statement (.completionRecord grid) := by intro h; cases h
theorem Encoded.preempt (block : Nat) : Encoded.Statement (.preempt block) := by intro h; cases h
theorem Encoded.stopAcknowledged (block : Nat) : Encoded.Statement (.stopAcknowledged block) := by intro h; cases h
theorem Encoded.ackTimeout (block : Nat) (unit : Nat) : Encoded.Statement (.ackTimeout block unit) := by intro h; cases h
theorem Encoded.saveComplete (block : Nat) : Encoded.Statement (.saveComplete block) := by intro h; cases h
theorem Encoded.blockRestore (block : Nat) : Encoded.Statement (.blockRestore block) := by intro h; cases h
theorem Encoded.migrationPlace (block : Nat) : Encoded.Statement (.migrationPlace block) := by intro h; cases h
theorem Encoded.loadValueQueueTake (team : Nat) : Encoded.Statement (.loadValueQueueTake team) := by intro h; cases h
theorem Encoded.signatureCompare (team : Nat) : Encoded.Statement (.signatureCompare team) := by intro h; cases h
theorem Encoded.fieldTestStep (cluster unit : Nat) (pass : Bool) : Encoded.Statement (.fieldTestStep cluster unit pass) := by intro h; cases h
theorem Encoded.fieldTestQueue (cluster unit : Nat) (pass : Bool) : Encoded.Statement (.fieldTestQueue cluster unit pass) := by intro h; cases h
theorem Encoded.powerInterval (d : DrawSample) : Encoded.Statement (.powerInterval d) := by intro h; cases h
theorem Encoded.leaseRecord (rackTime : DWord) (rec : List Byte) : Encoded.Statement (.leaseRecord rackTime rec) := by intro h; cases h
theorem Encoded.leaseExpiry (rackTime : DWord) : Encoded.Statement (.leaseExpiry rackTime) := by intro h; cases h
theorem Encoded.packageReset : Encoded.Statement (.packageReset) := by intro h; cases h
theorem Encoded.launchQueueEnable (func queue : Nat) (val : Word) : Encoded.Statement (.launchQueueEnable func queue val) := by intro h; cases h
theorem Encoded.launchQueueDisable (func queue : Nat) (val : Word) : Encoded.Statement (.launchQueueDisable func queue val) := by intro h; cases h
theorem Encoded.launchQueueWidx (func queue : Nat) (val : Word) : Encoded.Statement (.launchQueueWidx func queue val) := by intro h; cases h
theorem Encoded.invalidate (func : Nat) (val : Word) : Encoded.Statement (.invalidate func val) := by intro h; cases h
theorem Encoded.invalidationComplete (func : Nat) : Encoded.Statement (.invalidationComplete func) := by intro h; cases h
theorem Encoded.atsInvalidate (pasid : Nat) (va : DWord) (bytes : Nat) : Encoded.Statement (.atsInvalidate pasid va bytes) := by intro h; cases h
theorem Encoded.atsCompletion (c : AtsAnswer) : Encoded.Statement (.atsCompletion c) := by intro h; cases h
theorem Encoded.respMapped (func : Nat) (val : Word) : Encoded.Statement (.respMapped func val) := by intro h; cases h
theorem Encoded.respFail (func : Nat) (val : Word) : Encoded.Statement (.respFail func val) := by intro h; cases h
theorem Encoded.faultTimeout (slice entry : Nat) : Encoded.Statement (.faultTimeout slice entry) := by intro h; cases h
theorem Encoded.apertureRead (func off bytes : Nat) : Encoded.Statement (.apertureRead func off bytes) := by intro h; cases h
theorem Encoded.apertureWrite (func off : Nat) (data : List Byte) : Encoded.Statement (.apertureWrite func off data) := by intro h; cases h
theorem Encoded.partitionEnable (part : Nat) (val : Word) : Encoded.Statement (.partitionEnable part val) := by intro h; cases h
theorem Encoded.partitionDisable (part : Nat) (val : Word) : Encoded.Statement (.partitionDisable part val) := by intro h; cases h
theorem Encoded.suspend (part : Nat) (val : Word) : Encoded.Statement (.suspend part val) := by intro h; cases h
theorem Encoded.suspendClear (part : Nat) (val : Word) : Encoded.Statement (.suspendClear part val) := by intro h; cases h
theorem Encoded.attestationRequest (func : Nat) (val : Word) : Encoded.Statement (.attestationRequest func val) := by intro h; cases h
theorem Encoded.traceEnable (func : Nat) (val : Word) : Encoded.Statement (.traceEnable func val) := by intro h; cases h
theorem Encoded.dumpWrite (func : Nat) : Encoded.Statement (.dumpWrite func) := by intro h; cases h
theorem Encoded.checkpointGo (val : Word) : Encoded.Statement (.checkpointGo val) := by intro h; cases h
theorem Encoded.checkpointAbort (val : Word) : Encoded.Statement (.checkpointAbort val) := by intro h; cases h
theorem Encoded.stepWordPoll : Encoded.Statement (.stepWordPoll) := by intro h; cases h
theorem Encoded.stoppart (func : Nat) (cmd : Word) : Encoded.Statement (.stoppart func cmd) := by intro h; cases h
theorem Encoded.stopclus (func : Nat) (cmd : Word) : Encoded.Statement (.stopclus func cmd) := by intro h; cases h
theorem Encoded.resume (func : Nat) (cmd : Word) : Encoded.Statement (.resume func cmd) := by intro h; cases h
theorem Encoded.step (func : Nat) (cmd : Word) : Encoded.Statement (.step func cmd) := by intro h; cases h
theorem Encoded.steptrap (func : Nat) (cmd : Word) : Encoded.Statement (.steptrap func cmd) := by intro h; cases h
theorem Encoded.inspect (func : Nat) (cmd : Word) : Encoded.Statement (.inspect func cmd) := by intro h; cases h
theorem Encoded.save (func : Nat) (cmd : Word) : Encoded.Statement (.save func cmd) := by intro h; cases h
theorem Encoded.load (func : Nat) (cmd : Word) : Encoded.Statement (.load func cmd) := by intro h; cases h
theorem Encoded.debugDisable (func : Nat) (val : Word) : Encoded.Statement (.debugDisable func val) := by intro h; cases h
theorem Encoded.sampleRecord (idx : Nat) : Encoded.Statement (.sampleRecord idx) := by intro h; cases h
theorem Encoded.registerWrite (func off : Nat) (val : Word) : Encoded.Statement (.registerWrite func off val) := by intro h; cases h
theorem Encoded.longLatencyResult (team id : Nat) (lanes : Mask) : Encoded.Statement (.longLatencyResult team id lanes) := by intro h; cases h
theorem Encoded.probeResponse (team entry : Nat) : Encoded.Statement (.probeResponse team entry) := by intro h; cases h
theorem Encoded.remoteAccess (r : RemoteReq) : Encoded.Statement (.remoteAccess r) := by intro h; cases h
theorem Encoded.correctableEccError (zone : Nat) : Encoded.Statement (.correctableEccError zone) := by intro h; cases h

end Sys2Proof.Laws
end

