-- ==== Sys2Proof/Laws/Residue.lean ====
section
/-! SUPPORT. The residue checker forms the residue mod 63 of the exact sum that the array forms (R133). -/

namespace Sys2Proof.Laws

open Sys2Proof.Machine

/-- A power of 2 has, mod 63, the value of the power of its exponent's residue mod 6. -/
theorem two_pow_mod (n : Nat) : (2 : Int) ^ n ≡ 2 ^ (n % 6) [ZMOD 63] := by
  conv_lhs => rw [← Nat.div_add_mod n 6, pow_add, pow_mul]
  simpa using ((by decide : (2 : Int) ^ 6 ≡ 1 [ZMOD 63]).pow (n / 6)).mul_right (2 ^ (n % 6))

/-- Sums whose terms agree mod 63 agree mod 63. -/
theorem foldl_mod {α : Type} (f g : α → Int) (h : ∀ x, f x ≡ g x [ZMOD 63]) (ts : List α) (a b : Int) (hab : a ≡ b [ZMOD 63]) :
    (ts.map f).foldl (· + ·) a ≡ (ts.map g).foldl (· + ·) b [ZMOD 63] := by
  induction ts generalizing a b with
  | nil => simpa
  | cons x xs ih => exact ih _ _ (hab.add (h x))

/-- The checker's residue is the array sum's. -/
theorem checkSum_arraySum (ts : List (Bool × Nat × Int)) : ((checkSum ts : Nat) : Int) = arraySum ts % 63 := by
  have h := foldl_mod _ _ (fun t => ((Int.mod_modEq (t.2.1 : Int) 63).symm.mul_left (if t.1 then (-1 : Int) else 1)).mul
    (two_pow_mod (t.2.2 - resBase ts).toNat)) ts 0 0 rfl
  unfold checkSum arraySum
  rw [Int.toNat_of_nonneg (Int.emod_nonneg _ (by decide))]
  exact_mod_cast h.symm

end Sys2Proof.Laws
end

