-- ==== Sys2Proof/Tests/Slice0.lean ====
section
/-! SUPPORT. Tests: states that meet the hypotheses of every statement, words written out from the spec, ill-formed terms that the checks
refuse, and single steps whose results the spec gives. -/

namespace Sys2Proof.Tests

open Sys2Proof Sys2Proof.Machine Sys2Proof.Claims

-- one theorem after the other: each check below is a kernel evaluation, and many at once need much memory
set_option Elab.async false

/-! ### Small states -/

/-- A package in which a team of 32 lanes and 16 registers is about to fetch. -/
def base : State := State.reset.loadBytes []

/-- The same team at an open region, changed by f. -/
def ready (f : Team → Team) : State := { base with teams := base.teams.map (fun t => f (t.openAt 0 64 8)) }

/-- With scratch allocations of n bytes. -/
def scratch (n : Nat) (f : Team → Team) : State :=
  { ready f with
    blocks := base.blocks.map (fun b => { b with pockets := [Scratch.alloc n, Scratch.alloc n], chamber := Scratch.alloc n })
    spans := base.spans.map (fun x => { x with gallery := some (Scratch.alloc n) }) }

/-- The team changed in its registers. -/
def arch (f : Arch → Arch) (t : Team) : Team := { t with arch := f t.arch }

/-- The one team of a state. -/
def only (s : State) : Team :=
  (s.teams.head?).getD (Team.start 0 .ordinary { chip := 0, cluster := 0, core := 0, part := 0, slot := 0 } 0 0 0 32 32 16 0 0 0
    (Arch.start 0 32 16 0 [] (fun _ _ => 0) 0))

def runningB (s : State) (t : Team) : Bool :=
  s.issue == some t.uid && s.team? t.uid == some t && (s.beforeWord t).isNone && (t.kind == TeamKind.lantern) == false &&
  t.run == .ready && t.stepMode == .off

def passesB (s : State) (t : Team) (w : Word1) : Bool :=
  w.caps &&& chipCaps t.loc.chip == w.caps && w.check s t == none && isNop w.hd == false && w.bounds s t == none && (s.awaitTarget t (w.targets s t)).isNone

def fitsB (s : State) (t : Team) (w : Word1) : Bool :=
  w.closing s t == false && t.needHead == false &&
  (match t.openRegion with
   | some r => overLimit t r (w.demand s t) == false && s.noRoom t r (w.demand s t) == none
   | none => false)

def closesB (s : State) (t : Team) (w : Word1) : Bool :=
  w.closing s t == true && t.park false == .clear && s.failedOp t == none && s.drained t == true && s.gresReads.any (fun x => x.1 == t.uid) == false

theorem running_of {s t} (h : runningB s t = true) : Running s t := by
  simp only [runningB, Bool.and_eq_true, beq_iff_eq, Option.isNone_iff_eq_none] at h
  obtain ⟨⟨⟨⟨⟨a, b⟩, c⟩, d⟩, e⟩, f⟩ := h
  exact ⟨a, b, c, d, e, f⟩

theorem passes_of {s t w} (h : passesB s t w = true) : Passes s t w := by
  simp only [passesB, Bool.and_eq_true, beq_iff_eq, Option.isNone_iff_eq_none] at h
  obtain ⟨⟨⟨⟨a, b⟩, c⟩, d⟩, e⟩ := h
  exact ⟨a, b, c, d, e⟩

theorem fits_of {s t w} (h : fitsB s t w = true) : Fits s t w := by
  simp only [fitsB, Bool.and_eq_true, beq_iff_eq] at h
  obtain ⟨⟨a, b⟩, c⟩ := h
  refine ⟨a, b, ?_⟩
  split at c
  · rename_i r hr
    simp only [Bool.and_eq_true, beq_iff_eq] at c
    exact ⟨r, hr, c.1, c.2⟩
  · cases c

theorem closes_of {s t w} (h : closesB s t w = true) : Closes s t w := by
  simp only [closesB, Bool.and_eq_true, beq_iff_eq] at h
  obtain ⟨⟨⟨⟨a, b⟩, c⟩, d⟩, e⟩ := h
  exact ⟨a, b, c, d, e⟩

/-- Some team of s goes through word w and meets p as well. -/
def Wit (s : State) (w : Word1) (p : State → Team → Bool) : Prop := ∃ t, Goes s t w ∧ p s t = true

/-- Some team of s stands at a closing word w with nothing left to wait for, and meets p as well. -/
def WitC (s : State) (w : Word1) (p : State → Team → Bool) : Prop := ∃ t, Running s t ∧ Passes s t w ∧ Closes s t w ∧ p s t = true

/-- Some team of s runs and meets p. -/
def WitR (s : State) (p : State → Team → Bool) : Prop := ∃ t, Running s t ∧ p s t = true

theorem wit {s w p} (h : (runningB s (only s) && passesB s (only s) w && fitsB s (only s) w && p s (only s)) = true) : Wit s w p := by
  simp only [Bool.and_eq_true] at h
  exact ⟨only s, ⟨running_of h.1.1.1, passes_of h.1.1.2, fits_of h.1.2⟩, h.2⟩

theorem witC {s w p} (h : (runningB s (only s) && passesB s (only s) w && closesB s (only s) w && p s (only s)) = true) : WitC s w p := by
  simp only [Bool.and_eq_true] at h
  exact ⟨only s, running_of h.1.1.1, passes_of h.1.1.2, closes_of h.1.2, h.2⟩

theorem witR {s p} (h : (runningB s (only s) && p s (only s)) = true) : WitR s p := by
  simp only [Bool.and_eq_true] at h
  exact ⟨only s, running_of h.1, h.2⟩

/-- No further hypothesis. -/
def any (_ : State) (_ : Team) : Bool := true

/-! ### Words -/

def hd0 : Head := { sw := false, pred := 0, pn := false }

/-- A head under mask k1, in which no lane is set at the start. -/
def hd1 : Head := { sw := false, pred := 1, pn := false }

def fa (d a b : BitVec 11) (ty : BitVec 4) (sub : BitVec 4) (ext : Option Ext) : FullA :=
  { hd := hd0, d := d, a := a, b := b, ty := ty, rm := 0, na := false, aa := false, nb := false, ab := false, sub := sub, ext := ext }

def fc (d a b : BitVec 11) (dt st : BitVec 4) (sat : Bool) (sub : BitVec 3) (ext : Option Ext) : FullC :=
  { hd := hd0, d := d, a := a, b := b, dt := dt, st := st, rm := 0, sat := sat, sub := sub, ext := ext }

def fm (d a b : BitVec 11) (space : BitVec 2) (width : BitVec 3) (scope : BitVec 3) (ord : BitVec 2) (nr : Bool) (ext : Option Ext) : FullM :=
  { hd := hd0, d := d, a := a, b := b, space := space, width := width, scope := scope, ord := ord, rp := false, nr := nr, sub := 0, ext := ext }

def fe (d a b : BitVec 11) (src dst : BitVec 4) (cnt : BitVec 2) (sub : BitVec 4) (ext : Option Ext) : FullE :=
  { hd := hd0, d := d, a := a, b := b, src := src, dst := dst, cnt := cnt, sub := sub, ext := ext }

def ft (d a b : BitVec 11) (off : BitVec 14) (ext : Option Ext) : FullT := { hd := hd0, d := d, a := a, b := b, off := off, ext := ext }

def fs (d a b : BitVec 11) (sreg : BitVec 10) (sub : BitVec 4) (ext : Option Ext) : FullS :=
  { hd := hd0, d := d, a := a, b := b, sreg := sreg, sub := sub, ext := ext }

def fx (d a b : BitVec 11) (fmt : BitVec 4) (acc any_ : Bool) (set space : BitVec 2) (ext : Option Ext) : FullX :=
  { hd := hd0, d := d, a := a, b := b, fmt := fmt, acc := acc, any := any_, part := false, x2 := false, perm := false, set := set,
    space := space, low := false, ext := ext }

def im (v : Word) : Option Ext := some { xc := 0, c := 0, imm := v }

/-! ### The lane-by-lane words -/

theorem wit_integer_vector : Wit (ready id) (form2 (fa 1 2 3 0 0 none) .one).word any := wit (by decide +kernel)
theorem wit_integer_scalar : Wit (ready id) (form2 (fa 0x701 0x702 0x783 5 0 none) .one).word any := wit (by decide +kernel)
theorem wit_integer_imm : Wit (ready id) (form2 (fa 15 2 0 1 0 (im 7)) .one).word any := wit (by decide +kernel)
theorem wit_logic_one : Wit (ready id) (form2 (fa 1 2 3 0 0 none) (kindOf 0)).word any := wit (by decide +kernel)
theorem wit_logic_pair : Wit (ready id) (form2 (fa 14 2 4 13 0 none) (kindOf 13)).word any := wit (by decide +kernel)
theorem wit_move : Wit (ready id) (form1 (fa 1 2 0 0 0 none) (kindOf 0)).word any := wit (by decide +kernel)
theorem wit_shift : Wit (ready id) (form2 (fa 1 2 3 4 1 none) (kindOf 4)).word any := wit (by decide +kernel)
theorem wit_unary : Wit (ready id) (form1 (fa 1 2 0 1 0 none) .one).word (fun _ _ => decide ((fa 1 2 0 1 0 none).ty.toNat ≤ 1)) :=
  wit (by decide +kernel)
theorem wit_pair : Wit (ready id) (form2 (fa 2 4 6 14 0 none) .pair).word any := wit (by decide +kernel)
theorem wit_lea : Wit (ready id)
    { form2 (fa 2 4 6 0 3 none) .pair with srcs := [(.op (opd 4), 13), (srcB 6 none, 0)] : AluOp }.word any := wit (by decide +kernel)
theorem wit_compare_mask : Wit (ready id) (form2 (fa 7 2 3 1 5 none) .mask).word any := wit (by decide +kernel)
theorem wit_compare_vector : Wit (ready id) (form2 (fa 1 2 3 5 13 none) .one).word
    (fun _ _ => (fa 1 2 3 5 13 none).sub.getLsbD 3 && (opd 1).isVec) := wit (by decide +kernel)
theorem wit_compare_64 : Wit (ready id) (form2 (fa 0 2 4 14 2 none) .mask).word any := wit (by decide +kernel)
theorem wit_nop : Wit (ready id) { len := 8, hd := hd0, effect := fun s t => .done s t none } any := wit (by decide +kernel)
theorem wit_ldi : Wit (ready id)
    { hd := hd0, ext := im 9, d := 2, kind := kindOf 13, srcs := [(srcB 0 (im 9), 13)], f := fun _ _ _ => (0, 0) : AluOp }.word any :=
  wit (by decide +kernel)
theorem wit_sel_lanes : Wit (ready id) (form2 (fa 1 2 3 0 7 none) (kindOf 0)).word
    (fun _ _ => (form2 (fa 1 2 3 0 7 none) (kindOf 0)).once == false) := wit (by decide +kernel)
theorem wit_sel_once_none : Wit (ready id) (form2 (fa 0x701 0x702 0x703 0 1 none) (kindOf 0)).word
    (fun _ t => (form2 (fa 0x701 0x702 0x703 0 1 none) (kindOf 0)).once && t.arch.kget 1 &&& fullMask t.tw == 0) := wit (by decide +kernel)
theorem wit_sel_once_all : Wit (ready id) (form2 (fa 0x701 0x702 0x703 0 0 none) (kindOf 0)).word
    (fun _ t => (form2 (fa 0x701 0x702 0x703 0 0 none) (kindOf 0)).once && t.arch.kget 0 &&& fullMask t.tw == fullMask t.tw &&
      fullMask t.tw != 0) := wit (by decide +kernel)

/-! ### Floats -/

theorem wit_round : Fmt.f16 ∈ arithFormats ∧ ({ neg := true, m := 2049, e := 0, sticky := false } : Exact).sticky = false ∧
    (Fmt.f16.round 3 false { neg := true, m := 2049, e := 0, sticky := false }).2 &&& flagOF = 0 := by decide +kernel
theorem wit_round_value : ∃ v, ratOf (Fmt.f16.read 0xE800) = some v := ⟨_, rfl⟩
theorem wit_exact : (∃ x, ratOf (Fmt.f32.read 0x3F800000) = some x) ∧ (∃ x, ratOf (Fmt.f32.read 0xC0200000) = some x) ∧
    ∃ x, ratOf (Fmt.f32.read 0) = some x := ⟨⟨_, rfl⟩, ⟨_, rfl⟩, ⟨_, rfl⟩⟩
theorem wit_minmax_nan : (Fmt.f32.read 0x7F800001).isNan = true ∧ (Fmt.f32.read 0x7FC00000).isNan = true ∧
    (Fmt.f32.read 0x3F800000).isNan = false := by decide +kernel
theorem wit_minmax_zero : Fmt.f32.read 0x80000000 = .fin true 0 (-149) ∧ Fmt.f32.read 0 = .fin false 0 (-149) := by decide +kernel
theorem wit_fadd : Wit (ready id) (fbin (fa 1 2 3 6 0 none) (fun _ _ _ => (0, 0))).word any := wit (by decide +kernel)
/-- FADD of v2 and v3 in lane 0, v2 a signalling NaN, with every enable set. -/
theorem wit_fadd_traps : Wit (ready (arch (fun a => ({ a with flags := 0x1F00, live := 1 } : Arch).vset 2 (fun _ => some 0x7F800001))))
    (fbin (fa 1 2 3 6 0 none) (fun f a b => fAdd f 0 a b)).word (fun _ t =>
      unionFlags ((fbin (fa 1 2 3 6 0 none) (fun f a b => fAdd f 0 a b)).results t) &&& t.arch.enables != 0) := wit (by decide +kernel)
theorem wit_frcp_reports : Wit (ready (arch (fun a => ({ a with flags := 0x1F00, live := 1 } : Arch).vset 4 (fun _ => some 0))))
    (fun1 (fa 2 4 0 6 0 none) true (fun f a => fRcp f 0 a)).word (fun _ t =>
      unionFlags ((fun1 (fa 2 4 0 6 0 none) true (fun f a => fRcp f 0 a)).results t) &&& t.arch.enables != 0) := wit (by decide +kernel)
theorem wit_ffma : Wit (ready id) (ffmaForm (fa 2 4 6 9 0 none)).word any := wit (by decide +kernel)
theorem wit_ffmax : Wit (ready id) (ffmaxForm (fa 2 4 6 9 0 (some { xc := 3, c := 8, imm := 0 })) { xc := 3, c := 8, imm := 0 }).word any :=
  wit (by decide +kernel)
theorem wit_fcmp_mask : Wit (ready id) (fcmpForm (fa 7 2 3 6 7 none)).word any := wit (by decide +kernel)
theorem wit_fcmp_vector : Wit (ready id) (fcmpForm (fa 1 2 3 8 8 none)).word (fun _ _ => (opd 1).isVec) := wit (by decide +kernel)
theorem wit_fclass : Wit (ready id) (fclassForm (fa 1 2 0x7AF 7 8 none)).word (fun _ _ => decide (srcB 0x7AF none = .op (.con 47))) :=
  wit (by decide +kernel)
theorem wit_frnd : Wit (ready id) (fun1 (fa 1 2 0 8 1 none) false (fun _ _ => (0, 0))).word any := wit (by decide +kernel)
theorem wit_transcendental : Wit (ready id) (fun1 (fa 2 4 0 9 0 none) true (fun _ _ => (0, 0))).word any := wit (by decide +kernel)
theorem wit_cvt : Wit (ready id) (cvtForm (fc 2 4 6 10 6 false 1 none) [] (fun _ _ => (0, 0))).word any := wit (by decide +kernel)
theorem wit_cvtsr_b : Wit (ready id) (cvtForm (fc 1 2 3 10 7 true 0 none) [(.op (opd 9), 1)] (fun _ _ => (0, 0))).word any :=
  wit (by decide +kernel)
theorem wit_to_int : (∃ x, ratOf (Fmt.f32.read 0x3FC00000) = some x ∧ intLo true 8 ≤ roundRat 0 x ∧ roundRat 0 x ≤ intHi true 8) ∧
    (∃ x, ratOf (Fmt.f32.read 0xC3010000) = some x ∧ roundRat 1 x < intLo true 8) ∧
    (∃ x, ratOf (Fmt.f32.read 0x43800000) = some x ∧ intHi false 8 < roundRat 0 x) ∧
    (Fmt.f32.read 0x7FC00000).isNan = true ∧ Fmt.f32.read 0x7F800000 = .inf false ∧ Fmt.f32.read 0xFF800000 = .inf true :=
  ⟨⟨_, rfl, by decide +kernel⟩, ⟨_, rfl, by decide +kernel⟩, ⟨_, rfl, by decide +kernel⟩, by decide +kernel⟩

/-! ### Lanes and masks -/

def laneForm (w : FullC) (k : DstKind) (srcs : List (Src × Nat)) : AluOp :=
  { hd := w.hd, ext := w.ext, d := w.d, kind := k, srcs := srcs, f := fun _ _ _ => (0, 0) }

theorem wit_shfl : Wit (ready id) (laneForm (fc 2 4 6 13 13 false 3 none) (kindOf 13) [(.op (opd 4), 13), (.op (opd 6), 13)]).word any :=
  wit (by decide +kernel)
theorem wit_bcast : Wit (ready id) (laneForm (fc 1 2 0x701 0 0 false 0 none) (kindOf 0) [(.op (opd 2), 0), (.op (opd 0x701), 0)]).word
    (fun _ _ => !(opd 0x701).isVec) := wit (by decide +kernel)
theorem wit_bcast_first : Wit (ready id) (laneForm (fc 1 2 0 0 0 false 1 none) (kindOf 0) [(.op (opd 2), 0)]).word any :=
  wit (by decide +kernel)
theorem wit_vote : Wit (ready id) (laneForm (fc 2 2 0 0 0 true 1 none) .mask [(.op (opd 2), 1)]).word any := wit (by decide +kernel)
theorem wit_bscale : Wit (ready id) (laneForm (fc 11 10 0 11 6 false 0 none) .one [(.op (opd 10), 6)]).word any := wit (by decide +kernel)
theorem wit_redux : Wit (ready id) (laneForm (fc 1 2 0 6 6 false 0 none) (kindOf 6) [(.op (opd 2), 6)]).word
    (fun _ _ => (laneForm (fc 1 2 0 6 6 false 0 none) (kindOf 6) []).once == false) := wit (by decide +kernel)
theorem wit_redux_once : Wit (ready id) (laneForm (fc 0x701 0x702 0 0 0 true 0 none) (kindOf 0) [(.op (opd 0x702), 0)]).word
    (fun _ t => (laneForm (fc 0x701 0x702 0 0 0 true 0 none) (kindOf 0) []).once && !(acting t hd0).isEmpty) := wit (by decide +kernel)
theorem wit_redux_once_greatest : Wit (ready id) (laneForm (fc 0x701 0x702 0 0 0 false 2 none) (kindOf 0) [(.op (opd 0x702), 0)]).word
    (fun _ t => (laneForm (fc 0x701 0x702 0 0 0 false 2 none) (kindOf 0) []).once && !(acting t hd0).isEmpty) := wit (by decide +kernel)
theorem wit_redux_once_sum : Wit (ready id) (laneForm (fc 0x701 0x702 0 0 0 false 0 none) (kindOf 0) [(.op (opd 0x702), 0)]).word
    (fun _ t => (laneForm (fc 0x701 0x702 0 0 0 false 0 none) (kindOf 0) []).once && !(acting t hd0).isEmpty) := wit (by decide +kernel)
theorem wit_redux_none : Wit (ready (arch (fun a => { a with live := 0 })))
    (laneForm (fc 0x701 0x702 0 0 0 true 0 none) (kindOf 0) [(.op (opd 0x702), 0)]).word (fun _ t => (acting t hd0).isEmpty) :=
  wit (by decide +kernel)
theorem wit_integer_reduction : (13 : Nat) ∈ [0, 1, 13, 14] ∧ ∀ y ∈ [(2 ^ 64 - 1 : Nat), 5], y < 2 ^ tyWidth 13 := by decide +kernel
theorem wit_elect : Wit (ready id) (maskForm (fc 6 0 0 0 0 true 0 none) 0) any := wit (by decide +kernel)
theorem wit_kand : Wit (ready id) (maskForm (fc 7 1 2 0 0 false 0 none) 2) any := wit (by decide +kernel)
theorem wit_knot : Wit (ready id) (maskForm (fc 7 1 0 0 0 false 0 none) 1) any := wit (by decide +kernel)
theorem wit_kmov_to_mask : Wit (ready id) (laneForm (fc 3 2 0 0 0 false 1 none) .mask [(.op (opd 2), 1)]).word any := wit (by decide +kernel)
theorem wit_kmov_from_mask : Wit (ready id) (laneForm (fc 3 7 0 0 0 false 2 none) .one []).word (fun _ _ => (opd 3).isVec) := wit (by decide +kernel)
theorem wit_kpop_group : Wit (ready id) (laneForm (fc 3 7 0 0 0 false 0 none) .one []).word any := wit (by decide +kernel)
theorem wit_kpop_team : Wit (ready id) (laneForm (fc 0x70C 3 0 0 0 true 0 none) .one []).word
    (fun _ _ => (laneForm (fc 0x70C 3 0 0 0 true 0 none) .one []).once) := wit (by decide +kernel)
theorem wit_mask_write : (([(3, 1, 0), (1023, 0, 0)] : List LaneResult).map (·.1)).Nodup ∧
    (2 : Nat) < (only base).arch.k.length ∧ (1023, 0, 0) ∈ ([(3, 1, 0), (1023, 0, 0)] : List LaneResult) ∧
    ∀ x : LaneResult, x ∈ ([(3, 1, 0), (1023, 0, 0)] : List LaneResult) → x.1 ≠ 5 := by decide +kernel

/-! ### Matrix words -/

/-- A wide team with tiles: n lanes, 64 registers, 8 tiles. -/
def wide (n : Nat) (t : Team) : Team := { t with tw := n, regs := 64, acc := 8, arch := { t.arch with live := fullMask n } }

/-- A second team of the same block on the follower core. -/
def withPartner (s : State) : State :=
  { s with teams := s.teams ++ s.teams.map (fun t => { t with uid := t.uid + 1, idx := 1, loc := { t.loc with core := 1 } }) }

def mmqW (set : BitVec 2) (x2 : Bool) : FullX := { fx 0 8 16 3 false false set 0 none with x2 := x2 }

theorem wit_mma : Wit (ready (wide 32)) (mmaForm (fx 8 16 24 3 true false 0 0 none))
    (fun s t => !s.arrayBusy t && t.tw ≤ 1024 && t.tw % 32 == 0 && (fullMask t.tw &&& ~~~(t.arch.acting t.tw hd0)) == 0) := wit (by decide +kernel)
theorem wit_mma_shape : Wit (ready (wide 33)) (mmaForm (fx 8 16 24 3 true false 0 0 none)) (fun s t => !s.arrayBusy t && t.tw % 32 != 0) :=
  wit (by decide +kernel)
theorem wit_mma_divergent : Wit (ready (fun t => arch (fun a => { a with live := 1 }) (wide 32 t))) (mmaForm (fx 8 16 24 0 true false 0 0 none))
    (fun s t => !s.arrayBusy t && t.tw % 32 == 0 && (fullMask t.tw &&& ~~~(t.arch.acting t.tw hd0)) != 0) := wit (by decide +kernel)
theorem wit_mmq : Wit (ready (wide 256)) (mmqForm (mmqW 0 false)) (fun s t => !s.arrayBusy t && t.tw % 256 == 0 && decide (0 < t.tw / 256)) :=
  wit (by decide +kernel)
theorem wit_mmq_shape : Wit (ready (wide 256)) (mmqForm (mmqW 1 false)) (fun s t => !s.arrayBusy t && decide (t.tw / 256 ≤ 1)) :=
  wit (by decide +kernel)
theorem wit_mmq_pair : Wit (withPartner (ready (wide 512))) (mmqForm (mmqW 0 true))
    (fun s t => !s.arrayBusy t && t.tw % 256 == 0 && decide (1 < t.tw / 256) && (s.partner t 0).isSome) := wit (by decide +kernel)
theorem wit_mmq_alone : Wit (ready (wide 512)) (mmqForm (mmqW 0 true))
    (fun s t => !s.arrayBusy t && t.tw % 256 == 0 && decide (1 < t.tw / 256) && (s.partner t 0).isNone) := wit (by decide +kernel)
theorem wit_integer_product : (∀ x ∈ ([255, 3] : List Nat), x < 256) ∧ ∀ y ∈ ([128, 7] : List Nat), y < 256 := by decide +kernel
theorem wit_qzero : Wit (ready (wide 32)) (tile1Form (fx 7 0 0 0 false false 0 0 none) []) (fun s t => !s.arrayBusy t) := wit (by decide +kernel)
theorem wit_qadd : Wit (ready (wide 32)) (tile1Form (fx 7 6 5 0 false false 0 0 none) [6, 5]) (fun s t => !s.arrayBusy t) := wit (by decide +kernel)
theorem wit_qcvt : Wit (ready (wide 32)) (tile1Form (fx 7 6 0 2 false false 0 0 none) [6]) (fun s t => !s.arrayBusy t) := wit (by decide +kernel)
theorem wit_qscale : Wit (ready (wide 32)) (qscaleForm (fx 0 4 7 0 false false 0 0 (some { xc := 0, c := 3, imm := 0 })))
    (fun s t => !s.arrayBusy t) := wit (by decide +kernel)
theorem wit_qmov : Wit (ready (wide 256)) (qmovForm (fx 32 7 0 0 false false 0 0 none))
    (fun s t => !s.arrayBusy t && t.tw % 256 == 0 && decide (0 < t.tw / 256)) := wit (by decide +kernel)
theorem wit_qmov_shape : Wit (ready (wide 32)) (qmovForm (fx 32 7 0 0 false false 0 0 none)) (fun s t => !s.arrayBusy t && t.tw % 256 != 0) :=
  wit (by decide +kernel)

/-! ### Memory words -/

/-- The pair s8, s9 holds an address of the loaded page, and s4 and s5 a scratch offset and a length. -/
def ptr (off : Nat) (t : Team) : Team := arch (fun a => (((a.ssetPair 8 loadVa).sset 4 (BitVec.ofNat 32 off)).sset 5 8)) t

/-- The alignment and range of a memory word's lanes, as a Bool. -/
def okB (s : State) (t : Team) (sp : Space) (n : Nat) (ls : List LaneAddr) : Bool :=
  ls.all (fun x => x.2 % n == 0) && (sp == .glob || ls.all (fun x => decide (x.2 + n ≤ (s.scratchOf t sp).size)))

def glob (w : FullM) : FullM := { w with a := 0x708, b := 0x780 }
def pock (w : FullM) : FullM := { w with a := 0x704, b := 0x780, space := 1 }

/-- LD.g.w32 v7, [s8:s9], LD.p s6, [s4], LD.p.w64 v6, [v2]. -/
def ldG : FullM := glob (fm 7 0 0 0 2 0 0 false none)
def ldP : FullM := pock (fm 0x706 0 0 1 2 0 0 false none)
def ldV : FullM := fm 6 2 0x780 1 3 0 0 false none

/-- An SC fence of scope `.dev` stands before the team, with a write of its own still to be performed. -/
def fenced (t : Team) : Team :=
  ({ t with arch := { t.arch with scFence := some 3 } } : Team).hold (.sinv .pocket 0 4) 0 .none 0 0

theorem wit_gate_waits : ((ready fenced).gate (only (ready fenced)) .glob [] 4 EntryKind.stopsWrite).isSome = true := by decide +kernel
theorem wit_load_global : Wit (ready (ptr 0)) (formOf (loadWord ldG false)) (fun s t =>
    okB s t .glob 4 (accessed ldG (memOnce ldG false) t) && !(accessed ldG (memOnce ldG false) t).isEmpty &&
    (s.gate t .glob (accessed ldG (memOnce ldG false) t) 4 EntryKind.stopsLoad).isNone) := wit (by decide +kernel)
theorem wit_load_scratch : Wit (scratch 8 (ptr 4)) (formOf (loadWord ldP false)) (fun s t =>
    okB s t .pocket 4 (accessed ldP (memOnce ldP false) t) && !(accessed ldP (memOnce ldP false) t).isEmpty &&
    (s.gate t .pocket (accessed ldP (memOnce ldP false) t) 4 EntryKind.stopsLoad).isNone) := wit (by decide +kernel)
theorem wit_load_nothing : Wit (scratch 8 (arch (fun a => { a with live := 0 }))) (formOf (loadWord ldV false)) (fun s t =>
    okB s t .pocket 8 (accessed ldV (memOnce ldV false) t) && (accessed ldV (memOnce ldV false) t).isEmpty) := wit (by decide +kernel)
theorem wit_load_misaligned : Wit (scratch 8 (ptr 2)) (formOf (loadWord ldP false)) (fun _ t =>
    (accessed ldP (memOnce ldP false) t).any (fun x => x.2 % 4 != 0)) := wit (by decide +kernel)
theorem wit_load_range : Wit (scratch 4 (ptr 4)) (formOf (loadWord ldP false)) (fun s t =>
    (accessed ldP (memOnce ldP false) t).all (fun x => x.2 % 4 == 0) &&
    (accessed ldP (memOnce ldP false) t).any (fun x => decide ((s.scratchOf t .pocket).size < x.2 + 4))) := wit (by decide +kernel)
theorem wit_ldn : Wit (ready (ptr 0)) (formOf (loadWord ldG true)) (fun s t =>
    okB s t .glob 4 (accessed ldG (memOnce ldG false) t) && !(accessed ldG (memOnce ldG false) t).isEmpty &&
    (s.gate t .glob (accessed ldG (memOnce ldG false) t) 4 EntryKind.isOpaque).isNone) := wit (by decide +kernel)
theorem wit_gqry : Wit (ready (ptr 0)) (gqryForm ldG) (fun s t =>
    okB s t .glob 1 (accessed ldG (memOnce ldG false) t) && !(accessed ldG (memOnce ldG false) t).isEmpty &&
    (s.gate t .glob (accessed ldG (memOnce ldG false) t) 1 EntryKind.stopsQuery).isNone) := wit (by decide +kernel)
theorem wit_store_global : Wit (ready (ptr 0)) (formOf (storeWord ldG false)) (fun s t =>
    okB s t .glob 4 (accessed ldG (memOnce ldG false) t) && !(accessed ldG (memOnce ldG false) t).isEmpty &&
    (s.gate t .glob (accessed ldG (memOnce ldG false) t) 4 EntryKind.stopsWrite).isNone) := wit (by decide +kernel)
theorem wit_store_release : Wit (scratch 8 (ptr 4)) (formOf (storeWord ldP true)) (fun s t =>
    okB s t .pocket 4 (accessed ldP (memOnce ldP false) t) && !(accessed ldP (memOnce ldP false) t).isEmpty &&
    (s.gate t .pocket (accessed ldP (memOnce ldP false) t) 4 EntryKind.stopsWrite).isNone) := wit (by decide +kernel)
theorem wit_store_nothing : Wit (scratch 8 (arch (fun a => { a with live := 0 }))) (formOf (storeWord ldV false)) (fun s t =>
    okB s t .pocket 8 (accessed ldV (memOnce ldV false) t) && (accessed ldV (memOnce ldV false) t).isEmpty) := wit (by decide +kernel)
theorem wit_store_misaligned : Wit (scratch 8 (ptr 2)) (formOf (storeWord ldP false)) (fun _ t =>
    (accessed ldP (memOnce ldP false) t).any (fun x => x.2 % 4 != 0)) := wit (by decide +kernel)
theorem wit_store_range : Wit (scratch 4 (ptr 4)) (formOf (storeWord ldP false)) (fun s t =>
    (accessed ldP (memOnce ldP false) t).all (fun x => x.2 % 4 == 0) &&
    (accessed ldP (memOnce ldP false) t).any (fun x => decide ((s.scratchOf t .pocket).size < x.2 + 4))) := wit (by decide +kernel)

/-- A store part of 4 bytes in lane 2. -/
def part4 : StorePart := { acc := 1, pc := 0, lane := 2, off := 8, data := [1, 2, 3, 4] }

/-- A team whose open region holds a store of one line. -/
def holding : Team := (only (ready id)).holdStore .pocket false 0 0 0 [(1, part4)]

theorem wit_hold_new : ∃ r, (only (ready id)).openRegion = some r ∧ mergeTarget r.held .pocket 1 = none := ⟨_, rfl, by decide +kernel⟩
theorem wit_hold_merge : ∃ r q, holding.openRegion = some r ∧ mergeTarget r.held .pocket 1 = some q := ⟨_, _, rfl, rfl⟩
theorem wit_performed : (ready id).keptAt (.kept false 0 false) loadAsid (64 * (loadVa / 64)) = (ready id, .ok false 0 true true false) ∧
    (0 : Nat) % 64 = 0 ∧ part4.off + part4.data.length ≤ 64 ∧ (ready id).slice? loadAsid (64 * (loadVa / 64)) = none ∧
    ((ready id).slices.filter (fun l => (ready id).sliceDie (64 * l.line) == (ready id).sliceDie (64 * (loadVa / 64)))).length <
      globalLines ((ready id).sliceDie (64 * (loadVa / 64))) := by decide +kernel

/-- With no watchpoint enabled no access hits one. -/
theorem wit_no_watch : ∀ x, (ready id).watchHits x = [] := fun _ => if_neg (by decide +kernel)

/-- ATOM with or without return, and CAS, of s6 at a global address or a pocket offset. -/
def atomW (nr : Bool) (w : FullM) : FullM :=
  { w with d := if nr then 0 else 0x706, nr := nr, ext := some { xc := 0x10, c := 0x705, imm := 0 } }
def atomG (nr : Bool) : FullM := atomW nr (glob (fm 0 0 0 0 2 3 0 nr none))
def atomP (nr : Bool) : FullM := atomW nr (pock (fm 0 0 0 1 2 0 0 nr none))
def atomV (nr : Bool) : FullM := { atomP nr with a := 2, d := if nr then 0 else 6 }
def casP : FullM := { atomP false with ext := some { xc := 0x783, c := 0x705, imm := 0 } }
def casV : FullM := { casP with a := 2, d := 6 }

/-- What AtomReady asks of a team that is no trailing copy, for registers regs, as a Bool. -/
def readyAtomB (s : State) (t : Team) (sp : Space) (n : Nat) (regs : List Nat) (ls : List LaneAddr) : Bool :=
  t.role == .single && !ls.isEmpty && okB s t sp n ls && (s.gate t sp ls n EntryKind.stopsWrite).isNone &&
  (regs.isEmpty || decide (s.renameUsed t.loc + regs.length * t.tw ≤ renameStore t.loc.chip)) &&
  (sp != .glob || ls.all (fun x => decide (s.probeAt t t.nextId x.2 true true = (s, .done)))) &&
  ls.all (fun x => !s.pendingAt sp (s.placeOf t sp x.2).owner (s.placeOf t sp x.2).core x.2 n) && s.partDrained (s.tenantOf t) &&
  decide ((s.core t.loc.pkgCore).outbound = []) &&
  (sp != .glob || ls.all (fun x => !s.outboundHas t.loc.pkgCore (s.asidOf t) (x.2 / 64)))

theorem wit_atom_held : Wit (ready (ptr 0)) (atomForm (atomG true)) (fun s t =>
    okB s t .glob 4 (accessed (atomG true) (atomOnce (atomG true)) t) && !(accessed (atomG true) (atomOnce (atomG true)) t).isEmpty &&
    (s.gate t .glob (accessed (atomG true) (atomOnce (atomG true)) t) 4 EntryKind.stopsWrite).isNone) := wit (by decide +kernel)
theorem wit_atom_held_nothing : Wit (scratch 8 (arch (fun a => { a with live := 0 }))) (atomForm (atomV true)) (fun _ t =>
    (accessed (atomV true) (atomOnce (atomV true)) t).isEmpty) := wit (by decide +kernel)
theorem wit_atom_misaligned : Wit (scratch 8 (ptr 2)) (atomForm (atomP true)) (fun _ t =>
    (accessed (atomP true) (atomOnce (atomP true)) t).any (fun x => x.2 % 4 != 0)) := wit (by decide +kernel)
theorem wit_atom_range : Wit (scratch 4 (ptr 4)) (atomForm (atomP true)) (fun s t =>
    (accessed (atomP true) (atomOnce (atomP true)) t).any (fun x => decide ((s.scratchOf t .pocket).size < x.2 + 4))) := wit (by decide +kernel)

/-- A closing word stands with no region in flight. -/
def shut (t : Team) : Team := { t with regions := [], needHead := true }

theorem wit_atom_global : WitC (ready (fun t => shut (ptr 0 t))) (atomForm (atomG false)) (fun s t =>
    readyAtomB s t .glob 4 (runDests t.arch (atomG false).d 1) (accessed (atomG false) (atomOnce (atomG false)) t)) := witC (by decide +kernel)
theorem wit_atom_scratch : WitC (scratch 8 (fun t => shut (ptr 4 t))) (atomForm (atomP false)) (fun s t =>
    readyAtomB s t .pocket 4 (runDests t.arch (atomP false).d 1) (accessed (atomP false) (atomOnce (atomP false)) t)) := witC (by decide +kernel)
theorem wit_atom_trails : WitC (scratch 8 (fun t => { shut (ptr 4 t) with role := .trailing, mate := 99 })) (atomForm (atomP false)) (fun s t =>
    t.role == .trailing && okB s t .pocket 4 (accessed (atomP false) (atomOnce (atomP false)) t) &&
    (s.gate t .pocket (accessed (atomP false) (atomOnce (atomP false)) t) 4 EntryKind.stopsWrite).isNone) := witC (by decide +kernel)
theorem wit_atom_closing_misaligned : WitC (scratch 8 (fun t => shut (ptr 2 t))) (atomForm (atomP false)) (fun _ t =>
    (accessed (atomP false) (atomOnce (atomP false)) t).any (fun x => x.2 % 4 != 0)) := witC (by decide +kernel)
theorem wit_atom_closing_range : WitC (scratch 4 (fun t => shut (ptr 4 t))) (atomForm (atomP false)) (fun s t =>
    (accessed (atomP false) (atomOnce (atomP false)) t).any (fun x => x.2 % 4 == 0 && decide ((s.scratchOf t .pocket).size < x.2 + 4))) :=
  witC (by decide +kernel)
theorem wit_atom_nothing : WitC (scratch 8 (fun t => shut (arch (fun a => { a with live := 0 }) t))) (atomForm (atomV false)) (fun _ t =>
    (accessed (atomV false) (atomOnce (atomV false)) t).isEmpty) := witC (by decide +kernel)
theorem wit_cas : WitC (scratch 8 (fun t => shut (ptr 4 t))) (casForm casP) (fun s t =>
    readyAtomB s t .pocket 4 (runDests t.arch casP.d 1) (accessed casP (casOnce casP) t)) := witC (by decide +kernel)
theorem wit_cas_nothing : WitC (scratch 8 (fun t => shut (arch (fun a => { a with live := 0 }) t))) (casForm casV) (fun _ t =>
    (accessed casV (casOnce casV) t).isEmpty) := witC (by decide +kernel)
theorem wit_atomic_operation : (14 : Nat) ∈ [0, 1, 13, 14] ∧ (5 : Nat) < 2 ^ tyWidth 14 := by decide +kernel
theorem wit_scratch_rmw : ((scratch 8 id).scratchOf (only (scratch 8 id)) .chamber).size ≠ 0 ∧
    ((scratch 8 id).scratchOf (only (scratch 8 id)) .chamber).mem.wf = true := by decide +kernel
theorem wit_memory : Memory.wf [(3, (1 : Byte)), (9, (255 : Byte))] = true := by decide +kernel

def fenceW (ord : BitVec 2) : FullM := fm 0 0 0 0 0 3 ord false none
def accW : Access := { id := 0, word := 0, pc := 0, region := 0, once := true, kind := .load .glob 2 false true false 0 (.vec 1) false,
                       susp := false, lost := [], lanes := [{ lane := 0, addr := 0, st := .waiting }] }

theorem wit_fence_release : Wit (ready id) (fenceForm (fenceW 2)) any := wit (by decide +kernel)
theorem wit_fence_acquire : Wit (ready id) (fenceForm (fenceW 1)) (fun s t => t.role == .single && t.accs.isEmpty && s.atoms.isEmpty) :=
  wit (by decide +kernel)
theorem wit_fence_trails : Wit (ready (fun t => { t with role := .trailing, mate := 99 })) (fenceForm (fenceW 1))
    (fun s t => t.role == .trailing && t.accs.isEmpty && s.atoms.isEmpty) := wit (by decide +kernel)
theorem wit_fence_waits : Wit (ready (fun t => { t with accs := [accW], nextId := 1 })) (fenceForm (fenceW 1))
    (fun _ t => t.accs.any (fun a => decide (a.id < 2) && a.kind.returns && a.lanes.any (·.st.unfinished))) := wit (by decide +kernel)

/-- PF of the line at s8, s9. -/
def pfW : FullM := glob (fm 0 0 0 0 0 3 0 false none)

theorem wit_pf : Wit (ready (ptr 0)) (pfForm pfW) (fun s t => accessed pfW (memOnce pfW true) t == [(0, loadVa)] && !s.isRemote loadVa &&
    t.role == .single && decide (s.translate (s.asidOf t) loadVa = (s, .ok false 0 true true false)) &&
    decide ((Xlate.ok false 0 true true false).check .read t.arch.inHandler = .ok false 0 true true false) &&
    (s.slice? (s.asidOf t) loadVa).isNone && s.tagAt false 0 == .value && !s.badData false 0) := wit (by decide +kernel)
theorem wit_pf_remote : Wit (ready (arch (fun a => a.ssetPair 8 0xC000000000000000))) (pfForm pfW) (fun s t =>
    accessed pfW (memOnce pfW true) t == [(0, 0xC000000000000000)] && s.isRemote 0xC000000000000000) := wit (by decide +kernel)

/-- SINV.p [s4], s5. -/
def sinvW : FullM := fm 0 0x704 0x705 1 0 0 0 false none

theorem wit_sinv : Wit (scratch 16 (ptr 8)) (sinvForm sinvW) (fun s t =>
    decide (8 + 8 ≤ (s.scratchOf t .pocket).size) && (s.gate t .pocket [(0, 8)] 8 EntryKind.stopsWrite).isNone) := wit (by decide +kernel)
theorem wit_sinv_misaligned : Wit (scratch 16 (ptr 6)) (sinvForm sinvW) (fun _ t => (t.arch.sget 4).toNat % 4 != 0) := wit (by decide +kernel)
theorem wit_sinv_range : Wit (scratch 12 (ptr 8)) (sinvForm sinvW) (fun s t => decide ((s.scratchOf t .pocket).size < 8 + 8)) :=
  wit (by decide +kernel)

/-! ### Tile moves -/

def tileOkB (s : State) (t : Team) (w : FullX) : Bool :=
  tileAddr w t.arch % 16 == 0 && tileStride w t.arch % 16 == 0 && decide (256 ≤ tileStride w t.arch) &&
  (spaceOf w.space.toNat == .glob || (List.range 32).all (fun i =>
    decide ((tileAddr w t.arch + i * tileStride w t.arch) % 2 ^ 32 + 256 ≤ (s.scratchOf t (spaceOf w.space.toNat)).size)))

/-- A tile move of a quarter at pocket offset s4, with stride s5. -/
def tileW : FullX := fx 7 0x704 0x705 0 false false 1 1 none

/-- The strides and offsets of a tile move. -/
def rows (off stride : Nat) (t : Team) : Team :=
  arch (fun a => (a.sset 4 (BitVec.ofNat 32 off)).sset 5 (BitVec.ofNat 32 stride)) (wide 256 t)

theorem wit_qld : Wit (scratch 8192 (rows 0 256)) (qldForm tileW) (fun s t =>
    t.role == .single && !s.arrayBusy t && tileOkB s t tileW && s.uninitMode t == 0 && t.lvq.isEmpty &&
    !s.loadMustWait t .pocket ((quarter tileW t.arch).map (fun p => (0, p.2))) 16 &&
    (s.gate t .pocket ((quarter tileW t.arch).map (fun p => (0, p.2))) 16 EntryKind.stopsLoad).isNone) := wit (by decide +kernel)
theorem wit_qld_range : Wit (scratch 4096 (rows 0 256)) (qldForm tileW) (fun s t => !s.arrayBusy t &&
    decide (tileAddr tileW t.arch % 16 = 0 ∧ tileStride tileW t.arch = 256 ∧
      (s.scratchOf t .pocket).size < (tileAddr tileW t.arch + 31 * tileStride tileW t.arch) % 2 ^ 32 + 256)) := wit (by decide +kernel)
theorem wit_qld_read : (let s := scratch 8192 (rows 0 256); let t : Team := { only s with nextId := 1 }
    (s.readQuarter t 0 .pocket (quarter tileW t.arch)).2.bad == [] && (s.readQuarter t 0 .pocket (quarter tileW t.arch)).2.unset != [] &&
    (s.readQuarter t 0 .pocket (quarter tileW t.arch)).1.teams == s.teams) = true := by decide +kernel
theorem wit_qld_odd : Wit (scratch 8192 (rows 0 240)) (qldForm tileW) (fun s t => !s.arrayBusy t && decide (tileStride tileW t.arch < 256)) :=
  wit (by decide +kernel)
theorem wit_qst : Wit (scratch 8192 (rows 0 256)) (qstForm tileW) (fun s t =>
    t.role == .single && !s.arrayBusy t && tileOkB s t tileW &&
    (s.gate t .pocket ((quarter tileW t.arch).map (fun p => (0, p.2))) 16 EntryKind.stopsWrite).isNone) := wit (by decide +kernel)
theorem wit_qst_odd : Wit (scratch 8192 (rows 8 256)) (qstForm tileW) (fun s t => !s.arrayBusy t && tileAddr tileW t.arch % 16 != 0) :=
  wit (by decide +kernel)

/-- LDF of set 0 from pocket offset s4, by codes or through a table at an offset. -/
def ldfW (perm : Bool) (table : Word) (set : BitVec 2) : FullX :=
  { fx 32 0x704 0x780 0 false false set 1 (some { xc := 0, c := 0, imm := table }) with perm := perm }

theorem wit_ldf : Wit (scratch 64 (rows 0 0)) (ldfForm (ldfW false 0 0)) (fun s t =>
    !s.arrayBusy t && t.tw % 256 == 0 &&
    (ldfLanes (ldfW false 0 0) t.arch).all (fun x => decide (x.2 + ldfReach (ldfW false 0 0) x.1 ≤ (s.scratchOf t .pocket).size)) &&
    (s.gate t .pocket (ldfLanes (ldfW false 0 0) t.arch) 33 EntryKind.stopsLoad).isNone) := wit (by decide +kernel)
theorem wit_ldf_out : Wit (scratch 32 (rows 0 0)) (ldfForm (ldfW false 0 0)) (fun s t =>
    !s.arrayBusy t && t.tw % 256 == 0 &&
    (ldfLanes (ldfW false 0 0) t.arch).any (fun x => decide ((s.scratchOf t .pocket).size < x.2 + ldfReach (ldfW false 0 0) x.1))) := wit (by decide +kernel)

/-- The pocket's table at its start, every offset 0, and what LDF `.perm` gathers with it. -/
def permB (past : Bool) (s : State) (t : Team) : Bool :=
  !s.arrayBusy t && t.tw % 256 == 0 && decide (0 + 64 ≤ (s.scratchOf t .pocket).size) &&
  (s.gate t .pocket [(0, 0)] 64 EntryKind.stopsLoad).isNone && !s.loadMustWait t .pocket [(0, 0)] 64 &&
  (match s.readScratch t t.nextId .pocket 0 64 with
   | (s1, .bytes bs [] _) => decide (s1 = s) &&
      (ldfGathers (ldfW true 0 0) (ldfTable bs) (ldfLanes (ldfW true 0 0) t.arch)).any (fun x => decide ((s.scratchOf t .pocket).size ≤ x.2)) == past
   | _ => false)

theorem wit_ldf_perm : Wit (scratch 64 (rows 0 0)) (ldfForm (ldfW true 0 0)) (permB false) := wit (by decide +kernel)
theorem wit_ldf_perm_past : Wit (scratch 64 (rows 64 0)) (ldfForm (ldfW true 0 0)) (permB true) := wit (by decide +kernel)
theorem wit_ldf_shape : Wit (scratch 64 (rows 0 0)) (ldfForm (ldfW false 0 1)) (fun s t => !s.arrayBusy t && decide (t.tw / 256 ≤ 1)) :=
  wit (by decide +kernel)
theorem wit_ldf_misaligned : Wit (scratch 64 (rows 0 0)) (ldfForm (ldfW true 1 0)) (fun s t => !s.arrayBusy t && t.tw % 256 == 0) :=
  wit (by decide +kernel)
theorem wit_ldf_range : Wit (scratch 64 (rows 0 0)) (ldfForm (ldfW true 2 0)) (fun s t =>
    !s.arrayBusy t && t.tw % 256 == 0 && decide ((s.scratchOf t .pocket).size < 2 + 64)) := wit (by decide +kernel)

/-! ### Control words -/

/-- The memory holds word v at offset o of the loaded page. -/
def withWord (o v : Nat) (s : State) : State := { s with mem := s.mem.put o (leBytes 8 v) }

/-- Word `0x8000…` of kind 10, on which nothing may land. -/
def kind10 : Nat := 2 ^ 63

def landsB (s : State) (t : Team) (target : Nat) : Bool := (s.landing t target).2.isNone

/-- The target of a relative branch two words on, and one that is about to land there. -/
def onward : Nat := relTarget (ft 0 0 0 2 none) (only (ready id)).arch
def braW : Word1 := landingOn (ctlForm (ft 0 0 0 2 none) none) onward
def callW : Word1 := landingOn (ctlForm (ft 0x706 0 0 2 none) (scalPair 0x706)) onward

theorem wit_bra : Wit (ready id) braW (fun s t => landsB s t (relTarget (ft 0 0 0 2 none) t.arch)) := wit (by decide +kernel)
theorem wit_bra_bad : Wit (withWord 16 kind10 (ready id)) braW
    (fun s t => !landsB s t (relTarget (ft 0 0 0 2 none) t.arch)) := wit (by decide +kernel)

/-- BRC on mask or scalar a with condition b, of an allowed form. -/
def brcB (a b : BitVec 11) (taken : Bool) : Bool :=
  let s := ready (arch (fun x => (x.kset 2 1 1).sset 3 7))
  let w := ft 0 a b 2 none
  let form := ctlForm w (if w.b.toNat < 4 then classCheck 8 w.a else scalReg w.a)
  runningB s (only s) && passesB s (only s) (if taken then landingOn form onward else form) && fitsB s (only s) form &&
  (match b.toNat with
   | 0 => decide (∃ l ∈ lanesOf 32 (only s).arch.live, Mask.has ((only s).arch.kget a.toNat) l = true)
   | 1 => decide (∀ l ∈ lanesOf 32 (only s).arch.live, Mask.has ((only s).arch.kget a.toNat) l = true)
   | 2 => decide (∀ l ∈ lanesOf 32 (only s).arch.live, ¬ Mask.has ((only s).arch.kget a.toNat) l = true)
   | 3 => decide (∃ l ∈ lanesOf 32 (only s).arch.live, ¬ Mask.has ((only s).arch.kget a.toNat) l = true)
   | 4 => decide (scalVal (only s).arch a ≠ 0)
   | _ => decide (scalVal (only s).arch a = 0)) == taken

theorem wit_brc_any : brcB 2 0 true = true ∧ brcB 1 0 false = true := by decide +kernel
theorem wit_brc_all : brcB 0 1 true = true ∧ brcB 2 1 false = true := by decide +kernel
theorem wit_brc_none : brcB 1 2 true = true ∧ brcB 2 2 false = true := by decide +kernel
theorem wit_brc_notall : brcB 2 3 true = true ∧ brcB 0 3 false = true := by decide +kernel
theorem wit_brc_scalar : brcB 0x703 4 true = true ∧ brcB 0x704 4 false = true ∧ brcB 0x704 5 true = true ∧ brcB 0x703 5 false = true := by
  decide +kernel
theorem wit_brx : Wit (ready (ptr 0)) (landingOn (ctlForm (ft 0 0x708 0 0 none) (scalPair 0x708)) ((only (ready (ptr 0))).arch.spair 8)) (fun s t => landsB s t (t.arch.spair 8)) :=
  wit (by decide +kernel)
theorem wit_call : Wit (ready id) callW (fun s t =>
    landsB s t (relTarget (ft 0x706 0 0 2 none) t.arch) &&
    decide (t.arch.stack.length + 1 ≤ 32 + (s.landing t (relTarget (ft 0x706 0 0 2 none) t.arch)).1.spillOf t)) := wit (by decide +kernel)
theorem wit_call_deep : Wit (ready (arch (fun a => { a with stack := List.replicate 32 (.call 0) }))) callW
    (fun s t => landsB s t (relTarget (ft 0x706 0 0 2 none) t.arch) &&
      decide (32 + (s.landing t (relTarget (ft 0x706 0 0 2 none) t.arch)).1.spillOf t < t.arch.stack.length + 1)) := wit (by decide +kernel)

/-- A join entry at word 0 of the page: its sides, its ejected lanes and its count. -/
def joinE (pend ej : Mask) (count : Nat) : JoinEntry :=
  { name := 77, jpc := BitVec.ofNat 64 loadVa, reconv := fullMask 32, pend := pend, ppc := BitVec.ofNat 64 (loadVa + 8), ej := ej, early := 0,
    count := count, vFirst := 0, nv := 0 }

def stacked (es : List StackEntry) : Team → Team := arch (fun a => { a with stack := es })

theorem wit_ret : Wit (ready (stacked [.call (BitVec.ofNat 64 (loadVa + 8))])) (landingOn (ctlForm (ft 0 0 0 0 none) none) (loadVa + 8))
    (fun s t => landsB s t (loadVa + 8)) := wit (by decide +kernel)
theorem wit_ret_empty : Wit (ready id) (ctlForm (ft 0 0 0 0 none) none) (fun _ t => t.arch.stack == []) := wit (by decide +kernel)
theorem wit_ret_join : Wit (ready (stacked [.join (joinE 0 0 0)])) (ctlForm (ft 0 0 0 0 none) none)
    (fun _ t => t.arch.stack == [.join (joinE 0 0 0)]) := wit (by decide +kernel)

/-- SPLIT of mask k to a target 3 words on, joined 4 words on, with v4–v7 as live set. -/
def splitW (k : BitVec 11) : FullT := ft 0 k 4 3 (some { xc := 4, c := 4, imm := 0 })

/-- A team whose mask k2 has lanes 0 and 1. -/
def halved : Team → Team := arch (fun a => a.kset 2 3 3)

/-- A grid that may eject n lanes. -/
def mayLeave (n : Nat) (s : State) : State := { s with grids := s.grids.map (fun g => { g with lrec := { g.lrec with eject := n } }) }

def splitTargets (t : Team) : Nat × Nat := ((t.arch.pc.toNat + 24) % 2 ^ 64, (t.arch.pc.toNat + 32) % 2 ^ 64)

def splitLandsB (s : State) (t : Team) : Bool :=
  landsB s t (splitTargets t).1 && landsB (s.landing t (splitTargets t).1).1 t (splitTargets t).2

theorem wit_split_ejects : ∃ t, Goes (mayLeave 2 (ready halved)) t (splitForm (splitW 2)) ∧ t.role = .single ∧
    mayEject (mayLeave 2 (ready halved)) t (splitW 2) := by
  obtain ⟨t, h1, h2⟩ := (wit (by decide +kernel) : Wit (mayLeave 2 (ready halved)) (splitForm (splitW 2)) (fun s t =>
    decide (t.role = .single ∧ (lanesOf t.tw (splitTaken (splitW 2) t)).length ≠ 0 ∧ splitRest (splitW 2) t ≠ 0 ∧
      (lanesOf t.tw (splitTaken (splitW 2) t)).length ≤ ((s.gridOf t).map (·.lrec.eject)).getD 0 ∧ t.pend = [] ∧
      s.lanternUsed t.loc.pkgCore + (lanesOf t.tw (splitTaken (splitW 2) t)).length ≤ 64)))
  obtain ⟨a, b, c, d, e, f⟩ := of_decide_eq_true h2
  exact ⟨t, h1, a, _, rfl, b, c, d, by simp [e], f⟩
theorem wit_split_pending : Wit (ready halved) (splitForm (splitW 2)) (fun s t =>
    splitLandsB s t && t.role == .single && !s.ejects t (splitW 2) && splitTaken (splitW 2) t != 0 && splitRest (splitW 2) t != 0 &&
    decide (t.arch.stack.length + 1 ≤ 32 + s.spillOf t)) := wit (by decide +kernel)
theorem wit_split_none : Wit (ready halved) (splitForm (splitW 1)) (fun s t =>
    splitLandsB s t && !s.ejects t (splitW 1) && splitTaken (splitW 1) t == 0) := wit (by decide +kernel)
theorem wit_split_all : Wit (ready halved) (splitForm (splitW 0)) (fun s t =>
    splitLandsB s t && !s.ejects t (splitW 0) && splitTaken (splitW 0) t != 0 && splitRest (splitW 0) t == 0) := wit (by decide +kernel)
theorem wit_split_deep : Wit (ready (stacked (List.replicate 32 (.call 0)))) (splitForm (splitW 2)) (fun s t =>
    splitLandsB s t && decide (32 + s.spillOf t < t.arch.stack.length + 1)) := wit (by decide +kernel)
theorem wit_split_bad_target : Wit (withWord 24 kind10 (ready id)) (splitForm (splitW 2)) (fun s t => !landsB s t (splitTargets t).1) :=
  wit (by decide +kernel)
theorem wit_split_bad_join : Wit (withWord 32 kind10 (ready id)) (splitForm (splitW 2)) (fun s t =>
    landsB s t (splitTargets t).1 && !landsB (s.landing t (splitTargets t).1).1 t (splitTargets t).2) := wit (by decide +kernel)

def joinW : FullT := ft 0 0 0 0 none

/-- A lane's record that the lantern returned early, at word 5. -/
def early : ContRec :=
  { entry := 77, pc := BitVec.ofNat 64 (loadVa + 40), core := 0, slot := 0, gen := 0, depth := 0, lane := 1, kind := 1, nv := 0, ns := 0, kbits := 0,
    enab := 0, sticky := 0, status := 2, tenant := 0, prio := 0, asid := loadAsid, regs := [], vFirst := 0, sFirst := 0, raised := 0 }

theorem wit_join_empty : Wit (ready id) (joinForm joinW) (fun _ t => t.arch.stack == []) := wit (by decide +kernel)
theorem wit_join_call : Wit (ready (stacked [.call 0])) (joinForm joinW) (fun _ t => t.arch.stack == [.call 0]) := wit (by decide +kernel)
theorem wit_join_elsewhere : Wit (ready (stacked [.join { joinE 0 0 0 with jpc := 0 }])) (joinForm joinW) (fun _ t => t.arch.pc != 0) :=
  wit (by decide +kernel)
theorem wit_join_pending : Wit (ready (stacked [.join (joinE 3 0 0)])) (joinForm joinW) (fun _ t => t.arch.pc == (joinE 3 0 0).jpc) :=
  wit (by decide +kernel)
theorem wit_join_waits : Wit (ready (stacked [.join (joinE 0 2 1)])) (joinForm joinW) (fun _ t =>
    t.arch.pc == (joinE 0 2 1).jpc && t.role == .single && t.ctr (joinE 0 2 1) != 0) := wit (by decide +kernel)
theorem wit_join_done : Wit (ready (stacked [.join (joinE 0 0 0)])) (joinForm joinW) (fun _ t =>
    t.arch.pc == (joinE 0 0 0).jpc && t.ctr (joinE 0 0 0) == 0) := wit (by decide +kernel)
theorem wit_join_early : Wit (ready (fun t => { stacked [.join (joinE 0 2 1)] t with returned := [early] })) (joinForm joinW) (fun _ t =>
    t.arch.pc == (joinE 0 2 1).jpc && t.ctr (joinE 0 2 1) == 0 &&
    t.returned.all (fun r => r.status != 4 && r.status != 1 && r.entry == 77 && Mask.has (joinE 0 2 1).ej r.lane)) := wit (by decide +kernel)

/-- The lane's record as one that ended at a trap. -/
theorem wit_join_raised : Wit (ready (fun t => { stacked [.join (joinE 0 2 1)] t with returned := [{ early with status := 4, raised := 1 }] }))
    (joinForm joinW) (fun _ t => t.arch.pc == (joinE 0 2 1).jpc && t.ctr (joinE 0 2 1) == 0 && t.role == .single && (joinE 0 2 1).ej != 0 &&
      ((t.returned.filter (fun r => r.entry == (joinE 0 2 1).name)).filter (fun r => r.status == 4)).head?.isSome) := wit (by decide +kernel)

/-- WAITV.p s6, [s4], s5: until equal, or until unequal; the word read is 0 and s5 is 8. -/
def waitvW (cond : BitVec 14) (ext : Option Ext) : FullT := ft 0x706 0x704 0x705 (0x1000 + cond * 1024) ext

def waitvB (cond : BitVec 14) (ext : Option Ext) (s : State) (t : Team) : Bool :=
  t.role == .single && (accessTrap .pocket (s.scratchOf t .pocket).size 4 4 true [(0, scalVal t.arch (waitvW cond ext).a)]).isNone &&
  (s.gate t .pocket [(0, 4)] 4 EntryKind.stopsLoad).isNone &&
  (match (gated s t).1.waitvRead (gated s t).2 .pocket 4 with
   | (_, .bytes bs _ inv) => bs.length == 4 && bs == [0, 0, 0, 0] && !s.loadMustWait t .pocket [(0, 4)] 4 && (inv == [] || s.uninitMode t == 0)
   | _ => false)

theorem wit_waitv_holds : Wit (scratch 8 (ptr 4)) (waitvForm (waitvW 1 none)) (waitvB 1 none) := wit (by decide +kernel)
theorem wit_waitv_limit : Wit { scratch 8 (fun t => arch (fun a => { a with waitFrom := some 0 }) (ptr 4 t)) with tick := 9 }
    (waitvForm (waitvW 0 (im 9))) (fun s t => waitvB 0 (im 9) s t && decide (0 + 9 ≤ s.tick)) := wit (by decide +kernel)
theorem wit_waitv_parks : Wit (scratch 8 (ptr 4)) (waitvForm (waitvW 0 (im 9))) (fun s t => waitvB 0 (im 9) s t && t.arch.waitFrom.isNone &&
    decide (¬ s.tick + 9 ≤ s.tick)) := wit (by decide +kernel)
theorem wit_waitv_trap : Wit (scratch 8 (ptr 8)) (waitvForm (waitvW 1 none)) (fun s t =>
    (accessTrap .pocket (s.scratchOf t .pocket).size 4 4 true [(0, scalVal t.arch (waitvW 1 none).a)]).isSome) := wit (by decide +kernel)
theorem wit_yield : Wit (ready id) (ctlForm (ft 0 0x705 0 0 none) (scalCheck 0x705)) any := wit (by decide +kernel)

/-- SPAWN of four registers, from vector v4 in every lane or from scalar s4 once. -/
def spawnW (a : BitVec 11) : FullT := ft 0 a 0x784 2 none

theorem wit_spawn_lanes : Wit (ready id) (spawnForm (spawnW 4)) (fun s t =>
    t.role == .single && decide ((s.die t.loc.chip).arenaUsed + (spawnLanes (spawnW 4) t).length ≤ (s.die t.loc.chip).arenaCap) &&
    decide ((lanesOf t.tw t.arch.live).length ≤ 512)) := wit (by decide +kernel)
theorem wit_spawn_once : Wit (ready id) (spawnForm (spawnW 0x704)) (fun s t =>
    decide ((s.die t.loc.chip).arenaUsed + (spawnLanes (spawnW 0x704) t).length ≤ (s.die t.loc.chip).arenaCap)) := wit (by decide +kernel)
theorem wit_spawn_many : (let s : State := { ready (wide 513) with dies := (ready id).dies.map (fun d => { d with arenaCap := 1024 }) }
    let t := only s
    let w := spawnForm (spawnW 4)
    runningB s t && passesB s t w && w.closing s t == false && t.needHead == false &&
    (match t.openRegion, (atFresh s t w).openRegion with
     | some r, some r2 => r.fresh && overLimit t r (w.demand s t) && s.noRoom (atFresh s t w) r2 (w.demand s (atFresh s t w)) == none
     | _, _ => false) &&
    decide (512 < (lanesOf t.tw t.arch.live).length) && !t.arch.spawned &&
    decide ((s.die t.loc.chip).arenaUsed + (spawnLanes (spawnW 4) t).length ≤ (s.die t.loc.chip).arenaCap)) = true := by decide +kernel
theorem wit_spawn_waits : Wit { ready id with dies := (ready id).dies.map (fun d => { d with arenaCap := 31 }) } (spawnForm (spawnW 4))
    (fun s t => decide ((s.die t.loc.chip).arenaCap < (s.die t.loc.chip).arenaUsed + (spawnLanes (spawnW 4) t).length)) := wit (by decide +kernel)

def launchForm : Word1 := { ctlForm (ft 0 0x708 0 0 none) (scalPair 0x708) with demand := fun _ _ => { entries := 1 } }

theorem wit_launch : Wit (ready (ptr 0)) launchForm (fun _ t => t.arch.spair 8 % 128 == 0 && decide (2 ^ 63 ≤ t.arch.spair 8) && t.role == .single) :=
  wit (by decide +kernel)
theorem wit_launch_misaligned : Wit (ready (arch (fun a => a.ssetPair 8 (loadVa + 64)))) launchForm (fun _ t => t.arch.spair 8 % 128 != 0) :=
  wit (by decide +kernel)
theorem wit_launch_host : Wit (ready (arch (fun a => a.ssetPair 8 256))) launchForm (fun _ t => decide (t.arch.spair 8 < 2 ^ 63)) := wit (by decide +kernel)

def allotForm (v : Word) : Word1 := closingForm (ft 0 0 0 0 (im v)) none

theorem wit_rega : WitC (ready shut) (allotForm 16) (fun s t => decide (t.regs + 16 ≤ 1536 ∧ (t.regs + 16) * t.tw ≤ 393216) &&
    (s.partTeams t.loc.pkgCore t.loc.part).all (fun u => u.uid == t.uid) && decide (16 * t.tw ≤ s.lanesFree t.loc.pkgCore t.loc.part)) :=
  witC (by decide +kernel)
theorem wit_rega_waits : WitC (ready shut) (allotForm 1504) (fun s t => decide (t.regs + 1504 ≤ 1536 ∧ (t.regs + 1504) * t.tw ≤ 393216)) :=
  witC (by decide +kernel)
theorem wit_rega_older : WitC (let s := ready (fun t => shut { t with age := 7 }); { s with teams := s.teams ++
      [{ only s with uid := 100, age := 0, loc := { (only s).loc with slot := 1 }, run := .registers 16 8 false }] }) (allotForm 16) (fun s t =>
    (s.partTeams t.loc.pkgCore t.loc.part).any (fun u => u.uid != t.uid && u.wants.isSome && u.older (atClose t))) := witC (by decide +kernel)
theorem wit_rega_bad : WitC (ready shut) (allotForm 8) (fun _ _ => decide ((8 : Nat) % 16 ≠ 0)) := witC (by decide +kernel)
theorem wit_regr : WitC (ready (fun t => shut { t with regs := 48 })) (allotForm 32) (fun _ t => decide (16 + 32 ≤ t.regs) && (t.cutsLiveSet (t.regs - 32)).isNone) :=
  witC (by decide +kernel)
theorem wit_regr_cuts : WitC (ready (fun t => shut { stacked [.join { joinE 0 2 1 with vFirst := 40, nv := 4 }] t with regs := 48 })) (allotForm 32)
    (fun _ t => (t.cutsLiveSet (t.regs - 32)).isSome) := witC (by decide +kernel)
theorem wit_regr_bad : WitC (ready shut) (allotForm 16) (fun _ t => decide (t.regs < 16 + 16)) := witC (by decide +kernel)

/-! ### System words -/

/-- A team in its handler, which left from word 1 of the page. -/
def handling (t : Team) : Team := arch (fun a => { a with inHandler := true, bank := { a.bank with epc := BitVec.ofNat 64 (loadVa + 8), elive := 3 } }) t

theorem wit_banked_outside : WitR (ready id) (fun _ t => !t.arch.inHandler) := witR (by decide +kernel)
theorem wit_getsr_masks : Wit (ready handling) (getsrForm (fs 2 0 0 0x025 0 none)) any ∧ Wit (ready handling) (getsrForm (fs 2 0 0 0x026 0 none)) any :=
  ⟨wit (by decide +kernel), wit (by decide +kernel)⟩
theorem wit_getsr : Wit (ready handling) (getsrForm (fs 0x704 0 0 0x024 0 none)) (fun _ t => t.role == .single) := wit (by decide +kernel)
theorem wit_getsr_wide : Wit (ready id) (getsrForm (fs 0x704 0 0 0x018 0 none)) (fun _ t => t.role == .single) := wit (by decide +kernel)
theorem wit_getsr_counter : Wit (ready id) (getsrForm (fs 0x704 0 0 0x00B 0 none)) (fun _ t => t.role == .single) := wit (by decide +kernel)
theorem wit_getsr_tick : Wit (ready id) (getsrForm (fs 0x704 0 0 0x013 0 none)) (fun _ t => t.role == .single) := wit (by decide +kernel)
/-- A leading copy, with its queue empty or full, and a trailing one. -/
def lead (n : Nat) (t : Team) : Team :=
  { t with role := .leading, mate := 99, lvq := List.replicate n (lvqValues 0 0 0 [] [] |> fun e => { e with bytes := 4096 }) }

theorem wit_getsr_leads : Wit (ready (lead 0)) (getsrForm (fs 0x704 0 0 0x013 0 none)) (fun _ t =>
    t.role == .leading && t.lvqRoom (lvqValues t.arch.issued t.arch.pc t.regionId [] [(4, 0, 0), (5, 0, 0)])) := wit (by decide +kernel)
theorem wit_getsr_full : Wit (ready (lead 16)) (getsrForm (fs 0x704 0 0 0x013 0 none)) (fun _ t =>
    t.role == .leading && !t.lvqRoom (lvqValues t.arch.issued t.arch.pc t.regionId [] [(4, 0, 0), (5, 0, 0)])) := wit (by decide +kernel)
theorem wit_getsr_trails : Wit (ready (fun t => { t with role := .trailing, mate := 99 })) (getsrForm (fs 0x704 0 0 0x013 0 none)) (fun s t =>
    t.role == .trailing && (s.lvqFind t (atWord 0 t.arch)).isNone) := wit (by decide +kernel)
theorem wit_setsr : Wit (ready handling) (setsrForm (fs 0 0x704 0 0x021 0 none)) any := wit (by decide +kernel)
theorem wit_setsr_closing : WitC (ready shut) (setsrForm (fs 0 0x704 0 0x018 0 none)) any := witC (by decide +kernel)
theorem wit_setsr_watch_host : WitC ((ready (fun t => shut (handling t))).setReg 0 0xC108 0x4000) (setsrForm (fs 0 0x705 0 0x104 0 none))
    (fun s t => (s.reg 0 (watchOff t.loc.cl 0 + 8)).getLsbD 14) := witC (by decide +kernel)
theorem wit_setsr_watch : WitC (ready (fun t => shut (handling t))) (setsrForm (fs 0 0x705 0 0x104 0 none)) any := witC (by decide +kernel)
theorem wit_trap : Wit (ready id) (trapForm (fs 0 0x785 0 0 0 none)) (fun s t => t.arch.acting t.tw hd0 != 0 && !s.brkStops t.loc.cl) :=
  wit (by decide +kernel)
theorem wit_trap_nothing : Wit (ready id) (trapForm { fs 0 0x785 0 0 0 none with hd := hd1 }) (fun _ t => t.arch.acting t.tw hd1 == 0) :=
  wit (by decide +kernel)
theorem wit_brk_stops : Wit ((ready id).setReg 0 0xC000 3) (trapForm (fs 0 0x780 0 0 0 none)) (fun s t =>
    t.arch.acting t.tw hd0 != 0 && s.brkStops t.loc.cl) := wit (by decide +kernel)
theorem wit_rte : Wit (ready handling) (rteForm (fs 0 0 0 0 0 none)) (fun s t => landsB s t t.arch.bank.epc.toNat && !t.accs.any (·.susp)) :=
  wit (by decide +kernel)
theorem wit_rte_suspended : Wit (ready (fun t => { handling t with accs := [{ accW with susp := true }] })) (rteForm (fs 0 0 0 0 0 none))
    (fun s t => landsB s t t.arch.bank.epc.toNat && t.accs.any (·.susp)) := wit (by decide +kernel)
theorem wit_rte_outside : WitR (ready id) (fun _ t => !t.arch.inHandler && !isNop hd0) := witR (by decide +kernel)
theorem wit_rte_encodes : (Instr.rte (fs 0 0 0 0 0 none)).wellFormed = true ∧ (fs 0 0 0 0 0 none).hd.sw = false ∧ (fs 0 0 0 0 0 none).hd.pn = false := by
  decide +kernel
theorem wit_rte_bad_target : Wit (withWord 8 kind10 (ready handling)) (rteForm (fs 0 0 0 0 0 none)) (fun s t => !landsB s t t.arch.bank.epc.toNat) :=
  wit (by decide +kernel)
theorem wit_lanerd : Wit (ready id) (lanerdForm (fs 0x706 2 0x79F 0 1 none)) (fun _ t => ((opd 2).vecNum t.arch).isSome && (opd 0x706).isScal) :=
  wit (by decide +kernel)
theorem wit_lane_past : WitR (ready id) (fun s t =>
    decide (t.tw ≤ scalVal t.arch 0x7A0) && (boundCheck t 1 (opd 2)).isNone && ((lanerdForm (fs 0x706 2 0x7A0 0 0 none)).check s t).isNone &&
    ((lanewrForm (fs 2 0x706 0x7A0 0 0 none)).check s t).isNone) := witR (by decide +kernel)
theorem wit_lanewr : Wit (ready id) (lanewrForm (fs 3 0x706 0x79F 0 0 none)) (fun _ t => ((opd 3).vecNum t.arch).isSome) := wit (by decide +kernel)
theorem wit_trace_off : Wit (ready id) (traceForm (fs 0 0x787 0x709 0 0 none)) (fun s t => !s.traces t hd0) := wit (by decide +kernel)
theorem wit_trace_on : Wit ((ready id).setReg 0 0xA008 1) (traceForm (fs 0 0x787 0x709 0 0 none)) (fun s t => s.traces t hd0) := wit (by decide +kernel)
theorem wit_capq : Wit (ready id) (capqForm (fs 5 2 0 0 0 none)) (fun _ t => t.role == .single && ((opd 5).vecNum t.arch).isSome) := wit (by decide +kernel)
theorem wit_capq_once : Wit (ready id) (capqForm (fs 0x70A 0x785 0 0 0 none)) (fun _ t => t.role == .single && (opd 0x70A).isScal) := wit (by decide +kernel)
theorem wit_migr : WitC (ready shut) (migrForm (fs 0 0x782 0 0 0 none) true) (fun _ t => decide (((2 : Nat) ||| 1) &&& 7 = 3) && decide (t.loc.chip < 4)) :=
  witC (by decide +kernel)
theorem wit_migr_none : WitC (ready (fun t => shut { t with loc := { t.loc with chip := 4 } })) (migrForm (fs 0 0x782 0 0 0 none) true)
    (fun s t => !s.partHas (s.tenantOf t) 3) := witC (by decide +kernel)
/-- A partition of chiplets 0 and 4, and a team on chiplet 4 that asks for set TRIG. -/
def movable : State :=
  let s := ((ready (fun t => shut { t with loc := { t.loc with chip := 4 } })).setReg 0 0x5000 0x10001).setReg 0 0x501C 1
  { s with blocks := s.blocks.map (fun b => { b with chip := 4 }) }

theorem wit_migr_moves : WitC movable (migrForm (fs 0 0x782 0 0 0 none) true) (fun s t => s.partHas (s.tenantOf t) 3 && decide (¬ t.loc.chip < 4)) :=
  witC (by decide +kernel)

theorem wit_migr_plain : WitC (ready shut) (migrForm (fs 0 0 0 0 2 none) false) any := witC (by decide +kernel)

/-! ### Cells, pairs and marks -/

def cellW (d : BitVec 11) : FullM := fm d 0x708 0x780 0 0 4 0 false none

/-- A definition record whose every field is in order: the entry point in the device half, no argument, width 1. -/
def cellForms : List (CellOp × BitVec 11) := [(.gdef, 0x710), (.gres, 0x710), (.gresSet, 4), (.gpsn, 0x705), (.gpsnSet, 0x705)]

theorem wit_cell : ∀ x ∈ cellForms, (let s := ready (ptr 0); let w := cellW x.2; let t := only s
    runningB s t && passesB s t (formOf (cellWord w x.1)) && fitsB s t (formOf (cellWord w x.1)) && effAddr w t.arch 0 % 64 == 0 &&
    decide (2 ^ 63 ≤ effAddr w t.arch 0) && (s.gate t .glob [(0, effAddr w t.arch 0)] 64 EntryKind.stopsWrite).isNone) = true := by decide +kernel
theorem wit_gdef_bad : (geodeRecordBad (List.replicate 64 255)).isSome = true := by decide +kernel
theorem wit_cell_misaligned : Wit (ready (arch (fun a => a.ssetPair 8 (loadVa + 8)))) (formOf (cellWord (cellW 0x710) .gres)) (fun _ t =>
    effAddr (cellW 0x710) t.arch 0 % 64 != 0) := wit (by decide +kernel)
theorem wit_cell_host : Wit (ready (arch (fun a => a.ssetPair 8 4096))) (formOf (cellWord (cellW 0x710) .gres)) (fun _ t =>
    effAddr (cellW 0x710) t.arch 0 % 64 == 0 && decide (effAddr (cellW 0x710) t.arch 0 < 2 ^ 63)) := wit (by decide +kernel)

def slot (pop : BitVec 6) (d a m : BitVec 8) : Slot := { pop := pop, d := d, a := a, m := m }
def pairW : PairWord := { sw := false, s0 := slot 0x03 1 2 0, s1 := slot 0x20 4 7 0 }

theorem wit_pair_word : Wit (ready id) (pairForm pairW) (fun s t =>
    (allFlags (((slotResults s t pairW.s0).2 ++ (slotResults (slotResults s t pairW.s0).1 t pairW.s1).2).map (fun r : LaneResult => r.2.2))) &&&
      t.arch.enables == 0) := wit (by decide +kernel)
theorem wit_pair_traps : Wit (ready (arch (fun a => ({ a with flags := 0x1F00 } : Arch).vset 7 (fun _ => some 0x7F800001)))) (pairForm pairW)
    (fun s t => (allFlags (((slotResults s t pairW.s0).2 ++ (slotResults (slotResults s t pairW.s0).1 t pairW.s1).2).map (fun r : LaneResult => r.2.2))) &&&
      t.arch.enables != 0) := wit (by decide +kernel)
theorem wit_mark : WitR (ready id) (fun _ t => decide (t.inFlight < 4)) := witR (by decide +kernel)
theorem wit_mark_waits : WitR (ready (fun t => (((t.openAt 0 64 8).openAt 0 64 8).openAt 0 64 8))) (fun _ t => decide (4 ≤ t.inFlight)) := witR (by decide +kernel)
theorem wit_padding : Wit (ready id) (markForm true) any := wit (by decide +kernel)


/-! ### Engine words -/

/-- The shape record of eight scalars from s(8m). -/
def rec8 (m : Nat) (xs : List Nat) (t : Team) : Team :=
  arch (fun a => (List.range 8).foldl (fun a i => a.sset (8 * m + i) (BitVec.ofNat 32 (xs.getD i 0))) a) t

/-- A copy of 64 bytes between two places of the pocket, with the flags and the digest bit given. -/
def pocketPair (dig : Nat) (t : Team) : Team := rec8 2 [0, 0, 64, 1, 64, 1, 0, 1 + 512 * dig] (rec8 3 [64, 0, 64, 1, 64, 1, 0, 1] t)

/-- A copy of 64 bytes from another device. -/
def farPair (t : Team) : Team := rec8 2 [0, 0xC0000000, 64, 1, 64, 1, 0, 0] (rec8 3 [64, 0, 64, 1, 64, 1, 0, 1] t)

def few (n : Nat) (t : Team) : Team := { t with cnts := t.cnts.modify 0 (fun _ => List.range n) }

def copyW (ext : Option Ext) : FullE := fe 0 0 0 2 3 0 0 ext

/-- The token bucket of every tenant of every device holds n. -/
def tokens (n : Int) (s : State) : State := { s with dies := s.dies.map (fun d => { d with buckets := List.replicate 8 n }) }

def reqB (src dst : Nat) (s : State) (t : Team) : Bool × Bool × Bool :=
  let x := shapeOf t.arch src
  let y := shapeOf t.arch dst
  (decide (255 ≤ (t.cnts.getD 0 []).length),
   decide ((x.spaceNo = 0 ∧ s.isRemote x.base = true) ∨ (y.spaceNo = 0 ∧ s.isRemote y.base = true)),
   decide ((s.die t.loc.chip).buckets.getD (s.tenantOf t) 0 ≤ 0))

/-- The shape checks of a COPY between records 2 and 3. -/
def copyChecks (copy dig : Bool) (s : State) (t : Team) : Option Trap :=
  let x := shapeOf t.arch 2
  let y := shapeOf t.arch 3
  shapeChecks x y { dest := false, copy := copy, digest := dig, size := s.sizeOf t x.spaceNo }
    { dest := true, copy := copy, digest := dig, size := s.sizeOf t y.spaceNo } (x.total != y.total)

theorem wit_copy : Wit (scratch 256 (pocketPair 0)) (engForm (copyW none) none 1) (fun s t =>
    (copyChecks true false s t).isNone && reqB 2 3 s t == (false, false, true)) := wit (by decide +kernel)
theorem wit_copy_full : Wit (scratch 256 (fun t => few 255 (pocketPair 0 t))) (engForm (copyW none) none 1) (fun s t =>
    (copyChecks true false s t).isNone && t.role != .trailing && (reqB 2 3 s t).1) := wit (by decide +kernel)
theorem wit_copy_dry : Wit (scratch 256 farPair) (engForm (copyW none) none 1) (fun s t =>
    (copyChecks true false s t).isNone && reqB 2 3 s t == (false, true, true)) := wit (by decide +kernel)
theorem wit_copy_far : Wit (tokens 1 (scratch 256 farPair)) (engForm (copyW none) none 1) (fun s t =>
    (copyChecks true false s t).isNone && reqB 2 3 s t == (false, true, false)) := wit (by decide +kernel)
theorem wit_copy_shape : Wit (scratch 64 (pocketPair 0)) (engForm (copyW none) none 1) (fun s t => (copyChecks true false s t).isSome) :=
  wit (by decide +kernel)
theorem wit_copy_barrier : Wit (scratch 256 (pocketPair 0)) (engForm (copyW (some { xc := 1, c := 0, imm := 8 })) none 1) (fun s t =>
    (s.barrierTraps t (barrierOf (copyW (some { xc := 1, c := 0, imm := 8 })).ext)).1.isSome) := wit (by decide +kernel)
theorem wit_copy_digest : Wit (scratch 256 (pocketPair 1)) (engForm (copyW (some { xc := 0, c := 0x708, imm := 0 })) (scalPair 0x708) 1)
    (fun s t => (copyChecks true true s t).isNone && t.arch.spair 8 % 64 == 0) := wit (by decide +kernel)
theorem wit_copy_digest_misaligned : Wit (scratch 256 (fun t => arch (fun a => a.ssetPair 8 32) (pocketPair 1 t)))
    (engForm (copyW (some { xc := 0, c := 0x708, imm := 0 })) (scalPair 0x708) 1)
    (fun s t => (copyChecks true true s t).isNone && t.arch.spair 8 % 64 != 0) := wit (by decide +kernel)

/-- GATHER of the entries counted by s5, whose list stands in the pocket at s4. -/
def gatherW : FullE := fe 0 0x704 0x705 2 3 0 1 none

/-- Rows of 8 bytes: as many as the destination of 64 bytes takes. -/
def rowsOf8 (t : Team) : Team := ptr 0 (rec8 2 [0, 0, 8, 16, 8, 1, 0, 1] (rec8 3 [128, 0, 64, 1, 64, 1, 0, 1] t))

def gatherForm : Word1 := { engForm gatherW (firstTrap [scalCheck gatherW.a, scalCheck gatherW.b]) 0 with
  demand := fun _ t => { entries := if scalVal t.arch gatherW.b = 0 then 0 else 1 } }

theorem wit_gather_none : Wit (scratch 256 (arch (fun a => a.sset 5 0))) gatherForm
    (fun _ t => scalVal t.arch gatherW.b == 0) := wit (by decide +kernel)
theorem wit_gather : Wit (scratch 256 rowsOf8) gatherForm (fun s t =>
    let x := shapeOf t.arch 2
    let y := shapeOf t.arch 3
    let n := scalVal t.arch gatherW.b
    n == 8 && (objTrap (s.scratchOf t (objSpace gatherW)).size 0 4 (4 * n)).isNone &&
    (shapeChecks x y { dest := false, copy := false, digest := false, size := 256 } { dest := true, copy := false, digest := false, size := 256 }
      (x.planes != 1 || n * x.rowb != y.total)).isNone) := wit (by decide +kernel)

/-- The pocket holds the bytes bs at offset 0. -/
def pocketHas (bs : List Byte) (s : State) : State :=
  { s with blocks := s.blocks.map (fun b => { b with pockets := b.pockets.map (fun p => p.write 0 bs) }) }

/-- A gour at offset 0 of the pocket with two slots of 64 bytes from offset 64 on, and its indices. -/
def gourAt (widx cidx ridx : Nat) (s : State) : State :=
  pocketHas (natBytes 4 (0xA5 + 256 + 2 * 65536) ++ natBytes 4 64 ++ natBytes 4 64 ++ natBytes 4 widx ++ natBytes 4 cidx ++ natBytes 4 ridx ++ natBytes 4 0) s

def fillW : FullE := fe 0 0x704 0 2 0 0 1 none

theorem wit_plfill : Wit (gourAt 0 0 0 (scratch 256 (fun t => ptr 0 (rec8 2 [0, 0x80000000, 64, 1, 64, 1, 0, 0] t))))
    (engForm fillW (scalCheck fillW.a) 1) (fun s t =>
    let g := gourOf (s.seenObject t (objSpace fillW) 0 64)
    let x := shapeOf t.arch 2
    let ring : Shape := { base := g.base, rowb := g.nslot * g.bytes, rows := 1, rstr := g.nslot * g.bytes, planes := 1, pstr := 0, flags := 1 }
    scalVal t.arch fillW.a == 0 && (objTrap 256 0 64 64).isNone && !g.bad &&
    (shapeChecks x ring { dest := false, copy := false, digest := false, size := 0 } { dest := true, copy := false, digest := false, size := 256 }
      (g.bytes < x.total)).isNone) := wit (by decide +kernel)
theorem wit_plfill_bad : Wit (scratch 256 (ptr 0)) (engForm fillW (scalCheck fillW.a) 1) (fun s t =>
    (gourOf (s.seenObject t (objSpace fillW) 0 64)).bad) := wit (by decide +kernel)

/-- TMOV within the pocket, from s4 to s6, of s5 bytes. -/
def tmovW : FullM := { fm 0x706 0x704 0x705 1 0 0 0 false none with sub := 1 }

theorem wit_tmov : Wit (scratch 64 (ptr 16)) (tmovForm tmovW) (fun s t =>
    (rangeTrap (s.sizeOf t 1) (scalVal t.arch tmovW.d) 8).isNone && (rangeTrap (s.sizeOf t 1) (scalVal t.arch tmovW.a) 8).isNone &&
    scalVal t.arch tmovW.b == 8) := wit (by decide +kernel)
theorem wit_tmov_none : Wit (scratch 64 id) (tmovForm tmovW) (fun _ t => scalVal t.arch tmovW.b == 0) := wit (by decide +kernel)
theorem wit_tmov_range : Wit (scratch 16 (ptr 16)) (tmovForm tmovW) (fun s t =>
    (rangeTrap (s.sizeOf t 1) (scalVal t.arch tmovW.a) (scalVal t.arch tmovW.b)).isSome) := wit (by decide +kernel)

/-- The same as inScratch, as a Bool. -/
def inScratchB (s : State) (t : Team) (sp : Space) (off align len : Nat) : Bool :=
  off % align == 0 && decide (off + len ≤ (s.scratchOf t sp).size)

theorem inScratch_of {s t sp off align len} (h : inScratchB s t sp off align len = true) : inScratch s t sp off align len := by
  simpa [inScratchB, inScratch] using h

def waitcW : FullE := fe 0 0x704 0 0 0 0 0 none

theorem wit_waitc : Wit (ready (fun t => few 3 (ptr 3 t))) (engForm waitcW (scalCheck waitcW.a) 0) (fun s t =>
    t.role == .single && decide ((t.cnts.getD 0 []).length ≤ scalVal t.arch waitcW.a) && (s.failedOp t).isNone) := wit (by decide +kernel)
/-- An operation of class 0 on the object at offset 0 of the pocket that has failed, whose decrement leaves three. -/
def failed (kind : EngKind) (t : Team) : EngOp :=
  { newOp (ready id) t { cls := 0, kind := kind, src := shapeOf t.arch 2, dst := shapeOf t.arch 3, barrier := some (.pocket, 0), digest := none } with
    id := 90, state := .finished, fail := some (.access, 64, 1), younger := 3, index := [9] }

def withFailed (kind : EngKind) (s : State) : State := { s with ops := [failed kind (only s)] }

theorem wit_waitc_fails : Wit (withFailed .copy (ready (fun t => few 3 (ptr 3 t)))) (engForm waitcW (scalCheck waitcW.a) 0) (fun s t =>
    t.role == .single && decide ((t.cnts.getD 0 []).length ≤ scalVal t.arch waitcW.a) &&
    (s.failedFor t (fun o => o.cls == waitcW.cnt.toNat && decide (scalVal t.arch waitcW.a ≤ o.younger))).isSome) := wit (by decide +kernel)
theorem wit_wait_trails : Wit (ready (fun t => { t with role := .trailing, mate := 99 })) (engForm waitcW (scalCheck waitcW.a) 0) (fun s t =>
    t.role == .trailing && (s.lvqFind t (atWord 2 t.arch)).isNone) := wit (by decide +kernel)
theorem wit_waitc_waits : Wit (ready (fun t => few 4 (ptr 3 t))) (engForm waitcW (scalCheck waitcW.a) 0) (fun _ t =>
    t.role == .single && decide (scalVal t.arch waitcW.a < (t.cnts.getD 0 []).length)) := wit (by decide +kernel)

/-- A barrier object in the pocket at phase n. -/
def barAt (n : Nat) (s : State) : State := pocketHas (natBytes 4 0x5B ++ natBytes 4 1 ++ natBytes 4 1 ++ natBytes 4 n) s

/-- BWAIT and PLWAIT of s6, the object at s4 of the pocket and s5. -/
def waitW : FullE := fe 0x706 0x704 0x705 0 0 0 1 none

def waitForm : Word1 := engForm waitW (firstTrap [scalReg waitW.d, scalCheck waitW.a, scalCheck waitW.b]) 0

theorem wit_bwait : Wit (barAt 9 (scratch 64 (ptr 0))) waitForm (fun s t =>
    let bs := s.seenObject t (objSpace waitW) 0 16
    t.role == .single && inScratchB s t (objSpace waitW) (scalVal t.arch waitW.a) 16 16 && fieldAt bs 0 1 == 0x5B && !(fieldAt bs 1 1).testBit 0 &&
    (s.gate t .pocket [(0, 0)] 16 EntryKind.stopsWrite).isNone && fieldAt bs 12 4 != scalVal t.arch waitW.b) := wit (by decide +kernel)
theorem wit_bwait_waits : Wit (barAt 8 (scratch 64 (ptr 0))) waitForm (fun s t =>
    let bs := s.seenObject t (objSpace waitW) 0 16
    fieldAt bs 0 1 == 0x5B && !(fieldAt bs 1 1).testBit 0 && (s.gate t .pocket [(0, 0)] 16 EntryKind.stopsWrite).isNone &&
    (s.failedFor t (fun o => o.barrier == some (.pocket, 0))).isNone && fieldAt bs 12 4 == scalVal t.arch waitW.b) := wit (by decide +kernel)
theorem wit_bwait_fails : Wit (withFailed .copy (barAt 8 (scratch 64 (ptr 0)))) waitForm (fun s t =>
    (s.gate t .pocket [(0, 0)] 16 EntryKind.stopsWrite).isNone && (s.failedFor t (fun o => o.barrier == some (.pocket, 0))).isSome) := wit (by decide +kernel)
theorem wit_bwait_gated : Wit (scratch 64 (fun t => fenced (ptr 0 t))) waitForm (fun s t =>
    inScratchB s t (objSpace waitW) (scalVal t.arch waitW.a) 16 16 && (s.gate t .pocket [(0, 0)] 16 EntryKind.stopsWrite).isSome) := wit (by decide +kernel)
theorem wit_plwait : Wit (gourAt 9 9 8 (scratch 256 (ptr 0))) waitForm (fun s t =>
    let g := gourOf (s.seenObject t (objSpace waitW) 0 64)
    let q := scalVal t.arch waitW.b
    inScratchB s t (objSpace waitW) (scalVal t.arch waitW.a) 64 64 && !g.bad && (s.gate t .pocket [(0, 0)] 64 EntryKind.stopsWrite).isNone &&
    decide ((q + 2 ^ 32 - g.ridx) % 2 ^ 32 < 2 ^ 31) && decide ((q + 2 ^ 32 - g.ridx) % 2 ^ 32 < (g.cidx + 2 ^ 32 - g.ridx) % 2 ^ 32)) :=
  wit (by decide +kernel)
theorem wit_plwait_waits : Wit (gourAt 9 8 8 (scratch 256 (ptr 0))) waitForm (fun s t =>
    let g := gourOf (s.seenObject t (objSpace waitW) 0 64)
    let q := scalVal t.arch waitW.b
    !g.bad && (s.failedFor t (fun o => o.fillsFor (objRef t .pocket 0) g q)).isNone &&
    (s.gate t .pocket [(0, 0)] 64 EntryKind.stopsWrite).isNone && decide ((g.cidx + 2 ^ 32 - g.ridx) % 2 ^ 32 ≤ (q + 2 ^ 32 - g.ridx) % 2 ^ 32) &&
    decide ((q + 2 ^ 32 - g.ridx) % 2 ^ 32 < 2 ^ 31)) := wit (by decide +kernel)

/-- An action word on the object at s4 of the pocket, with s5. -/
def actW (ext : Option Ext) : FullE := fe 0 0x704 0x705 0 0 0 1 ext

def actForm : Word1 := engForm (actW none) (firstTrap [scalCheck (actW none).a, scalCheck (actW none).b]) 1

theorem wit_arrive : Wit (barAt 0 (scratch 64 (ptr 0))) actForm (fun s t =>
    t.role != .trailing && (objTrap 64 (scalVal t.arch (actW none).a) 16 16).isNone && fieldAt (s.seenObject t .pocket 0 16) 0 1 == 0x5B) :=
  wit (by decide +kernel)
theorem wit_arrive_uninit : Wit (scratch 64 (ptr 0)) actForm (fun s t => fieldAt (s.seenObject t .pocket 0 16) 0 1 != 0x5B) := wit (by decide +kernel)
theorem wit_binit_zero : Wit (scratch 64 id) actForm (fun _ t => scalVal t.arch (actW none).b == 0) := wit (by decide +kernel)
theorem wit_plrel : Wit (gourAt 9 9 8 (scratch 256 (ptr 0))) actForm (fun s t =>
    let g := gourOf (s.seenObject t .pocket 0 64)
    let d (i : Nat) : Nat := (i + 2 ^ 32 - g.ridx) % 2 ^ 32
    (objTrap 256 0 64 64).isNone && !g.bad && decide (d (scalVal t.arch (actW none).b) < 2 ^ 31 ∧ d (scalVal t.arch (actW none).b) < d g.cidx)) :=
  wit (by decide +kernel)
theorem wit_plrel_early : Wit (gourAt 8 8 8 (scratch 256 (ptr 0))) actForm (fun s t =>
    let g := gourOf (s.seenObject t .pocket 0 64)
    let d (i : Nat) : Nat := (i + 2 ^ 32 - g.ridx) % 2 ^ 32
    !g.bad && decide (d g.cidx ≤ d (scalVal t.arch (actW none).b))) := wit (by decide +kernel)

/-- PLINIT of s6 bytes a slot, two slots from offset s5. -/
def plinitW : FullE := actW (some { xc := 0, c := 0x706, imm := 0x10002 })
def plinitForm : Word1 := engForm plinitW (firstTrap [scalCheck plinitW.a, scalCheck plinitW.b, scalCheck 0x706]) 1

def plinitFits (s : State) (t : Team) : Bool :=
  let b := scalVal t.arch plinitW.b
  let bytes := scalVal t.arch 0x706
  inScratchB s t .pocket (scalVal t.arch plinitW.a) 64 64 && scalVal t.arch plinitW.a == 0 &&
  decide (bytes ≠ 0 ∧ bytes % 16 = 0 ∧ b % 16 = 0 ∧ b + 2 * bytes ≤ (s.scratchOf t .pocket).size ∧ (0 + 64 ≤ b ∨ b + 2 * bytes ≤ 0))

theorem wit_plinit : Wit (scratch 128 (arch (fun a => (a.sset 5 64).sset 6 32))) plinitForm (fun s t => plinitFits s t) := wit (by decide +kernel)
theorem wit_plinit_bad : Wit (scratch 64 (arch (fun a => (a.sset 5 64).sset 6 32))) plinitForm (fun s t => !plinitFits s t) := wit (by decide +kernel)

/-! ### Barriers and EXIT -/

/-- BARB of barrier s4 with mask s5. -/
def barbW : FullT := ft 0 0x704 0x705 0 none
def barbForm : Word1 := closingForm barbW (firstTrap [scalCheck barbW.a, scalCheck barbW.b])
def barbArgs (id mask : Word) : Team → Team := fun t => shut (arch (fun a => (a.sset 4 id).sset 5 mask) t)

def togetherB (t : Team) : Bool := t.arch.live == (fullMask t.tw &&& ~~~t.arch.exited)

def barbOk (s : State) (t : Team) : Bool :=
  let id := scalVal t.arch barbW.a
  let m := (srcB barbW.b barbW.ext).read t.arch 1 0
  let n := ((s.gridOf t).map (·.lrec.teams)).getD 1
  decide (t.kind = .ordinary ∧ id ≤ 3 ∧ m < 65536 ∧ m ≤ 2 ^ n - 1) && (if m = 0 then 2 ^ n - 1 else m).testBit t.idx

theorem wit_barb_all : WitC (ready (barbArgs 3 0)) barbForm (fun s t => togetherB t && barbOk s t && !(s.bar? (.block t.block 3)).isOpen) :=
  witC (by decide +kernel)
theorem wit_barb_mask : WitC (ready (barbArgs 3 1)) barbForm (fun s t => togetherB t && barbOk s t) := witC (by decide +kernel)
theorem wit_barb_id : WitC (ready (barbArgs 4 0)) barbForm (fun s t => togetherB t && !barbOk s t) := witC (by decide +kernel)
theorem wit_barb_wide : WitC (ready (barbArgs 0 2)) barbForm (fun s t => togetherB t && !barbOk s t) := witC (by decide +kernel)
theorem wit_barb_divergent : WitC (ready (fun t => barbArgs 0 0 (arch (fun a => { a with live := 1 }) t))) barbForm (fun _ t => !togetherB t) :=
  witC (by decide +kernel)

/-- An instance that the team has opened already, with mask m. -/
def opened (m : BitVec 16) (s : State) : State :=
  { s with blocks := s.blocks.map (fun b => { b with barb := b.barb.set 0 { isOpen := true, mask := m, arrived := [] } }) }

theorem wit_barb_joins : WitC (opened 1 (ready (barbArgs 0 1))) barbForm (fun s t =>
    barbOk s t && (s.bar? (.block t.block 0)).isOpen && (s.bar? (.block t.block 0)).mask == 1) := witC (by decide +kernel)

def withMode (m : Nat) (s : State) : State := { s with grids := s.grids.map (fun g => { g with lrec := { g.lrec with mode := BitVec.ofNat _ m } }) }
def modeOf (s : State) (t : Team) (i : Nat) : Bool := (((s.gridOf t).map (fun (g : Grid) => g.lrec.mode)).getD 0).getLsbD i
def ofKind (k : TeamKind) (t : Team) : Team := { t with kind := k }

theorem wit_bard_no_gang : WitC (ready shut) (closingForm barbW (scalCheck barbW.a)) (fun s t => togetherB t && !modeOf s t 3) := witC (by decide +kernel)
theorem wit_bard_kind : WitC (withMode 8 (ready (fun t => shut (ofKind .task t)))) (closingForm barbW (scalCheck barbW.a)) (fun s t =>
    togetherB t && modeOf s t 3 && t.kind != .ordinary) := witC (by decide +kernel)
theorem wit_bard_id : WitC (withMode 8 (ready (barbArgs 2 0))) (closingForm barbW (scalCheck barbW.a)) (fun s t =>
    modeOf s t 3 && t.kind == .ordinary && decide (1 < scalVal t.arch barbW.a)) := witC (by decide +kernel)
theorem wit_bard : WitC (withMode 8 (ready (barbArgs 1 0))) (closingForm barbW (scalCheck barbW.a)) (fun s t =>
    togetherB t && modeOf s t 3 && t.kind == .ordinary && decide (scalVal t.arch barbW.a ≤ 1)) := witC (by decide +kernel)
theorem wit_barg_no_coop : WitC (ready shut) (closingForm barbW none) (fun s t => togetherB t && !modeOf s t 4) := witC (by decide +kernel)
theorem wit_barg_kind : WitC (withMode 16 (ready (fun t => shut (ofKind .task t)))) (closingForm barbW none) (fun s t =>
    modeOf s t 4 && t.kind != .ordinary) := witC (by decide +kernel)
theorem wit_barg : WitC (withMode 16 (ready shut)) (closingForm barbW none) (fun s t => togetherB t && modeOf s t 4 && t.kind == .ordinary) :=
  witC (by decide +kernel)
theorem wit_barrier_closed : ((ready id).bar? (.block (only (ready id)).block 0)).isOpen = false := by decide +kernel
theorem wit_barrier_misses : ∃ u ∈ (opened 1 (ready id)).barMembers ((opened 1 (ready id)).bar? (.block (only (ready id)).block 0))
      (.block (only (ready id)).block 0), u ∉ ((opened 1 (ready id)).bar? (.block (only (ready id)).block 0)).arrived :=
  ⟨(only (ready id)).uid, by decide +kernel, by decide +kernel⟩

def exitW : FullT := ft 0 0 0 0 none

/-- Half of the team live, the other half still to run from the innermost join entry. -/
def someLeave (t : Team) : Team := shut (arch (fun a => { a with live := 3, stack := [.join (joinE 0xFFFFFFFC 0 0)] }) t)

theorem wit_exit_some : WitC (ready someLeave) (closingForm exitW none) (fun _ t =>
    (t.arch.stack.dropWhile (fun e => match e with | .call _ => true | .join _ => false)).length == 1 &&
    (t.arch.exited ||| t.arch.live) &&& fullMask t.tw != fullMask t.tw) := witC (by decide +kernel)
theorem wit_exit_last : WitC (ready shut) (closingForm exitW none) (fun s t =>
    let s2 := (s.passOps t).1
    let t2 := (s.passOps t).2
    t.arch.stack == [] && t2.cnts.all (·.isEmpty) && t2.lvq == [] && (s2.failedOp t2).isNone && (s2.lastOps t2).isEmpty) := witC (by decide +kernel)
theorem wit_exit_waits : WitC (ready (fun t => shut (few 1 t))) (closingForm exitW none) (fun s t =>
    t.arch.stack == [] && (s.passOps t).2.cnts.any (fun c => !c.isEmpty)) := witC (by decide +kernel)

/-! ### Events -/

/-- No team holds the issue slot. -/
def quiet (s : State) : State := { s with issue := none }

/-- Partition 0 holds the clusters of a mask, with n times 64 KiB to save in. -/
def parted (clusters : Word) (n : Word) (s : State) : State := ((s.setReg 0 0x5000 clusters).setReg 0 0x500C n).setReg 0 0x501C 1

/-- The one team is in the state r. -/
def inState (r : RunState) (f : Team → Team) : State := quiet (ready (fun t => { f t with run := r }))

theorem wit_issue_slot : (pickTeam ((quiet (ready id)).settle.passMarkers (isHere 0 0) |>.candidates 0 0)).isSome = true := by decide +kernel
theorem wit_pick_floor : pickTeam [{ only base with waitSlots := 256 }, { only base with uid := 9, prio := 3 }] = some { only base with waitSlots := 256 } := by
  decide +kernel
theorem wit_pick_priority : pickTeam [only base, { only base with uid := 9, prio := 3 }] = some { only base with uid := 9, prio := 3 } := by decide +kernel
theorem wit_condition_met : (let s := inState (.wait (.counter 0 1)) (few 1); s.team? (only s).uid = some (only s) ∧ (only s).exiting = false ∧
    s.condHolds (only s) (.counter 0 1) = true) := by decide +kernel
theorem wit_join_met : (let s := inState .join id; (only s).run = .join ∧ (only s).joinMet = true) := by decide +kernel

/-- A record of lane 1 in the lantern queue of core 0, which its parent, parked at its JOIN, waits for. -/
def withCont : State :=
  let s := inState .join (stacked [.join (joinE 0 2 1)])
  { s with cores := s.cores.modify 0 (fun c => { c with lantern := [{ early with kind := 0, status := 0, regs := List.replicate 16 0 }] }) }

theorem wit_continuation : (match (withCont.settle.passMarkers (fun t => t.kind == .lantern && t.loc.pkgCore == 0)).nextCont 0 with
    | some (s1, u) => (s1.team? u).isSome
    | none => false) = true := by decide +kernel
theorem wit_replay : (let s := inState (.memory true) id; s.team? (only s).uid = some (only s)) := by decide +kernel
theorem wit_geode_wake : (let s : State := { inState (.memory true) id with wakes := [(3, 5)] }
    (3, 5) ∈ s.wakes ∧ s.team? 3 = some (only s) ∧ (only s).run = .memory true) := by decide +kernel

/-- A result on its way to v5 of lanes 0 and 1. -/
def pendW (d : Dest) : Pending := { id := 4, pc := 0, region := 0, dest := d, lanes := 3, vals := [(5, 0, 7), (5, 1, 8)], x2 := false }

theorem wit_result : ∀ d ∈ [Dest.none, Dest.vec 5], (let s := ready (fun t => { t with pend := [pendW d] })
    s.team? (only s).uid = some (only s) ∧ (only s).pend.find? (fun x => x.id == (pendW d).id) = some (pendW d) ∧
    (∀ x ∈ s.atoms, ¬ (x.team = (only s).uid ∧ x.seq = 4)) ∧ (pendW d).lanes &&& ~~~(3 : Mask) = 0 ∧ (pendW d).lanes &&& ~~~(1 : Mask) ≠ 0) := by
  decide +kernel

def heldW (k : EntryKind) : Entry := { seq := 2, pc := 0, acc := 2, probe := .waiting, issueT := 0, lanes := 1, kind := k }

theorem wit_probe : (let s := ready (fun t => { t with regions := t.regions.map (fun r => { r with held := [heldW (.sinv .pocket 0 4)] }) })
    s.team? (only s).uid = some (only s) ∧
    (((only s).regions.flatMap (·.held)).find? (fun x => x.seq == 2 && (only s).probing x)).isSome = true) := by decide +kernel
theorem wit_probe_answers : (let s := ready (fun t => { t with regions := t.regions.map (fun r => { r with held := [heldW (.sinv .pocket 0 4)] }) })
    (s.probeEntry (only s) (heldW (.sinv .pocket 0 4))).2 = .done ∧
    (s.probeEntry (only s) (heldW (.store .glob (2 ^ 40 / 64) [{ acc := 2, pc := 0, lane := 0, off := 0, data := [1] }] false 0))).2 ≠ .done ∧
    (∀ x ∈ (only s).regions.flatMap (·.held), x.seq ≠ 3)) := by decide +kernel

/-- A load of the team whose lane 0 waits; with `.rp` where p says so. -/
def accP (p : Bool) : Access := { accW with kind := .load .glob 2 false true p 0 (.vec 1) false }

/-- Another core's outbound buffer holds a store. -/
def bufferedW (x : List OutEntry) (s : State) : State := { s with cores := s.cores.map (fun c => { c with outbound := x }) }

theorem wit_response_free : ∀ p ∈ [false, true], (let s := ready (fun t => { t with accs := [accP p] })
    let a := accP p
    let ls := a.instant (only s) 1
    (only s).accs.find? (fun x => x.id == a.id) = some a ∧ (only s).role ≠ .trailing ∧ a.kind.returns = true ∧ ls ≠ [] ∧
    (∀ b ∈ (only s).accs, b.id < a.id → b.holds = false) ∧ (∀ x ∈ s.atoms, ¬ (x.team = (only s).uid ∧ x.seq < a.id ∧ x.acq = true)) ∧
    (only s).roomFor a ls.length = true ∧ a.kind.rp = p ∧ (s.drainPart (s.tenantOf (only s))).partDrained 0 = true) := by decide +kernel
theorem wit_response_not_free : (let s := ready (fun t => { t with accs := [accW], role := .trailing })
    (only s).accs.find? (fun x => x.id == accW.id) = some accW ∧ (only s).role = .trailing) := by decide +kernel
theorem wit_response : (let s := ready (fun t => { t with accs := [accW] })
    (only s).accs.find? (fun x => x.id == accW.id) = some accW ∧ s.mayRespond (only s) accW (accW.instant (only s) 1) = true) := by decide +kernel

/-- A pending atomic of the team with lane 0's old value at hand, whose zones have cleared. -/
def pendAtomW : PendAtom :=
  { id := 1, team := 3, region := 0, seq := 6, word := 0, pc := 0, t := 0, own := 0, target := [], words := [], olds := [(0, 3)],
    dest := .vec 5, wide := false, acq := false, scope := 4, op := none, fresh := [], work := [], remote := false, sigOk := true }

/-- A result that belongs to a pending atomic comes with the atomic. -/
theorem wit_result_of_atom : (let s : State := { ready (fun t => { t with pend := [pendW .none] }) with atoms := [{ pendAtomW with seq := 4 }] }
    (only s).pend.find? (fun x => x.id == (pendW .none).id) = some (pendW .none) ∧
    ∃ x ∈ s.atoms, x.team = (only s).uid ∧ x.seq = (pendW .none).id) := by decide +kernel

/-- Another team's store, and a pending word over it (R160). -/
def blockedEnt : OutEntry :=
  { team := 9, asid := loadAsid, ent := heldW (.store .glob (loadVa / 64) [{ acc := 2, pc := 0, lane := 0, off := 0, data := [1] }] false 0) }
theorem wit_response_undrained : (let s := parted 0xF 1 (ready (fun t => { t with accs := [accP true] }))
    let s : State := { bufferedW [blockedEnt] s with
      atoms := [{ pendAtomW with words := [({ space := .glob, owner := loadAsid, core := 0, addr := loadVa }, 4, [])] }] }
    (s.drainPart (s.tenantOf (only s))).partDrained ((s.drainPart (s.tenantOf (only s))).tenantOf (only s)) = false ∧
    (accP true).instant (only s) 1 ≠ []) := by decide +kernel

def blockedOut (s : State) : State :=
  { s with cores := s.cores.map (fun c => { c with outbound := [blockedEnt] }),
           atoms := [{ pendAtomW with words := [({ space := .glob, owner := loadAsid, core := 0, addr := loadVa }, 4, [])] }] }

theorem wit_barb_blocked : WitC (blockedOut (ready (barbArgs 3 0))) barbForm (fun s t =>
    togetherB t && barbOk s t && (s.releaseAt t 2).isNone) := witC (by decide +kernel)
theorem wit_barb_other_mask : WitC (opened 3 (ready (barbArgs 0 1))) barbForm (fun s t =>
    togetherB t && barbOk s t && (s.bar? (.block t.block 0)).isOpen && (s.bar? (.block t.block 0)).mask == 3) := witC (by decide +kernel)

/-- An instance of the span that is open while the team is no member of it: its block counts as a task team's. -/
def notMember : State :=
  let s := withMode 8 (ready (barbArgs 1 0))
  { s with spans := s.spans.map (fun x => { x with bard := x.bard.set 1 { isOpen := true, mask := 0, arrived := [] } }),
           blocks := s.blocks.map (fun b => { b with kind := .task }) }

theorem wit_bard_no_member : WitC notMember (closingForm barbW (scalCheck barbW.a)) (fun s t =>
    let at_ : BarAt := .span (((s.block? t.block).map (·.span)).getD 0) 1
    togetherB t && modeOf s t 3 && t.kind == .ordinary && (s.bar? at_).isOpen && (s.bar? at_).mask == 0 && !(s.barMembers (s.bar? at_) at_).contains t.uid) :=
  witC (by decide +kernel)
theorem wit_barb_free : WitC (ready (barbArgs 3 0)) barbForm (fun s t =>
    togetherB t && barbOk s t && (s.core t.loc.pkgCore).outbound == [] && (s.releaseAt t 2).isSome) := witC (by decide +kernel)

theorem wit_atom_end : (let s : State := { ready id with atoms := [pendAtomW], dies := (ready id).dies.map (fun d => { d with crecv := List.replicate 64 100 }) }
    s.atoms.find? (fun y => y.id == pendAtomW.id) = some pendAtomW ∧ s.team? pendAtomW.team = some (only s) ∧
    (∀ z ∈ pendAtomW.own :: pendAtomW.target, pendAtomW.t + 64 ≤ s.recv (only s).loc.chip z) ∧ (only s).role = .single ∧
    (match s.atomWork (only s) pendAtomW with
     | some (s1, _) => (s1.team? 3).isSome
     | none => false) = true) := by decide +kernel

theorem wit_atom_waits : (let s : State := { ready id with atoms := [pendAtomW] }
    let far : PendAtom := { pendAtomW with team := 77 }
    let work : PendAtom := { pendAtomW with work := [(0, 0xC000000000000000, 1, 0)], op := some (0, 0) }
    s.team? pendAtomW.team = some (only s) ∧ ¬ (∀ z ∈ pendAtomW.own :: pendAtomW.target, pendAtomW.t + 64 ≤ s.recv (only s).loc.chip z) ∧
    s.team? far.team = none ∧ s.atomWork (only s) work = none) := by decide +kernel
/-- A leading copy (team 3) and its trailing copy (team 4), each changed. -/
def copies (f g : Team → Team) : State :=
  let s := ready id
  { s with teams := s.teams.flatMap (fun t => [f { t with role := .leading, mate := 4 }, g { t with uid := 4, role := .trailing, mate := 3 }]),
           blocks := s.blocks.flatMap (fun b => [{ b with role := .leading, mate := 9 }, { b with uid := 9, role := .trailing, mate := b.uid }]) }

def lvqW (addr : Nat) : LvqEntry :=
  { kind := 0, word := 0, pc := 0, region := 0, addrs := [(0, addr)], vals := [(1, 0, 7)], bytes := 4, trap := none, recs := [], note := (0, 0, 0) }

theorem wit_atom_end_full : (let e := { lvqW 0 with bytes := 16384 }
    let s : State := { ready (fun t => { t with role := .leading, lvq := [e] }) with
      atoms := [pendAtomW], dies := (ready id).dies.map (fun d => { d with crecv := List.replicate 64 100 }) }
    match s.atomWork (only s) pendAtomW with
     | some (s1, more) => (match s1.team? 3 with
       | some u => u.role == .leading && decide (16384 < lvqUsed u.lvq + (pendAtomW.entry (pendAtomW.olds ++ more)).bytes)
       | none => false)
     | none => false) = true := by decide +kernel
theorem wit_take : ∀ x ∈ [0, 64], (let s := copies (fun t => { t with lvq := [lvqW x] }) (fun t => { t with accs := [accW] })
    match s.team? 4, s.team? 3 with
    | some t, some m => t.role == .trailing && s.team? t.mate == some m && nextTake t.accs m.lvq == some (accW, lvqW x)
    | _, _ => false) = true := by decide +kernel
theorem wit_take_none : (let s := copies id (fun t => { t with accs := [accW] })
    match s.team? 4, s.team? 3 with
    | some t, some m => t.role == .trailing && m.role != .trailing && s.team? t.mate == some m && (nextTake t.accs m.lvq).isNone
    | _, _ => false) = true := by decide +kernel
theorem wit_take_same : (∀ x ∈ (lvqW 0).addrs, ∃ l ∈ accW.lanes, l.lane = x.1 ∧ l.addr = x.2) ∧
    (∃ x ∈ (lvqW 64).addrs, ∀ l ∈ accW.lanes, ¬ (l.lane = x.1 ∧ l.addr = x.2)) := by decide +kernel

/-- A team whose open region is closed, with the entries es in it. -/
def closedWith (es : List Entry) (t : Team) : Team := { t with regions := t.regions.map (fun r => { r with closeT := some 0, held := es }) }

theorem wit_compare : (let s := copies (closedWith []) (closedWith [])
    match s.team? 3 with
    | some t => t.role == .leading && (match s.nextCompare t with
      | some (_, r, x) => s.signature r == s.signature x && r.head == x.head
      | none => false)
    | none => false) = true := by decide +kernel
theorem wit_compare_differs : (let s := copies (closedWith []) (closedWith [heldW (.sinv .pocket 0 4)])
    match s.team? 3 with
    | some t => (match s.nextCompare t with
      | some (_, r, x) => s.signature r != s.signature x
      | none => false)
    | none => false) = true := by decide +kernel

theorem wit_compare_none : (let s := copies id id
    match s.team? 3, s.team? 4 with
    | some t, some u => t.role == .leading && (s.nextCompare t).isNone && u.role != .leading
    | _, _ => false) = true := by decide +kernel

/-- A copy of 64 bytes within the pocket as an operation in state st. -/
def opW (st : EngState) (staged : List Chunk) : EngOp :=
  let x (off : Nat) : Shape := { base := off, rowb := 64, rows := 1, rstr := 64, planes := 1, pstr := 0, flags := 1 }
  { id := 8, team := 3, owner := .team, block := 2, core := 0, span := 1, grid := 0, asid := 1, die := 0, tenant := 0, region := 0, cls := 0, pc := 0, word := 0, told := false,
    younger := 0, kind := .copy, src := x 0, dst := x 64, state := st, index := [], slot := none, nextRead := 0, staged := staged, committed := [], bytes := 0,
    strikes := [], sha := List.replicate 25 0, barrier := none, digest := none, digestOk := false, page := none, fail := none }

def withOps (os : List EngOp) (s : State) : State := { s with ops := os }

def chunkW : Chunk := { num := 0, data := List.replicate 64 1, valid := List.replicate 64 true, dest := [], tags := Tags.empty, readT := 0 }

theorem wit_op_starts : (let s := withOps [opW .queued []] (scratch 128 id)
    s.op? 8 = some (opW .queued []) ∧ s.mayStart (opW .queued []) = true) := by decide +kernel
theorem wit_chunk_read : (let s := withOps [opW .running []] (scratch 128 id)
    s.op? 8 = some (opW .running []) ∧ s.opStopped (opW .running []) = false ∧ (opW .running []).nextChunk = some 0) := by decide +kernel
theorem wit_chunk_commit : (let o := { opW .running [chunkW] with nextRead := 1 }
    let s := withOps [o] (scratch 128 id)
    s.op? 8 = some o ∧ o.state = .running ∧ s.opStopped o = false ∧ o.staged.find? (fun x => x.num == 0) = some chunkW ∧ s.mayCommit o chunkW = true) := by
  decide +kernel

theorem wit_op_waits : (let s := withOps [opW .running []] (scratch 128 id)
    let all := { opW .running [] with nextRead := 1, committed := [0] }
    let early : Chunk := { chunkW with tags := Tags.empty.add 25 9 9 }
    s.mayStart (opW .running []) = false ∧ (opW .queued []).state ≠ .running ∧ all.state = .running ∧ s.opStopped all = false ∧ all.nextChunk = none ∧
    (∀ c ∈ all.staged, c.num ≠ 0) ∧ s.mayCommit { opW .running [early] with nextRead := 1 } early = false) := by decide +kernel

def objW : ObjRef := { block := 2, space := .pocket, core := 0, off := 0 }

def queued (as : List GourAct) (s : State) : State := { s with blocks := s.blocks.map (fun b => { b with gours := [(objW, as)] }) }

theorem wit_fill_accept : (let s := queued [.fill 8] (gourAt 8 8 8 (withOps [{ opW .queued [] with kind := .fill objW }] (scratch 256 id)))
    s.gourLive objW = true ∧ s.nextFill objW = some 8 ∧ (gourOf (s.gourAt objW)).widx = (gourOf (s.gourAt objW)).ridx ∧
    (gourOf (s.gourAt objW)).nslot = 2 ∧
    (((s.updBlock 2 (fun b => b.dropGour objW (.fill 8))).putGour objW 12 (natBytes 4 9)).op? 8).isSome = true) := by decide +kernel
theorem wit_release : (let s := queued [.rel 8] (gourAt 9 9 8 (scratch 256 id))
    s.gourLive objW = true ∧ .rel (gourOf (s.gourAt objW)).ridx ∈ s.gourQueue objW ∧ (gourOf (s.gourAt objW)).rcnt + 1 = (gourOf (s.gourAt objW)).nrel) := by
  decide +kernel
theorem wit_release_counts : (let s := queued [.rel 8] (pocketHas (natBytes 2 (0xA5 + 2 * 256)) (gourAt 9 9 8 (scratch 256 id)))
    .rel (gourOf (s.gourAt objW)).ridx ∈ s.gourQueue objW ∧ (gourOf (s.gourAt objW)).rcnt + 1 ≠ (gourOf (s.gourAt objW)).nrel) := by decide +kernel
theorem wit_plinit_apply : (let s := scratch 256 (fun t => { t with relq := [heldW (.plinit .pocket 0 64 64 2 1)] })
    s.gourLive objW = true ∧ (s.plinitTeam objW).map (fun x => x.2.1.kind) = some (.plinit .pocket 0 64 64 2 1) ∧
    (gourOf (s.gourAt objW)).widx = (gourOf (s.gourAt objW)).cidx) := by decide +kernel

theorem wit_gour_waits : (let none_ := queued [] (gourAt 8 8 8 (scratch 256 id))
    let full := queued [.fill 8] (gourAt 10 10 8 (withOps [{ opW .queued [] with kind := .fill objW }] (scratch 256 id)))
    let g := gourOf (full.gourAt objW)
    let gone : ObjRef := { objW with block := 77 }
    let busy := scratch 256 (fun t => { t with relq := [heldW (.plinit .pocket 0 64 64 2 1)] })
    none_.nextFill objW = none ∧ .rel (gourOf (none_.gourAt objW)).ridx ∉ none_.gourQueue objW ∧
    full.nextFill objW = some 8 ∧ g.nslot ≤ (g.widx + 2 ^ 32 - g.ridx) % 2 ^ 32 ∧ full.gourLive gone = false ∧
    ((gourAt 8 7 8 busy).plinitTeam objW).isSome = true ∧
    (gourOf ((gourAt 8 7 8 busy).gourAt objW)).widx ≠ (gourOf ((gourAt 8 7 8 busy).gourAt objW)).cidx) := by decide +kernel

/-! Sensors and notices -/

theorem wit_sensor_none : (∀ x ∈ [(99, 0, 0, 0), (5, 3, 0, 0), (5, 1, sensorCount 5 1, 0), (5, 1, 0, base.tick + 1)],
    ¬ (x.1 ∈ base.variant.zones ∧ x.2.1 < 3 ∧ x.2.2.1 < sensorCount x.1 x.2.1 ∧ x.2.2.2 ≤ base.tick)) ∧ base.physOk (2 ^ 40) = false := by decide +kernel
theorem wit_sensor : (5 : Nat) ∈ base.variant.zones ∧ 1 < 3 ∧ 0 < sensorCount 5 1 ∧ base.tick ≤ base.tick + [44, 36, 28].getD 1 0 ∧ base.tick ≤ base.tick := by
  decide +kernel
theorem wit_held_check : hubZone ∈ base.variant.zones ∧ (0 : Nat) ∈ base.variant.zones := by decide +kernel
theorem wit_cell_check : base.physOk 64 = true := by decide +kernel

/-- The residue check of a matrix word at address 64, over one block whose terms have the residue 7. -/
def checked (done : Option Nat) (t : Team) : Team :=
  { t with regions := t.regions.map (fun r => { r with checks := [{ pc := 64, id := 0, sums := [7], doneT := done }] }) }

theorem wit_check_event : ∀ d ∈ [none, some 0], (let s := ready (checked d)
    (8 ≠ 7 ∧ 8 < 63 ∧ ∃ r ∈ (only s).regions, ∃ c ∈ r.checks, c.pc = 64 ∧ 7 ∈ c.sums ∧ ∀ n, c.doneT = some n → s.tick ≤ n + 32)) := by
  intro d hd
  refine ⟨by decide, by decide, _, List.mem_cons_self, _, List.mem_cons_self, rfl, List.mem_cons_self, fun n _ => ?_⟩
  exact Nat.zero_le _
theorem wit_check_no_event : base.team? 3 = some (only base) ∧ (only (ready id)).regions.all (fun r => r.checks.isEmpty) = true := by decide +kernel

def noticeW : Notice := { zone := 5, stamp := 0, kind := 1, sensor := 0 }

theorem wit_notice : (let f : Flying := { n := noticeW, sent := 0, dies := [1] }
    let s : State := { base with flying := [f] }
    f ∈ s.flying ∧ 1 ∈ f.dies) := by decide +kernel
theorem wit_notice_in_turn : (let s : State := { base with flying := [{ n := noticeW, sent := 0, dies := [1] }] }
    (noticeW.zone, 1) ∉ s.stalled ∧ s.flying.find? (fun f => f.n.zone == noticeW.zone && f.dies.contains 1) = some { n := noticeW, sent := 0, dies := [1] } ∧
    (∀ f ∈ s.flying, ¬ (f.n = noticeW ∧ 2 ∈ f.dies)) ∧ (noticeW.zone, 1) ∈ ({ s with stalled := [(5, 1)] } : State).stalled) := by decide +kernel
theorem wit_clear_comes : (let s : State := { base with tick := 100, dies := base.dies.map (fun d => { d with tick := 100 }) }
    s.chipOk 0 = true ∧ 5 ∈ s.variant.zones ∧ 60 < s.tick ∧ s.recv 0 5 < 60 ∧ (5, 0) ∉ s.stalled ∧
    (∀ f ∈ s.flying, ¬ (f.n.zone = 5 ∧ f.sent ≤ 60 ∧ 0 ∈ f.dies)) ∧ s.clearCap 0 5 60 = 60 ∧ ¬ (100 < s.tick)) := by decide +kernel
theorem wit_clear : State.mayClear { base with tick := 100 } 0 5 60 = true := by decide +kernel

/-- A region that has imported from zone 5 of another die at tick 0. -/
def imported (t : Team) : Team := { t with regions := t.regions.map (fun r => { r with imports := r.imports.add 25 0 0 }) }

theorem wit_clear_timeout : (let s := ready imported
    let s : State := { s with tick := 10 ^ 9, dies := s.dies.map (fun d => { d with tick := 10 ^ 9 }) }
    (only s).regions.head?.bind (fun r => r.imports.of 25) = some (0, 0) ∧ s.overdue (only s).loc.chip 25 0 = true) := by decide +kernel
/-- Late: every die's counter has passed a clearance's limit. -/
def late (s : State) : State := { s with tick := 10 ^ 9, dies := s.dies.map (fun d => { d with tick := 10 ^ 9 }) }

theorem wit_clear_lost : (let a : Access := { accW with lost := [(0, 25, 0)] }
    let s := ready (fun t => { t with accs := [a] })
    (only s).regions.find? (fun x => x.id == 0) = (only s).regions.head? ∧ ((only s).regions.head?.bind (fun r => r.imports.of 25)) = none ∧
    (only s).lostFrom 0 25 = some 0 ∧ 16384 ≤ ((late s).die (only s).loc.chip).tick ∧ (s.die (only s).loc.chip).tick < 16384 ∧
    (only s).lostFrom 0 26 = none) := by decide +kernel
theorem wit_clear_not_due : (let s := ready imported
    (only s).regions.head?.bind (fun r => r.imports.of 25) = some (0, 0) ∧ s.overdue (only s).loc.chip 25 0 = false) := by decide +kernel
theorem wit_clear_atomic : (let x : PendAtom := { pendAtomW with target := [25] }
    let s : State := { ready id with atoms := [x] }
    (late s).atoms.find? (fun y => y.id == x.id) = some x ∧ x.target.find? (fun z => (late s).overdue (only s).loc.chip z x.t) = some 25 ∧
    (∀ z ∈ x.target, s.overdue (only s).loc.chip z x.t = false)) := by decide +kernel
theorem wit_clear_chunk : (let c : Chunk := { chunkW with tags := Tags.empty.add 25 9 9 }
    let o := { opW .running [c] with nextRead := 1 }
    let s := withOps [o] (scratch 128 id)
    (late s).op? 8 = some o ∧ o.staged.find? (fun x => x.num == c.num) = some c ∧ c.tags.of 25 = some (9, 9) ∧ (late s).overdue o.die 25 9 = true ∧
    s.overdue o.die 25 9 = false) := by decide +kernel
theorem wit_tick_check : base.chipOk 0 = true ∧ (base.die 0).tick = base.tick ∧ base.tick % 1024 = 0 ∧
    (({ base with tick := 1 } : State).die 0).tick ≠ ({ base with tick := 1 } : State).tick := by decide +kernel
theorem wit_tick_quiet : base.chipOk 8 = false ∧ (({ base with tick := 1, dies := base.dies.map (fun d => { d with tick := 1 }) } : State).die 0).tick % 1024 ≠ 0 := by
  decide +kernel
theorem wit_stack_fails : 0 < base.variant.stackCount ∧ (base.stack 0).failed = false ∧ ¬ (base.variant.stackCount ≤ 0) ∧
    base.variant.stackCount ≤ 99 := by decide +kernel
theorem wit_flit : (({ base with flits := [(.device 0, 16)] } : State).flits.find? (fun x => x.1 == Link.device 0)).map (·.2) = some 16 ∧
    base.linkThere (.device 0) = true ∧ base.linkThere (.device 99) = false := by decide +kernel

/-! The dispatcher -/

/-- The block of the loaded program in another state, its team still to start. -/
def waitingBlock (st : BlockState) (move : Nat) : State :=
  let s := parted 0xF 100 (quiet base)
  { s with teams := [], spans := s.spans.map (fun x => { x with die := none }),
           blocks := s.blocks.map (fun b => { b with state := st, teamSeed := base.teams, move := move }) }

theorem wit_block_place : ((waitingBlock .pending 0).takeTurn 2 (fun x => x.state == .pending)).isSome = true := by decide +kernel
theorem wit_block_restore : ((waitingBlock .saved 0).takeTurn 2 (fun x => x.state == .saved && x.move == 0)).isSome = true := by decide +kernel
theorem wit_migration_place : ((waitingBlock .saved 2).takeTurn 2 (fun x => x.state == .saved && x.move != 0)).isSome = true := by decide +kernel

theorem wit_block_waits : (let s := waitingBlock .pending 0
    let small := (waitingBlock .pending 0).setReg 0 0x5000 0
    (s.block? 2).map (fun b => s.waitsTurn b) = some true ∧ (base.block? 2).map (fun b => base.waitsTurn b) = some false ∧
    (small.block? 2).bind (fun b => (small.grid? b.grid).map (fun g => (small.turn b.uid (small.waiting g.tenant) []).isNone)) = some true) := by
  decide +kernel

/-- Queue 0 of function 0, enabled with a ring of two records in the page, one of them written. -/
def ringed : State :=
  ((((base.setReg 0 0x0004 0x80000000).setReg 0 0x0008 0x11).setReg 0 0x000C 1).setReg 0 0x0010 0).setReg 0 0x400C (BitVec.ofNat 32 (0x10000 + loadAsid))

theorem wit_launch_record : (ringed.reg 0 0x0C ≠ ringed.reg 0 0x10 ∧ ringed.regField 0 8 0 1 ≠ 0 ∧ ringed.regField 0 8 2 1 ≠ 1 ∧
    (match ringed.readRecord (ringed.ctx 0 0).asid (ringed.reg64 0 0 / 128 * 128 + 128 * ((ringed.reg 0 0x10).toNat % 2 ^ ringed.regField 0 8 4 4)) with
     | (_, .bytes bs) => bs.length == 128
     | _ => false) = true) := by decide +kernel

/-- The read of a record has begun: it stands in the loaded page, or in one that is absent, or in no page. -/
def begunAt (va : Nat) : State :=
  { ringed.setReg 0 0x1008 6 with
    waitPage := [{ job := .record (.queue 0 0), asid := loadAsid, page := 0, va := va, part := 0, old := true }]
    launches := [{ id := 4, team := 3, grid := 0, tenant := 0, func := 0, queue := 0, asid := loadAsid, prio := 2, addr := BitVec.ofNat 64 va }] }

theorem wit_record_ends : (let at_ (va : Nat) := ((begunAt va).readRecord ((begunAt va).queueRead 0 0).asid ((begunAt va).queueRead 0 0).va).2
    (∃ x ∈ (begunAt 0).waitPage, x.job = .record (.queue 0 0)) ∧
    (match at_ loadVa, at_ (loadVa + 2 ^ 40), at_ 4096 with
     | .bytes _, .wait _, .fail => true
     | _, _, _ => false) = true ∧ base.reg 0 0x0C = base.reg 0 0x10 ∧ base.waitPage = []) := by decide +kernel
theorem wit_request_ends : (let at_ (va : Nat) := (begunAt va).launches.head?.map (fun r => ((begunAt va).readRecord r.asid r.addr.toNat).2)
    ((begunAt 0).launches.find? (fun x => x.id == 4)).isSome = true ∧
    (match at_ loadVa, at_ (loadVa + 2 ^ 40), at_ 4096 with
     | some (.bytes _), some (.wait _), some .fail => true
     | _, _, _ => false) = true) := by decide +kernel

/-- A pending block of a higher priority beside a resident one, on a partition of one cluster whose chamber takes one of them. -/
def crowded : State :=
  let s := parted 1 10000 (quiet base)
  let big (g : Grid) : Grid := { g with lrec := { g.lrec with chamber := 2097152 } }
  { s with grids := s.grids.map big ++ s.grids.map (fun g => big { g with uid := 20 }),
           spans := s.spans ++ s.spans.map (fun x => { x with uid := 21, grid := 20, die := none }),
           blocks := s.blocks.map (fun b => { b with chamber := Scratch.alloc 2097152 }) ++
             s.blocks.map (fun b => { b with uid := 22, grid := 20, span := 21, state := .pending, prio := 1, chamber := Scratch.alloc 2097152,
                                             teamSeed := base.teams.map (fun t => { t with uid := 23, grid := 20, block := 22 }) }) }

theorem wit_preempt : (match crowded.block? 22, crowded.grid? 20, crowded.span? 21 with
    | some b, some g, some sp => crowded.waitsTurn b && !(crowded.victims b g sp).isEmpty
    | _, _, _ => false) = true := by decide +kernel
theorem wit_preempt_not : (match base.block? 2, base.grid? 0, base.span? 1 with
    | some b, some _, some _ => !base.waitsTurn b
    | _, _, _ => false) = true := by decide +kernel

def blockAs (st : BlockState) (s : State) : State := { s with blocks := s.blocks.map (fun b => { b with state := st }) }

theorem wit_acknowledged : (let s := blockAs (.stopping 0 0) (quiet (ready (fun t => { t with regions := [], needHead := true })))
    ((s.unstick 2).settle).blockQuiet 2 = true) := by decide +kernel
theorem wit_not_quiet : (let s : State := { blockAs (.stopping 0 0) (ready (fun t => { t with regions := [], needHead := true })) with atoms := [pendAtomW] }
    ((s.unstick 2).settle).blockQuiet 2 = false ∧ ¬ (0 + 32768 ≤ s.tick)) := by decide +kernel

/-- A redundant pair between words: the leading copy's block stops to be moved, the trailing one's is resident. -/
def movingPair (n : Nat) : State :=
  let g (k : Nat) (t : Team) : Team := { t with regions := [], needHead := true, barbs := k }
  let s := quiet (copies (g 1) (g n))
  { s with blocks := s.blocks.map (fun b => if b.role = .leading then { b with state := .stopping 4 0, move := 2 } else b),
           teams := s.teams.map (fun t => if t.role = .trailing then { t with block := 9 } else t) }

theorem wit_pair_follows : ∀ n ∈ [0, 1], (let s1 := ((movingPair n).unstick 2).settle
    match (movingPair n).block? 2 with
    | some b => s1.blockQuiet 2 && (s1.followMove b).map (·.uid) == some 9 &&
        s1.atMovePoint 9 (((s1.teamsOf 2).head?.map (·.barbs)).getD 0) == decide (n = 1)
    | none => false) = true := by decide +kernel
theorem wit_save_claims : ∀ c ∈ [none, some (Waiting.evaluator 0 0), some (.task 0 0)],
    (let s := blockAs (.saving 0) base
     let s : State := { s with blocks := s.blocks.map (fun b => { b with claim := c }) }
     (s.block? 2).map (fun b => (b.state, b.claim)) = some (.saving 0, c)) := by decide +kernel
theorem wit_saved : ((blockAs (.saving 0) base).block? 2).map (·.state) = some (.saving 0) := by decide +kernel
theorem wit_not_acknowledged : (let s : State := { blockAs (.stopping 0 0) (ready (fun t => { t with pend := [pendW .none] })) with tick := 10 ^ 9 }
    (s.block? 2).map (·.state) = some (.stopping 0 0) ∧ 0 + tAck ≤ s.tick ∧ s.blockQuiet 2 = false) := by decide +kernel
theorem wit_completion : (let s := blockAs .exited { base with grids := base.grids.map (fun g => { g with exited := 1 }) }
    match s.grid? 0 with
    | some g => s.mayComplete g && g.lrec.compaddr == 0
    | none => false) = true := by decide +kernel

/-- The grid is done and its completion record goes to an address. -/
def completing (va : Nat) : State :=
  let s := blockAs .exited (base.setReg 0 0x1008 6)
  { s with grids := s.grids.map (fun g => { g with exited := 1, lrec := { g.lrec with compaddr := BitVec.ofNat 64 va } }) }

/-- What the check of a completion record's page answers in s. -/
def compCheck (s : State) : Option Xlate := (s.grid? 0).map (fun g => (s.drainPackage.translate g.asid g.lrec.compaddr.toNat).2.check .write false)

theorem wit_completion_may : (match (completing loadVa).grid? 0, base.grid? 0 with
    | some g, some h => (completing loadVa).mayComplete g && !base.mayComplete h
    | _, _ => false) = true := by decide +kernel
theorem wit_completion_ok : compCheck (completing loadVa) = some (.ok false 0 true true false) ∧ (completing loadVa).tagAt false 0 = .value ∧
    (completing loadVa).pendingAt .glob loadAsid 0 loadVa 16 = false ∧ ({ completing loadVa with cellTags := [(0, .forming)] } : State).tagAt false 0 ≠ .value ∧
    ({ completing loadVa with atoms := [{ pendAtomW with words := [({ space := .glob, owner := loadAsid, core := 0, addr := loadVa }, 4, [])] }] } :
      State).pendingAt .glob loadAsid 0 loadVa 16 = true := by decide +kernel
theorem wit_completion_absent : compCheck (completing (loadVa + 2 ^ 40)) = some .absent ∧
    ((completing (loadVa + 2 ^ 40)).startMiss loadAsid (loadVa + 2 ^ 40) 1 0).2 = true ∧
    (((completing (loadVa + 2 ^ 40)).setReg 0 0x1008 0).startMiss loadAsid (loadVa + 2 ^ 40) 1 0).2 = false := by decide +kernel
theorem wit_completion_bad : compCheck (completing 4096) = some (.bad 7) := by decide +kernel

/-- Context 0 of function 0 may reach other packages, of which number 5 is listed. -/
def remoteCtx (s : State) : State := { s.setReg 0 0x400C (BitVec.ofNat 32 (0x50000 + loadAsid)) with listed := [(5, 0)] }

theorem wit_completion_remote : compCheck (remoteCtx (completing (loadVa + 5 * 2 ^ 55))) = some (.remote 5) := by decide +kernel

/-- A cell that the team has opened, in the buffer of stack 0: its definition record wants one lane near the opener. -/
def openW : OpenEnt :=
  { cell := 0, va := BitVec.ofNat 64 loadVa, record := List.replicate 64 0, ticket := 1, depth := 1, opener := 3, pc := 0, grid := 0, chip := 0,
    prio := 0, asid := 1, lineage := [], since := 0, tags := Tags.empty }

def opening (s : State) : State := { s with memStacks := s.memStacks.modify 0 (fun k => { k with buffer := k.buffer.set 0 (some openW) }) }

theorem wit_evaluator : (let s := opening (parted 0xF 1000 base)
    (s.stack 0).buffer.getD 0 none = some openW ∧ s.partHas 0 (fieldAt openW.record 0x08 2) = true ∧
    (match s.grid? 0 with
     | some g => g.status.isNone && (s.startGuest (openW.guest g 1) (s.evalClusters openW g)
        (fun t => { t with depth := openW.depth, ticket := some openW.ticket, lineage := openW.lineage, cell := some openW.cell })).isSome
     | none => false) = true) := by decide +kernel
theorem wit_slot_timeout : (let s : State := { opening (parted 0xF 1000 base) with tick := 10 ^ 9 }
    openW.since + slotTimeout ≤ s.tick ∧
    (match s.grid? 0 with
     | some g => (s.slotVictim (s.evalClusters openW g)).isSome
     | none => false) = true) := by decide +kernel
theorem wit_slot_taken : (let s : State := { opening (parted 0xF 0 base) with tick := 10 ^ 9 }
    (s.stack 0).buffer.getD 0 none = some openW ∧ s.placeEvaluator 0 0 = none ∧ openW.since + 16384 ≤ s.tick ∧ ¬ (openW.since + 16384 ≤ base.tick) ∧
    ((opening (parted 0xF 1000 base)).placeEvaluator 0 0).isSome = true ∧
    (match s.grid? 0 with
     | some g => g.status.isNone && s.partHas g.tenant (fieldAt openW.record 0x08 2) && (s.slotVictim (s.evalClusters openW g)).isSome
     | none => false) = true) := by decide +kernel
theorem wit_no_evaluator : (let s := opening (parted 0xF 1000 base)
    let e := { openW with record := List.replicate 8 0 ++ [255, 255] ++ List.replicate 54 0 }
    (base.stack 0).buffer.getD 0 none = none ∧ s.partHas 0 (fieldAt e.record 0x08 2) = false ∧
    ({ base with grids := base.grids.map (fun g => { g with status := some 1 }) } : State).grids.all (fun g => g.status.isSome) = true ∧
    (match base.grid? 0 with
     | some g => ((blockAs .exited base).slotVictim (base.evalClusters openW g)).isNone
     | none => false) = true) := by decide +kernel

def taskW : TaskRec := { crec := { early with kind := 2, status := 0, regs := List.replicate 16 0 }, grid := 0, span := 1, gw := 32 }

/-- A task's record waits in bin 0 of die 0, from which task teams are formed, with room to save n times 64 KiB. -/
def tasked (n : Word) (r : TaskRec) : State :=
  let s := parted 0xF n base
  { s with tick := 10 ^ 9, dies := s.dies.modify 0 (fun d => { d with bins := d.bins.set 0 [r], drain := 1, lastBin := 0, taskWait := some 0 }) }

theorem wit_task_late : ((tasked 0 taskW).die 0).gather = [taskW] ∧ ((tasked 0 taskW).die 0).taskWait = some 0 ∧ ((tasked 0 taskW).die 0).lastBin = 0 ∧
    0 + 16384 ≤ (tasked 0 taskW).tick ∧ ((tasked 0 taskW).formTask 0).2 = false ∧ ((tasked 1000 taskW).formTask 0).2 = true ∧
    (match (tasked 0 taskW).grid? 0 with
     | some g => ((tasked 0 taskW).slotVictim ((tasked 0 taskW).guestClusters g.tenant g.lrec.caps 0)).isSome &&
         ((blockAs .exited (tasked 0 taskW)).slotVictim ((tasked 0 taskW).guestClusters g.tenant g.lrec.caps 0)).isNone
     | none => false) = true := by decide +kernel

/-- The task team that the first record gathered on die 0 begins, if it finds a slot. -/
def formed (n : Word) (r : TaskRec) : Option Bool :=
  let s := tasked n r
  (s.die 0).draining.bind (fun d =>
    let s1 := s.updDie 0 (fun _ => d)
    (s1.grid? r.grid).map (fun g => g.status.isNone &&
      (s1.startGuest (taskGuest g (((s1.span? r.span).map (·.idx)).getD 0) r d.gather) (s1.guestClusters g.tenant g.lrec.caps 0) id).isSome))

theorem wit_task_forms : formed 1000 taskW = some true ∧ formed 0 taskW = some false ∧ formed 0 { taskW with grid := 77 } = none ∧
    ((tasked 0 taskW).die 0).draining.map (·.gather) = some [taskW] ∧ (base.die 0).draining.isNone = true ∧ base.chipOk 0 = true := by decide +kernel
theorem wit_task_team : (let s := parted 0xF 1000 base
    let r : TaskRec := { crec := { early with kind := 2, status := 0, regs := List.replicate 16 0 }, grid := 0, span := 1, gw := 32 }
    s.chipOk 0 = true ∧
    (match s.grid? 0 with
     | some g => (s.startGuest (taskGuest g 0 r [r]) (s.guestClusters 0 g.lrec.caps 0) id).isSome
     | none => false) = true) := by decide +kernel

/-! The host -/

theorem wit_queue : (let s := base
    s.recovery = false ∧ (1 : Word).getLsbD 0 = true ∧ s.regField 0 8 0 1 ≠ 1 ∧ ringed.regField 0 8 0 1 ≠ 0 ∧
    ((1 : Word) - ringed.reg 0 0x10).toNat ≤ 2 ^ ringed.regField 0 8 4 4 ∧ 2 ^ ringed.regField 0 8 4 4 < ((9 : Word) - ringed.reg 0 0x10).toNat) := by
  decide +kernel
/-- The queue of ringed as it is being enabled: its control word is written with nothing enabled yet, and with a page for the ring or without. -/
theorem wit_queue_checks : (let s := (parted 0xF 1 (ringed.setField 0 8 0 1 0))
    (s.writeMasked 0 8 0x7F8 0x4 0x41).queueBad 0 0 = false ∧ (s.writeMasked 0 8 0x7F8 0x4 0x01).queueBad 0 0 = true ∧ s.regField 0 8 0 1 = 0 ∧
    ringed.regField 0 8 0 1 = 1 ∧ (0x10 : Word).getLsbD 0 = false ∧ ({ s with recovery := true } : State).recovery = true) := by decide +kernel
theorem wit_attest : base.hostTakes 0 8192 = true ∧ ({ base with hostBad := [1] } : State).hostTakes 0 8192 = false ∧
    (let size (v : Word) : Nat := v.toNat / 2 % 32
     size 0x0F = 7 ∧ size 0x31 = 24 ∧ size 0x0D < 7 ∧ 24 < size 0x33) := by decide +kernel
theorem wit_debug_on : (base.setReg 0 0xC000 1).regField 0 0xC000 0 1 ≠ 0 := by decide +kernel
theorem wit_partition_checks : (let on (v : Word) (s : State) : State := s.writeMasked 0 (partOff 0 + 0x1C) 0x2 0x8 v
    let rate (s : State) : State := (s.setReg 0 0x5010 4096).setReg 0 0x5014 1
    (on 1 (rate (((base.setReg 0 0x5000 0xF).setReg 0 0x500C 1)))).partBad 0 = none ∧ (on 1 base).partBad 0 = some 1 ∧
    0 ∉ (on 0 (parted 0xF 1 base)).closing) := by decide +kernel
theorem wit_partition_closing : (let s := parted 0xF 1 base
    let s : State := { s with closing := [0] }
    s.partEn 0 = true ∧ 0 ∈ (s.writeMasked 0 (partOff 0 + 0x1C) 0x2 0x8 0).closing) := by decide +kernel
theorem wit_partition : base.partEn 0 = false ∧ (parted 1 1 base).partEn 0 = true ∧ base.partSuspend 0 = false ∧
    (((parted 1 1 base).setReg 0 0x501C 3).partSuspend 0) = true := by decide +kernel

/-- Function 0 debugs; the command word addresses cluster 0, core 0, slot 0. -/
def debugging (f : Team → Team) : State := (ready f).setReg 0 0xC000 1

theorem wit_debug : ∀ op ∈ [1, 2, 3, 4, 5, 6, 7, 8], (let cmd : Word := BitVec.ofNat 32 (0x10000 * op)
    let s := debugging (fun t => arch (fun a => { a with tvec := 64 }) { t with frozen := true, regions := [] })
    let s1 := (s.setReg 0 0xC004 (cmd &&& 0x000F1FFF)).setField 0 0xC004 31 1 1
    s.recovery = false ∧ s.regField 0 0xC004 31 1 ≠ 1 ∧ s1.dbgReach 0 (dbgCmd cmd).cluster = true ∧ s1.regField 0 0xC000 0 1 = 1 ∧ (dbgCmd cmd).op = op ∧
    s1.dbgTeam (dbgCmd cmd) = some (only s) ∧ (only s).frozen = true ∧ (only s).regions = [] ∧ (only s).arch.tvec ≠ 0) := by decide +kernel

theorem wit_debug_busy : (let cmd : Word := 0x70000
    let s := (debugging id).setReg 0 0xC004 0x80070000
    s.regField 0 0xC004 31 1 = 1 ∧ dbgCmd (s.reg 0 0xC004) = dbgCmd cmd ∧ dbgCmd (s.reg 0 0xC004) ≠ dbgCmd 0x10000 ∧ (dbgCmd cmd).op = 7) := by decide +kernel
theorem wit_debug_errors : (let s1 (f : Nat) (cmd : Word) (s : State) : State := (s.setReg f 0xC004 (cmd &&& 0x000F1FFF)).setField f 0xC004 31 1 1
    let s := debugging (fun t => { t with frozen := true })
    (s1 1 0x10000 base).dbgReach 1 0 = false ∧ (s1 0 0x40000 base).regField 0 0xC000 0 1 = 0 ∧
    (∀ t, (s1 0 0x40100 s).dbgTeam (dbgCmd 0x40100) = some t → t.frozen = false) ∧
    (∀ t, (s1 0 0x40000 (debugging id)).dbgTeam (dbgCmd 0x40000) = some t → t.frozen = false) ∧
    ((s1 0 0x50000 s).dbgTeam (dbgCmd 0x50000)).map (fun t => (t.frozen, t.arch.tvec, t.regions.isEmpty)) = some (true, 0, false)) := by
  refine ⟨by decide +kernel, by decide +kernel, ?_, ?_, by decide +kernel⟩ <;> intro t h
  · have e : (((debugging (fun t => { t with frozen := true })).setReg 0 0xC004 (0x40100 &&& 0x000F1FFF)).setField 0 0xC004 31 1 1).dbgTeam (dbgCmd 0x40100) =
      none := by decide +kernel
    exact absurd (e.symm.trans h) (by simp)
  · have e : ((((debugging id).setReg 0 0xC004 (0x40000 &&& 0x000F1FFF)).setField 0 0xC004 31 1 1).dbgTeam (dbgCmd 0x40000)).map (·.frozen) = some false := by
      decide +kernel
    have h2 := (congrArg (Option.map (fun (t : Team) => t.frozen)) h).symm.trans e
    simpa using h2

def missW : Miss := { slice := 0, entry := 0, asid := 1, func := 0, slot := 0, page := 4096, host := true, kind := 0, since := 0, gridtag := 0, pri := false }

/-- A fault of the device half stands in the buffer under tag 0. -/
def missed (page : Nat) : State := { base with misses := [{ missW with host := false, page := page }] }

theorem wit_resp : (missed loadVa).missTag 0 0 = some { missW with host := false, page := loadVa } ∧ base.missTag 0 0 = none ∧
    (base.translate 1 loadVa).2 ≠ .absent ∧ (base.translate 1 (loadVa + 2 ^ 40)).2 = .absent ∧
    (0 : Word).toNat / 2 ^ 14 % 4 = 0 ∧ (0x4000 : Word).toNat / 2 ^ 14 % 4 = 1 := by decide +kernel
theorem wit_fault_timeout : (let s : State := { base with misses := [missW], tick := 10 ^ 12 }
    s.misses.find? (fun x => x.slice == missW.slice && x.entry == missW.entry) = some missW ∧ missW.since + tFlt ≤ s.tick) := by decide +kernel

/-- Context 0 of function 0 translates host addresses under PASID 7. -/
def hostCtx : State := (base.setReg 0 0x4008 7).setReg 0 0x400C (BitVec.ofNat 32 (0x30000 + loadAsid))

theorem wit_ats : (4096 : Nat) ≤ 8192 ∧ 4096 % 4096 = 0 ∧ deviceHalf 4096 = false ∧ hostCtx.pasidCtxs 7 ≠ [] := by decide +kernel
theorem wit_invalidate : (let s := (base.setReg 0 0x200C 0x80000000)
    (4 : Word).getLsbD 2 = true ∧ base.regField 0 0x200C 31 1 ≠ 1 ∧ s.regField 0 0x200C 31 1 = 1 ∧ base.recovery = false ∧ (3 : Word).getLsbD 2 = false ∧
    base.invs.find? (fun x => x.func == 0 && base.invalDone x) = none ∧ (hostCtx.pasidCtxs 8).isEmpty = true) := by decide +kernel
theorem wit_invalidation : (let v : Inval := { func := 0, ats := none, asids := [1], lo := 0, hi := 4096, flush := false, since := 0 }
    let s : State := { base with invs := [v, { v with func := 1, ats := some 7 }] }
    s.invs.find? (fun x => x.func == 0 && s.invalDone x) = some v ∧
    s.invs.find? (fun x => x.func == 1 && s.invalDone x) = some { v with func := 1, ats := some 7 }) := by decide +kernel

/-- The window of function 0 lies at the loaded page. -/
def windowed : State := ringed.setReg 0 0x3004 0x80000000

theorem wit_aperture : windowed.recovery = false ∧ windowed.window 0 0 = some (1, loadVa) ∧ 0 + 64 ≤ apertureSize ∧
    (match windowed.outsideReads (.aperture 0) 1 (linePieces 3 loadVa 64) [] [] with
     | (_, .ok bs _) => bs.length == 64
     | _ => false) = true := by decide +kernel
theorem wit_aperture_ends : base.window 0 0 = none ∧
    (let at_ (s : State) (va : Nat) := (s.outsideReads (.aperture 0) 1 (linePieces 3 va 64) [] []).2
     (match at_ windowed loadVa, at_ windowed 4096, at_ (remoteCtx windowed) (loadVa + 5 * 2 ^ 55) with
     | .ok _ _, .fail _, .wait => true
     | _, _, _ => false) = true) := by decide +kernel
theorem wit_remote_away : (let r : RemoteReq := { device := 5, asid := 1, va := BitVec.ofNat 64 (loadVa + 5 * 2 ^ 55), kind := .data [1] }
    let s : State := { remoteCtx base with hostOut := [.remoteRead 5 1 (loadVa + 5 * 2 ^ 55) 1, .remoteProbe 5 1 (loadVa + 5 * 2 ^ 55)] }
    s.deviceUp 5 = true ∧ deviceHalf r.va.toNat = true ∧ deviceOf r.va.toNat ≠ s.devNum ∧ s.asked r false = true ∧ s.asked r true = true ∧
    (remoteCtx base).asked r false = false ∧ base.deviceUp 5 = false ∧ base.ctxOf 9 = none) := by decide +kernel
theorem wit_remote : (let s : State := { ringed with listed := [(5, 0)] }
    s.deviceUp 5 = true ∧ deviceHalf loadVa = true ∧ deviceOf loadVa = s.devNum ∧ (s.ctxOf 1).isSome = true) := by decide +kernel
theorem wit_field_test : base.clusterThere 3 = true ∧ (base.setReg 0 (testOff 0 3) 1).regField 0 (testOff 0 3) 0 1 ≠ 0 ∧ base.blocksOn 0 3 = [] := by
  decide +kernel
theorem wit_field_test_not : base.clusterThere 99 = false ∧ base.regField 0 (testOff 0 0) 0 1 = 0 ∧ base.blocksOn 0 0 ≠ [] ∧
    ({ base with tick := 1 } : State).tick < base.power.lastAt + 10500 := by decide +kernel
theorem wit_power : ({ base with tick := 10500 } : State).power.lastAt + 10500 ≤ 10500 := by decide +kernel

/-- A lease record: its number, its end, its target and its fallback. -/
def leaseW : List Byte := natBytes 8 1 ++ natBytes 8 100 ++ natBytes 2 500 ++ natBytes 2 300 ++ natBytes 12 0

theorem wit_lease : leaseW.length = 32 ∧ fieldAt leaseW 0x14 12 = 0 ∧ base.power.lastSeq = none ∧
    (99 : DWord).toNat < fieldAt leaseW 8 8 ∧ ¬ (100 : DWord).toNat < fieldAt leaseW 8 8 := by decide +kernel
theorem wit_lease_ends : (let s := (base.setReg 0 0x601C 1).setReg 0 0x6010 100
    s.regField 0 0x601C 0 1 ≠ 0 ∧ s.reg64 0 0x6010 ≤ (100 : DWord).toNat) := by decide +kernel
theorem wit_lease_stands : base.regField 0 0x601C 0 1 = 0 ∧ (99 : DWord).toNat < ((base.setReg 0 0x601C 1).setReg 0 0x6010 100).reg64 0 0x6010 := by
  decide +kernel
theorem wit_dump_none : base.grids.find? (fun x => x.func == 0 && x.dump == DumpState.writing) = none ∧ 4096 * (base.reg 0 0x9008).toNat < 384 := by
  decide +kernel
theorem wit_dump : (let s : State := { base.setReg 0 0x9008 1 with grids := base.grids.map (fun g => { g with dump := .writing }) }
    (s.grids.find? (fun x => x.func == 0 && x.dump == DumpState.writing)).isSome = true ∧ 384 ≤ 4096 * (s.reg 0 0x9008).toNat ∧ s.hostTakes 0 4096 = true ∧
    ({ s with hostBad := [0] } : State).hostTakes 0 4096 = false) := by decide +kernel
/-- The step word of a checkpoint of partition 0, at an address that its slot 0 translates. -/
def stepping (va : Nat) (asid : Nat) : State :=
  let s := ((base.setReg 0 0xD00C 1).setReg 0 0xD004 (BitVec.ofNat 32 (va / 2 ^ 32))).setReg 0 0x408C (BitVec.ofNat 32 (0x10000 + asid))
  { s.setReg 0 0x1008 6 with ckpt := { Ckpt.reset with phase := .waiting, pollAt := 0 } }

theorem wit_ckpt_step_word : (let read (va asid : Nat) := ((stepping va asid).readStep).2
    (stepping loadVa 1).ckpt.phase = .waiting ∧ ¬ ((stepping loadVa 1).tick < (stepping loadVa 1).ckpt.pollAt) ∧
    (match read loadVa 1, read (loadVa + 2 ^ 40) 1, read loadVa 0 with
     | .bytes bs, .wait _, .fail => bytesNat bs == ((stepping loadVa 1).reg 0 0xD008).toNat &&
         bytesNat bs != (((stepping loadVa 1).setReg 0 0xD008 7).reg 0 0xD008).toNat
     | _, _, _ => false) = true ∧ base.ckpt.phase = .idle) := by decide +kernel

/-- A checkpoint request of partition 0, with a table of one shard in host memory. -/
def requested : State :=
  let s := (((((parted 0xF 1 base).setReg 0 0xD00C 1).setReg 0 0xD004 0x80000000).setReg 0 0xD018 1).setReg 0 0xD024 4096)
  { s with hostMem := s.hostMem.put (s.reg64 0 0xD010) (natBytes 8 0 ++ natBytes 8 loadVa ++ natBytes 8 (loadVa + 4096) ++ natBytes 8 16) }

theorem wit_checkpoint_go : (let busy := base.setReg 0 0xD038 2
    (base.writeMasked 0 0xD038 0 0xC 1).ckptValid = false ∧ base.regField 0 0xD038 1 1 ≠ 1 ∧ busy.regField 0 0xD038 1 1 = 1 ∧
    (busy.writeMasked 0 0xD038 0 0xC 0x10).ckpt.phase ≠ .waiting ∧ (0x10 : Word).getLsbD 4 = true ∧ (0x10 : Word).getLsbD 0 = false ∧
    (0x11 : Word).getLsbD 0 = true ∧
    ((({ busy with ckpt := { Ckpt.reset with phase := .waiting } } : State).writeMasked 0 0xD038 0 0xC 0x10).ckpt.phase = .waiting)) := by decide +kernel
theorem wit_checkpoint_valid : (requested.writeMasked 0 0xD038 0 0xC 1).ckptValid = true := by decide +kernel
theorem wit_checkpoint_waits : (let s : State := { (base.setReg 0 0xD00C 1) with ckpt := { Ckpt.reset with phase := .suspending } }
    ¬ (∀ p ∈ s.ckptParts, s.regField 0 (partOff p + 0x1C) 2 1 = 1) ∧ ({ s with ckpt := { Ckpt.reset with phase := .copying } } : State).ckpt.phase = .copying ∧
    ({ stepping loadVa 1 with ckpt := { Ckpt.reset with phase := .waiting, pollAt := 9 } } : State).tick < 9) := by decide +kernel
theorem wit_checkpoint_stops : (let s : State := { (base.setReg 0 0xD00C 1).setReg 0 0x501C 4 with ckpt := { Ckpt.reset with phase := .suspending } }
    s.ckpt.phase = .suspending ∧ s.ckptParts = [0] ∧ (∀ p ∈ s.ckptParts, s.regField 0 (partOff p + 0x1C) 2 1 = 1)) := by decide +kernel

def sampleW : Sample :=
  { func := 0, team := 3, acc := 0, region := 0, pc := 0, gridtag := 0, issueT := 0, core := 0, slot := 0, part := 0, lanes := 32, remote := false,
    paged := false, geode := false, squashed := false, replays := 0, doneT := some 9 }

theorem wit_sample : (let s : State := { base.setReg 0 0xC02C 1 with samples := [sampleW] }
    s.samples[0]? = some sampleW ∧ (sampleW.doneT.isSome = true ∨ sampleW.squashed = true) ∧
    (s.reg 0 0xC030 - s.reg 0 0xC034).toNat < 2 ^ s.regField 0 0xC02C 0 5) := by decide +kernel

theorem wit_sample_dropped : (let s : State := { (base.setReg 0 0xC02C 1).setReg 0 0xC030 2 with samples := [{ sampleW with doneT := none, squashed := true }] }
    s.samples[0]? = some { sampleW with doneT := none, squashed := true } ∧
    2 ^ s.regField 0 0xC02C 0 5 ≤ (s.reg 0 0xC030 - s.reg 0 0xC034).toNat ∧ ({ sampleW with doneT := none } : Sample).squashed = false) := by decide +kernel

/-- Nothing is watched at reset. -/
theorem wit_unwatched (x : WatchAcc) : (ready id).watchHits x = [] := by
  have h : (ready id).bar.any (fun b => 0xC100 ≤ b.1 && b.1 < 0xD000) = false := by decide +kernel
  simp only [State.watchHits, h, Bool.false_eq_true, if_false]

/-! ### The machine as a whole -/

theorem wit_formats : ∃ f c x, f ∈ fieldFormats ∧ c < 2 ^ f.width ∧ ratOf (f.read c) = some x := ⟨.f32, 0x3F800000, 1, by decide +kernel⟩

/-- Function fetchWord answers with word v. -/
def fetches (s : State) (va v : Nat) : Bool := match s.fetchWord (only s) false va with
  | (_, .word w) => w == BitVec.ofNat 64 v
  | _ => false

/-- A loaded program of two words. -/
def program (v x : Nat) : State := State.reset.loadBytes (leBytes 8 v ++ leBytes 8 x)

theorem wit_step_word : fetches (program 0x1800000000000002 0) loadVa 0x1800000000000002 = true ∧ wantsExt 0x1800000000000002 = false ∧
    (program 0 0).issue = some (only base).uid ∧ (program 0 0).team? 3 = some (only base) ∧ (only base).kind ≠ .lantern := by decide +kernel
theorem wit_step_reserved : fetches (program 0x2300000000000000 0) loadVa 0x2300000000000000 = true ∧ wantsExt 0x2300000000000000 = false ∧
    (decodeWords 0x2300000000000000 none).toOption = none := by decide +kernel
theorem wit_step_ext : wantsExt 0x100000FC20024400 = true ∧
    fetches (program 0x100000FC20024400 0x8000000000000010) (loadVa + 8) 0x8000000000000010 = true ∧
    (decodeWords 0x100000FC20024400 (some 0x8000000000000010)).toOption.isSome = true := by decide +kernel
theorem wit_step_ext_reserved : (decodeWords 0x100000FC20024400 (some 0)).toOption = none := by decide +kernel
/-- A word with X = 1 at an offset of the loaded page, of which its extension word stands in the next line or page. -/
def splitWord (off : Nat) : State :=
  let s := base.setReg 0 0x1008 6
  { s with tlb := s.tlb.map (fun e => { e with bytes := 65536 }), mem := s.mem.put off (leBytes 8 0x100000FC20024400),
           teams := s.teams.map (arch (fun a => { a with pc := BitVec.ofNat 64 (loadVa + off) })) }

theorem wit_step_ext_miss : (let s := splitWord (65536 - 8)
    fetches s (loadVa + 65536 - 8) 0x100000FC20024400 &&
    (match (s.fetchWord (only s) false (loadVa + 65536 - 8)).1.fetchWord (only s) false (loadVa + 65536) with
     | (_, .miss _) => true
     | _ => false)) = true := by decide +kernel
theorem wit_step_ext_bad : (let s : State := { splitWord 56 with badCells := [1] }
    fetches s (loadVa + 56) 0x100000FC20024400 &&
    (match (s.fetchWord (only s) false (loadVa + 56)).1.fetchWord (only s) false (loadVa + 64) with
     | (_, .bad c _) => c != .illegalOp
     | _ => false)) = true := by decide +kernel
theorem wit_step_no_team : (({ base with teams := [] } : State).issue, ({ base with teams := [] } : State).team? 3) = (some 3, none) := by decide +kernel
theorem wit_step_lantern : (only (ready (fun t => { t with kind := .lantern }))).kind = .lantern := by decide +kernel
theorem wit_step_agenda : (({ State.reset with agenda := [.tickCheck 0] } : State).issue, (Instr.tickCheck 0).isWord) = (none, false) := by decide +kernel
theorem wit_step_default : (State.reset.issue, State.reset.agenda) = (none, []) := by decide +kernel
theorem wit_step_miss : (match (base.setReg 0 0x1008 6).fetchWord (only base) false (loadVa + 2 ^ 40) with
    | (_, .miss _) => true
    | _ => false) = true := by decide +kernel
theorem wit_step_bad : (match ({ base with badCells := [0] } : State).fetchWord (only base) false loadVa with
    | (_, .bad c _) => c != .illegalOp
    | _ => false) = true := by decide +kernel
theorem wit_step_reads : (match base.translate 1 loadVa with
    | (s1, .ok h b x y z) => (Xlate.ok h b x y z).check .fetch false == .ok h b x y z && !s1.badData h b
    | _ => false) = true := by decide +kernel

theorem wit_encode : (Instr.bra (ft 0 0 0 2 none)).isWord = true ∧ (Instr.bra (ft 0 0 0 2 none)).wellFormed = true := by decide +kernel
theorem wit_decode : (decode (leBytes 8 0x1800000000000002)).toOption = some (.bra (ft 0 0 0 2 none), 8) := by decide +kernel
theorem wit_step_next : (match step (program 0x1800000000000002 0) with
    | .next s => (only s).arch.pc == BitVec.ofNat 64 (loadVa + 16) && (program 0x1800000000000002 0).mem.wf && s.hostMem.wf
    | _ => false) = true := by decide +kernel
theorem wit_trap_handled : ∀ n ∈ [0, 4], (let t := (List.range n).foldl (fun (t : Team) _ => t.openAt 0 64 8) (arch (fun a => { a with tvec := 64 }) (only base))
    t.arch.tvec ≠ 0 ∧ t.arch.inHandler = false ∧ (base.team? t.uid).isSome = true ∧ t.inFlight = n) := by decide +kernel
theorem wit_trap_unhandled : (only base).arch.tvec = 0 ∧ (base.grid? (only base).grid).isSome = true := by decide +kernel
theorem wit_frame : WitR (ready id) (fun _ t => let o := form2 (fa 1 2 3 0 0 none) .one
    (opd o.d).vecNum t.arch == some 1 && 0 ∈ lanes o t && decide (1 < t.arch.v.length ∧ 0 < (t.arch.v.getD 1 []).length)) := witR (by decide +kernel)
theorem wit_frame_pair : WitR (ready id) (fun _ t => let o := form2 (fa 2 4 6 14 0 none) .pair
    (opd o.d).vecNum t.arch == some 2 && 0 ∈ lanes o t && decide (2 + 1 < t.arch.v.length ∧ 0 < (t.arch.v.getD (2 + 1) []).length)) :=
  witR (by decide +kernel)
theorem wit_frame_scalar : WitR (ready id) (fun _ t => opd (form2 (fa 0x701 0x702 0x783 5 0 none) .one).d == .scal 1 && decide (1 + 1 < t.arch.s.length)) :=
  witR (by decide +kernel)
theorem wit_no_write : (match exec (.iadd (fa 1 2 3 0 0 none)) (ready id) with
    | .next _ => true
    | _ => false) = true := by decide +kernel

/-! Regions and room -/

/-- A word that writes v1, as the closing checks see it. -/
def someWord : Word1 := (form2 (fa 1 2 3 0 0 none) .one).word

def atRegion (f : Region → Region) (t : Team) : Team := { t with regions := t.regions.map f }

def roomB (t : Team) (p : Region → Bool) : Bool := match t.openRegion with
  | some r => p r
  | none => false

theorem wit_region_slot : WitR (ready (fun t => { ((t.openAt 0 64 8).openAt 0 64 8).openAt 0 64 8 with needHead := true })) (fun s t =>
    passesB s t someWord && decide (4 ≤ t.inFlight)) := witR (by decide +kernel)
theorem wit_region_opens : WitR (ready shut) (fun s t => passesB s t someWord && t.openRegion.isNone && decide (t.inFlight < 4) &&
    roomB (t.openAt s.tick 64 8) (fun r => !overLimit (t.openAt s.tick 64 8) r (someWord.demand s t))) := witR (by decide +kernel)
theorem wit_region_fits : WitR (ready id) (fun s t => passesB s t someWord && !t.needHead &&
    roomB t (fun r => !overLimit t r (someWord.demand s t) && (s.noRoom t r (someWord.demand s t)).isNone)) := witR (by decide +kernel)
theorem wit_region_no_room : (let s : State := ready id
    let full (i : Nat) : Team := atRegion (fun r => { r with dests := List.range 64 }) { only s with uid := 100 + i, loc := { (only s).loc with slot := i } }
    let s : State := { s with teams := s.teams ++ (List.range 40).map full }
    runningB s (only s) && passesB s (only s) someWord &&
    roomB (only s) (fun r => !overLimit (only s) r (someWord.demand s (only s)) && (s.noRoom (only s) r (someWord.demand s (only s))).isSome)) = true := by
  decide +kernel
theorem wit_region_fresh : WitR (ready (atRegion (fun r => { r with ndest := 0 }))) (fun s t => passesB s t someWord &&
    roomB t (fun r => r.fresh && overLimit t r (someWord.demand s t)) &&
    roomB (atFresh s t someWord) (fun r => (s.noRoom (atFresh s t someWord) r (someWord.demand s (atFresh s t someWord))).isNone)) := witR (by decide +kernel)
theorem wit_region_next : WitR (ready (atRegion (fun r => { r with ndest := 0, fresh := false }))) (fun s t => passesB s t someWord &&
    roomB t (fun r => !r.fresh && overLimit t r (someWord.demand s t)) && decide (t.inFlight < 4) &&
    roomB (t.implicitHead s.tick) (fun r => !overLimit (t.implicitHead s.tick) r (someWord.demand s (t.implicitHead s.tick)))) := witR (by decide +kernel)
theorem wit_region_last : WitR (ready (fun t => atRegion (fun r => { r with ndest := 0, fresh := false }) (((t.openAt 0 64 8).openAt 0 64 8).openAt 0 64 8)))
    (fun s t => passesB s t someWord && roomB t (fun r => !r.fresh && overLimit t r (someWord.demand s t)) && decide (4 ≤ t.inFlight)) :=
  witR (by decide +kernel)

/-! ### Decoding: a word of every row, assembled from Tables 2.3 to 2.11, stands for the fields it was assembled from -/

/-- The decoder gives each instruction of a list from its word. -/
def decodes (l : List (Nat × Nat × Instr)) : Bool := l.all (fun x => decodeTableWord x.1 x.2.1 == some x.2.2)

theorem decode_integer_1 : decodes [
    (64, 0x200B000000000000, .nop ⟨⟨true, 5, true⟩, 0x0, 0x0, 0x0, 0, 0, false, false, false, false, 0, none⟩),
    (64, 0x201B0037FC003400, .mov ⟨⟨true, 5, true⟩, 0x1, 0x5FF, 0x0, 13, 0, false, false, false, false, 0, none⟩),
    (128, 0x8000000080000001202BE08000007800, .ldi ⟨⟨true, 5, true⟩, 0x704, 0x0, 0x0, 14, 0, false, false, false, false, 0, some ⟨0, 0x0, 0x80000001⟩⟩),
    (64, 0x203B00200B008007, .sel ⟨⟨true, 5, true⟩, 0x1, 0x2, 0x601, 0, 0, false, false, false, false, 7, none⟩),
    (64, 0x204BBFD007BF9400, .iadd ⟨⟨true, 5, true⟩, 0x5FE, 0x401, 0x77F, 5, 0, false, false, false, false, 0, none⟩),
    (64, 0x205BBFD007BF9000, .isub ⟨⟨true, 5, true⟩, 0x5FE, 0x401, 0x77F, 4, 0, false, false, false, false, 0, none⟩),
    (64, 0x206BBFD007BF8C00, .imul ⟨⟨true, 5, true⟩, 0x5FE, 0x401, 0x77F, 3, 0, false, false, false, false, 0, none⟩),
    (64, 0x207BBFD007BF8800, .imulh ⟨⟨true, 5, true⟩, 0x5FE, 0x401, 0x77F, 2, 0, false, false, false, false, 0, none⟩),
    (64, 0x208BBFD007BF8400, .imad ⟨⟨true, 5, true⟩, 0x5FE, 0x401, 0x77F, 1, 0, false, false, false, false, 0, none⟩),
    (64, 0x209BBFD007BF8000, .imin ⟨⟨true, 5, true⟩, 0x5FE, 0x401, 0x77F, 0, 0, false, false, false, false, 0, none⟩),
    (64, 0x20ABBFD007BF8C00, .imax ⟨⟨true, 5, true⟩, 0x5FE, 0x401, 0x77F, 3, 0, false, false, false, false, 0, none⟩),
    (64, 0x220BBFD007BF9400, .iadds ⟨⟨true, 5, true⟩, 0x5FE, 0x401, 0x77F, 5, 0, false, false, false, false, 0, none⟩),
    (128, 0x8000000080000001204BE03C08004000, .iadd ⟨⟨true, 5, true⟩, 0x701, 0x702, 0x0, 0, 0, false, false, false, false, 0, some ⟨0, 0x0, 0x80000001⟩⟩),
    (64, 0x20BB00FE80001000, .iabs ⟨⟨true, 5, true⟩, 0x7, 0x7A0, 0x0, 4, 0, false, false, false, false, 0, none⟩)] = true := by decide +kernel
theorem decode_integer_2 : decodes [
    (64, 0x20CB00FE80001400, .ineg ⟨⟨true, 5, true⟩, 0x7, 0x7A0, 0x0, 5, 0, false, false, false, false, 0, none⟩)] = true := by decide +kernel
theorem decode_logic_1 : decodes [
    (64, 0x20DB010028063800, .and ⟨⟨true, 5, true⟩, 0x8, 0xA, 0xC, 14, 0, false, false, false, false, 0, none⟩),
    (64, 0x20EB010028063400, .or ⟨⟨true, 5, true⟩, 0x8, 0xA, 0xC, 13, 0, false, false, false, false, 0, none⟩),
    (64, 0x20FB010028060400, .xor ⟨⟨true, 5, true⟩, 0x8, 0xA, 0xC, 1, 0, false, false, false, false, 0, none⟩),
    (64, 0x210B010028060000, .andn ⟨⟨true, 5, true⟩, 0x8, 0xA, 0xC, 0, 0, false, false, false, false, 0, none⟩),
    (64, 0x211B010028003400, .not ⟨⟨true, 5, true⟩, 0x8, 0xA, 0x0, 13, 0, false, false, false, false, 0, none⟩),
    (64, 0x212B01002B81B801, .shl ⟨⟨true, 5, true⟩, 0x8, 0xA, 0x703, 14, 0, false, false, false, false, 1, none⟩),
    (64, 0x213B01002B81B801, .shr ⟨⟨true, 5, true⟩, 0x8, 0xA, 0x703, 14, 0, false, false, false, false, 1, none⟩),
    (64, 0x214B01002B81B801, .sar ⟨⟨true, 5, true⟩, 0x8, 0xA, 0x703, 14, 0, false, false, false, false, 1, none⟩),
    (64, 0x215B01202F819400, .rotl ⟨⟨true, 5, true⟩, 0x9, 0xB, 0x703, 5, 0, false, false, false, false, 0, none⟩),
    (64, 0x216B01202C068400, .bfx ⟨⟨true, 5, true⟩, 0x9, 0xB, 0xD, 1, 0, false, false, false, false, 0, none⟩),
    (64, 0x217B01202C068400, .bfi ⟨⟨true, 5, true⟩, 0x9, 0xB, 0xD, 1, 0, false, false, false, false, 0, none⟩),
    (64, 0x222B01202C068400, .permb ⟨⟨true, 5, true⟩, 0x9, 0xB, 0xD, 1, 0, false, false, false, false, 0, none⟩),
    (64, 0x218B01202C000400, .popc ⟨⟨true, 5, true⟩, 0x9, 0xB, 0x0, 1, 0, false, false, false, false, 0, none⟩),
    (64, 0x219B01202C000400, .clz ⟨⟨true, 5, true⟩, 0x9, 0xB, 0x0, 1, 0, false, false, false, false, 0, none⟩)] = true := by decide +kernel
theorem decode_logic_2 : decodes [
    (64, 0x21AB01202C000400, .brev ⟨⟨true, 5, true⟩, 0x9, 0xB, 0x0, 1, 0, false, false, false, false, 0, none⟩),
    (64, 0x21BB00E004010405, .icmp ⟨⟨true, 5, true⟩, 0x7, 0x1, 0x2, 1, 0, false, false, false, false, 5, none⟩),
    (64, 0x21BB01200401140D, .icmp ⟨⟨true, 5, true⟩, 0x9, 0x1, 0x2, 5, 0, false, false, false, false, 13, none⟩),
    (64, 0x21FB00C008023804, .icmp64 ⟨⟨true, 5, true⟩, 0x6, 0x2, 0x4, 14, 0, false, false, false, false, 4, none⟩),
    (64, 0x21CB004010030403, .lea ⟨⟨true, 5, true⟩, 0x2, 0x4, 0x6, 1, 0, false, false, false, false, 3, none⟩),
    (64, 0x21DB004010033800, .iadd64 ⟨⟨true, 5, true⟩, 0x2, 0x4, 0x6, 14, 0, false, false, false, false, 0, none⟩),
    (64, 0x21EB004010033400, .isub64 ⟨⟨true, 5, true⟩, 0x2, 0x4, 0x6, 13, 0, false, false, false, false, 0, none⟩),
    (64, 0x221B004010031400, .dot4 ⟨⟨true, 5, true⟩, 0x2, 0x4, 0x6, 5, 0, false, false, false, false, 0, none⟩)] = true := by decide +kernel
theorem decode_float_1 : decodes [
    (64, 0x240B004010031B90, .fadd ⟨⟨true, 5, true⟩, 0x2, 0x4, 0x6, 6, 3, true, false, false, true, 0, none⟩),
    (64, 0x241B004010031F90, .fsub ⟨⟨true, 5, true⟩, 0x2, 0x4, 0x6, 7, 3, true, false, false, true, 0, none⟩),
    (64, 0x242B004010032390, .fmul ⟨⟨true, 5, true⟩, 0x2, 0x4, 0x6, 8, 3, true, false, false, true, 0, none⟩),
    (64, 0x243B004010032790, .ffma ⟨⟨true, 5, true⟩, 0x2, 0x4, 0x6, 9, 3, true, false, false, true, 0, none⟩),
    (128, 0x80001C5600000000252B004010035A20, .ffmax ⟨⟨true, 5, true⟩, 0x2, 0x4, 0x6, 6, 2, false, false, true, false, 0, some ⟨3, 0x456, 0x0⟩⟩),
    (64, 0x244B004010031C40, .fmin ⟨⟨true, 5, true⟩, 0x2, 0x4, 0x6, 7, 0, false, true, false, false, 0, none⟩),
    (64, 0x245B004010032420, .fmax ⟨⟨true, 5, true⟩, 0x2, 0x4, 0x6, 9, 0, false, false, true, false, 0, none⟩),
    (64, 0x246B004010031807, .fcmp ⟨⟨true, 5, true⟩, 0x2, 0x4, 0x6, 6, 0, false, false, false, false, 7, none⟩),
    (64, 0x247B004010032008, .fclass ⟨⟨true, 5, true⟩, 0x2, 0x4, 0x6, 8, 0, false, false, false, false, 8, none⟩),
    (64, 0x248B0040100025C0, .frcp ⟨⟨true, 5, true⟩, 0x2, 0x4, 0x0, 9, 1, true, true, false, false, 0, none⟩),
    (64, 0x24AB0040100025C0, .fsqrt ⟨⟨true, 5, true⟩, 0x2, 0x4, 0x0, 9, 1, true, true, false, false, 0, none⟩),
    (64, 0x249B004010001C80, .frsq ⟨⟨true, 5, true⟩, 0x2, 0x4, 0x0, 7, 0, true, false, false, false, 0, none⟩),
    (64, 0x24BB004010001C80, .fex2 ⟨⟨true, 5, true⟩, 0x2, 0x4, 0x0, 7, 0, true, false, false, false, 0, none⟩),
    (64, 0x24CB004010001C80, .flg2 ⟨⟨true, 5, true⟩, 0x2, 0x4, 0x0, 7, 0, true, false, false, false, 0, none⟩)] = true := by decide +kernel
theorem decode_float_2 : decodes [
    (64, 0x24DB004010001C80, .fsin ⟨⟨true, 5, true⟩, 0x2, 0x4, 0x0, 7, 0, true, false, false, false, 0, none⟩),
    (64, 0x24EB004010001C80, .fcos ⟨⟨true, 5, true⟩, 0x2, 0x4, 0x0, 7, 0, true, false, false, false, 0, none⟩),
    (64, 0x24FB004010001C80, .ftanh ⟨⟨true, 5, true⟩, 0x2, 0x4, 0x0, 7, 0, true, false, false, false, 0, none⟩),
    (64, 0x250B004010002601, .frnd ⟨⟨true, 5, true⟩, 0x2, 0x4, 0x0, 9, 2, false, false, false, false, 1, none⟩)] = true := by decide +kernel
theorem decode_lane_1 : decodes [
    (64, 0x280B002008019DB8, .cvt ⟨⟨true, 5, true⟩, 0x1, 0x2, 0x3, 7, 6, 3, true, 0, none⟩),
    (128, 0x8000000400000000281B00200801ED89, .cvtsr ⟨⟨true, 5, true⟩, 0x1, 0x2, 0x3, 11, 6, 0, true, 1, some ⟨0, 0x4, 0x0⟩⟩),
    (64, 0x282B002008003200, .bscale ⟨⟨true, 5, true⟩, 0x1, 0x2, 0x0, 12, 8, 0, false, 0, none⟩),
    (64, 0x283B00200801B743, .shfl ⟨⟨true, 5, true⟩, 0x1, 0x2, 0x3, 13, 13, 0, false, 3, none⟩),
    (64, 0x284BE02008018000, .bcast ⟨⟨true, 5, true⟩, 0x701, 0x2, 0x3, 0, 0, 0, false, 0, none⟩),
    (64, 0x285BE0200800000A, .vote ⟨⟨true, 5, true⟩, 0x701, 0x2, 0x0, 0, 0, 0, true, 2, none⟩),
    (64, 0x286B002008001990, .redux ⟨⟨true, 5, true⟩, 0x1, 0x2, 0x0, 6, 6, 1, false, 0, none⟩),
    (64, 0x287B00200800044D, .scan ⟨⟨true, 5, true⟩, 0x1, 0x2, 0x0, 1, 1, 0, true, 5, none⟩),
    (64, 0x288B006000000008, .elect ⟨⟨true, 5, true⟩, 0x3, 0x0, 0x0, 0, 0, 0, true, 0, none⟩),
    (64, 0x289B00E018028000, .kand ⟨⟨true, 5, true⟩, 0x7, 0x6, 0x5, 0, 0, 0, false, 0, none⟩),
    (64, 0x28AB00E018028000, .kor ⟨⟨true, 5, true⟩, 0x7, 0x6, 0x5, 0, 0, 0, false, 0, none⟩),
    (64, 0x28BB00E018028000, .kxor ⟨⟨true, 5, true⟩, 0x7, 0x6, 0x5, 0, 0, 0, false, 0, none⟩),
    (64, 0x28CB00E018000000, .knot ⟨⟨true, 5, true⟩, 0x7, 0x6, 0x0, 0, 0, 0, false, 0, none⟩),
    (64, 0x28DB246018000002, .kmov ⟨⟨true, 5, true⟩, 0x123, 0x6, 0x0, 0, 0, 0, false, 2, none⟩)] = true := by decide +kernel
theorem decode_lane_2 : decodes [
    (64, 0x28EBE02018000008, .kpop ⟨⟨true, 5, true⟩, 0x701, 0x6, 0x0, 0, 0, 0, true, 0, none⟩),
    (64, 0x28FB012018000000, .kfirst ⟨⟨true, 5, true⟩, 0x9, 0x6, 0x0, 0, 0, 0, false, 0, none⟩)] = true := by decide +kernel
theorem decode_matrix : decodes [
    (64, 0x2C0B002008019700, .mma ⟨⟨true, 5, true⟩, 0x1, 0x2, 0x3, 5, true, true, false, false, false, 0, 0, false, none⟩),
    (128, 0x800E9800000000002C1B00200801D200, .mmam ⟨⟨true, 5, true⟩, 0x1, 0x2, 0x3, 4, true, false, false, false, false, 0, 0, false, some ⟨467, 0x0, 0x0⟩⟩),
    (64, 0x2C2B03E0080188D8, .mmq ⟨⟨true, 5, true⟩, 0x1F, 0x2, 0x3, 2, false, false, true, true, false, 3, 0, false, none⟩),
    (128, 0x80000005000000002C4B03E01C034000, .qscale ⟨⟨true, 5, true⟩, 0x1F, 0x7, 0x6, 0, false, false, false, false, false, 0, 0, false, some ⟨0, 0x5, 0x0⟩⟩),
    (64, 0x2C5B03E000000000, .qzero ⟨⟨true, 5, true⟩, 0x1F, 0x0, 0x0, 0, false, false, false, false, false, 0, 0, false, none⟩),
    (64, 0x2CBB03E0780E8C00, .qadd ⟨⟨true, 5, true⟩, 0x1F, 0x1E, 0x1D, 3, false, false, false, false, false, 0, 0, false, none⟩),
    (64, 0x2C8B010078000500, .qcvt ⟨⟨true, 5, true⟩, 0x8, 0x1E, 0x0, 1, false, true, false, false, false, 0, 0, false, none⟩),
    (64, 0x2C6B03FC23820016, .qld ⟨⟨true, 5, true⟩, 0x1F, 0x708, 0x704, 0, false, false, false, false, false, 2, 3, false, none⟩),
    (128, 0x80000000800000012C7B03FC2382400C, .qst ⟨⟨true, 5, true⟩, 0x1F, 0x708, 0x704, 0, false, false, false, false, false, 1, 2, false, some ⟨0, 0x0, 0x80000001⟩⟩),
    (64, 0x2C9B020078000010, .qmov ⟨⟨true, 5, true⟩, 0x10, 0x1E, 0x0, 0, false, false, false, false, false, 2, 0, false, none⟩),
    (128, 0x8003FF0A000002002CAB011C20024A2C, .ldf ⟨⟨true, 5, true⟩, 0x8, 0x708, 0x4, 2, true, false, false, false, true, 1, 2, false, some ⟨127, 0x70A, 0x200⟩⟩)] = true := by decide +kernel
theorem decode_memory_1 : decodes [
    (128, 0x80000000FFFFFFF0300B003C20024341, .ld ⟨⟨true, 5, true⟩, 0x1, 0x708, 0x4, 0, 1, 5, 0, false, false, 1, some ⟨0, 0x0, 0xFFFFFFF0⟩⟩),
    (64, 0x302B003C20020918, .lda ⟨⟨true, 5, true⟩, 0x1, 0x708, 0x4, 0, 4, 4, 1, true, false, 0, none⟩),
    (64, 0x301B003C20023680, .st ⟨⟨true, 5, true⟩, 0x1, 0x708, 0x4, 3, 3, 2, 0, false, false, 0, none⟩),
    (64, 0x303B003C200224E0, .stl ⟨⟨true, 5, true⟩, 0x1, 0x708, 0x4, 2, 2, 3, 2, false, false, 0, none⟩),
    (128, 0x8006B70A00000040304B003C20024738, .atom ⟨⟨true, 5, true⟩, 0x1, 0x708, 0x4, 0, 3, 4, 3, true, false, 0, some ⟨214, 0x70A, 0x40⟩⟩),
    (128, 0x8038370A00000000305B003C20025620, .cas ⟨⟨true, 5, true⟩, 0x1, 0x708, 0x4, 1, 3, 0, 2, false, false, 0, some ⟨1798, 0x70A, 0x0⟩⟩),
    (64, 0x306B000000000171, .fence ⟨⟨true, 5, true⟩, 0x0, 0x0, 0x0, 0, 0, 5, 3, false, false, 1, none⟩),
    (128, 0x8000000080000001307B001C200240C1, .pf ⟨⟨true, 5, true⟩, 0x0, 0x708, 0x4, 0, 0, 3, 0, false, false, 1, some ⟨0, 0x0, 0x80000001⟩⟩),
    (64, 0x308BE03C0B81B001, .tmov ⟨⟨true, 5, true⟩, 0x701, 0x702, 0x703, 3, 0, 0, 0, false, false, 1, none⟩),
    (128, 0x800000008000000130AB001C0B81E000, .sinv ⟨⟨true, 5, true⟩, 0x0, 0x702, 0x703, 2, 0, 0, 0, false, false, 0, some ⟨0, 0x0, 0x80000001⟩⟩),
    (64, 0x3C9BC01C20020100, .gdef ⟨⟨true, 5, true⟩, 0x600, 0x708, 0x4, 0, 0, 4, 0, false, false, 0, none⟩),
    (64, 0x3CABC01C20020100, .gres ⟨⟨true, 5, true⟩, 0x600, 0x708, 0x4, 0, 0, 4, 0, false, false, 0, none⟩),
    (64, 0x3CAB005C20020101, .gresSet ⟨⟨true, 5, true⟩, 0x2, 0x708, 0x4, 0, 0, 4, 0, false, false, 1, none⟩),
    (128, 0x80000000800000013CCBE03C20024100, .gpsn ⟨⟨true, 5, true⟩, 0x701, 0x708, 0x4, 0, 0, 4, 0, false, false, 0, some ⟨0, 0x0, 0x80000001⟩⟩)] = true := by decide +kernel
theorem decode_memory_2 : decodes [
    (64, 0x3CCBE03C20020101, .gpsnSet ⟨⟨true, 5, true⟩, 0x701, 0x708, 0x4, 0, 0, 4, 0, false, false, 1, none⟩),
    (64, 0x3CBB005C20020540, .gqry ⟨⟨true, 5, true⟩, 0x2, 0x708, 0x4, 0, 2, 5, 0, false, false, 0, none⟩),
    (64, 0x3CDB005C20020680, .ldn ⟨⟨true, 5, true⟩, 0x2, 0x708, 0x4, 0, 3, 2, 0, false, false, 0, none⟩)] = true := by decide +kernel
theorem decode_engines : decodes [
    (128, 0x8000170800000040340B000000007FB0, .copy ⟨⟨true, 5, true⟩, 0x0, 0x0, 0x0, 15, 14, 3, 0, some ⟨2, 0x708, 0x40⟩⟩),
    (128, 0x8000180000000010341B001C0B81C493, .gather ⟨⟨true, 5, true⟩, 0x0, 0x702, 0x703, 1, 2, 1, 3, some ⟨3, 0x0, 0x10⟩⟩),
    (64, 0x342B001C08000020, .waitc ⟨⟨true, 5, true⟩, 0x0, 0x702, 0x0, 0, 0, 2, 0, none⟩),
    (128, 0x8000070400010002343B001C0B81C002, .plinit ⟨⟨true, 5, true⟩, 0x0, 0x702, 0x703, 0, 0, 0, 2, some ⟨0, 0x704, 0x10002⟩⟩),
    (64, 0x344B001C08001431, .plfill ⟨⟨true, 5, true⟩, 0x0, 0x702, 0x0, 5, 0, 3, 1, none⟩),
    (64, 0x345BE0DC13838002, .plwait ⟨⟨true, 5, true⟩, 0x706, 0x704, 0x707, 0, 0, 0, 2, none⟩),
    (64, 0x346B001C13838001, .plrel ⟨⟨true, 5, true⟩, 0x0, 0x704, 0x707, 0, 0, 0, 1, none⟩),
    (64, 0x347B001C13838003, .arrive ⟨⟨true, 5, true⟩, 0x0, 0x704, 0x707, 0, 0, 0, 3, none⟩),
    (64, 0x348BE0DC13838003, .bwait ⟨⟨true, 5, true⟩, 0x706, 0x704, 0x707, 0, 0, 0, 3, none⟩),
    (64, 0x349B001C13838002, .binit ⟨⟨true, 5, true⟩, 0x0, 0x704, 0x707, 0, 0, 0, 2, none⟩)] = true := by decide +kernel
theorem decode_control_1 : decodes [
    (64, 0x3801000000002001, .bra ⟨⟨true, 0, true⟩, 0x0, 0x0, 0x0, 8193, none⟩),
    (128, 0x80000000FFFFFFFE3801000000004000, .bra ⟨⟨true, 0, true⟩, 0x0, 0x0, 0x0, 0, some ⟨0, 0x0, 0xFFFFFFFE⟩⟩),
    (64, 0x381100001C019FFF, .brc ⟨⟨true, 0, true⟩, 0x0, 0x7, 0x3, 8191, none⟩),
    (64, 0x3821001C20000000, .brx ⟨⟨true, 0, true⟩, 0x0, 0x708, 0x0, 0, none⟩),
    (64, 0x3831E0C000000002, .call ⟨⟨true, 0, true⟩, 0x706, 0x0, 0x0, 2, none⟩),
    (64, 0x3841000000000000, .ret ⟨⟨true, 0, true⟩, 0x0, 0x0, 0x0, 0, none⟩),
    (64, 0x3861000000000000, .join ⟨⟨true, 0, true⟩, 0x0, 0x0, 0x0, 0, none⟩),
    (64, 0x3891000000000000, .barg ⟨⟨true, 0, true⟩, 0x0, 0x0, 0x0, 0, none⟩),
    (64, 0x38E1000000000000, .exit ⟨⟨true, 0, true⟩, 0x0, 0x0, 0x0, 0, none⟩),
    (128, 0x8087200400000000385100001C04C003, .split ⟨⟨true, 0, true⟩, 0x0, 0x7, 0x9, 3, some ⟨4324, 0x4, 0x0⟩⟩),
    (64, 0x3871001C07810000, .barb ⟨⟨true, 0, true⟩, 0x0, 0x701, 0x702, 0, none⟩),
    (64, 0x3881001E04000000, .bard ⟨⟨true, 0, true⟩, 0x0, 0x781, 0x0, 0, none⟩),
    (64, 0x38B1001C14000000, .yield ⟨⟨true, 0, true⟩, 0x0, 0x705, 0x0, 0, none⟩),
    (64, 0x38D1001C20000000, .launch ⟨⟨true, 0, true⟩, 0x0, 0x708, 0x0, 0, none⟩)] = true := by decide +kernel
theorem decode_control_2 : decodes [
    (128, 0x800000000000006438A1E0DC1382D540, .waitv ⟨⟨true, 0, true⟩, 0x706, 0x704, 0x705, 5440, some ⟨0, 0x0, 0x64⟩⟩),
    (64, 0x38C1000013C20007, .spawn ⟨⟨true, 0, true⟩, 0x0, 0x4, 0x784, 7, none⟩),
    (128, 0x800000000000002038F1000000004000, .rega ⟨⟨true, 0, true⟩, 0x0, 0x0, 0x0, 0, some ⟨0, 0x0, 0x20⟩⟩),
    (64, 0x3901001C0C000000, .regr ⟨⟨true, 0, true⟩, 0x0, 0x703, 0x0, 0, none⟩)] = true := by decide +kernel
theorem decode_system : decodes [
    (64, 0x3C01E08000000080, .getsr ⟨⟨true, 0, true⟩, 0x704, 0x0, 0x0, 8, 0, none⟩),
    (64, 0x3C11001C50000180, .setsr ⟨⟨true, 0, true⟩, 0x0, 0x714, 0x0, 24, 0, none⟩),
    (64, 0x1C24001E14000000, .trap ⟨⟨false, 2, false⟩, 0x0, 0x785, 0x0, 0, 0, none⟩),
    (128, 0x80000000000000003C4B000000004000, .brk ⟨⟨true, 5, true⟩, 0x0, 0x0, 0x0, 0, 0, some ⟨0, 0x0, 0x0⟩⟩),
    (64, 0x3C31000000000000, .rte ⟨⟨true, 0, true⟩, 0x0, 0x0, 0x0, 0, 0, none⟩),
    (64, 0x3C51E0C033818001, .lanerd ⟨⟨true, 0, true⟩, 0x706, 0xC, 0x703, 0, 1, none⟩),
    (64, 0x3C61019C1B818000, .lanewr ⟨⟨true, 0, true⟩, 0xC, 0x706, 0x703, 0, 0, none⟩),
    (64, 0x3C7BE15E14000000, .capq ⟨⟨true, 5, true⟩, 0x70A, 0x785, 0x0, 0, 0, none⟩),
    (64, 0x3C7BE15E14000001, .capqPart ⟨⟨true, 5, true⟩, 0x70A, 0x785, 0x0, 0, 1, none⟩),
    (64, 0x3C8B001E08000000, .migrCaps ⟨⟨true, 5, true⟩, 0x0, 0x782, 0x0, 0, 0, none⟩),
    (64, 0x3C8B001E08000001, .migrReq ⟨⟨true, 5, true⟩, 0x0, 0x782, 0x0, 0, 1, none⟩),
    (64, 0x3C8B000000000002, .migrPin ⟨⟨true, 5, true⟩, 0x0, 0x0, 0x0, 0, 2, none⟩),
    (64, 0x3C8B000000000003, .migrUnpin ⟨⟨true, 5, true⟩, 0x0, 0x0, 0x0, 0, 3, none⟩),
    (64, 0x3CFB001E1F848000, .trace ⟨⟨true, 5, true⟩, 0x0, 0x787, 0x709, 0, 0, none⟩)] = true := by decide +kernel
theorem decode_pairs : decodes [
    (64, 0x7001F1002A08003E, .pair ⟨true, ⟨32, 3, 226, 0⟩, ⟨21, 4, 0, 31⟩⟩),
    (64, 0x4101807FC9C4007E, .pair ⟨false, ⟨2, 3, 0, 255⟩, ⟨36, 226, 0, 63⟩⟩),
    (64, 0x4000000061BFC000, .pair ⟨false, ⟨0, 0, 0, 0⟩, ⟨48, 223, 224, 0⟩⟩),
    (64, 0xE081000000000000, .regionHead ⟨true, 64, 8⟩),
    (64, 0xC106200000000000, .regionHeadYield ⟨false, 3, 1⟩),
    (64, 0xE200000000000000, .padding true)] = true := by decide +kernel

/-! Words that stand for nothing (R26, R38, R39, R43, R55): a hole of each block of the opcode map, X = 1 where no form has it or before
no extension word, bit 61 of an extension word, bit 0 of a pair word, marks of another kind or with reserved bits. -/
theorem decode_reserved : ([0x0230000000000000, 0x0510000000000000, 0x0530000000000000, 0x0900000000000000, 0x0C30000000000000, 0x0CC0000000000000,
    0x1090000000000000, 0x10B0000000000000, 0x14A0000000000000, 0x1910000000000000, 0x1CE0000000000000, 0x1D00000000000000, 0x1FF0000000000000,
    0x8000000000000000, 0x80000000000000000010000000004000, 0x00000000000000000040000000004000, 0xA0000000000000000040000000004000,
    0x4000000000000001, 0xC300000000000000, 0xC000000000000001] : List Nat).all
    (fun w => (decodeTableWord 128 w).isNone) = true := by decide +kernel

/-! ### Single steps -/

/-- The team after one step of a program of two words, from the team changed by f. -/
def stepped (v x : Nat) (f : Team → Team) : Option Team :=
  let s := program v x
  match step { s with teams := s.teams.map (fun t => f (t.openAt 0 64 8)) } with
  | .next s' => s'.teams.head?
  | _ => none

/-- A register of a lane, and a scalar, after one step. -/
def vecAfter (v x n l : Nat) (f : Arch → Arch) : Option Word := (stepped v x (arch f)).map (fun t => t.arch.vget n l)
def scalAfter (v x n : Nat) (f : Arch → Arch) : Option Word := (stepped v x (arch f)).map (fun t => t.arch.sget n)

/-! ### Ill-formed terms: one for each check of WellFormed.lean, which the check refuses -/

def refused (l : List Instr) : Bool := l.all (fun i => !i.wellFormed)

theorem ill_formed_integer_1 : refused [
    (.iadd ⟨⟨true, 5, true⟩, 0x1, 0x2, 0x3, 0, 1, false, false, false, false, 0, none⟩ : Instr),
    (.iadd ⟨⟨true, 5, true⟩, 0x1, 0x2, 0x3, 0, 0, true, false, false, false, 0, none⟩ : Instr),
    (.iadd ⟨⟨true, 5, true⟩, 0x1, 0x2, 0x3, 0, 0, false, true, false, false, 0, none⟩ : Instr),
    (.iadd ⟨⟨true, 5, true⟩, 0x1, 0x2, 0x3, 0, 0, false, false, true, false, 0, none⟩ : Instr),
    (.iadd ⟨⟨true, 5, true⟩, 0x1, 0x2, 0x3, 0, 0, false, false, false, true, 0, none⟩ : Instr),
    (.iadd ⟨⟨true, 5, true⟩, 0x1, 0x2, 0x3, 0, 0, false, false, false, false, 1, none⟩ : Instr),
    (.iadd ⟨⟨true, 5, true⟩, 0x1, 0x2, 0x3, 6, 0, false, false, false, false, 0, none⟩ : Instr),
    (.iadd ⟨⟨true, 5, true⟩, 0x1, 0x2, 0x5, 0, 0, false, false, false, false, 0, some ⟨0, 0x0, 0x80000001⟩⟩ : Instr),
    (.iadd ⟨⟨true, 5, true⟩, 0x1, 0x2, 0x0, 0, 0, false, false, false, false, 0, some ⟨1, 0x0, 0x0⟩⟩ : Instr),
    (.iadd ⟨⟨true, 5, true⟩, 0x1, 0x2, 0x0, 0, 0, false, false, false, false, 0, some ⟨0, 0x1, 0x0⟩⟩ : Instr),
    (.nop ⟨⟨true, 5, true⟩, 0x1, 0x0, 0x0, 0, 0, false, false, false, false, 0, none⟩ : Instr),
    (.nop ⟨⟨true, 5, true⟩, 0x0, 0x1, 0x0, 0, 0, false, false, false, false, 0, none⟩ : Instr),
    (.nop ⟨⟨true, 5, true⟩, 0x0, 0x0, 0x1, 0, 0, false, false, false, false, 0, none⟩ : Instr),
    (.nop ⟨⟨true, 5, true⟩, 0x0, 0x0, 0x0, 1, 0, false, false, false, false, 0, none⟩ : Instr),
    (.nop ⟨⟨true, 5, true⟩, 0x0, 0x0, 0x0, 0, 0, false, false, false, false, 1, none⟩ : Instr),
    (.nop ⟨⟨true, 5, true⟩, 0x0, 0x0, 0x0, 0, 0, false, false, false, false, 0, some ⟨0, 0x0, 0x80000001⟩⟩ : Instr)] = true := by decide +kernel
theorem ill_formed_integer_2 : refused [
    (.mov ⟨⟨true, 5, true⟩, 0x1, 0x2, 0x1, 0, 0, false, false, false, false, 0, none⟩ : Instr),
    (.mov ⟨⟨true, 5, true⟩, 0x1, 0x2, 0x0, 0, 0, false, false, false, false, 0, some ⟨0, 0x0, 0x80000001⟩⟩ : Instr),
    (.mov ⟨⟨true, 5, true⟩, 0x1, 0x2, 0x0, 1, 0, false, false, false, false, 0, none⟩ : Instr),
    (.ldi ⟨⟨true, 5, true⟩, 0x1, 0x0, 0x0, 0, 0, false, false, false, false, 0, none⟩ : Instr),
    (.ldi ⟨⟨true, 5, true⟩, 0x1, 0x1, 0x0, 0, 0, false, false, false, false, 0, some ⟨0, 0x0, 0x80000001⟩⟩ : Instr),
    (.ldi ⟨⟨true, 5, true⟩, 0x1, 0x0, 0x0, 1, 0, false, false, false, false, 0, some ⟨0, 0x0, 0x80000001⟩⟩ : Instr),
    (.ldi ⟨⟨true, 5, true⟩, 0x1, 0x0, 0x1, 0, 0, false, false, false, false, 0, some ⟨0, 0x0, 0x80000001⟩⟩ : Instr),
    (.sel ⟨⟨true, 5, true⟩, 0x1, 0x2, 0x3, 0, 0, false, false, false, false, 8, none⟩ : Instr),
    (.sel ⟨⟨true, 5, true⟩, 0x1, 0x2, 0x3, 1, 0, false, false, false, false, 0, none⟩ : Instr),
    (.isub ⟨⟨true, 5, true⟩, 0x2, 0x4, 0x0, 13, 0, false, false, false, false, 0, none⟩ : Instr),
    (.imul ⟨⟨true, 5, true⟩, 0x2, 0x4, 0x0, 6, 0, false, false, false, false, 0, none⟩ : Instr),
    (.imulh ⟨⟨true, 5, true⟩, 0x2, 0x4, 0x0, 4, 0, false, false, false, false, 0, none⟩ : Instr),
    (.imad ⟨⟨true, 5, true⟩, 0x2, 0x4, 0x0, 9, 0, false, false, false, false, 0, none⟩ : Instr),
    (.imin ⟨⟨true, 5, true⟩, 0x2, 0x4, 0x0, 13, 0, false, false, false, false, 0, none⟩ : Instr),
    (.imax ⟨⟨true, 5, true⟩, 0x2, 0x4, 0x0, 14, 0, false, false, false, false, 0, none⟩ : Instr),
    (.iadds ⟨⟨true, 5, true⟩, 0x2, 0x4, 0x0, 15, 0, false, false, false, false, 0, none⟩ : Instr)] = true := by decide +kernel
theorem ill_formed_integer_3 : refused [
    (.iabs ⟨⟨true, 5, true⟩, 0x2, 0x4, 0x0, 1, 0, false, false, false, false, 0, none⟩ : Instr),
    (.ineg ⟨⟨true, 5, true⟩, 0x2, 0x4, 0x0, 6, 0, false, false, false, false, 0, none⟩ : Instr),
    (.and ⟨⟨true, 5, true⟩, 0x2, 0x4, 0x0, 2, 0, false, false, false, false, 0, none⟩ : Instr),
    (.or ⟨⟨true, 5, true⟩, 0x2, 0x4, 0x0, 3, 0, false, false, false, false, 0, none⟩ : Instr),
    (.xor ⟨⟨true, 5, true⟩, 0x2, 0x4, 0x0, 4, 0, false, false, false, false, 0, none⟩ : Instr),
    (.andn ⟨⟨true, 5, true⟩, 0x2, 0x4, 0x0, 5, 0, false, false, false, false, 0, none⟩ : Instr),
    (.not ⟨⟨true, 5, true⟩, 0x2, 0x4, 0x0, 6, 0, false, false, false, false, 0, none⟩ : Instr)] = true := by decide +kernel
theorem ill_formed_logic_1 : refused [
    (.shl ⟨⟨true, 5, true⟩, 0x2, 0x4, 0x0, 0, 0, false, false, false, false, 2, none⟩ : Instr),
    (.shr ⟨⟨true, 5, true⟩, 0x2, 0x4, 0x0, 6, 0, false, false, false, false, 0, none⟩ : Instr),
    (.sar ⟨⟨true, 5, true⟩, 0x2, 0x4, 0x0, 0, 1, false, false, false, false, 0, none⟩ : Instr),
    (.rotl ⟨⟨true, 5, true⟩, 0x2, 0x4, 0x0, 0, 0, false, false, false, false, 1, none⟩ : Instr),
    (.bfx ⟨⟨true, 5, true⟩, 0x2, 0x4, 0x0, 2, 0, false, false, false, false, 0, none⟩ : Instr),
    (.bfi ⟨⟨true, 5, true⟩, 0x2, 0x4, 0x0, 0, 0, false, false, false, false, 1, none⟩ : Instr),
    (.permb ⟨⟨true, 5, true⟩, 0x2, 0x4, 0x0, 13, 0, false, false, false, false, 0, none⟩ : Instr),
    (.popc ⟨⟨true, 5, true⟩, 0x2, 0x4, 0x1, 0, 0, false, false, false, false, 0, none⟩ : Instr),
    (.clz ⟨⟨true, 5, true⟩, 0x2, 0x4, 0x0, 13, 0, false, false, false, false, 0, none⟩ : Instr),
    (.brev ⟨⟨true, 5, true⟩, 0x2, 0x4, 0x0, 0, 0, false, false, false, false, 0, some ⟨0, 0x0, 0x80000001⟩⟩ : Instr),
    (.icmp ⟨⟨true, 5, true⟩, 0x2, 0x4, 0x0, 0, 0, false, false, false, false, 6, none⟩ : Instr),
    (.icmp ⟨⟨true, 5, true⟩, 0x2, 0x4, 0x0, 2, 0, false, false, false, false, 0, none⟩ : Instr),
    (.icmp ⟨⟨true, 5, true⟩, 0x2, 0x4, 0x0, 0, 0, false, false, false, false, 14, none⟩ : Instr),
    (.icmp ⟨⟨true, 5, true⟩, 0x2, 0x4, 0x0, 6, 0, false, false, false, false, 8, none⟩ : Instr),
    (.icmp64 ⟨⟨true, 5, true⟩, 0x2, 0x4, 0x0, 1, 0, false, false, false, false, 0, none⟩ : Instr),
    (.icmp64 ⟨⟨true, 5, true⟩, 0x2, 0x4, 0x0, 13, 0, false, false, false, false, 6, none⟩ : Instr)] = true := by decide +kernel
theorem ill_formed_logic_2 : refused [
    (.lea ⟨⟨true, 5, true⟩, 0x2, 0x4, 0x0, 0, 0, false, false, false, false, 4, none⟩ : Instr),
    (.lea ⟨⟨true, 5, true⟩, 0x2, 0x4, 0x0, 13, 0, false, false, false, false, 0, none⟩ : Instr),
    (.iadd64 ⟨⟨true, 5, true⟩, 0x2, 0x4, 0x0, 0, 0, false, false, false, false, 0, none⟩ : Instr),
    (.isub64 ⟨⟨true, 5, true⟩, 0x2, 0x4, 0x0, 1, 0, false, false, false, false, 0, none⟩ : Instr),
    (.dot4 ⟨⟨true, 5, true⟩, 0x2, 0x4, 0x0, 0, 0, false, false, false, false, 0, none⟩ : Instr)] = true := by decide +kernel
theorem ill_formed_float_1 : refused [
    (.fadd ⟨⟨true, 5, true⟩, 0x2, 0x4, 0x0, 0, 0, false, false, false, false, 0, none⟩ : Instr),
    (.fsub ⟨⟨true, 5, true⟩, 0x2, 0x4, 0x0, 10, 0, false, false, false, false, 0, none⟩ : Instr),
    (.fmul ⟨⟨true, 5, true⟩, 0x2, 0x4, 0x0, 6, 0, false, false, false, false, 1, none⟩ : Instr),
    (.ffma ⟨⟨true, 5, true⟩, 0x2, 0x4, 0x0, 6, 0, false, false, false, false, 0, some ⟨0, 0x0, 0x80000001⟩⟩ : Instr),
    (.ffmax ⟨⟨true, 5, true⟩, 0x2, 0x4, 0x0, 6, 0, false, false, false, false, 0, none⟩ : Instr),
    (.ffmax ⟨⟨true, 5, true⟩, 0x2, 0x4, 0x0, 6, 0, false, false, false, false, 0, some ⟨4, 0x0, 0x0⟩⟩ : Instr),
    (.ffmax ⟨⟨true, 5, true⟩, 0x2, 0x4, 0x0, 6, 0, false, false, false, false, 0, some ⟨0, 0x0, 0x1⟩⟩ : Instr),
    (.fmin ⟨⟨true, 5, true⟩, 0x2, 0x4, 0x0, 6, 1, false, false, false, false, 0, none⟩ : Instr),
    (.fmax ⟨⟨true, 5, true⟩, 0x2, 0x4, 0x0, 6, 0, false, false, false, false, 1, none⟩ : Instr),
    (.fcmp ⟨⟨true, 5, true⟩, 0x2, 0x4, 0x0, 7, 0, false, false, false, false, 0, none⟩ : Instr),
    (.fcmp ⟨⟨true, 5, true⟩, 0x2, 0x4, 0x0, 6, 1, false, false, false, false, 0, none⟩ : Instr),
    (.fcmp ⟨⟨true, 5, true⟩, 0x2, 0x4, 0x0, 0, 0, false, false, false, false, 8, none⟩ : Instr),
    (.fclass ⟨⟨true, 5, true⟩, 0x2, 0x4, 0x0, 6, 0, false, false, false, false, 1, none⟩ : Instr),
    (.fclass ⟨⟨true, 5, true⟩, 0x2, 0x4, 0x0, 7, 0, false, false, false, false, 0, none⟩ : Instr),
    (.fclass ⟨⟨true, 5, true⟩, 0x2, 0x4, 0x0, 6, 0, true, false, false, false, 0, none⟩ : Instr),
    (.frcp ⟨⟨true, 5, true⟩, 0x2, 0x4, 0x0, 6, 0, false, false, true, false, 0, none⟩ : Instr)] = true := by decide +kernel
theorem ill_formed_float_2 : refused [
    (.fsqrt ⟨⟨true, 5, true⟩, 0x2, 0x4, 0x1, 6, 0, false, false, false, false, 0, none⟩ : Instr),
    (.frsq ⟨⟨true, 5, true⟩, 0x2, 0x4, 0x0, 9, 0, false, false, false, false, 0, none⟩ : Instr),
    (.fex2 ⟨⟨true, 5, true⟩, 0x2, 0x4, 0x0, 6, 1, false, false, false, false, 0, none⟩ : Instr),
    (.flg2 ⟨⟨true, 5, true⟩, 0x2, 0x4, 0x0, 6, 0, false, false, false, true, 0, none⟩ : Instr),
    (.fsin ⟨⟨true, 5, true⟩, 0x2, 0x4, 0x0, 6, 0, false, false, false, false, 1, none⟩ : Instr),
    (.fcos ⟨⟨true, 5, true⟩, 0x2, 0x4, 0x0, 6, 0, false, false, false, false, 0, some ⟨0, 0x0, 0x80000001⟩⟩ : Instr),
    (.ftanh ⟨⟨true, 5, true⟩, 0x2, 0x4, 0x0, 9, 0, false, false, false, false, 0, none⟩ : Instr),
    (.frnd ⟨⟨true, 5, true⟩, 0x2, 0x4, 0x0, 6, 0, false, false, false, false, 2, none⟩ : Instr),
    (.frnd ⟨⟨true, 5, true⟩, 0x2, 0x4, 0x1, 6, 0, false, false, false, false, 0, none⟩ : Instr),
    (.frnd ⟨⟨true, 5, true⟩, 0x2, 0x4, 0x0, 6, 0, false, false, true, false, 0, none⟩ : Instr)] = true := by decide +kernel
theorem ill_formed_lane_1 : refused [
    (.cvt ⟨⟨true, 5, true⟩, 0x2, 0x4, 0x0, 15, 0, 0, false, 0, none⟩ : Instr),
    (.cvt ⟨⟨true, 5, true⟩, 0x2, 0x4, 0x0, 0, 15, 0, false, 0, none⟩ : Instr),
    (.cvt ⟨⟨true, 5, true⟩, 0x2, 0x4, 0x0, 7, 6, 0, false, 1, none⟩ : Instr),
    (.cvt ⟨⟨true, 5, true⟩, 0x2, 0x4, 0x0, 11, 6, 0, false, 2, none⟩ : Instr),
    (.cvt ⟨⟨true, 5, true⟩, 0x2, 0x4, 0x0, 6, 7, 0, false, 2, none⟩ : Instr),
    (.cvt ⟨⟨true, 5, true⟩, 0x2, 0x4, 0x1, 6, 7, 0, false, 0, none⟩ : Instr),
    (.cvt ⟨⟨true, 5, true⟩, 0x2, 0x4, 0x0, 6, 11, 0, false, 4, none⟩ : Instr),
    (.cvt ⟨⟨true, 5, true⟩, 0x2, 0x4, 0x0, 10, 6, 1, false, 0, none⟩ : Instr),
    (.cvt ⟨⟨true, 5, true⟩, 0x2, 0x4, 0x0, 0, 1, 1, false, 0, none⟩ : Instr),
    (.cvt ⟨⟨true, 5, true⟩, 0x2, 0x4, 0x0, 6, 0, 0, false, 0, some ⟨0, 0x0, 0x80000001⟩⟩ : Instr),
    (.cvtsr ⟨⟨true, 5, true⟩, 0x2, 0x4, 0x0, 0, 6, 0, false, 0, some ⟨0, 0x1, 0x0⟩⟩ : Instr),
    (.cvtsr ⟨⟨true, 5, true⟩, 0x2, 0x4, 0x0, 11, 6, 0, false, 0, none⟩ : Instr),
    (.cvtsr ⟨⟨true, 5, true⟩, 0x2, 0x4, 0x0, 11, 6, 1, false, 0, some ⟨0, 0x1, 0x0⟩⟩ : Instr),
    (.cvtsr ⟨⟨true, 5, true⟩, 0x2, 0x4, 0x0, 11, 6, 0, false, 2, some ⟨0, 0x1, 0x0⟩⟩ : Instr),
    (.cvtsr ⟨⟨true, 5, true⟩, 0x2, 0x4, 0x0, 11, 6, 0, false, 0, some ⟨0, 0x1, 0x1⟩⟩ : Instr),
    (.cvtsr ⟨⟨true, 5, true⟩, 0x2, 0x4, 0x0, 6, 9, 0, false, 0, some ⟨0, 0x1, 0x0⟩⟩ : Instr)] = true := by decide +kernel
theorem ill_formed_lane_2 : refused [
    (.bscale ⟨⟨true, 5, true⟩, 0x2, 0x4, 0x0, 9, 6, 0, false, 0, none⟩ : Instr),
    (.bscale ⟨⟨true, 5, true⟩, 0x2, 0x4, 0x0, 11, 9, 0, false, 0, none⟩ : Instr),
    (.bscale ⟨⟨true, 5, true⟩, 0x2, 0x4, 0x0, 11, 6, 0, true, 0, none⟩ : Instr),
    (.bscale ⟨⟨true, 5, true⟩, 0x2, 0x4, 0x1, 11, 6, 0, false, 0, none⟩ : Instr),
    (.shfl ⟨⟨true, 5, true⟩, 0x2, 0x4, 0x0, 0, 13, 0, false, 0, none⟩ : Instr),
    (.shfl ⟨⟨true, 5, true⟩, 0x2, 0x4, 0x0, 0, 0, 0, false, 4, none⟩ : Instr),
    (.shfl ⟨⟨true, 5, true⟩, 0x2, 0x4, 0x0, 0, 0, 0, true, 0, none⟩ : Instr),
    (.bcast ⟨⟨true, 5, true⟩, 0x2, 0x4, 0x1, 0, 0, 0, false, 1, none⟩ : Instr),
    (.bcast ⟨⟨true, 5, true⟩, 0x2, 0x4, 0x0, 0, 0, 0, false, 2, none⟩ : Instr),
    (.vote ⟨⟨true, 5, true⟩, 0x2, 0x4, 0x0, 0, 0, 0, false, 4, none⟩ : Instr),
    (.vote ⟨⟨true, 5, true⟩, 0x2, 0x4, 0x0, 0, 0, 0, true, 3, none⟩ : Instr),
    (.vote ⟨⟨true, 5, true⟩, 0x2, 0x4, 0x1, 0, 0, 0, false, 0, none⟩ : Instr),
    (.redux ⟨⟨true, 5, true⟩, 0x2, 0x4, 0x0, 0, 0, 0, false, 6, none⟩ : Instr),
    (.redux ⟨⟨true, 5, true⟩, 0x2, 0x4, 0x0, 6, 6, 0, false, 3, none⟩ : Instr),
    (.redux ⟨⟨true, 5, true⟩, 0x2, 0x4, 0x0, 6, 6, 1, false, 1, none⟩ : Instr),
    (.redux ⟨⟨true, 5, true⟩, 0x2, 0x4, 0x0, 2, 2, 0, false, 0, none⟩ : Instr)] = true := by decide +kernel
theorem ill_formed_lane_3 : refused [
    (.scan ⟨⟨true, 5, true⟩, 0x2, 0x4, 0x0, 0, 1, 0, false, 0, none⟩ : Instr),
    (.scan ⟨⟨true, 5, true⟩, 0x2, 0x4, 0x0, 0, 0, 1, false, 0, none⟩ : Instr),
    (.elect ⟨⟨true, 5, true⟩, 0x2, 0x0, 0x0, 0, 0, 0, false, 1, none⟩ : Instr),
    (.kand ⟨⟨true, 5, true⟩, 0x2, 0x4, 0x0, 0, 0, 0, true, 0, none⟩ : Instr),
    (.kor ⟨⟨true, 5, true⟩, 0x2, 0x4, 0x0, 1, 0, 0, false, 0, none⟩ : Instr),
    (.kxor ⟨⟨true, 5, true⟩, 0x2, 0x4, 0x0, 0, 0, 0, false, 1, none⟩ : Instr),
    (.knot ⟨⟨true, 5, true⟩, 0x2, 0x4, 0x1, 0, 0, 0, false, 0, none⟩ : Instr),
    (.kmov ⟨⟨true, 5, true⟩, 0x2, 0x4, 0x0, 0, 0, 0, false, 3, none⟩ : Instr),
    (.kmov ⟨⟨true, 5, true⟩, 0x2, 0x4, 0x0, 0, 0, 0, true, 0, none⟩ : Instr),
    (.kpop ⟨⟨true, 5, true⟩, 0x2, 0x4, 0x0, 0, 0, 0, false, 1, none⟩ : Instr),
    (.kfirst ⟨⟨true, 5, true⟩, 0x2, 0x4, 0x1, 0, 0, 0, false, 0, none⟩ : Instr),
    (.elect ⟨⟨true, 5, true⟩, 0x0, 0x1, 0x0, 0, 0, 0, false, 0, none⟩ : Instr),
    (.kpop ⟨⟨true, 5, true⟩, 0x701, 0x1, 0x0, 0, 0, 0, false, 0, none⟩ : Instr)] = true := by decide +kernel
theorem ill_formed_matrix_1 : refused [
    (.mma ⟨⟨true, 5, true⟩, 0x2, 0x0, 0x0, 6, false, false, false, false, false, 0, 0, false, none⟩ : Instr),
    (.mma ⟨⟨true, 5, true⟩, 0x2, 0x0, 0x0, 0, false, false, true, false, false, 0, 0, false, none⟩ : Instr),
    (.mma ⟨⟨true, 5, true⟩, 0x2, 0x0, 0x0, 0, false, false, false, true, false, 0, 0, false, none⟩ : Instr),
    (.mma ⟨⟨true, 5, true⟩, 0x2, 0x0, 0x0, 0, false, false, false, false, true, 0, 0, false, none⟩ : Instr),
    (.mma ⟨⟨true, 5, true⟩, 0x2, 0x0, 0x0, 0, false, false, false, false, false, 0, 0, true, none⟩ : Instr),
    (.mma ⟨⟨true, 5, true⟩, 0x2, 0x0, 0x0, 0, false, false, false, false, false, 1, 0, false, none⟩ : Instr),
    (.mma ⟨⟨true, 5, true⟩, 0x2, 0x0, 0x0, 0, false, false, false, false, false, 0, 1, false, none⟩ : Instr),
    (.mma ⟨⟨true, 5, true⟩, 0x2, 0x0, 0x0, 0, false, false, false, false, false, 0, 0, false, some ⟨0, 0x0, 0x80000001⟩⟩ : Instr),
    (.mmam ⟨⟨true, 5, true⟩, 0x2, 0x0, 0x0, 0, false, false, false, false, false, 0, 0, false, none⟩ : Instr),
    (.mmam ⟨⟨true, 5, true⟩, 0x2, 0x0, 0x0, 0, false, false, false, false, false, 0, 0, false, some ⟨512, 0x0, 0x0⟩⟩ : Instr),
    (.mmam ⟨⟨true, 5, true⟩, 0x2, 0x0, 0x0, 0, false, false, false, false, false, 0, 0, false, some ⟨0, 0x1, 0x0⟩⟩ : Instr),
    (.mmam ⟨⟨true, 5, true⟩, 0x2, 0x0, 0x0, 0, false, false, false, false, false, 0, 0, false, some ⟨0, 0x0, 0x1⟩⟩ : Instr),
    (.mmq ⟨⟨true, 5, true⟩, 0x2, 0x0, 0x0, 6, false, false, false, false, false, 0, 0, false, none⟩ : Instr),
    (.mmq ⟨⟨true, 5, true⟩, 0x2, 0x0, 0x0, 0, false, true, false, false, false, 0, 0, false, none⟩ : Instr),
    (.mmq ⟨⟨true, 5, true⟩, 0x2, 0x0, 0x0, 0, false, false, false, false, true, 0, 0, false, none⟩ : Instr),
    (.mmq ⟨⟨true, 5, true⟩, 0x2, 0x0, 0x0, 0, false, false, false, false, false, 0, 0, true, none⟩ : Instr)] = true := by decide +kernel
theorem ill_formed_matrix_2 : refused [
    (.mmq ⟨⟨true, 5, true⟩, 0x2, 0x0, 0x0, 0, false, false, false, false, false, 0, 1, false, none⟩ : Instr),
    (.mmq ⟨⟨true, 5, true⟩, 0x2, 0x0, 0x0, 0, true, false, true, false, false, 0, 0, false, none⟩ : Instr),
    (.mmq ⟨⟨true, 5, true⟩, 0x2, 0x0, 0x0, 0, false, false, false, false, false, 0, 0, false, some ⟨0, 0x0, 0x80000001⟩⟩ : Instr),
    (.qscale ⟨⟨true, 5, true⟩, 0x2, 0x0, 0x0, 0, false, false, false, false, false, 0, 0, false, none⟩ : Instr),
    (.qscale ⟨⟨true, 5, true⟩, 0x2, 0x0, 0x0, 0, false, false, false, false, false, 0, 0, false, some ⟨1, 0x0, 0x0⟩⟩ : Instr),
    (.qscale ⟨⟨true, 5, true⟩, 0x2, 0x0, 0x0, 1, false, false, false, false, false, 0, 0, false, some ⟨0, 0x1, 0x0⟩⟩ : Instr),
    (.qzero ⟨⟨true, 5, true⟩, 0x2, 0x1, 0x0, 0, false, false, false, false, false, 0, 0, false, none⟩ : Instr),
    (.qzero ⟨⟨true, 5, true⟩, 0x2, 0x0, 0x0, 0, true, false, false, false, false, 0, 0, false, none⟩ : Instr),
    (.qadd ⟨⟨true, 5, true⟩, 0x2, 0x0, 0x0, 1, false, false, false, false, false, 0, 0, false, none⟩ : Instr),
    (.qadd ⟨⟨true, 5, true⟩, 0x2, 0x0, 0x0, 0, true, false, false, false, false, 0, 0, false, none⟩ : Instr),
    (.qcvt ⟨⟨true, 5, true⟩, 0x2, 0x0, 0x0, 3, false, true, false, false, false, 0, 0, false, none⟩ : Instr),
    (.qcvt ⟨⟨true, 5, true⟩, 0x2, 0x0, 0x1, 0, false, false, false, false, false, 0, 0, false, none⟩ : Instr),
    (.qcvt ⟨⟨true, 5, true⟩, 0x2, 0x0, 0x0, 0, true, false, false, false, false, 0, 0, false, none⟩ : Instr),
    (.qld ⟨⟨true, 5, true⟩, 0x2, 0x0, 0x0, 1, false, false, false, false, false, 0, 0, false, none⟩ : Instr),
    (.qst ⟨⟨true, 5, true⟩, 0x2, 0x0, 0x0, 0, false, true, false, false, false, 0, 0, false, none⟩ : Instr),
    (.qst ⟨⟨true, 5, true⟩, 0x2, 0x0, 0x0, 0, false, false, false, false, false, 0, 0, false, some ⟨0, 0x1, 0x0⟩⟩ : Instr)] = true := by decide +kernel
theorem ill_formed_matrix_3 : refused [
    (.qmov ⟨⟨true, 5, true⟩, 0x2, 0x0, 0x1, 0, false, false, false, false, false, 0, 0, false, none⟩ : Instr),
    (.qmov ⟨⟨true, 5, true⟩, 0x2, 0x0, 0x0, 0, false, false, false, false, false, 0, 1, false, none⟩ : Instr),
    (.ldf ⟨⟨true, 5, true⟩, 0x2, 0x0, 0x0, 0, false, false, false, false, false, 0, 0, false, none⟩ : Instr),
    (.ldf ⟨⟨true, 5, true⟩, 0x2, 0x0, 0x0, 4, false, false, false, false, false, 0, 0, false, some ⟨0, 0x0, 0x0⟩⟩ : Instr),
    (.ldf ⟨⟨true, 5, true⟩, 0x2, 0x0, 0x0, 0, false, true, false, false, false, 0, 0, false, some ⟨0, 0x0, 0x0⟩⟩ : Instr),
    (.ldf ⟨⟨true, 5, true⟩, 0x2, 0x0, 0x0, 0, false, false, false, false, false, 0, 0, false, some ⟨1, 0x0, 0x0⟩⟩ : Instr),
    (.ldf ⟨⟨true, 5, true⟩, 0x2, 0x0, 0x0, 0, false, false, false, false, true, 0, 0, false, some ⟨128, 0x0, 0x0⟩⟩ : Instr)] = true := by decide +kernel
theorem ill_formed_memory_1 : refused [
    (.ld ⟨⟨true, 5, true⟩, 0x0, 0x0, 0x0, 0, 5, 0, 0, false, false, 0, none⟩ : Instr),
    (.ld ⟨⟨true, 5, true⟩, 0x0, 0x0, 0x0, 0, 0, 6, 0, false, false, 0, none⟩ : Instr),
    (.ld ⟨⟨true, 5, true⟩, 0x0, 0x0, 0x0, 0, 0, 0, 1, false, false, 0, none⟩ : Instr),
    (.ld ⟨⟨true, 5, true⟩, 0x0, 0x0, 0x0, 0, 0, 0, 0, true, false, 0, none⟩ : Instr),
    (.ld ⟨⟨true, 5, true⟩, 0x0, 0x0, 0x0, 0, 0, 0, 0, false, true, 0, none⟩ : Instr),
    (.ld ⟨⟨true, 5, true⟩, 0x0, 0x0, 0x0, 0, 0, 0, 0, false, false, 2, none⟩ : Instr),
    (.ld ⟨⟨true, 5, true⟩, 0x0, 0x0, 0x0, 0, 2, 0, 0, false, false, 1, none⟩ : Instr),
    (.ld ⟨⟨true, 5, true⟩, 0x0, 0x0, 0x0, 0, 0, 0, 0, false, false, 0, some ⟨1, 0x0, 0x0⟩⟩ : Instr),
    (.lda ⟨⟨true, 5, true⟩, 0x0, 0x0, 0x0, 0, 0, 0, 0, false, false, 0, none⟩ : Instr),
    (.lda ⟨⟨true, 5, true⟩, 0x0, 0x0, 0x0, 0, 0, 1, 1, true, false, 0, none⟩ : Instr),
    (.lda ⟨⟨true, 5, true⟩, 0x0, 0x0, 0x0, 1, 0, 2, 1, true, false, 0, none⟩ : Instr),
    (.st ⟨⟨true, 5, true⟩, 0x0, 0x0, 0x0, 0, 0, 0, 0, false, false, 1, none⟩ : Instr),
    (.st ⟨⟨true, 5, true⟩, 0x0, 0x0, 0x0, 0, 0, 0, 2, false, false, 0, none⟩ : Instr),
    (.stl ⟨⟨true, 5, true⟩, 0x0, 0x0, 0x0, 0, 0, 0, 0, false, false, 0, none⟩ : Instr),
    (.stl ⟨⟨true, 5, true⟩, 0x0, 0x0, 0x0, 0, 0, 0, 2, true, false, 0, none⟩ : Instr),
    (.atom ⟨⟨true, 5, true⟩, 0x0, 0x0, 0x0, 0, 2, 0, 0, false, false, 0, none⟩ : Instr)] = true := by decide +kernel
theorem ill_formed_memory_2 : refused [
    (.atom ⟨⟨true, 5, true⟩, 0x0, 0x0, 0x0, 0, 3, 0, 0, false, false, 0, some ⟨16, 0x701, 0x0⟩⟩ : Instr),
    (.atom ⟨⟨true, 5, true⟩, 0x0, 0x0, 0x0, 0, 2, 0, 0, false, false, 0, some ⟨32, 0x701, 0x0⟩⟩ : Instr),
    (.atom ⟨⟨true, 5, true⟩, 0x0, 0x0, 0x0, 0, 2, 0, 0, false, false, 0, some ⟨9, 0x701, 0x0⟩⟩ : Instr),
    (.atom ⟨⟨true, 5, true⟩, 0x0, 0x0, 0x0, 0, 2, 0, 0, false, false, 0, some ⟨256, 0x701, 0x0⟩⟩ : Instr),
    (.atom ⟨⟨true, 5, true⟩, 0x0, 0x0, 0x0, 0, 2, 0, 1, false, true, 0, some ⟨16, 0x701, 0x0⟩⟩ : Instr),
    (.atom ⟨⟨true, 5, true⟩, 0x1, 0x0, 0x0, 0, 2, 0, 0, false, true, 0, some ⟨16, 0x701, 0x0⟩⟩ : Instr),
    (.atom ⟨⟨true, 5, true⟩, 0x0, 0x0, 0x0, 0, 2, 0, 0, true, false, 0, some ⟨16, 0x701, 0x0⟩⟩ : Instr),
    (.cas ⟨⟨true, 5, true⟩, 0x0, 0x0, 0x0, 0, 2, 0, 0, false, false, 0, none⟩ : Instr),
    (.cas ⟨⟨true, 5, true⟩, 0x0, 0x0, 0x0, 0, 1, 0, 0, false, false, 0, some ⟨0, 0x0, 0x0⟩⟩ : Instr),
    (.cas ⟨⟨true, 5, true⟩, 0x0, 0x0, 0x0, 0, 2, 0, 0, false, true, 0, some ⟨0, 0x0, 0x0⟩⟩ : Instr),
    (.cas ⟨⟨true, 5, true⟩, 0x0, 0x0, 0x0, 0, 2, 0, 0, false, false, 0, some ⟨2048, 0x0, 0x0⟩⟩ : Instr),
    (.fence ⟨⟨true, 5, true⟩, 0x0, 0x0, 0x0, 0, 0, 0, 0, false, false, 0, none⟩ : Instr),
    (.fence ⟨⟨true, 5, true⟩, 0x0, 0x0, 0x0, 0, 0, 0, 2, false, false, 1, none⟩ : Instr),
    (.fence ⟨⟨true, 5, true⟩, 0x1, 0x0, 0x0, 0, 0, 0, 3, false, false, 0, none⟩ : Instr),
    (.fence ⟨⟨true, 5, true⟩, 0x0, 0x0, 0x0, 1, 0, 0, 3, false, false, 0, none⟩ : Instr),
    (.fence ⟨⟨true, 5, true⟩, 0x0, 0x0, 0x0, 0, 0, 6, 3, false, false, 0, none⟩ : Instr)] = true := by decide +kernel
theorem ill_formed_memory_3 : refused [
    (.pf ⟨⟨true, 5, true⟩, 0x1, 0x0, 0x0, 0, 0, 0, 0, false, false, 0, none⟩ : Instr),
    (.pf ⟨⟨true, 5, true⟩, 0x0, 0x0, 0x0, 0, 0, 0, 0, false, false, 2, none⟩ : Instr),
    (.pf ⟨⟨true, 5, true⟩, 0x0, 0x0, 0x0, 0, 0, 0, 1, false, false, 0, none⟩ : Instr),
    (.tmov ⟨⟨true, 5, true⟩, 0x0, 0x0, 0x0, 1, 0, 0, 0, false, false, 0, none⟩ : Instr),
    (.tmov ⟨⟨true, 5, true⟩, 0x0, 0x0, 0x0, 0, 0, 0, 0, false, false, 1, none⟩ : Instr),
    (.tmov ⟨⟨true, 5, true⟩, 0x0, 0x0, 0x0, 1, 1, 0, 0, false, false, 1, none⟩ : Instr),
    (.sinv ⟨⟨true, 5, true⟩, 0x0, 0x0, 0x0, 0, 0, 0, 0, false, false, 0, none⟩ : Instr),
    (.sinv ⟨⟨true, 5, true⟩, 0x1, 0x0, 0x0, 1, 0, 0, 0, false, false, 0, none⟩ : Instr),
    (.gdef ⟨⟨true, 5, true⟩, 0x0, 0x0, 0x0, 0, 0, 0, 0, false, false, 0, none⟩ : Instr),
    (.gdef ⟨⟨true, 5, true⟩, 0x0, 0x0, 0x0, 1, 0, 4, 0, false, false, 0, none⟩ : Instr),
    (.gres ⟨⟨true, 5, true⟩, 0x0, 0x0, 0x0, 0, 0, 3, 0, false, false, 0, none⟩ : Instr),
    (.gpsn ⟨⟨true, 5, true⟩, 0x0, 0x0, 0x0, 0, 0, 4, 1, false, false, 0, none⟩ : Instr),
    (.gqry ⟨⟨true, 5, true⟩, 0x0, 0x0, 0x0, 0, 3, 0, 0, false, false, 0, none⟩ : Instr),
    (.gqry ⟨⟨true, 5, true⟩, 0x0, 0x0, 0x0, 0, 2, 0, 0, false, false, 1, none⟩ : Instr),
    (.ldn ⟨⟨true, 5, true⟩, 0x0, 0x0, 0x0, 1, 0, 0, 0, false, false, 0, none⟩ : Instr),
    (.ldn ⟨⟨true, 5, true⟩, 0x0, 0x0, 0x0, 0, 0, 0, 1, false, false, 0, none⟩ : Instr)] = true := by decide +kernel
theorem ill_formed_memory_4 : refused [
    (.gresSet ⟨⟨true, 5, true⟩, 0x0, 0x0, 0x0, 0, 0, 4, 0, false, false, 0, none⟩ : Instr),
    (.gpsnSet ⟨⟨true, 5, true⟩, 0x0, 0x0, 0x0, 0, 0, 4, 0, false, false, 0, none⟩ : Instr)] = true := by decide +kernel
theorem ill_formed_engines_1 : refused [
    (.copy ⟨⟨true, 5, true⟩, 0x1, 0x0, 0x0, 0, 0, 0, 0, none⟩ : Instr),
    (.copy ⟨⟨true, 5, true⟩, 0x0, 0x0, 0x0, 0, 0, 0, 1, none⟩ : Instr),
    (.copy ⟨⟨true, 5, true⟩, 0x0, 0x0, 0x0, 0, 0, 0, 0, some ⟨4, 0x0, 0x0⟩⟩ : Instr),
    (.copy ⟨⟨true, 5, true⟩, 0x0, 0x0, 0x0, 0, 0, 0, 0, some ⟨0, 0x0, 0x1⟩⟩ : Instr),
    (.gather ⟨⟨true, 5, true⟩, 0x0, 0x0, 0x0, 0, 0, 0, 0, none⟩ : Instr),
    (.gather ⟨⟨true, 5, true⟩, 0x0, 0x0, 0x0, 0, 0, 0, 4, none⟩ : Instr),
    (.gather ⟨⟨true, 5, true⟩, 0x0, 0x0, 0x0, 0, 0, 0, 1, some ⟨1, 0x5, 0x0⟩⟩ : Instr),
    (.waitc ⟨⟨true, 5, true⟩, 0x0, 0x0, 0x0, 1, 0, 0, 0, none⟩ : Instr),
    (.waitc ⟨⟨true, 5, true⟩, 0x0, 0x0, 0x1, 0, 0, 0, 0, none⟩ : Instr),
    (.plinit ⟨⟨true, 5, true⟩, 0x0, 0x0, 0x0, 0, 0, 0, 1, none⟩ : Instr),
    (.plinit ⟨⟨true, 5, true⟩, 0x0, 0x0, 0x0, 0, 0, 0, 3, some ⟨0, 0x1, 0x0⟩⟩ : Instr),
    (.plinit ⟨⟨true, 5, true⟩, 0x0, 0x0, 0x0, 0, 0, 0, 1, some ⟨0, 0x1, 0x1000000⟩⟩ : Instr),
    (.plinit ⟨⟨true, 5, true⟩, 0x0, 0x0, 0x0, 0, 0, 0, 1, some ⟨1, 0x1, 0x0⟩⟩ : Instr),
    (.plfill ⟨⟨true, 5, true⟩, 0x0, 0x0, 0x0, 0, 0, 0, 3, none⟩ : Instr),
    (.plfill ⟨⟨true, 5, true⟩, 0x0, 0x0, 0x0, 0, 1, 0, 1, none⟩ : Instr),
    (.plfill ⟨⟨true, 5, true⟩, 0x0, 0x0, 0x1, 0, 0, 0, 1, none⟩ : Instr)] = true := by decide +kernel
theorem ill_formed_engines_2 : refused [
    (.plwait ⟨⟨true, 5, true⟩, 0x0, 0x0, 0x0, 0, 0, 0, 0, none⟩ : Instr),
    (.plwait ⟨⟨true, 5, true⟩, 0x0, 0x0, 0x0, 0, 0, 1, 1, none⟩ : Instr),
    (.plrel ⟨⟨true, 5, true⟩, 0x0, 0x0, 0x0, 0, 0, 0, 3, none⟩ : Instr),
    (.plrel ⟨⟨true, 5, true⟩, 0x1, 0x0, 0x0, 0, 0, 0, 1, none⟩ : Instr),
    (.arrive ⟨⟨true, 5, true⟩, 0x0, 0x0, 0x0, 0, 0, 0, 0, none⟩ : Instr),
    (.arrive ⟨⟨true, 5, true⟩, 0x1, 0x0, 0x0, 0, 0, 0, 1, none⟩ : Instr),
    (.binit ⟨⟨true, 5, true⟩, 0x0, 0x0, 0x0, 0, 0, 0, 4, none⟩ : Instr),
    (.bwait ⟨⟨true, 5, true⟩, 0x0, 0x0, 0x0, 1, 0, 0, 1, none⟩ : Instr),
    (.bwait ⟨⟨true, 5, true⟩, 0x0, 0x0, 0x0, 0, 0, 0, 1, some ⟨0, 0x0, 0x80000001⟩⟩ : Instr)] = true := by decide +kernel
theorem ill_formed_control_1 : refused [
    (.bra ⟨⟨true, 0, true⟩, 0x1, 0x0, 0x0, 0, none⟩ : Instr),
    (.bra ⟨⟨true, 0, true⟩, 0x0, 0x0, 0x0, 1, some ⟨0, 0x0, 0x1⟩⟩ : Instr),
    (.bra ⟨⟨true, 0, true⟩, 0x0, 0x0, 0x0, 0, some ⟨0, 0x1, 0x1⟩⟩ : Instr),
    (.brc ⟨⟨true, 0, true⟩, 0x0, 0x0, 0x6, 0, none⟩ : Instr),
    (.brc ⟨⟨true, 0, true⟩, 0x1, 0x0, 0x0, 0, none⟩ : Instr),
    (.brx ⟨⟨true, 0, true⟩, 0x0, 0x0, 0x0, 1, none⟩ : Instr),
    (.call ⟨⟨true, 0, true⟩, 0x0, 0x1, 0x0, 0, none⟩ : Instr),
    (.ret ⟨⟨true, 0, true⟩, 0x1, 0x0, 0x0, 0, none⟩ : Instr),
    (.join ⟨⟨true, 0, true⟩, 0x0, 0x0, 0x0, 1, none⟩ : Instr),
    (.barg ⟨⟨true, 0, true⟩, 0x0, 0x1, 0x0, 0, none⟩ : Instr),
    (.exit ⟨⟨true, 0, true⟩, 0x0, 0x0, 0x0, 0, some ⟨0, 0x0, 0x80000001⟩⟩ : Instr),
    (.split ⟨⟨true, 0, true⟩, 0x0, 0x0, 0x1, 0, none⟩ : Instr),
    (.split ⟨⟨true, 0, true⟩, 0x1, 0x0, 0x2, 0, none⟩ : Instr),
    (.split ⟨⟨true, 0, true⟩, 0x0, 0x0, 0x2, 0, some ⟨17, 0x4, 0x0⟩⟩ : Instr),
    (.split ⟨⟨true, 0, true⟩, 0x0, 0x0, 0x2, 0, some ⟨69632, 0x0, 0x0⟩⟩ : Instr),
    (.split ⟨⟨true, 0, true⟩, 0x0, 0x0, 0x2, 0, some ⟨32, 0x0, 0x0⟩⟩ : Instr)] = true := by decide +kernel
theorem ill_formed_control_2 : refused [
    (.split ⟨⟨true, 0, true⟩, 0x0, 0x0, 0x2, 0, some ⟨0, 0x1, 0x0⟩⟩ : Instr),
    (.split ⟨⟨true, 0, true⟩, 0x0, 0x0, 0x2, 0, some ⟨1, 0x600, 0x0⟩⟩ : Instr),
    (.split ⟨⟨true, 0, true⟩, 0x0, 0x0, 0x2, 0, some ⟨0, 0x0, 0x1⟩⟩ : Instr),
    (.split ⟨⟨true, 0, true⟩, 0x0, 0x0, 0x2, 0, some ⟨65537, 0x4, 0x0⟩⟩ : Instr),
    (.split ⟨⟨true, 0, true⟩, 0x0, 0x0, 0x2, 0, some ⟨12256, 0x0, 0x0⟩⟩ : Instr),
    (.split ⟨⟨true, 0, true⟩, 0x0, 0x0, 0x2, 0, some ⟨131072, 0x0, 0x0⟩⟩ : Instr),
    (.barb ⟨⟨true, 0, true⟩, 0x0, 0x0, 0x0, 1, none⟩ : Instr),
    (.barb ⟨⟨true, 0, true⟩, 0x0, 0x0, 0x1, 0, some ⟨0, 0x0, 0x80000001⟩⟩ : Instr),
    (.bard ⟨⟨true, 0, true⟩, 0x0, 0x0, 0x1, 0, none⟩ : Instr),
    (.yield ⟨⟨true, 0, true⟩, 0x1, 0x0, 0x0, 0, none⟩ : Instr),
    (.launch ⟨⟨true, 0, true⟩, 0x0, 0x0, 0x0, 1, none⟩ : Instr),
    (.waitv ⟨⟨true, 0, true⟩, 0x0, 0x0, 0x0, 1, none⟩ : Instr),
    (.waitv ⟨⟨true, 0, true⟩, 0x0, 0x0, 0x0, 384, none⟩ : Instr),
    (.waitv ⟨⟨true, 0, true⟩, 0x0, 0x0, 0x0, 0, some ⟨0, 0x1, 0x0⟩⟩ : Instr),
    (.spawn ⟨⟨true, 0, true⟩, 0x0, 0x0, 0x781, 0, none⟩ : Instr),
    (.spawn ⟨⟨true, 0, true⟩, 0x0, 0x0, 0x791, 0, none⟩ : Instr)] = true := by decide +kernel
theorem ill_formed_control_3 : refused [
    (.spawn ⟨⟨true, 0, true⟩, 0x1, 0x0, 0x782, 0, none⟩ : Instr),
    (.rega ⟨⟨true, 0, true⟩, 0x1, 0x0, 0x0, 0, none⟩ : Instr),
    (.regr ⟨⟨true, 0, true⟩, 0x0, 0x1, 0x0, 0, some ⟨0, 0x0, 0x80000001⟩⟩ : Instr),
    (.bra { ft 0 0 0 2 none with hd := hd1 } : Instr)] = true := by decide +kernel
theorem ill_formed_system_1 : refused [
    (.getsr ⟨⟨true, 0, true⟩, 0x0, 0x0, 0x0, 5, 0, none⟩ : Instr),
    (.getsr ⟨⟨true, 0, true⟩, 0x0, 0x1, 0x0, 0, 0, none⟩ : Instr),
    (.setsr ⟨⟨true, 0, true⟩, 0x0, 0x0, 0x0, 3, 0, none⟩ : Instr),
    (.setsr ⟨⟨true, 0, true⟩, 0x0, 0x0, 0x0, 37, 0, some ⟨0, 0x0, 0x80000001⟩⟩ : Instr),
    (.setsr ⟨⟨true, 0, true⟩, 0x1, 0x0, 0x0, 24, 0, none⟩ : Instr),
    (.setsr ⟨⟨true, 0, true⟩, 0x0, 0x1, 0x0, 24, 0, some ⟨0, 0x0, 0x80000001⟩⟩ : Instr),
    (.trap ⟨⟨true, 5, true⟩, 0x1, 0x0, 0x0, 0, 0, none⟩ : Instr),
    (.trap ⟨⟨true, 5, true⟩, 0x0, 0x0, 0x0, 1, 0, none⟩ : Instr),
    (.brk ⟨⟨true, 5, true⟩, 0x0, 0x0, 0x0, 0, 1, none⟩ : Instr),
    (.rte ⟨⟨true, 0, true⟩, 0x0, 0x1, 0x0, 0, 0, none⟩ : Instr),
    (.lanerd ⟨⟨true, 0, true⟩, 0x0, 0x0, 0x0, 0, 2, none⟩ : Instr),
    (.lanewr ⟨⟨true, 0, true⟩, 0x0, 0x0, 0x0, 1, 0, none⟩ : Instr),
    (.capq ⟨⟨true, 5, true⟩, 0x0, 0x0, 0x1, 0, 0, none⟩ : Instr),
    (.capq ⟨⟨true, 5, true⟩, 0x0, 0x0, 0x0, 0, 1, none⟩ : Instr),
    (.trace ⟨⟨true, 5, true⟩, 0x1, 0x0, 0x0, 0, 0, none⟩ : Instr),
    (.trace ⟨⟨true, 5, true⟩, 0x0, 0x0, 0x1, 0, 0, some ⟨0, 0x0, 0x80000001⟩⟩ : Instr)] = true := by decide +kernel
theorem ill_formed_system_2 : refused [
    (.capqPart ⟨⟨true, 5, true⟩, 0x0, 0x0, 0x0, 0, 0, none⟩ : Instr),
    (.migrCaps ⟨⟨true, 5, true⟩, 0x0, 0x0, 0x0, 0, 1, none⟩ : Instr),
    (.migrReq ⟨⟨true, 5, true⟩, 0x0, 0x0, 0x0, 0, 0, none⟩ : Instr),
    (.migrPin ⟨⟨true, 5, true⟩, 0x0, 0x1, 0x0, 0, 2, none⟩ : Instr),
    (.migrUnpin ⟨⟨true, 5, true⟩, 0x0, 0x1, 0x0, 0, 3, none⟩ : Instr),
    (.getsr { fs 0 0 0 0x001 0 none with hd := hd1 } : Instr)] = true := by decide +kernel
theorem ill_formed_pairs_1 : refused [
    (.pair ⟨false, ⟨49, 1, 2, 0⟩, ⟨0, 0, 0, 0⟩⟩ : Instr),
    (.pair ⟨false, ⟨0, 1, 0, 0⟩, ⟨0, 0, 0, 0⟩⟩ : Instr),
    (.pair ⟨false, ⟨0, 0, 1, 0⟩, ⟨0, 0, 0, 0⟩⟩ : Instr),
    (.pair ⟨false, ⟨0, 0, 0, 1⟩, ⟨0, 0, 0, 0⟩⟩ : Instr),
    (.pair ⟨false, ⟨3, 1, 2, 1⟩, ⟨0, 0, 0, 0⟩⟩ : Instr),
    (.pair ⟨false, ⟨4, 1, 2, 1⟩, ⟨0, 0, 0, 0⟩⟩ : Instr),
    (.pair ⟨false, ⟨2, 1, 2, 1⟩, ⟨0, 0, 0, 0⟩⟩ : Instr),
    (.pair ⟨false, ⟨21, 1, 0, 32⟩, ⟨0, 0, 0, 0⟩⟩ : Instr),
    (.pair ⟨false, ⟨25, 1, 1, 3⟩, ⟨0, 0, 0, 0⟩⟩ : Instr),
    (.pair ⟨false, ⟨36, 1, 0, 64⟩, ⟨0, 0, 0, 0⟩⟩ : Instr),
    (.pair ⟨false, ⟨46, 1, 1, 0⟩, ⟨0, 0, 0, 0⟩⟩ : Instr),
    (.pair ⟨false, ⟨0, 0, 0, 0⟩, ⟨49, 1, 2, 0⟩⟩ : Instr),
    (.regionHead ⟨false, 65, 0⟩ : Instr),
    (.regionHead ⟨false, 0, 9⟩ : Instr),
    (.regionHeadYield ⟨false, 65, 0⟩ : Instr)] = true := by decide +kernel

/-! Results that the spec gives, or that follow from its tables by hand -/

/-- Table 4.2: each half wraps alone. -/
theorem step_iadd : vecAfter 0x40002008018800 0x0 1 0 (fun a => ((a).vset 2 (fun _ => some 0x7FFFFFFF)).vset 3 (fun _ => some 0x10001)) = some 0x80000000 := by decide +kernel
/-- Table 4.2: floor of −6 / 2^32. -/
theorem step_imulh_signed : vecAfter 0x70002008018000 0x0 1 0 (fun a => ((a).vset 2 (fun _ => some 0xFFFFFFFE)).vset 3 (fun _ => some 0x3)) = some 0xFFFFFFFF := by decide +kernel
/-- Table 4.2: (2^32 − 2) · 3 / 2^32. -/
theorem step_imulh_unsigned : vecAfter 0x70002008018400 0x0 1 0 (fun a => ((a).vset 2 (fun _ => some 0xFFFFFFFE)).vset 3 (fun _ => some 0x3)) = some 2 := by decide +kernel
/-- Table 4.2: the old destination is added. -/
theorem step_imad : vecAfter 0x80002008018000 0x0 1 0 (fun a => (((a).vset 1 (fun _ => some 0x5)).vset 2 (fun _ => some 0x6)).vset 3 (fun _ => some 0x7)) = some 47 := by decide +kernel
/-- R87: IADDS.i8x4 with −3 in each byte, clamped. -/
theorem step_iadds : vecAfter 0x200002008005000 0x80000000FDFDFDFD 1 0 (fun a => (a).vset 2 (fun _ => some 0x7F820300)) = some 0x7C8000FD := by decide +kernel
/-- R87: the most negative number stays. -/
theorem step_iabs : vecAfter 0xB0002008000000 0x0 1 0 (fun a => (a).vset 2 (fun _ => some 0x80000000)) = some 0x80000000 := by decide +kernel
/-- Table 4.3: only the sign bit is kept. -/
theorem step_andn : vecAfter 0x100002008004000 0x800000007FFFFFFF 1 0 (fun a => (a).vset 2 (fun _ => some 0xBF800000)) = some 0x80000000 := by decide +kernel
/-- R89: a count of the width or more gives 0. -/
theorem step_shl_out : vecAfter 0x120002008018000 0x0 1 0 (fun a => ((a).vset 2 (fun _ => some 0x1)).vset 3 (fun _ => some 0x20)) = some 0 := by decide +kernel
/-- R89: under .wrap the count is taken modulo the width. -/
theorem step_shl_wrap : vecAfter 0x120002008018001 0x0 1 0 (fun a => ((a).vset 2 (fun _ => some 0x1)).vset 3 (fun _ => some 0x21)) = some 2 := by decide +kernel
/-- R89: the sign fills. -/
theorem step_sar : vecAfter 0x140002008018000 0x0 1 0 (fun a => ((a).vset 2 (fun _ => some 0x80000000)).vset 3 (fun _ => some 0x63)) = some 0xFFFFFFFF := by decide +kernel
/-- R89. -/
theorem step_rotl : vecAfter 0x150002008018000 0x0 1 0 (fun a => ((a).vset 2 (fun _ => some 0x12345678)).vset 3 (fun _ => some 0x24)) = some 0x23456781 := by decide +kernel
/-- R90: 5 bits from bit 8, signed. -/
theorem step_bfx : vecAfter 0x160002008004000 0x8000000000000508 1 0 (fun a => (a).vset 2 (fun _ => some 0x1000)) = some 0xFFFFFFF0 := by decide +kernel
/-- R90: 4 bits at bit 28; the length is cut at the top. -/
theorem step_bfi : vecAfter 0x170002008004400 0x8000000000003F1C 1 0 (fun a => ((a).vset 1 (fun _ => some 0xFFFFFFFF)).vset 2 (fun _ => some 0x15)) = some 0x5FFFFFFF := by decide +kernel
/-- R91. -/
theorem step_clz : vecAfter 0x190002008000000 0x0 1 0 (fun a => (a).vset 2 (fun _ => some 0x0)) = some 32 := by decide +kernel
/-- R91. -/
theorem step_brev : vecAfter 0x1A0002008000000 0x0 1 0 (fun a => (a).vset 2 (fun _ => some 0x80000001)) = some 0x80000001 := by decide +kernel
/-- 1 + 2 = 3. -/
theorem step_fadd : vecAfter 0x400002008019800 0x0 1 0 (fun a => ((a).vset 2 (fun _ => some 0x3F800000)).vset 3 (fun _ => some 0x40000000)) = some 0x40400000 := by decide +kernel
/-- R65: one rounding: (1 + 2^−23)² − (1 + 2^−22) = 2^−46. -/
theorem step_ffma : vecAfter 0x430002008019800 0x0 1 0 (fun a => (((a).vset 1 (fun _ => some 0xBF800002)).vset 2 (fun _ => some 0x3F800001)).vset 3 (fun _ => some 0x3F800001)) = some 0x28800000 := by decide +kernel
/-- R69: 2.5 rounds to the even integer. -/
theorem step_cvt : vecAfter 0x800002008000180 0x0 1 0 (fun a => (a).vset 2 (fun _ => some 0x40200000)) = some 2 := by decide +kernel
/-- The worked example of BSCALE: 3.0 gives b = 120. -/
theorem step_bscale : vecAfter 0x820016028002D80 0x0 11 0 (fun a => (a).vset 10 (fun _ => some 0x40400000)) = some 120 := by decide +kernel
/-- SHFL up or down keeps to its group; BCAST gives lane 5 to every lane. -/
theorem step_shfl : vecAfter 0x84000200BC28000 0x0 1 31 (fun a => a.vset 2 (fun l => if l = 5 then some 7 else none)) = some 7 := by decide +kernel
/-- R47: a word whose operands are all scalar executes once. -/
theorem step_once : scalAfter 0x40E03C0B818000 0x0 1 (fun a => ((a).sset 2 0x5).sset 3 0x7) = some 12 := by decide +kernel
/-- R230: CALL writes its return address. -/
theorem step_call : scalAfter 0x1830E0C000000002 0x0 6 (fun a => a) = some 8 := by decide +kernel
/-- R276: the answer on a Chevoeno 8 to `CAPQ s10, #5`. -/
theorem step_capq : scalAfter 0x1C70E15E14000000 0x0 10 (fun a => a) = some 0xFFFFFF01 := by decide +kernel
/-- R35: pc + 8 · 2. -/
theorem step_bra : (stepped 0x1800000000000002 0x0 (fun t => t)).map (fun t => t.arch.pc == BitVec.ofNat 64 (loadVa + 16)) = some true := by decide +kernel
/-- R228: a target that holds an extension word is no target. -/
theorem step_bra_bad : (stepped 0x1800000000004000 0x8000000000000001 (fun t => arch (fun a => { a with tvec := 64 }) t)).map (fun t => t.arch.pc == 64 && t.arch.bank.ecause == 4) = some true := by decide +kernel
/-- √4 = 2 in both halves, on its way (R28). -/
theorem step_fsqrt : (stepped 0x4A0002008001C00 0x0 (fun t => arch (fun a => (a).vset 2 (fun _ => some 0x44004400)) t)).map (fun t => t.pend.map (fun p => p.vals.head?.map (fun v => v.2.2)) == [some 0x40004000]) = some true := by decide +kernel
/-- R360, R352: TRAP #5 goes to %tvec with its code. -/
theorem step_trap : (stepped 0x1C20001E14000000 0x0 (fun t => arch (fun a => { a with tvec := 64 }) t)).map (fun t => t.arch.pc == 64 && t.arch.inHandler && t.arch.bank.ecause == 0x48 && t.arch.bank.einfo == 5 && t.arch.bank.epc == BitVec.ofNat 64 (loadVa + 8) && t.arch.bank.eaddr == BitVec.ofNat 64 loadVa) = some true := by decide +kernel
/-- R361: back to %epc with the lanes of %elive. -/
theorem step_rte : (stepped 0x1C30000000000000 0x0 (fun t => handling t)).map (fun t => t.arch.pc == BitVec.ofNat 64 (loadVa + 8) && !t.arch.inHandler && t.arch.live == 3) = some true := by decide +kernel
/-- Table 4.21: masks. -/
theorem step_kand : (stepped 0x890006004010000 0x0 (fun t => arch (fun a => (a.kset 1 (fullMask 32) 6).kset 2 (fullMask 32) 3) t)).map (fun t => t.arch.kget 3 == 2) = some true := by decide +kernel
/-- R92: ICMP.i32 less writes a mask: −1 < 1 in every lane. -/
theorem step_icmp : (stepped 0x1B0006008018002 0x0 (fun t => arch (fun a => ((a).vset 2 (fun _ => some 0xFFFFFFFF)).vset 3 (fun _ => some 0x1)) t)).map (fun t => t.arch.kget 3 == fullMask 32) = some true := by decide +kernel
/-- R31: a lane whose mask bit is 0 keeps its register. -/
theorem step_predicate : (stepped 0x44002008018000 0x0 (fun t => arch (fun a => ((((a).vset 1 (fun _ => some 0x9)).vset 2 (fun _ => some 0x2)).vset 3 (fun _ => some 0x3)).kset 2 (fullMask 32) 1) t)).map (fun t => t.arch.vget 1 0 == 5 && t.arch.vget 1 1 == 9) = some true := by decide +kernel
/-- R49, R352: an undecodable word traps ILLEGAL_OP. -/
theorem step_reserved : (stepped 0x2000000000 0x0 (fun t => arch (fun a => { a with tvec := 64 }) t)).map (fun t => t.arch.pc == 64 && t.arch.bank.ecause == 1) = some true := by decide +kernel
/-- R143, R148: a store is held in its region and not performed. -/
theorem step_store : (stepped 0x1010003C20020400 0x0 (fun t => arch (fun a => (a.ssetPair 8 (loadVa + 4096)).vset 1 (fun _ => some 7)) t)).map (fun t => (t.regions.flatMap (fun r => r.held)).length == 1) = some true := by decide +kernel
/-- R152: the lanes of a load wait to be performed. -/
theorem step_load : (stepped 0x1000003C20020400 0x0 (fun t => arch (fun a => a.ssetPair 8 (loadVa + 4096)) t)).map (fun t => t.accs.map (fun a => a.lanes.length) == [32]) = some true := by decide +kernel

end Sys2Proof.Tests
end

section
/-! PROOF. What the hub, sensors, checkers, links and the watchdog bring (O46): one rule an event, and the conditions of the model read out. -/

namespace Sys2Proof.Proofs

open Sys2Proof Sys2Proof.Machine Sys2Proof.Claims

/-- An event that takes place under a condition c of the model, by words p and q for c and its negation. -/
theorem guarded_event {e : Instr} {s s1 : State} {p q c : Prop} [Decidable c] (hp : p → c) (hq : q → ¬ c)
    (h : exec e s = if c then happened s1 else .next s) : (p → Happens e s s1) ∧ (q → Idle e s) :=
  ⟨fun hc => h.trans (if_pos (hp hc)), fun hc => h.trans (if_neg (hq hc))⟩

/-- The same for an event that a condition c of the model stands in the way of. -/
theorem hindered_event {e : Instr} {s s1 : State} {p q c : Prop} [Decidable c] (hp : p → ¬ c) (hq : q → c)
    (h : exec e s = if c then .next s else happened s1) : (p → Happens e s s1) ∧ (q → Idle e s) :=
  ⟨fun hc => h.trans (if_neg (hp hc)), fun hc => h.trans (if_pos (hq hc))⟩

@[simp] theorem zonePresent_iff (s : State) (z : Nat) : s.zonePresent z = true ↔ z ∈ s.variant.zones := by
  simp [State.zonePresent]

/-- A tick takes place in every state (R22, R310, R334, R349). -/
theorem tick_advances (s : State) (a : TickArgs) : Happens (.tick a) s (s.advance a) := rfl

/-! ### Sensors, checked structures and checkers (R333, R134, R351) -/

theorem sensorDisturbance_event (s : State) (zone kind sensor stamp : Nat) :
    let due : Prop := zone ∈ s.variant.zones ∧ kind < 3 ∧ sensor < sensorCount zone kind ∧ stamp ≤ s.tick ∧ s.tick ≤ stamp + sensorLatency kind
    (due → Happens (.sensorDisturbance zone kind sensor stamp) s (s.raise { zone := zone, stamp := stamp, kind := kind, sensor := sensor })) ∧
    (¬ due → Idle (.sensorDisturbance zone kind sensor stamp) s) :=
  guarded_event (by simp [and_assoc]) (by simp [and_assoc]) rfl

theorem heldError_event (s : State) (z : Nat) :
    (z ∈ s.variant.zones → Happens (.storageCheckError (.held z)) s (s.raise { zone := z, stamp := s.tick, kind := 4, sensor := 0 })) ∧
    (z ∉ s.variant.zones → Idle (.storageCheckError (.held z)) s) :=
  guarded_event (zonePresent_iff s z).mpr (mt (zonePresent_iff s z).mp) rfl

theorem correctableEccError_counts {s : State} {z : Nat} (h : z ∈ s.variant.zones) :
    exec (.correctableEccError z) s =
      .next { s with ecc := s.ecc.filter (fun x => x.1 != z) ++ [(z, ((s.ecc.find? (fun x => x.1 == z)).map (·.2)).getD 0 + 1)] } := by
  change execCorrectableEccError z s = _
  simp [execCorrectableEccError, h]

theorem correctableEccError_idle {s : State} {z : Nat} (h : z ∉ s.variant.zones) : Idle (.correctableEccError z) s := by
  change execCorrectableEccError z s = _
  simp [execCorrectableEccError, h]

theorem cellError_marks {s : State} {pa : Nat} (h : s.physOk pa = true) :
    exec (.storageCheckError (.cell pa)) s = .next { s with badCells := insertNat s.badCells (lineOf pa) } := if_pos h

theorem cellError_idle {s : State} {pa : Nat} (h : s.physOk pa = false) : Idle (.storageCheckError (.cell pa)) s :=
  if_neg (by simp [h])

theorem checkable_iff (t : Team) (addr : DWord) (x y tick : Nat) :
    t.checkable addr x y tick = true ↔
      x ≠ y ∧ x < 63 ∧ ∃ r ∈ t.regions, ∃ c ∈ r.checks, c.pc = addr ∧ y ∈ c.sums ∧ ∀ n, c.doneT = some n → tick ≤ n + 32 := by
  simp only [Team.checkable, Bool.and_eq_true, bne_iff_ne, decide_eq_true_eq, List.any_eq_true, beq_iff_eq, List.contains_iff_mem, and_assoc]
  refine and_congr_right' (and_congr_right' (exists_congr fun r => and_congr_right' (exists_congr fun c =>
    and_congr_right' (and_congr_right' (and_congr_right' ?_)))))
  cases c.doneT with
  | none => simp
  | some n => simp only [decide_eq_true_eq, Option.some.injEq, forall_eq']; rfl

theorem checkEvent_event {s : State} {t : Team} (ht : s.team? t.uid = some t) (addr : DWord) (x y : Nat) :
    (t.checkable addr x y s.tick = true → Happens (.checkEvent t.uid addr x y) s
      (State.raise { s with log := s.log ++ [LogEnt.checkEvent t.loc.zone s.tick addr (((s.block? t.block).map (fun (b : Block) => b.idx)).getD 0) x y] }
        { zone := t.loc.zone, stamp := s.tick, kind := 3, sensor := 0 })) ∧
    (¬ t.checkable addr x y s.tick = true → Idle (.checkEvent t.uid addr x y) s) := by
  refine hindered_event (c := (!t.checkable addr x y s.tick) = true) (by simp) (by simp) ?_
  change execCheckEvent t.uid addr x y s = _
  simp only [execCheckEvent, ht]

/-! ### Notices and clear-throughs on their way (R334, R335, R347) -/

theorem noticeReceived_next {s : State} {die : Nat} {f : Flying} (h : s.nextNotice die f.n.zone = some f) :
    Happens (.noticeReceived die f.n) s (s.deliverNotice die f) := by
  change execNoticeReceived die f.n s = _
  simp [execNoticeReceived, h, happened]

theorem noticeReceived_idle {s : State} {die : Nat} {n : Notice} (h : ∀ f, s.nextNotice die n.zone = some f → f.n ≠ n) :
    Idle (.noticeReceived die n) s := by
  change execNoticeReceived die n s = _
  unfold execNoticeReceived
  cases hf : s.nextNotice die n.zone with
  | none => rfl
  | some f => exact if_neg (h f hf)

theorem nextNotice_open {s : State} {die z : Nat} (h : (z, die) ∉ s.stalled) :
    s.nextNotice die z = s.flying.find? (fun f => f.n.zone == z && f.dies.contains die) := by
  simp [State.nextNotice, h]

theorem nextNotice_stalled {s : State} {die z : Nat} (h : (z, die) ∈ s.stalled) : s.nextNotice die z = none := by
  simp [State.nextNotice, h]

/-- What a die receives next flies to it. -/
theorem nextNotice_flies {s : State} {die z : Nat} {f : Flying} (h : s.nextNotice die z = some f) : f ∈ s.flying ∧ die ∈ f.dies := by
  by_cases hst : (z, die) ∈ s.stalled
  · simp [nextNotice_stalled hst] at h
  · rw [nextNotice_open hst] at h
    have hf := List.find?_some h
    simp only [Bool.and_eq_true, List.contains_iff_mem] at hf
    exact ⟨List.mem_of_find?_eq_some h, hf.2⟩

theorem mayClear_iff (s : State) (die z c : Nat) :
    s.mayClear die z c = true ↔ s.chipOk die = true ∧ z ∈ s.variant.zones ∧ c < s.tick ∧ s.recv die z < c ∧ (z, die) ∉ s.stalled ∧
      (∀ f ∈ s.flying, ¬ (f.n.zone = z ∧ f.sent ≤ c ∧ die ∈ f.dies)) ∧ s.clearCap die z c = c := by
  simp [State.mayClear, and_assoc]

theorem clearThroughReceived_event (s : State) (die z c : Nat) :
    (s.mayClear die z c = true → Happens (.clearThroughReceived die z c) s (s.setRecv die z c)) ∧
    (¬ s.mayClear die z c = true → Idle (.clearThroughReceived die z c) s) :=
  guarded_event id id rfl

/-! ### Time-outs (R347) -/

theorem overdue_iff (s : State) (die z l : Nat) :
    s.overdue die z l = true ↔ ownDie z ≠ some die ∧ s.recv die z < l + 64 ∧ l + 16384 ≤ (s.die die).tick := by
  simp only [State.overdue, Bool.and_eq_true, bne_iff_ne, decide_eq_true_eq, and_assoc]
  rfl

/-- The log names the link by which the clearance of a zone should have come to a die. -/
def clearanceLogged (s : State) (z die : Nat) : State := { s with log := s.log ++ [LogEnt.linkClearance z die (s.arrivalPort z die)] }

section
variable {s : State} {t : Team} {g z : Nat}

/-- A region that holds a tag of the zone waits for that tag's clearance. -/
theorem regionTimeout_tagged (ht : s.team? t.uid = some t) {f l : Nat}
    (htag : (t.regions.find? (fun x => x.id == g)).bind (fun r => r.imports.of z) = some (f, l)) :
    (s.overdue t.loc.chip z l = true → Happens (.clearanceTimeout (.region t.uid g z)) s ((clearanceLogged s z t.loc.chip).strike t.uid g z f 7)) ∧
    (s.overdue t.loc.chip z l = false → Idle (.clearanceTimeout (.region t.uid g z)) s) := by
  refine hindered_event (c := (!s.overdue t.loc.chip z l) = true) (by simp) (by simp) ?_
  change execClearanceTimeout (.region t.uid g z) s = _
  simp only [execClearanceTimeout, ht, htag, clearanceLogged]

/-- A region without a tag of the zone waits for the data it lost, if it lost any. -/
theorem regionTimeout_lost (ht : s.team? t.uid = some t)
    (htag : (t.regions.find? (fun x => x.id == g)).bind (fun r => r.imports.of z) = none) {n : Nat} (hn : t.lostFrom g z = some n) :
    (n + 16384 ≤ (s.die t.loc.chip).tick →
      Happens (.clearanceTimeout (.region t.uid g z)) s ((clearanceLogged s z t.loc.chip).strike t.uid g z n 7)) ∧
    ((s.die t.loc.chip).tick < n + 16384 → Idle (.clearanceTimeout (.region t.uid g z)) s) := by
  refine hindered_event (c := (s.die t.loc.chip).tick < n + tClr) (by simp [tClr]) (by simp [tClr]) ?_
  change execClearanceTimeout (.region t.uid g z) s = _
  simp only [execClearanceTimeout, ht, htag, hn, clearanceLogged]

theorem regionTimeout_idle (ht : s.team? t.uid = some t)
    (htag : (t.regions.find? (fun x => x.id == g)).bind (fun r => r.imports.of z) = none) (hn : t.lostFrom g z = none) :
    Idle (.clearanceTimeout (.region t.uid g z)) s := by
  change execClearanceTimeout (.region t.uid g z) s = _
  simp only [execClearanceTimeout, ht, htag, hn]

end

theorem atomicTimeout_overdue {s : State} {t : Team} {x : PendAtom} {z : Nat} (hx : s.atoms.find? (fun y => y.id == x.id) = some x)
    (ht : s.team? x.team = some t) (hz : x.target.find? (fun z => s.overdue t.loc.chip z x.t) = some z) :
    Happens (.clearanceTimeout (.atomic x.id)) s ((clearanceLogged s z t.loc.chip).strike x.team x.region z x.t 7) := by
  change execClearanceTimeout (.atomic x.id) s = _
  simp only [execClearanceTimeout, hx, ht, hz, clearanceLogged, happened]

theorem atomicTimeout_idle {s : State} {t : Team} {x : PendAtom} (hx : s.atoms.find? (fun y => y.id == x.id) = some x)
    (ht : s.team? x.team = some t) (hz : x.target.find? (fun z => s.overdue t.loc.chip z x.t) = none) :
    Idle (.clearanceTimeout (.atomic x.id)) s := by
  change execClearanceTimeout (.atomic x.id) s = _
  simp only [execClearanceTimeout, hx, ht, hz]

theorem chunkTimeout_event {s : State} {o : EngOp} {c : Chunk} {z f l : Nat} (ho : s.op? o.id = some o)
    (hc : o.staged.find? (fun x => x.num == c.num) = some c) (hl : c.tags.of z = some (f, l)) :
    (s.overdue o.die z l = true →
      Happens (.clearanceTimeout (.chunk o.id c.num z)) s ((clearanceLogged s z o.die).strikeChunk o.id c.num z)) ∧
    (s.overdue o.die z l = false → Idle (.clearanceTimeout (.chunk o.id c.num z)) s) := by
  refine hindered_event (c := (!s.overdue o.die z l) = true) (by simp) (by simp) ?_
  change execClearanceTimeout (.chunk o.id c.num z) s = _
  simp only [execClearanceTimeout, ho, hc, hl, Option.bind_some, Option.map_some, clearanceLogged]

/-! ### The watchdog of the tick (R349) -/

theorem tickCheck_agrees {s : State} {die : Nat} (hd : s.chipOk die = true) (ht : (s.die die).tick = s.tick) (hs : s.tick % 1024 = 0) :
    exec (.tickCheck die) s = .next (s.updDie die (fun d => { d with agreed := s.tick })) := by
  change execTickCheck die s = _
  simp [execTickCheck, hd, ht, hs]

theorem tickCheck_differs {s : State} {die : Nat} (hd : s.chipOk die = true) (ht : (s.die die).tick ≠ s.tick) :
    let s1 := (List.range 5).foldl (fun (s' : State) k => s'.raise { zone := 5 * die + k, stamp := (s.die die).agreed, kind := 2, sensor := 0 }) s
    Happens (.tickCheck die) s (s1.updDie die (fun d => { d with tick := s1.tick, agreed := s1.tick })) := by
  change execTickCheck die s = _
  simp only [execTickCheck, hd, ht, happened, Bool.not_true, Bool.false_or, Bool.and_eq_true, beq_iff_eq, and_false, if_false]

theorem tickCheck_idle {s : State} {die : Nat} (h : s.chipOk die = false ∨ ((s.die die).tick = s.tick ∧ s.tick % 1024 ≠ 0)) :
    Idle (.tickCheck die) s := by
  change execTickCheck die s = _
  exact if_pos (by rcases h with h | h <;> simp [h])

/-! ### Failed units and links (R350, R304) -/

theorem stackFailed_event (s : State) (k : Nat) :
    (k < s.variant.stackCount ∧ (s.stack k).failed = false → Happens (.dieFailed (.stack k)) s
      ((({ s with log := s.log ++ [LogEnt.dieFailed (.stack k)] } : State).updStack k (fun x => { x with failed := true })).strikeZone (stackZone k))) ∧
    (s.variant.stackCount ≤ k ∨ (s.stack k).failed = true → Idle (.dieFailed (.stack k)) s) :=
  hindered_event (c := (!(decide (k < s.variant.stackCount) && !(s.stack k).failed)) = true) (by simp) (by simp) rfl

theorem chipFailed_event (s : State) (k : Nat) :
    let s1 : State := { s with log := s.log ++ [LogEnt.dieFailed (.die k)] }
    let s2 := (s1.gridsOn k).foldl (fun (s : State) g => s.abortGrid g 0 .clearanceTimeout) s1
    (s.chipOk k = true → Happens (.dieFailed (.die k)) s
      (((List.range 5).map (5 * k + ·)).foldl (fun s z => s.strikeZone z) (s2.updDie k (fun d => { d with failed := true })))) ∧
    (s.chipOk k = false → Idle (.dieFailed (.die k)) s) :=
  hindered_event (c := (!s.chipOk k) = true) (by simp) (by simp) rfl

/-- The failures in a row that a flit error counts on a link. -/
def failuresInRow (s : State) (link : Link) (again : Bool) : Nat :=
  (if again then ((s.flits.find? (fun x => x.1 == link)).map (·.2)).getD 0 else 0) + 1

section
variable {s : State} {link : Link} {again : Bool}

theorem linkFlitError_counts (hl : s.linkThere link = true) (hn : failuresInRow s link again < 17) :
    exec (.linkFlitError link again) s =
      .next { s with flits := s.flits.filter (fun x => x.1 != link) ++ [(link, failuresInRow s link again)] } := by
  change execLinkFlitError link again s = _
  exact (if_neg (by simp [hl])).trans (if_pos hn)

theorem linkFlitError_down (hl : s.linkThere link = true) (hn : 17 ≤ failuresInRow s link again) :
    Happens (.linkFlitError link again) s (({ s with flits := s.flits.filter (fun x => x.1 != link) } : State).linkDown link) := by
  change execLinkFlitError link again s = _
  exact (if_neg (by simp [hl])).trans (if_neg (Nat.not_lt.mpr hn))

theorem linkFlitError_idle (hl : s.linkThere link = false) : Idle (.linkFlitError link again) s := by
  change execLinkFlitError link again s = _
  exact if_pos (by simp [hl])

end

/-! ### The statement -/

/-- Settles O46: every clause is the rule of its event, its condition read out of the model's own. -/
theorem sensorAndNoticeEvents : Obligations.SensorAndNoticeEvents := by
  unfold Obligations.SensorAndNoticeEvents
  refine ⟨fun s a => tick_advances s a, sensorDisturbance_event, fun s => ?storage, fun s t addr x y ht => ?check, fun s die n => ?notice,
    fun s die z c => ?clear, fun s t g z ht => ?waits, fun _ _ _ _ _ _ ho hc hl => chunkTimeout_event ho hc hl, overdue_iff,
    fun _ _ => ⟨tickCheck_agrees, tickCheck_differs, tickCheck_idle⟩, fun s k => ?failed,
    fun _ _ _ => ⟨linkFlitError_counts, linkFlitError_down, linkFlitError_idle⟩⟩
  case storage =>
    exact ⟨fun z hz => ⟨(heldError_event s z).1 hz, correctableEccError_counts hz⟩,
      fun z hz => ⟨(heldError_event s z).2 hz, correctableEccError_idle hz⟩,
      fun _ => cellError_marks, fun _ => cellError_idle, fun _ _ => ⟨rfl, rfl⟩⟩
  case check =>
    rw [← checkable_iff]
    exact checkEvent_event ht addr x y
  case notice =>
    refine ⟨fun f hst hf hn => ?_, fun hst => ?_, fun hno => ?_⟩
    · subst hn
      exact noticeReceived_next ((nextNotice_open hst).trans hf)
    · exact noticeReceived_idle (by simp [nextNotice_stalled hst])
    · refine noticeReceived_idle fun f hf hn => ?_
      obtain ⟨hmem, hdie⟩ := nextNotice_flies hf
      exact hno f hmem ⟨hn, hdie⟩
  case clear =>
    rw [← mayClear_iff]
    exact clearThroughReceived_event s die z c
  case waits =>
    refine ⟨fun f l htag => ?_, fun n htag hn => ?_, regionTimeout_idle ht, fun x hx hxt => ⟨fun hz => ?_, fun hz => ?_⟩⟩
    · exact regionTimeout_tagged ht htag
    · exact regionTimeout_lost ht htag hn
    · rw [← hxt]
      exact atomicTimeout_overdue hx (hxt ▸ ht) hz
    · exact atomicTimeout_idle hx (hxt ▸ ht) (List.find?_eq_none.mpr fun y hy => by simp [hz y hy])
  case failed =>
    obtain ⟨stackFails, stackIdle⟩ := stackFailed_event s k
    exact ⟨fun hk hf => stackFails ⟨hk, hf⟩, stackIdle, chipFailed_event s k⟩

end Sys2Proof.Proofs
end

section
/-! PROOF. The package right after reset (O56). -/

namespace Sys2Proof.Proofs

open Sys2Proof Sys2Proof.Machine

@[simp] theorem memoryGet_nil (a : Nat) : Memory.get [] a = Memory.fill := rfl

/-- While no register has been written, each reads what Table 16.8 gives for reset. -/
theorem reg_of_unwritten {s : State} (h : s.bar = []) (f off : Nat) : s.reg f off = barReset (0x10000 * f + off) := by
  simp [State.reg, h]

/-- An offset within the first page of keys names a register of function 0. -/
theorem regKey_eq_iff {f off n : Nat} (hn : n < 0x10000) : 0x10000 * f + off = n ↔ f = 0 ∧ off = n := by omega

/-- The reset values other than 0 are those of three registers of function 0. -/
theorem barReset_key (f off : Nat) : barReset (0x10000 * f + off) =
    if f = 0 ∧ off = 0x6000 then 0x04B004B0 else if f = 0 ∧ off = 0x6018 then 0x03E804B0 else if f = 0 ∧ off = 0x601C then 2 else 0 := by
  simp [barReset, regKey_eq_iff]

/-- Settles O56: nothing is placed, in flight or written, so that each address and register reads its reset value. -/
theorem resetState : Obligations.ResetState := by
  unfold Obligations.ResetState
  obtain ⟨hmem, hhost⟩ := Laws.reset_wf
  exact ⟨rfl, rfl, rfl, rfl, rfl, rfl, rfl, rfl, rfl, rfl, rfl, rfl, rfl, rfl, hmem, hhost,
    fun a => ⟨memoryGet_nil a, memoryGet_nil a⟩, fun f off => (reg_of_unwritten rfl f off).trans (barReset_key f off)⟩

end Sys2Proof.Proofs
end

section
/-! PROOF. The number that every code of every format is (O49), and the magnitudes of codes in the order of the codes. -/

namespace Sys2Proof.Proofs

open Sys2Proof Sys2Proof.Machine Sys2Proof.Claims

/-! ### Signs -/

@[simp] theorem signed_false (x : Rat) : signed false x = x := rfl

@[simp] theorem signed_true (x : Rat) : signed true x = -x := rfl

@[simp] theorem signed_zero (neg : Bool) : signed neg 0 = 0 := by cases neg <;> simp

theorem signed_signed (neg : Bool) (x : Rat) : signed neg (signed neg x) = x := by
  cases neg <;> simp

theorem signed_injective (neg : Bool) : Function.Injective (signed neg) :=
  Function.LeftInverse.injective (signed_signed neg)

theorem signed_sub (neg : Bool) (x y : Rat) : signed neg (x - y) = signed neg x - signed neg y := by
  cases neg <;> simp [sub_eq_add_neg, add_comm]

theorem abs_signed (neg : Bool) (x : Rat) : |signed neg x| = |x| := by
  cases neg <;> simp

/-- The absolute value of core Lean's rationals, which the statements use, is Mathlib's. -/
theorem ratAbs_eq (x : Rat) : x.abs = |x| := by
  rcases le_total 0 x with h | h
  · rw [Rat.abs_of_nonneg h, abs_of_nonneg h]
  · rw [Rat.abs_of_nonpos h, abs_of_nonpos h]

theorem ratOf_fin (neg : Bool) (m : Nat) (e : Int) : ratOf (.fin neg m e) = some (signed neg (m * 2 ^ e)) := by
  cases neg <;> simp [ratOf]

/-! ### Magnitudes -/

/-- The exponent of a format's least subnormal number. -/
def leastExp (f : Fmt) : Int := 1 - (f.bias : Int) - f.mbits

/-- The magnitude of a code with a clear sign bit, in a format with an exponent field (R58). The binades go on above the greatest finite
code, as rounding with an unbounded exponent range needs (R67). -/
def codeMag (f : Fmt) (c : Nat) : Rat :=
  if c / 2 ^ f.mbits = 0 then (c % 2 ^ f.mbits : Nat) * 2 ^ leastExp f
  else (2 ^ f.mbits + c % 2 ^ f.mbits : Nat) * 2 ^ (leastExp f + (c / 2 ^ f.mbits - 1 : Nat))

/-- A code is a significand k on top of j binades; k may reach the next binade's first number. -/
theorem codeMag_pack {f : Fmt} {k j : Nat} (hk : k ≤ 2 ^ (f.mbits + 1)) (hj : j = 0 ∨ 2 ^ f.mbits ≤ k) :
    codeMag f (k + j * 2 ^ f.mbits) = k * 2 ^ (leastExp f + j) := by
  have hpos : 0 < 2 ^ f.mbits := by positivity
  rw [pow_succ] at hk
  simp only [codeMag, Nat.add_mul_div_right k j hpos, Nat.add_mul_mod_self_right]
  rcases lt_or_ge k (2 ^ f.mbits) with hlow | hhigh
  case inl =>
    obtain rfl : j = 0 := hj.resolve_right hlow.not_ge
    simp [Nat.div_eq_of_lt hlow, Nat.mod_eq_of_lt hlow]
  rcases lt_or_eq_of_le hk with hin | rfl
  · have hdiv : k / 2 ^ f.mbits = 1 := Nat.div_eq_of_lt_le (by omega) (by omega)
    have hmod : 2 ^ f.mbits + k % 2 ^ f.mbits = k := by
      rw [Nat.mod_eq_sub_mul_div, hdiv]
      omega
    simp [hdiv, hmod]
  · have hexp : leastExp f + ((2 + j - 1 : Nat) : Int) = leastExp f + j + 1 := by omega
    simp only [Nat.mul_div_cancel_left 2 hpos, Nat.mul_mod_right, hexp, zpow_add_one₀ (two_ne_zero (α := Rat))]
    simp
    ring

/-- Every number is a significand and binades as `codeMag_pack` takes them. -/
theorem exists_pack (f : Fmt) (c : Nat) :
    ∃ k j, c = k + j * 2 ^ f.mbits ∧ k < 2 ^ (f.mbits + 1) ∧ (j = 0 ∨ 2 ^ f.mbits ≤ k) := by
  have hpos : 0 < 2 ^ f.mbits := by positivity
  have hmod := Nat.mod_lt c hpos
  have hdiv := Nat.div_add_mod' c (2 ^ f.mbits)
  rw [pow_succ]
  obtain hsub | ⟨j, hj⟩ : c / 2 ^ f.mbits = 0 ∨ ∃ j, c / 2 ^ f.mbits = j + 1 := by
    cases c / 2 ^ f.mbits <;> simp
  · exact ⟨c, 0, by simp, by rw [hsub] at hdiv; omega, .inl rfl⟩
  · rw [hj, Nat.succ_mul] at hdiv
    exact ⟨2 ^ f.mbits + c % 2 ^ f.mbits, j, by omega, by omega, .inr (by omega)⟩

/-- Magnitudes are ordered as their codes are. -/
theorem codeMag_strictMono (f : Fmt) : StrictMono (codeMag f) := by
  refine strictMono_nat_of_lt_succ fun c => ?_
  obtain ⟨k, j, rfl, hk, hj⟩ := exists_pack f c
  rw [codeMag_pack hk.le hj, Nat.add_right_comm, codeMag_pack hk (hj.imp_right Nat.le_succ_of_le)]
  have : (0 : Rat) < 2 ^ (leastExp f + j) := by positivity
  gcongr
  simp

@[simp] theorem codeMag_zero (f : Fmt) : codeMag f 0 = 0 := by simp [codeMag]

theorem codeMag_nonneg (f : Fmt) (c : Nat) : 0 ≤ codeMag f c :=
  codeMag_zero f ▸ (codeMag_strictMono f).monotone (Nat.zero_le c)

/-- R58 in the rule's own terms: subnormal below the first binade, and an implied leading one elsewhere. -/
theorem codeMag_eq (f : Fmt) (c : Nat) : codeMag f c =
    if c / 2 ^ f.mbits = 0 then (2 : Rat) ^ (1 - f.bias : Int) * ((c % 2 ^ f.mbits : Nat) / 2 ^ f.mbits)
    else (2 : Rat) ^ ((c / 2 ^ f.mbits : Nat) - f.bias : Int) * (1 + (c % 2 ^ f.mbits : Nat) / 2 ^ f.mbits) := by
  have hpow : (2 : Rat) ^ leastExp f = 2 ^ (1 - f.bias : Int) / 2 ^ f.mbits := by
    rw [leastExp, zpow_sub₀ two_ne_zero, zpow_natCast]
  unfold codeMag
  split
  · rw [hpow]
    ring
  case isFalse hex =>
    have hone := Nat.one_le_iff_ne_zero.mpr hex
    have hexp : leastExp f + ((c / 2 ^ f.mbits - 1 : Nat) : Int) = ((c / 2 ^ f.mbits : Nat) - f.bias : Int) - f.mbits := by
      rw [leastExp]
      omega
    rw [hexp, zpow_sub₀ two_ne_zero, zpow_natCast]
    push_cast
    field_simp

/-! ### Reading the formats with an exponent field -/

theorem mk8_not_field : Fmt.mk8 ∉ fieldFormats := by decide

theorem width_eq {f : Fmt} (hf : f ∈ fieldFormats) : f.width - 1 = f.mbits + f.ebits := by
  revert f
  decide

theorem maxCode_lt {f : Fmt} (hf : f ∈ fieldFormats) : f.maxCode < 2 ^ (f.width - 1) := by
  revert f
  decide

/-- A code without its sign bit. -/
def unsignedCode (f : Fmt) (c : Nat) : Nat := c % 2 ^ (f.width - 1)

section
variable {f : Fmt} (hf : f ∈ fieldFormats) (c : Nat)
include hf

theorem unsignedCode_mod : unsignedCode f c % 2 ^ f.mbits = c % 2 ^ f.mbits := by
  rw [unsignedCode, width_eq hf, pow_add, Nat.mod_mul_right_mod]

theorem unsignedCode_div : unsignedCode f c / 2 ^ f.mbits = c / 2 ^ f.mbits % 2 ^ f.ebits := by
  rw [unsignedCode, width_eq hf, pow_add, Nat.mod_mul_right_div_self]

/-- The codes that are no number: E4M3's NaN, and those of the other formats with an exponent field of ones (R58, R60, R61). -/
theorem maxCode_lt_unsignedCode : f.maxCode < unsignedCode f c ↔
    (f = .e4m3 ∧ c % 128 = 127) ∨ (f ≠ .e4m3 ∧ c / 2 ^ f.mbits % 2 ^ f.ebits = 2 ^ f.ebits - 1) := by
  cases f with
  | mk8 => exact absurd hf mk8_not_field
  | _ => simp [unsignedCode, Fmt.maxCode, Fmt.width, Fmt.mbits, Fmt.ebits]; omega

/-- What a code reads as. -/
theorem read_field : f.read c =
    if f = .e4m3 ∧ c % 128 = 127 then .nan false
    else if f ≠ .e4m3 ∧ c / 2 ^ f.mbits % 2 ^ f.ebits = 2 ^ f.ebits - 1 then
      if c % 2 ^ f.mbits = 0 then .inf (c.testBit (f.width - 1)) else .nan (f != .e5m2 && c % 2 ^ f.mbits < 2 ^ (f.mbits - 1))
    else if c / 2 ^ f.mbits % 2 ^ f.ebits = 0 then .fin (c.testBit (f.width - 1)) (c % 2 ^ f.mbits) (leastExp f)
    else .fin (c.testBit (f.width - 1)) (2 ^ f.mbits + c % 2 ^ f.mbits) (leastExp f + (c / 2 ^ f.mbits % 2 ^ f.ebits - 1 : Nat)) := by
  cases f with
  | mk8 => exact absurd hf mk8_not_field
  | _ => simp [Fmt.read, leastExp]

theorem ratOf_read_finite (h : unsignedCode f c ≤ f.maxCode) :
    ratOf (f.read c) = some (signed (c.testBit (f.width - 1)) (codeMag f (unsignedCode f c))) := by
  have hnum := mt (maxCode_lt_unsignedCode hf c).mpr h.not_gt
  rw [read_field hf, if_neg (fun hn => hnum (.inl hn)), if_neg (fun hn => hnum (.inr hn)), codeMag, unsignedCode_mod hf,
    unsignedCode_div hf]
  split <;> rw [ratOf_fin]

theorem ratOf_read_special (h : f.maxCode < unsignedCode f c) : ratOf (f.read c) = none := by
  rw [read_field hf]
  obtain hn | hn := (maxCode_lt_unsignedCode hf c).mp h
  · rw [if_pos hn]
    rfl
  · rw [if_neg (fun h4 => hn.1 h4.1), if_pos hn]
    split <;> rfl

/-- A finite value is the signed magnitude of a finite code. -/
theorem finite_of_ratOf_read {v : Rat} (h : ratOf (f.read c) = some v) :
    unsignedCode f c ≤ f.maxCode ∧ v = signed (c.testBit (f.width - 1)) (codeMag f (unsignedCode f c)) := by
  rcases le_or_gt (unsignedCode f c) f.maxCode with hle | hgt
  · exact ⟨hle, Option.some.inj (h.symm.trans (ratOf_read_finite hf c hle))⟩
  · simp [ratOf_read_special hf c hgt] at h

/-- What a signed code reads as. -/
theorem ratOf_read_signed (neg : Bool) (h : c ≤ f.maxCode) : ratOf (f.read (f.signed neg c)) = some (signed neg (codeMag f c)) := by
  have hlt : c < 2 ^ (f.width - 1) := h.trans_lt (maxCode_lt hf)
  have hcode : unsignedCode f (f.signed neg c) = c := by
    cases neg <;> simp [unsignedCode, Fmt.signed, Fmt.signBit, Nat.mod_eq_of_lt hlt]
  have hsign : (f.signed neg c).testBit (f.width - 1) = neg := by
    cases neg <;> simp [Fmt.signed, Fmt.signBit, Nat.testBit_two_pow_add_eq, Nat.testBit_lt_two_pow hlt]
  rw [ratOf_read_finite hf _ (hcode.trans_le h), hcode, hsign]

/-- The greatest finite code has the greatest magnitude. -/
theorem ratOf_read_le_maxCode {x : Rat} (h : ratOf (f.read c) = some x) : ∃ y, ratOf (f.read f.maxCode) = some y ∧ x.abs ≤ y := by
  obtain ⟨hle, rfl⟩ := finite_of_ratOf_read hf c h
  refine ⟨_, ratOf_read_signed hf _ false le_rfl, ?_⟩
  rw [ratAbs_eq, abs_signed, abs_of_nonneg (codeMag_nonneg ..)]
  exact (codeMag_strictMono f).monotone hle

/-- R58, R60, R61: the NaNs, the infinities and the numbers of a format with an exponent field. -/
theorem field_read_cases :
    let neg := c.testBit (f.width - 1)
    let m := c % 2 ^ f.mbits
    let ex := c / 2 ^ f.mbits % 2 ^ f.ebits
    let top : Prop := f ≠ .e4m3 ∧ ex = 2 ^ f.ebits - 1
    let nan : Prop := (top ∧ m ≠ 0) ∨ (f = .e4m3 ∧ c % 128 = 127)
    let frac : Rat := (m : Rat) / 2 ^ f.mbits
    (nan ↔ (f.read c).isNan = true) ∧
    (top → m = 0 → f.read c = .inf neg) ∧
    (¬ nan → ¬ top → ratOf (f.read c) = some (signed neg
      (if ex = 0 then (2 : Rat) ^ (1 - f.bias : Int) * frac else (2 : Rat) ^ ((ex : Int) - f.bias) * (1 + frac)))) := by
  intro neg m ex top nan frac
  refine ⟨?isNan, fun htop hm => ?isInf, fun hnan htop => ?isNumber⟩
  case isNan =>
    rw [read_field hf]
    split
    case isTrue h4 => exact ⟨fun _ => rfl, fun _ => .inr h4⟩
    case isFalse h4 =>
      split
      case isTrue htop =>
        split
        case isTrue hm => exact ⟨fun h => absurd hm (h.resolve_right h4).2, nofun⟩
        case isFalse hm => exact ⟨fun _ => rfl, fun _ => .inl ⟨htop, hm⟩⟩
      case isFalse htop =>
        have hnan : ¬ nan := not_or.mpr ⟨fun h => htop h.1, h4⟩
        split <;> exact ⟨fun h => absurd h hnan, nofun⟩
  case isInf => rw [read_field hf, if_neg (fun h4 => htop.1 h4.1), if_pos htop, if_pos hm]
  case isNumber =>
    have hfin : unsignedCode f c ≤ f.maxCode :=
      le_of_not_gt fun h => ((maxCode_lt_unsignedCode hf c).mp h).elim (fun h4 => hnan (.inr h4)) htop
    rw [ratOf_read_finite hf c hfin, codeMag_eq, unsignedCode_mod hf, unsignedCode_div hf]

end

/-! ### MK8 -/

theorem mk8Mags : (List.range 128).map mk8Mag = mk8Table := by decide +kernel

theorem mk8Mag_table {c : Nat} (hc : c < 128) : mk8Mag c = mk8Table.getD c 0 := by
  simp [← mk8Mags, hc]

/-- An MK8 code is its sign and the magnitude of its other bits; 0x80 is NaR (R62). -/
theorem ratOf_read_mk8 {c : Nat} (hc : c < 128) (neg : Bool) (h : neg = true → 0 < c) :
    ratOf (Fmt.mk8.read (Fmt.mk8.signed neg c)) = some (signed neg ((mk8Mag c : Rat) / 1024)) := by
  have hbit : c.testBit 7 = false := Nat.testBit_lt_two_pow hc
  have hsign : (128 + c).testBit 7 = true := by simpa [hbit] using Nat.testBit_two_pow_add_eq c 7
  have hread : Fmt.mk8.read (Fmt.mk8.signed neg c) = .fin neg (mk8Mag c) (-10) := by
    cases neg with
    | false =>
      have hnar : c ≠ 128 := by omega
      simp [Fmt.read, Fmt.signed, Fmt.width, hbit, hnar, Nat.mod_eq_of_lt hc]
    | true =>
      have hpos : c ≠ 0 := (h rfl).ne'
      simp [Fmt.read, Fmt.signed, Fmt.signBit, Fmt.width, hsign, hpos, Nat.mod_eq_of_lt hc]
  rw [hread, ratOf_fin]
  norm_num [div_eq_mul_inv]

/-! ### The statement -/

/-- Settles O49: a code of a format with an exponent field is read by its fields, and the MK8 codes by Table 3.3. -/
theorem numberFormats : Obligations.NumberFormats := by
  unfold Obligations.NumberFormats
  refine ⟨fun f c hf _ => field_read_cases hf c, fun f c x hf => ratOf_read_le_maxCode hf c, by decide, by decide, by decide,
    ⟨rfl, rfl⟩, fun c hc => ?_, fun c hpos hc => ?_⟩
  · rw [← mk8Mag_table hc]
    exact ratOf_read_mk8 hc false nofun
  · rw [← mk8Mag_table hc, Nat.add_comm]
    exact ratOf_read_mk8 hc true fun _ => hpos

end Sys2Proof.Proofs
end

section
/-! PROOF. Rounding an exact value once (O6): the two codes that bracket a magnitude, the choice between them by mode, and the exact sums and
products that the float instructions round. -/

namespace Sys2Proof.Proofs

open Sys2Proof Sys2Proof.Machine Sys2Proof.Claims

/-! ### The rounding of a magnitude to a multiple of a unit -/

/-- The magnitude of an exact value that is not sticky. -/
def magnitude (x : Exact) : Rat := x.m * 2 ^ x.e

theorem magnitude_nonneg (x : Exact) : 0 ≤ magnitude x := by
  rw [magnitude]
  positivity

theorem exactRat_eq (x : Exact) : exactRat x = signed x.neg (magnitude x) := by
  cases h : x.neg <;> simp [exactRat, magnitude, h]

/-- What a mode makes of the lower neighbour k when the share t of the step is left above it (Table 3.5). -/
def pick (rm : Nat) (neg : Bool) (k : Nat) (t : Rat) : Nat :=
  if roundUp rm neg (k % 2 == 1) (decide (t ≠ 0)) (if t < 1 / 2 then 0 else if t = 1 / 2 then 1 else 2) then k + 1 else k

theorem pick_eq_or (rm : Nat) (neg : Bool) (k : Nat) (t : Rat) : pick rm neg k t = k ∨ pick rm neg k t = k + 1 :=
  (ite_eq_or_eq ..).symm

/-- Where nothing is left, every mode stays. -/
theorem pick_zero (rm : Nat) (neg : Bool) (k : Nat) : pick rm neg k 0 = k := by
  unfold pick roundUp
  split <;> simp

/-- The modes that go to the lower neighbour. -/
theorem pick_down {rm : Nat} {neg : Bool} (h : rm = 1 ∨ (rm = 2 ∧ neg = true) ∨ (rm = 3 ∧ neg = false)) (k : Nat) (t : Rat) :
    pick rm neg k t = k := by
  rcases h with rfl | ⟨rfl, rfl⟩ | ⟨rfl, rfl⟩ <;> simp [pick, roundUp]

/-- The modes that go to the upper neighbour. -/
theorem pick_up {rm : Nat} {neg : Bool} (h : (rm = 2 ∧ neg = false) ∨ (rm = 3 ∧ neg = true)) (k : Nat) (t : Rat) :
    pick rm neg k t = if t = 0 then k else k + 1 := by
  rcases h with ⟨rfl, rfl⟩ | ⟨rfl, rfl⟩ <;> simp [pick, roundUp]

/-- RNE goes to the nearer neighbour, and half way to the even one. -/
theorem pick_rne (neg : Bool) (k : Nat) (t : Rat) :
    pick 0 neg k t = if t < 1 / 2 then k else if t = 1 / 2 then k + k % 2 else k + 1 := by
  unfold pick
  split
  · simp [roundUp]
  split
  · rcases Nat.mod_two_eq_zero_or_one k with h | h <;> simp [roundUp, h]
  · simp [roundUp]

/-- Of the neighbour's number only the parity matters. -/
theorem pick_add_even (rm : Nat) (neg : Bool) (k j : Nat) (t : Rat) : pick rm neg (k + 2 * j) t = pick rm neg k t + 2 * j := by
  simp only [pick, Nat.add_mul_mod_self_left]
  generalize roundUp rm neg _ _ _ = up
  cases up
  · rfl
  · exact Nat.add_right_comm ..

/-- A magnitude that is a multiple of the unit is not changed. -/
theorem roundAt_multiple {x : Exact} (hs : x.sticky = false) (rm : Nat) {q : Int} (hq : q ≤ x.e) :
    roundAt rm x q = (x.m * 2 ^ (x.e - q).toNat, false) := by
  simp [roundAt, hq, hs]

/-- Below the unit, the bits that are shifted out decide. -/
theorem roundAt_shift {x : Exact} (hs : x.sticky = false) (rm : Nat) {q : Int} {h : Nat} (hq : q - x.e = (h + 1 : Nat)) :
    roundAt rm x q =
      (if roundUp rm x.neg (x.m / 2 ^ (h + 1) % 2 == 1) (decide (x.m % 2 ^ (h + 1) ≠ 0))
        (if x.m % 2 ^ (h + 1) < 2 ^ h then 0 else if x.m % 2 ^ (h + 1) = 2 ^ h then 1 else 2)
        then x.m / 2 ^ (h + 1) + 1 else x.m / 2 ^ (h + 1), decide (x.m % 2 ^ (h + 1) ≠ 0)) := by
  have hshift : (q - x.e).toNat = h + 1 := by omega
  have hmod : x.m - x.m / 2 ^ (h + 1) * 2 ^ (h + 1) = x.m % 2 ^ (h + 1) := by rw [Nat.mod_eq_sub_div_mul]
  have hbelow : ¬ q ≤ x.e := by omega
  simp [roundAt, hbelow, hshift, hs, Nat.shiftRight_eq_div_pow, Nat.shiftLeft_eq, hmod, bne, beq_eq_decide]

/-- The floor of a quotient by a power of two, and what is left. -/
theorem floor_shift {m h : Nat} {y : Rat} (hy : y = (m : Rat) / (2 ^ (h + 1) : Nat)) :
    ⌊y⌋₊ = m / 2 ^ (h + 1) ∧ y - ⌊y⌋₊ = (m % 2 ^ (h + 1) : Nat) / 2 ^ (h + 1) := by
  have hfloor : ⌊y⌋₊ = m / 2 ^ (h + 1) := by rw [hy, Nat.floor_div_eq_div]
  refine ⟨hfloor, ?_⟩
  rw [Nat.mod_eq_sub_div_mul, Nat.cast_sub (Nat.div_mul_le_self ..), hfloor, hy]
  push_cast
  field_simp

/-- The bits that are left, compared with none and with half a step. -/
theorem shifted_bits (r h : Nat) : ((r : Rat) / 2 ^ (h + 1) ≠ 0 ↔ r ≠ 0) ∧ ((r : Rat) / 2 ^ (h + 1) < 1 / 2 ↔ r < 2 ^ h) ∧
    ((r : Rat) / 2 ^ (h + 1) = 1 / 2 ↔ r = 2 ^ h) := by
  have hpos : (0 : Rat) < 2 ^ (h + 1) := by positivity
  refine ⟨by simp, ?_, ?_⟩
  · rw [div_lt_div_iff₀ hpos two_pos, pow_succ]
    norm_cast
    omega
  · rw [div_eq_div_iff hpos.ne' two_ne_zero, pow_succ]
    norm_cast
    omega

/-- The lower multiple of the unit 2^q is the floor, and the choice between it and the next one is made by the fraction that is left. -/
theorem roundAt_eq {x : Exact} (hs : x.sticky = false) (rm : Nat) {q : Int} {y : Rat} (hy : y = magnitude x / 2 ^ q) :
    roundAt rm x q = (pick rm x.neg ⌊y⌋₊ (y - ⌊y⌋₊), decide (y - ⌊y⌋₊ ≠ 0)) := by
  rw [magnitude, mul_div_assoc, ← zpow_sub₀ two_ne_zero] at hy
  rcases le_or_gt q x.e with hq | hq
  · have hint : y = (x.m * 2 ^ (x.e - q).toNat : Nat) := by
      rw [hy, Nat.cast_mul, Nat.cast_pow, ← zpow_natCast, Int.toNat_of_nonneg (by omega), Nat.cast_ofNat]
    rw [hint, Nat.floor_natCast, sub_self, pick_zero]
    exact roundAt_multiple hs rm hq
  · obtain ⟨h, hh⟩ : ∃ h : Nat, q - x.e = (h + 1 : Nat) := ⟨(q - x.e).toNat - 1, by omega⟩
    have hquot : y = (x.m : Rat) / (2 ^ (h + 1) : Nat) := by
      rw [hy, ← neg_sub, hh, zpow_neg, zpow_natCast, div_eq_mul_inv, Nat.cast_pow, Nat.cast_ofNat]
    obtain ⟨hfloor, hleft⟩ := floor_shift hquot
    obtain ⟨hany, hless, hsame⟩ := shifted_bits (x.m % 2 ^ (h + 1)) h
    rw [roundAt_shift hs rm hh, hleft, hfloor]
    simp only [pick, hany, hless, hsame]

/-! ### The codes that bracket a magnitude -/

/-- The code c has the greatest magnitude not above X. -/
structure Brackets (f : Fmt) (X : Rat) (c : Nat) : Prop where
  le : codeMag f c ≤ X
  lt : X < codeMag f (c + 1)

/-- The share of the step from code c to the next that lies below X. -/
def shareAbove (f : Fmt) (X : Rat) (c : Nat) : Rat := (X - codeMag f c) / (codeMag f (c + 1) - codeMag f c)

theorem step_pos (f : Fmt) (c : Nat) : 0 < codeMag f (c + 1) - codeMag f c :=
  sub_pos.mpr (codeMag_strictMono f (Nat.lt_succ_self c))

theorem shareAbove_eq_zero_iff {f : Fmt} {X : Rat} {c : Nat} : shareAbove f X c = 0 ↔ X = codeMag f c := by
  rw [shareAbove, div_eq_zero_iff, or_iff_left (step_pos f c).ne', sub_eq_zero]

/-- The code that a mode chooses for a magnitude X between codes c and c + 1. -/
def chosenCode (f : Fmt) (rm : Nat) (neg : Bool) (X : Rat) (c : Nat) : Nat := pick rm neg c (shareAbove f X c)

theorem chosenCode_exact {f : Fmt} {X : Rat} {c : Nat} (h : X = codeMag f c) (rm : Nat) (neg : Bool) : chosenCode f rm neg X c = c := by
  rw [chosenCode, shareAbove_eq_zero_iff.mpr h, pick_zero]

/-- The exponent of the unit to which a non-zero exact value is rounded. -/
def unitExp (f : Fmt) (x : Exact) : Int := if x.log - f.mbits < leastExp f then leastExp f else x.log - f.mbits

/-- The binades below the unit's. -/
def binade (f : Fmt) (x : Exact) : Nat := (unitExp f x - leastExp f).toNat

theorem unitExp_eq (f : Fmt) (x : Exact) : unitExp f x = leastExp f + binade f x := by
  rw [binade, unitExp]
  split <;> omega

/-- The multiple of the unit below a magnitude is a significand: it has at most a leading one and M bits, and has the leading one
above the first binade. -/
theorem significand_bounds (f : Fmt) {x : Exact} (hm : x.m ≠ 0) :
    ⌊magnitude x / 2 ^ unitExp f x⌋₊ < 2 ^ (f.mbits + 1) ∧ (binade f x = 0 ∨ 2 ^ f.mbits ≤ ⌊magnitude x / 2 ^ unitExp f x⌋₊) := by
  have hlog : (2 : Rat) ^ x.log ≤ magnitude x ∧ magnitude x < 2 ^ (x.log + 1) := by
    rw [magnitude, Exact.log, add_right_comm, zpow_add₀ two_ne_zero, zpow_add₀ two_ne_zero]
    constructor <;> gcongr
    · exact_mod_cast Nat.log2_self_le hm
    · exact_mod_cast Nat.lt_log2_self
  obtain ⟨hlow, hhigh⟩ := hlog
  have hunit : (0 : Rat) < 2 ^ unitExp f x := by positivity
  constructor
  · rw [Nat.floor_lt (div_nonneg (magnitude_nonneg x) hunit.le), div_lt_iff₀ hunit]
    refine hhigh.trans_le ?_
    rw [Nat.cast_pow, Nat.cast_ofNat, ← zpow_natCast, ← zpow_add₀ two_ne_zero]
    refine zpow_le_zpow_right₀ one_le_two ?_
    unfold unitExp
    split <;> omega
  · refine or_iff_not_imp_left.mpr fun hj => ?_
    rw [Nat.le_floor_iff (div_nonneg (magnitude_nonneg x) hunit.le), le_div_iff₀ hunit]
    refine le_trans ?_ hlow
    rw [Nat.cast_pow, Nat.cast_ofNat, ← zpow_natCast, ← zpow_add₀ two_ne_zero]
    refine zpow_le_zpow_right₀ one_le_two ?_
    unfold binade unitExp at *
    split at hj <;> omega

/-- Whether a value rounds, with an unbounded exponent range, below the least normal number (R71). -/
def tinyAt (f : Fmt) (rm : Nat) (x : Exact) : Bool :=
  x.log - f.mbits < leastExp f &&
    (Nat.log2 (roundAt rm x (x.log - f.mbits)).1 : Int) + (x.log - f.mbits) < leastExp f + f.mbits

/-- Rounding a non-zero value to its unit, read as a code. -/
theorem roundIeee_nonzero (f : Fmt) (rm : Nat) (sat : Bool) {x : Exact} (hm : x.m ≠ 0) : roundIeee f rm sat x =
    let r := roundAt rm x (unitExp f x)
    if f.maxCode < r.1 + binade f x * 2 ^ f.mbits then f.overflow rm x.neg sat
    else (f.signed x.neg (r.1 + binade f x * 2 ^ f.mbits), flagIf r.2 flagNX ||| flagIf (r.2 && tinyAt f rm x) flagUF) := by
  unfold roundIeee
  rw [if_neg (by simp [hm])]
  rfl

theorem ieee_flags (inexact tiny : Bool) :
    ((flagIf inexact flagNX ||| flagIf (inexact && tiny) flagUF) &&& flagNX = 0 ↔ inexact = false) ∧
    (flagIf inexact flagNX ||| flagIf (inexact && tiny) flagUF) &&& flagOF = 0 := by
  revert inexact tiny
  decide

theorem mbits_pos {f : Fmt} (hf : f ∈ fieldFormats) : 0 < f.mbits := by
  revert f
  decide

/-- The share of a step, with magnitudes counted in the unit u. -/
theorem shareAbove_unit {f : Fmt} {c k : Nat} {u : Rat} (hu : 0 < u) (hlo : codeMag f c = k * u) (hhi : codeMag f (c + 1) = (k + 1) * u)
    (y : Rat) : shareAbove f (y * u) c = y - k := by
  rw [shareAbove, hlo, hhi]
  field_simp
  ring

/-- What rounding to a format with an exponent field does (R66, R67, R71): it brackets the magnitude, chooses by the mode, and overflows when
the chosen code is above the greatest finite one. -/
theorem round_field {f : Fmt} (hf : f ∈ fieldFormats) (rm : Nat) (sat : Bool) {x : Exact} (hs : x.sticky = false) :
    ∃ c fl, Brackets f (magnitude x) c ∧ (fl &&& flagNX = 0 ↔ magnitude x = codeMag f c) ∧ fl &&& flagOF = 0 ∧
      f.round rm sat x =
        if f.maxCode < chosenCode f rm x.neg (magnitude x) c then f.overflow rm x.neg sat
        else (f.signed x.neg (chosenCode f rm x.neg (magnitude x) c), fl) := by
  have hround : f.round rm sat x = roundIeee f rm sat x := if_neg (by simpa using ne_of_mem_of_not_mem hf mk8_not_field)
  rw [hround]
  by_cases hm : x.m = 0
  case pos =>
    have hzero : magnitude x = codeMag f 0 := by simp [magnitude, hm]
    refine ⟨0, 0, ⟨hzero.ge, hzero.trans_lt (codeMag_strictMono f one_pos)⟩, by simp [hzero], by simp, ?_⟩
    rw [chosenCode_exact hzero, if_neg (by simp)]
    simp [roundIeee, hm, hs]
  case neg =>
    obtain ⟨hsig, hlead⟩ := significand_bounds f hm
    have hu : (0 : Rat) < 2 ^ unitExp f x := by positivity
    obtain ⟨y, hy⟩ : ∃ y, y = magnitude x / 2 ^ unitExp f x := ⟨_, rfl⟩
    have hX : magnitude x = y * 2 ^ unitExp f x := by rw [hy, div_mul_cancel₀ _ hu.ne']
    have hnonneg : 0 ≤ y := hy ▸ div_nonneg (magnitude_nonneg x) hu.le
    rw [roundIeee_nonzero f rm sat hm, roundAt_eq hs rm hy]
    rw [← hy] at hsig hlead
    have hlo := codeMag_pack hsig.le hlead
    have hhi := codeMag_pack hsig (hlead.imp_right Nat.le_succ_of_le)
    rw [← unitExp_eq] at hlo hhi
    rw [Nat.succ_eq_add_one, Nat.add_right_comm, Nat.cast_add_one] at hhi
    have hshare := shareAbove_unit hu hlo hhi y
    obtain ⟨j, hj⟩ : ∃ j, binade f x * 2 ^ f.mbits = 2 * j := by
      obtain ⟨b, hb⟩ := Nat.exists_eq_add_one.mpr (mbits_pos hf)
      exact ⟨binade f x * 2 ^ b, by rw [hb]; ring⟩
    rw [hj] at hlo hhi hshare ⊢
    obtain ⟨hNX, hOF⟩ := ieee_flags (decide (y - ⌊y⌋₊ ≠ 0)) (tinyAt f rm x)
    refine ⟨⌊y⌋₊ + 2 * j, _, ⟨?_, ?_⟩, hNX.trans ?_, hOF, ?_⟩
    · rw [hlo, hX]
      gcongr
      exact Nat.floor_le hnonneg
    · rw [hhi, hX]
      gcongr
      exact Nat.lt_floor_add_one y
    · rw [decide_eq_false_iff_not, not_not, hX, ← hshare, shareAbove_eq_zero_iff]
    · rw [chosenCode, hX, hshare, pick_add_even]

/-! ### What the modes choose -/

/-- A number that does not lie strictly between the magnitudes of code c and the next. -/
def Outside (f : Fmt) (c : Nat) (w : Rat) : Prop := w ≤ codeMag f c ∨ codeMag f (c + 1) ≤ w

/-- No finite value of a format lies between two neighbours, whatever its sign is taken to be. -/
theorem outside_of_finite {f : Fmt} (hf : f ∈ fieldFormats) {d : Nat} {v : Rat} (hv : ratOf (f.read d) = some v) (c : Nat) (neg : Bool) :
    Outside f c (signed neg v) := by
  obtain ⟨-, rfl⟩ := finite_of_ratOf_read hf d hv
  generalize unsignedCode f d = u
  have hpos : Outside f c (codeMag f u) :=
    (Nat.lt_or_ge c u).elim (fun h => .inr ((codeMag_strictMono f).monotone h)) (fun h => .inl ((codeMag_strictMono f).monotone h))
  have hneg : Outside f c (-codeMag f u) :=
    .inl ((neg_nonpos.mpr (codeMag_nonneg f u)).trans (codeMag_nonneg f c))
  cases neg <;> cases d.testBit (f.width - 1) <;> simpa

theorem abs_outside_of_finite {f : Fmt} (hf : f ∈ fieldFormats) {d : Nat} {v : Rat} (hv : ratOf (f.read d) = some v) (c : Nat) :
    Outside f c |v| := by
  rcases abs_choice v with h | h <;> rw [h]
  · exact outside_of_finite hf hv c false
  · exact outside_of_finite hf hv c true

section
variable {f : Fmt} {X w : Rat} {c : Nat}

/-- RNE by the distances to the two neighbours. -/
theorem chosenCode_rne (neg : Bool) : chosenCode f 0 neg X c =
    if X - codeMag f c < codeMag f (c + 1) - X then c else if X - codeMag f c = codeMag f (c + 1) - X then c + c % 2 else c + 1 := by
  have hless : shareAbove f X c < 1 / 2 ↔ X - codeMag f c < codeMag f (c + 1) - X := by
    rw [shareAbove, div_lt_div_iff₀ (step_pos f c) two_pos]
    constructor <;> intro h <;> linarith
  have hsame : shareAbove f X c = 1 / 2 ↔ X - codeMag f c = codeMag f (c + 1) - X := by
    rw [shareAbove, div_eq_div_iff (step_pos f c).ne' two_ne_zero]
    constructor <;> intro h <;> linarith
  simp only [chosenCode, pick_rne, hless, hsame]

variable (hb : Brackets f X c) (ho : Outside f c w)
include hb ho

theorem le_lower (hw : w ≤ X) : w ≤ codeMag f c :=
  ho.resolve_right fun h => (h.trans hw).not_gt hb.lt

/-- The modes that go to the upper neighbour find the least number not below. -/
theorem chosenCode_up {rm : Nat} {neg : Bool} (h : (rm = 2 ∧ neg = false) ∨ (rm = 3 ∧ neg = true)) :
    X ≤ codeMag f (chosenCode f rm neg X c) ∧ (X ≤ w → codeMag f (chosenCode f rm neg X c) ≤ w) := by
  simp only [chosenCode, pick_up h, shareAbove_eq_zero_iff]
  split
  case isTrue h => exact ⟨h.le, fun hw => h ▸ hw⟩
  case isFalse h => exact ⟨hb.lt.le, fun hw => ho.resolve_left fun hle => h (le_antisymm (hw.trans hle) hb.le)⟩

theorem dist_outside : (w ≤ codeMag f c ∧ |w - X| = X - w) ∨ (codeMag f (c + 1) ≤ w ∧ |w - X| = w - X) := by
  refine ho.imp (fun h => ⟨h, ?_⟩) (fun h => ⟨h, ?_⟩)
  · rw [abs_sub_comm, abs_of_nonneg (sub_nonneg.mpr (h.trans hb.le))]
  · exact abs_of_nonneg (sub_nonneg.mpr (hb.lt.le.trans h))

/-- RNE: no number outside is nearer, and where one is as near the chosen code is even. -/
theorem chosenCode_nearest (neg : Bool) :
    |codeMag f (chosenCode f 0 neg X c) - X| ≤ |w - X| ∧
    (|codeMag f (chosenCode f 0 neg X c) - X| = |w - X| → w ≠ codeMag f (chosenCode f 0 neg X c) → chosenCode f 0 neg X c % 2 = 0) := by
  have hlo : |codeMag f c - X| = X - codeMag f c := by rw [abs_sub_comm, abs_of_nonneg (sub_nonneg.mpr hb.le)]
  have hhi : |codeMag f (c + 1) - X| = codeMag f (c + 1) - X := abs_of_nonneg (sub_nonneg.mpr hb.lt.le)
  have hmid : X - codeMag f c = codeMag f (c + 1) - X → |codeMag f (c + c % 2) - X| = X - codeMag f c := fun hsame => by
    rcases Nat.mod_two_eq_zero_or_one c with h | h <;> simp only [h, Nat.add_zero, hlo, hhi, hsame]
  rw [chosenCode_rne]
  have hdist := dist_outside hb ho
  split_ifs with hless hsame
  · rw [hlo]
    rcases hdist with ⟨hw, hd⟩ | ⟨hw, hd⟩ <;> rw [hd] <;> exact ⟨by linarith, fun heq hne => absurd (by linarith) hne⟩
  · rw [hmid hsame]
    rcases hdist with ⟨hw, hd⟩ | ⟨hw, hd⟩ <;> rw [hd] <;> exact ⟨by linarith, fun _ _ => by omega⟩
  · have hmore := lt_of_le_of_ne (not_lt.mp hless) (Ne.symm hsame)
    rw [hhi]
    rcases hdist with ⟨hw, hd⟩ | ⟨hw, hd⟩ <;> rw [hd] <;> exact ⟨by linarith, fun heq hne => absurd (by linarith) hne⟩

end

/-! ### The rounded result -/

theorem overflow_snd (f : Fmt) (rm : Nat) (neg sat : Bool) :
    ∃ nv, (f.overflow rm neg sat).2 = flagOF ||| flagNX ||| flagIf nv flagNV := by
  unfold Fmt.overflow
  split_ifs
  · exact ⟨false, rfl⟩
  · exact ⟨_, rfl⟩
  · exact ⟨false, rfl⟩

theorem overflow_flags (f : Fmt) (rm : Nat) (neg sat : Bool) :
    (f.overflow rm neg sat).2 &&& flagOF ≠ 0 ∧ (f.overflow rm neg sat).2 &&& flagNX ≠ 0 := by
  obtain ⟨nv, h⟩ := overflow_snd f rm neg sat
  rw [h]
  cases nv <;> decide

theorem signed_mod_two {f : Fmt} (hf : f ∈ fieldFormats) (neg : Bool) (c : Nat) : f.signed neg c % 2 = c % 2 := by
  have heven : f.signBit % 2 = 0 := by
    revert f
    decide
  cases neg <;> simp [Fmt.signed, Nat.add_mod, heven]

/-- A chosen code has the value's magnitude only when nothing was to be chosen. -/
theorem codeMag_chosen_eq_iff {f : Fmt} {X : Rat} {c : Nat} (hb : Brackets f X c) (rm : Nat) (neg : Bool) :
    codeMag f (chosenCode f rm neg X c) = X ↔ X = codeMag f c := by
  refine ⟨fun h => ?_, fun h => by rw [chosenCode_exact h, h]⟩
  rcases pick_eq_or rm neg c (shareAbove f X c) with hc | hc <;> rw [chosenCode, hc] at h
  · exact h.symm
  · exact absurd h hb.lt.ne'

section
variable {f : Fmt} (hf : f ∈ fieldFormats) (rm : Nat) (sat : Bool) {x : Exact} (hs : x.sticky = false)
include hf hs

/-- Without overflow the result is the chosen code with the value's sign. -/
theorem round_finite (hof : (f.round rm sat x).2 &&& flagOF = 0) :
    ∃ c, Brackets f (magnitude x) c ∧ (f.round rm sat x).1 = f.signed x.neg (chosenCode f rm x.neg (magnitude x) c) ∧
      ratOf (f.read (f.round rm sat x).1) = some (signed x.neg (codeMag f (chosenCode f rm x.neg (magnitude x) c))) := by
  obtain ⟨c, fl, hb, -, -, hround⟩ := round_field hf rm sat hs
  rcases Nat.lt_or_ge f.maxCode (chosenCode f rm x.neg (magnitude x) c) with hover | hfin
  · rw [hround, if_pos hover] at hof
    exact absurd hof (overflow_flags ..).1
  · rw [if_neg hfin.not_gt] at hround
    exact ⟨c, hb, by rw [hround], by rw [hround]; exact ratOf_read_signed hf _ _ hfin⟩

/-- R71: NX is raised exactly when the result is not the value. -/
theorem round_inexact_iff : (f.round rm sat x).2 &&& flagNX = 0 ↔ ratOf (f.read (f.round rm sat x).1) = some (exactRat x) := by
  obtain ⟨c, fl, hb, hNX, -, hround⟩ := round_field hf rm sat hs
  rw [hround, exactRat_eq]
  split
  case isTrue hover =>
    refine iff_of_false (overflow_flags ..).2 fun hv => ?_
    obtain ⟨hle, hval⟩ := finite_of_ratOf_read hf _ hv
    have habs := congrArg abs hval
    rw [abs_signed, abs_signed, abs_of_nonneg (magnitude_nonneg x), abs_of_nonneg (codeMag_nonneg ..)] at habs
    have hexact : magnitude x = codeMag f c := by
      have ho := outside_of_finite hf hv c x.neg
      rw [signed_signed] at ho
      exact le_antisymm (ho.resolve_right hb.lt.not_ge) hb.le
    rw [chosenCode_exact hexact, (codeMag_strictMono f).injective (hexact.symm.trans habs)] at hover
    exact hle.not_gt hover
  case isFalse hfin =>
    rw [hNX, ratOf_read_signed hf _ _ (not_lt.mp hfin), Option.some_inj, (signed_injective x.neg).eq_iff, codeMag_chosen_eq_iff hb]

/-- R67: an overflow is inexact. -/
theorem round_overflow_inexact (hof : (f.round rm sat x).2 &&& flagOF ≠ 0) : (f.round rm sat x).2 &&& flagNX ≠ 0 := by
  obtain ⟨c, fl, -, -, hOF, hround⟩ := round_field hf rm sat hs
  rw [hround] at hof ⊢
  split
  · exact (overflow_flags ..).2
  case isFalse hfin => exact absurd hOF (by rwa [if_neg hfin] at hof)

end

/-- R66, Table 3.5: what each mode delivers, in terms of every finite value v of the format. -/
theorem round_by_mode {f : Fmt} (hf : f ∈ fieldFormats) {rm : Nat} {sat : Bool} {x : Exact} (hs : x.sticky = false)
    (hof : (f.round rm sat x).2 &&& flagOF = 0) {r : Rat} (hr : ratOf (f.read (f.round rm sat x).1) = some r)
    {d : Nat} {v : Rat} (hv : ratOf (f.read d) = some v) :
    (rm = 0 → (r - exactRat x).abs ≤ (v - exactRat x).abs ∧
      ((r - exactRat x).abs = (v - exactRat x).abs → v ≠ r → (f.round rm sat x).1 % 2 = 0)) ∧
    (rm = 1 → r.abs ≤ (exactRat x).abs ∧ (v.abs ≤ (exactRat x).abs → v.abs ≤ r.abs)) ∧
    (rm = 2 → exactRat x ≤ r ∧ (exactRat x ≤ v → r ≤ v)) ∧
    (rm = 3 → r ≤ exactRat x ∧ (v ≤ exactRat x → v ≤ r)) := by
  obtain ⟨c, hb, hcode, hval⟩ := round_finite hf rm sat hs hof
  obtain rfl := Option.some.inj (hr.symm.trans hval)
  have ho := outside_of_finite hf hv c x.neg
  obtain ⟨w, rfl⟩ : ∃ w, v = signed x.neg w := ⟨signed x.neg v, (signed_signed ..).symm⟩
  rw [signed_signed] at ho
  simp only [ratAbs_eq, exactRat_eq, ← signed_sub, abs_signed, (signed_injective x.neg).ne_iff, hcode, signed_mod_two hf]
  refine ⟨?rne, ?rtz, ?rup, ?rdn⟩
  case rne =>
    rintro rfl
    exact chosenCode_nearest hb ho x.neg
  case rtz =>
    rintro rfl
    rw [chosenCode, pick_down (.inl rfl), abs_of_nonneg (codeMag_nonneg ..), abs_of_nonneg (magnitude_nonneg x)]
    have ha := abs_outside_of_finite hf hv c
    rw [abs_signed] at ha
    exact ⟨hb.le, le_lower hb ha⟩
  case rup =>
    rintro rfl
    cases hneg : x.neg with
    | false => exact chosenCode_up hb ho (.inl ⟨rfl, rfl⟩)
    | true =>
      rw [chosenCode, pick_down (.inr (.inl ⟨rfl, rfl⟩))]
      exact ⟨neg_le_neg hb.le, fun h => neg_le_neg (le_lower hb ho (neg_le_neg_iff.mp h))⟩
  case rdn =>
    rintro rfl
    cases hneg : x.neg with
    | false =>
      rw [chosenCode, pick_down (.inr (.inr ⟨rfl, rfl⟩))]
      exact ⟨hb.le, le_lower hb ho⟩
    | true =>
      obtain ⟨hle, hleast⟩ := chosenCode_up hb ho (.inr ⟨rfl, rfl⟩)
      exact ⟨neg_le_neg hle, fun h => neg_le_neg (hleast (neg_le_neg_iff.mp h))⟩

/-! ### The exact values that the float instructions round -/

/-- The number of a sign, a magnitude and an exponent. -/
def termRat (t : Bool × Nat × Int) : Rat := signed t.1 (t.2.1 * 2 ^ t.2.2)

/-- The number of a dyadic. -/
def dyRat (d : Dy) : Rat := d.m * 2 ^ d.e

theorem dyRat_of (neg : Bool) (m : Nat) (e : Int) : dyRat (.of neg m e) = termRat (neg, m, e) := by
  cases neg <;> simp [dyRat, Dy.of, termRat]

theorem dyRat_add (a b : Dy) : dyRat (a.add b) = dyRat a + dyRat b := by
  have hscale (e g : Int) (h : e ≤ g) : (2 : Rat) ^ g = 2 ^ (g - e).toNat * 2 ^ e := by
    rw [← zpow_natCast, Int.toNat_of_nonneg (sub_nonneg.mpr h), ← zpow_add₀ two_ne_zero, sub_add_cancel]
  unfold Dy.add dyRat
  split
  case isTrue h =>
    rw [hscale a.e b.e h]
    push_cast
    ring
  case isFalse h =>
    rw [hscale b.e a.e (not_le.mp h).le]
    push_cast
    ring

/-- The terms added one after another to a dyadic. -/
def sumDy (ts : List (Bool × Nat × Int)) (d : Dy) : Dy := ts.foldl (fun acc t => acc.add (Dy.of t.1 t.2.1 t.2.2)) d

theorem dyRat_sumDy (ts : List (Bool × Nat × Int)) (d : Dy) : dyRat (sumDy ts d) = dyRat d + (ts.map termRat).sum := by
  induction ts generalizing d with
  | nil => simp [sumDy]
  | cons t ts ih =>
    rw [sumDy, List.foldl_cons, ← sumDy, ih, dyRat_add, dyRat_of, List.map_cons, List.sum_cons, add_assoc]

/-- The sum as a sign and a magnitude; only the sign of a zero depends on the mode. -/
theorem sumExact_eq (rm : Nat) (ts : List (Bool × Nat × Int)) :
    ∃ neg, let s := sumDy ts { m := 0, e := (ts.head?.map (·.2.2)).getD 0 }
      sumExact rm ts = if s.m = 0 then { neg := neg, m := 0, e := s.e, sticky := false }
        else { neg := s.m < 0, m := s.m.natAbs, e := s.e, sticky := false } := ⟨_, rfl⟩

/-- The sum of finite terms is exact (R66). -/
theorem sumExact_spec (rm : Nat) (ts : List (Bool × Nat × Int)) :
    (sumExact rm ts).sticky = false ∧ exactRat (sumExact rm ts) = (ts.map termRat).sum := by
  obtain ⟨neg, hs⟩ := sumExact_eq rm ts
  have hsum := dyRat_sumDy ts { m := 0, e := (ts.head?.map (·.2.2)).getD 0 }
  generalize sumDy ts { m := 0, e := (ts.head?.map (·.2.2)).getD 0 } = s at hs hsum
  have hstart : dyRat { m := 0, e := (ts.head?.map (·.2.2)).getD 0 } = 0 := by simp [dyRat]
  rw [← zero_add (ts.map termRat).sum, ← hstart, ← hsum, hs, exactRat_eq]
  rcases lt_trichotomy s.m 0 with h | h | h
  · simp [h, h.ne, magnitude, dyRat, abs_of_neg]
  · simp [h, magnitude, dyRat]
  · simp [h.ne', h.not_gt, magnitude, dyRat, abs_of_pos h]

/-- The terms that the instructions round. -/
def valOf (t : Bool × Nat × Int) : FVal := .fin t.1 t.2.1 t.2.2

theorem exists_term {v : FVal} {x : Rat} (h : ratOf v = some x) : ∃ t, v = valOf t ∧ x = termRat t := by
  cases v with
  | fin n m e => exact ⟨(n, m, e), rfl, (Option.some.inj ((ratOf_fin n m e).symm.trans h)).symm⟩
  | nan _ => nomatch h
  | inf _ => nomatch h

/-- Two finite terms are added exactly and rounded once. -/
theorem sum_pair (f : Fmt) (rm : Nat) (s t : Bool × Nat × Int) :
    ∃ e, e.sticky = false ∧ exactRat e = termRat s + termRat t ∧ f.sum rm [valOf s, valOf t] = f.round rm false e := by
  obtain ⟨hexact, hsum⟩ := sumExact_spec rm [s, t]
  exact ⟨sumExact rm [s, t], hexact, by simpa using hsum, rfl⟩

/-- A finite term's negation. -/
def negTerm (t : Bool × Nat × Int) : Bool × Nat × Int := (!t.1, t.2.1, t.2.2)

theorem negate_valOf (t : Bool × Nat × Int) : (valOf t).negate = valOf (negTerm t) := rfl

theorem termRat_neg (t : Bool × Nat × Int) : termRat (negTerm t) = -termRat t := by
  obtain ⟨n, m, e⟩ := t
  cases n <;> simp [termRat, negTerm]

/-- The product of finite terms. -/
def mulTerm (s t : Bool × Nat × Int) : Bool × Nat × Int := (s.1 != t.1, s.2.1 * t.2.1, s.2.2 + t.2.2)

theorem mul_valOf (s t : Bool × Nat × Int) : (valOf s).mul (valOf t) = some (valOf (mulTerm s t)) := rfl

theorem termRat_mul (s t : Bool × Nat × Int) : termRat (mulTerm s t) = termRat s * termRat t := by
  obtain ⟨n, m, e⟩ := s
  obtain ⟨n', m', e'⟩ := t
  have hmag : (m : Rat) * m' * 2 ^ (e + e') = m * 2 ^ e * (m' * 2 ^ e') := by
    rw [zpow_add₀ two_ne_zero]
    ring
  cases n <;> cases n' <;> simp [termRat, mulTerm, hmag]

/-- R95: FADD, FSUB, FMUL and FFMA of finite operands round one exact value. -/
theorem arith_rounds_once {f : Fmt} {rm a b c : Nat} {x y z : Rat} (hx : ratOf (f.read a) = some x) (hy : ratOf (f.read b) = some y)
    (hz : ratOf (f.read c) = some z) :
    (∃ e, e.sticky = false ∧ exactRat e = x + y ∧ fAdd f rm a b = f.round rm false e) ∧
    (∃ e, e.sticky = false ∧ exactRat e = x - y ∧ fSub f rm a b = f.round rm false e) ∧
    (∃ e, e.sticky = false ∧ exactRat e = x * y ∧ fMul f rm a b = f.round rm false e) ∧
    (∃ e, e.sticky = false ∧ exactRat e = x * y + z ∧ fFma f rm a b c = f.round rm false e) := by
  obtain ⟨s, hs, rfl⟩ := exists_term hx
  obtain ⟨t, ht, rfl⟩ := exists_term hy
  obtain ⟨u, hu, rfl⟩ := exists_term hz
  simp only [fAdd, fSub, fMul, fFma, hs, ht, hu, negate_valOf, mul_valOf, sub_eq_add_neg, ← termRat_neg, ← termRat_mul]
  refine ⟨sum_pair f rm s t, sum_pair f rm s (negTerm t), ⟨.ofVal (mulTerm s t).1 (mulTerm s t).2.1 (mulTerm s t).2.2, rfl, ?_, rfl⟩,
    sum_pair f rm (mulTerm s t) u⟩
  exact exactRat_eq _

/-! ### The statement -/

theorem field_of_arith {f : Fmt} (hf : f ∈ arithFormats) : f ∈ fieldFormats := by
  revert f
  decide

/-- Settles O6: a result is one of the two codes that bracket the exact value, chosen by the mode, and the instructions round one exact value. -/
theorem floatArithmeticRoundsCorrectly : Obligations.FloatArithmeticRoundsCorrectly := by
  unfold Obligations.FloatArithmeticRoundsCorrectly
  refine ⟨fun f rm x hf _ hs hof => ?_, fun f rm a b c x y z _ => arith_rounds_once⟩
  obtain ⟨c, -, -, hval⟩ := round_finite (field_of_arith hf) rm false hs hof
  refine ⟨_, hval, ?_, fun d v _ hv => round_by_mode (field_of_arith hf) hs hof hval hv⟩
  rw [round_inexact_iff (field_of_arith hf) rm false hs, hval, Option.some_inj]

end Sys2Proof.Proofs
end

section
/-! PROOF. Conversions between floats and integers (O9): rounding to an integer by mode, and integers rounded to every format. -/

namespace Sys2Proof.Proofs

open Sys2Proof Sys2Proof.Machine Sys2Proof.Claims

/-! ### Rounding to an integer -/

/-- A magnitude rounded to an integer by a mode, its sign set apart. -/
def roundNat (rm : Nat) (neg : Bool) (y : Rat) : Nat := pick rm neg ⌊y⌋₊ (y - ⌊y⌋₊)

/-- An integer of a sign and a magnitude. -/
def signedInt (neg : Bool) (k : Nat) : Int := if neg then -(k : Int) else k

/-- The integer that is nearer than half a step, or half a step away and even, is the one that half to even gives. -/
theorem roundRat_near {x : Rat} {n : Int} (h : |x - n| < 1 / 2 ∨ (|x - n| = 1 / 2 ∧ n % 2 = 0)) : roundRat 0 x = n := by
  have hle := Rat.floor_le x
  have hlt := Rat.lt_floor_add_one x
  have hnear : |x - n| ≤ 1 / 2 := h.elim le_of_lt fun h => h.1.le
  obtain ⟨hlow, hhigh⟩ := abs_le.mp hnear
  push_cast at hlt
  have hcases : n = x.floor ∨ n = x.floor + 1 := by
    have hge : x.floor < n + 1 := by exact_mod_cast (by linarith : (x.floor : Rat) < n + 1)
    have hle : n < x.floor + 2 := by exact_mod_cast (by linarith : (n : Rat) < x.floor + 2)
    omega
  simp only [roundRat]
  rcases hcases with rfl | rfl
  · rw [abs_of_nonneg (sub_nonneg.mpr hle)] at h
    split_ifs with h1 h2 h3
    · rfl
    · exact absurd h2 (h.elim lt_asymm fun h => h.1.le.not_gt)
    · rfl
    · exact absurd (h.resolve_left h1).2 h3
  · rw [abs_sub_comm, abs_of_nonneg (sub_nonneg.mpr (by push_cast; exact hlt.le))] at h
    push_cast at h
    split_ifs with h1 h2 h3
    · rcases h with h | h <;> linarith
    · rfl
    · have htie := h.resolve_left fun hn => h2 (by linarith)
      omega
    · rfl

theorem cast_signedInt (neg : Bool) (k : Nat) : (signedInt neg k : Rat) = signed neg k := by
  cases neg <;> simp [signedInt]

theorem signedInt_mod_two (neg : Bool) (k : Nat) : signedInt neg k % 2 = 0 ↔ k % 2 = 0 := by
  cases neg <;> simp only [signedInt] <;> grind

theorem neg_floor_eq (y : Rat) : (-y).floor = -y.ceil := by rw [Rat.ceil_eq_neg_floor_neg, neg_neg]

theorem neg_ceil_eq (y : Rat) : (-y).ceil = -y.floor := by rw [Rat.ceil_eq_neg_floor_neg, neg_neg]

section
variable {y : Rat} (hy : 0 ≤ y)
include hy

theorem floor_eq_natFloor : y.floor = (⌊y⌋₊ : Int) := (Int.natCast_floor_eq_floor hy).symm

theorem ceil_eq_natFloor : y.ceil = ((if y - ⌊y⌋₊ = 0 then ⌊y⌋₊ else ⌊y⌋₊ + 1 : Nat) : Int) := by
  have hle := Nat.floor_le hy
  have hlt := Nat.lt_floor_add_one y
  split
  case isTrue h =>
    conv_lhs => rw [sub_eq_zero.mp h]
    exact Rat.ceil_intCast _
  case isFalse h =>
    refine le_antisymm (Rat.ceil_le_iff.mpr (by exact_mod_cast hlt.le)) ?_
    rw [Nat.cast_add_one]
    refine Int.add_one_le_iff.mpr (Rat.lt_ceil_iff.mpr ?_)
    exact_mod_cast lt_of_le_of_ne hle fun heq => h (sub_eq_zero.mpr heq.symm)

/-- RNE's integer is the nearest, and even half way. -/
theorem roundNat_near (neg : Bool) :
    |y - roundNat 0 neg y| < 1 / 2 ∨ (|y - roundNat 0 neg y| = 1 / 2 ∧ roundNat 0 neg y % 2 = 0) := by
  have hle := Nat.floor_le hy
  have hlt := Nat.lt_floor_add_one y
  have hup : |y - (⌊y⌋₊ + 1 : Nat)| = 1 - (y - ⌊y⌋₊) := by
    rw [abs_sub_comm, abs_of_nonneg (by push_cast; linarith)]
    push_cast
    ring
  have hdown : |y - ⌊y⌋₊| = y - ⌊y⌋₊ := abs_of_nonneg (sub_nonneg.mpr hle)
  rw [roundNat, pick_rne]
  split_ifs with hless hsame
  · exact .inl (hdown.trans_lt hless)
  · refine .inr ⟨?_, by omega⟩
    rcases Nat.mod_two_eq_zero_or_one ⌊y⌋₊ with h | h
    · rw [h, Nat.add_zero, hdown, hsame]
    · rw [h, hup, hsame]
      norm_num
  · refine .inl (hup.trans_lt ?_)
    linarith [lt_of_le_of_ne (not_lt.mp hless) (Ne.symm hsame)]

/-- The model's rounding of a magnitude with a sign is the mode's rounding of the number (Table 3.5). -/
theorem roundRat_signed {rm : Nat} (hrm : rm < 4) (neg : Bool) : roundRat rm (signed neg y) = signedInt neg (roundNat rm neg y) := by
  have hfloor := floor_eq_natFloor hy
  have hceil := ceil_eq_natFloor hy
  obtain rfl | rfl | rfl | rfl : rm = 0 ∨ rm = 1 ∨ rm = 2 ∨ rm = 3 := by omega
  · refine roundRat_near ?_
    rw [cast_signedInt, ← signed_sub, abs_signed, signedInt_mod_two]
    exact roundNat_near hy neg
  · rw [roundNat, pick_down (.inl rfl), signedInt, ← hfloor]
    cases neg with
    | false => exact if_pos hy
    | true =>
      rcases hy.eq_or_lt with rfl | hpos
      · rfl
      · exact (if_neg (by simpa using hpos)).trans (neg_ceil_eq y)
  · cases neg with
    | false => rw [roundNat, pick_up (.inl ⟨rfl, rfl⟩), signedInt, ← hceil]; rfl
    | true => rw [roundNat, pick_down (.inr (.inl ⟨rfl, rfl⟩)), signedInt, ← hfloor]; exact neg_ceil_eq y
  · cases neg with
    | false => rw [roundNat, pick_down (.inr (.inr ⟨rfl, rfl⟩)), signedInt, ← hfloor]; rfl
    | true => rw [roundNat, pick_up (.inr ⟨rfl, rfl⟩), signedInt, ← hceil]; exact neg_floor_eq y

end

theorem roundNat_exact_iff (rm : Nat) (neg : Bool) (y : Rat) : (roundNat rm neg y : Rat) = y ↔ y - ⌊y⌋₊ = 0 := by
  constructor <;> intro h
  · rw [← h, Nat.floor_natCast, sub_self]
  · rw [roundNat, h, pick_zero, ← sub_eq_zero.mp h]

/-! ### Float to integer -/

theorem intLo_le_intHi (sg : Bool) (n : Nat) : intLo sg n ≤ intHi sg n := by
  have h1 : (0 : Int) < 2 ^ (n - 1) := by positivity
  have h2 : (0 : Int) < 2 ^ n := by positivity
  unfold intLo intHi
  split <;> omega

/-- R69 for a finite operand: rounded, clamped to the type's range, and the flags. -/
theorem toInt_finite {f : Fmt} {a : Nat} {x : Rat} (h : ratOf (f.read a) = some x) {rm : Nat} (hrm : rm < 4) (sg : Bool) (n : Nat) :
    toInt f rm sg n a =
      if roundRat rm x < intLo sg n then (wrapTo n (intLo sg n), flagNV)
      else if roundRat rm x > intHi sg n then (wrapTo n (intHi sg n), flagNV)
      else (wrapTo n (roundRat rm x), if (roundRat rm x : Rat) = x then 0 else flagNX) := by
  obtain ⟨⟨s, m, e⟩, hread, rfl⟩ := exists_term h
  obtain ⟨y, hy⟩ : ∃ y : Rat, y = m * 2 ^ e := ⟨_, rfl⟩
  have hnonneg : 0 ≤ y := by
    rw [hy]
    positivity
  have hround : roundAt rm (.ofVal s m e) 0 = (roundNat rm s y, decide (y - ⌊y⌋₊ ≠ 0)) :=
    roundAt_eq rfl rm (by simp [hy, magnitude, Exact.ofVal])
  have hint : roundRat rm (termRat (s, m, e)) = signedInt s (roundNat rm s y) := by
    rw [termRat, ← hy, roundRat_signed hnonneg hrm]
  have hexact : (signedInt s (roundNat rm s y) : Rat) = termRat (s, m, e) ↔ y - ⌊y⌋₊ = 0 := by
    rw [cast_signedInt, termRat, ← hy, (signed_injective s).eq_iff, roundNat_exact_iff]
  have hflag : flagIf (decide (y - ⌊y⌋₊ ≠ 0)) flagNX = if y - ⌊y⌋₊ = 0 then 0 else flagNX := by simp [flagIf]
  simp only [toInt, hread, valOf, hround, hint, hexact, hflag]
  rfl

/-- R69, float to integer. -/
theorem toInt_spec (f : Fmt) {rm : Nat} (sg : Bool) (n a : Nat) (hrm : rm < 4) :
    let r := toInt f rm sg n a
    (∀ x, ratOf (f.read a) = some x →
      let i := roundRat rm x
      (intLo sg n ≤ i → i ≤ intHi sg n → r = (wrapTo n i, if (i : Rat) = x then 0 else flagNX)) ∧
      (i < intLo sg n → r = (wrapTo n (intLo sg n), flagNV)) ∧
      (intHi sg n < i → r = (wrapTo n (intHi sg n), flagNV))) ∧
    ((f.read a).isNan = true → r = (0, flagNV)) ∧
    (f.read a = .inf false → r = (wrapTo n (intHi sg n), flagNV)) ∧
    (f.read a = .inf true → r = (wrapTo n (intLo sg n), flagNV)) := by
  intro r
  refine ⟨fun x hx => ?finite, fun hnan => ?nan, fun hinf => by simp [r, toInt, hinf], fun hinf => by simp [r, toInt, hinf]⟩
  case finite =>
    intro i
    have hr : r = _ := toInt_finite hx hrm sg n
    rw [hr]
    refine ⟨fun hlo hhi => ?_, fun hlo => if_pos hlo, fun hhi => ?_⟩
    · rw [if_neg hlo.not_gt, if_neg hhi.not_gt]
    · rw [if_neg ((intLo_le_intHi sg n).trans hhi.le).not_gt, if_pos hhi]
  case nan =>
    obtain ⟨q, hq⟩ : ∃ q, f.read a = .nan q := by
      cases hv : f.read a <;> simp [hv, FVal.isNan] at hnan ⊢
    simp [r, toInt, hq]

/-! ### Integer to MK8 -/

/-- Two distinct codes without a sign have distinct magnitudes. -/
theorem mk8Mag_injOn {c d : Nat} (hc : c < 128) (hd : d < 128) (h : mk8Mag c = mk8Mag d) : c = d := by
  have hnodup : ((List.range 128).map mk8Mag).Nodup := mk8Mags ▸ (by decide +kernel : mk8Table.Nodup)
  exact List.inj_on_of_nodup_map hnodup (List.mem_range.mpr hc) (List.mem_range.mpr hd) h

/-- The codes lo and hi bracket a magnitude of X units of 2^−10 among the codes below n. -/
structure Mk8Brackets (X n lo hi : Nat) : Prop where
  lo_lt : lo < 128
  hi_lt : hi < 128
  lo_le : mk8Mag lo ≤ X
  le_hi : X ≤ mk8Mag hi
  greatest : ∀ c < n, mk8Mag c ≤ X → mk8Mag c ≤ mk8Mag lo
  least : ∀ c < n, X ≤ mk8Mag c → mk8Mag hi ≤ mk8Mag c

/-- One step of the search. -/
def mk8Step (X : Nat) (b : Nat × Nat) (c : Nat) : Nat × Nat :=
  (if mk8Mag c ≤ X ∧ mk8Mag b.1 ≤ mk8Mag c then c else b.1, if X ≤ mk8Mag c ∧ mk8Mag c ≤ mk8Mag b.2 then c else b.2)

theorem mk8Brackets_step {X n lo hi : Nat} (h : Mk8Brackets X n lo hi) (hn : n < 128) :
    Mk8Brackets X (n + 1) (mk8Step X (lo, hi) n).1 (mk8Step X (lo, hi) n).2 := by
  obtain ⟨hlo, hhi, hle, hge, hgreatest, hleast⟩ := h
  simp only [mk8Step]
  constructor
  case lo_lt | hi_lt | lo_le | le_hi => split <;> omega
  case greatest =>
    intro c hc hcX
    rcases Nat.lt_succ_iff_lt_or_eq.mp hc with hc | rfl
    · have := hgreatest c hc hcX
      split <;> omega
    · split <;> omega
  case least =>
    intro c hc hcX
    rcases Nat.lt_succ_iff_lt_or_eq.mp hc with hc | rfl
    · have := hleast c hc hcX
      split <;> omega
    · split <;> omega

theorem mk8Brackets_foldl {X : Nat} (hX : X ≤ mk8Mag 1) {n : Nat} (hn : n ≤ 128) :
    Mk8Brackets X n ((List.range n).foldl (mk8Step X) (0, 1)).1 ((List.range n).foldl (mk8Step X) (0, 1)).2 := by
  induction n with
  | zero =>
    rw [List.range_zero, List.foldl_nil]
    exact ⟨by omega, by omega, Nat.zero_le X, hX, nofun, nofun⟩
  | succ n ih =>
    rw [List.range_succ, List.foldl_concat]
    exact mk8Brackets_step (ih (Nat.le_of_succ_le hn)) hn

/-- The model's search for an integer is the one in units of 2^−10. -/
theorem mk8Bracket_integer (neg : Bool) (m : Nat) : mk8Bracket (.ofVal neg m 0) = (List.range 128).foldl (mk8Step (m * 1024)) (0, 1) := by
  dsimp only [mk8Bracket, Exact.ofVal]
  congr 1
  funext b c
  have habove : (m * 1024 < mk8Mag c ∨ mk8Mag c = m * 1024) ↔ m * 1024 ≤ mk8Mag c := by omega
  simp [mk8Step, habove]

theorem mk8Mag_one : mk8Mag 1 = 1048576 := by decide

/-- A magnitude of at most 1,024 is one of MK8's exactly when its two neighbours are the same code. -/
theorem mk8Brackets_exact_iff {X lo hi : Nat} (h : Mk8Brackets X 128 lo hi) :
    (lo = hi ↔ mk8Mag lo = X) ∧ (lo = hi ↔ mk8Mag hi = X) := by
  obtain ⟨hlo, hhi, hle, hge, hgreatest, hleast⟩ := h
  have hsame : lo = hi → mk8Mag lo = X := by
    rintro rfl
    exact le_antisymm hle hge
  refine ⟨⟨hsame, fun heq => mk8Mag_injOn hlo hhi ?_⟩, ⟨fun heq => heq ▸ hsame heq, fun heq => mk8Mag_injOn hlo hhi ?_⟩⟩
  · exact heq.trans (le_antisymm hge (heq ▸ hleast lo hlo heq.ge))
  · exact (le_antisymm hle (heq ▸ hgreatest hi hhi heq.le)).trans heq.symm

/-- R63, R71: a non-zero value of at most 1,024 goes to one of its two neighbours, inexact when they differ. -/
theorem roundMk8_between {x : Exact} (hx : x.m ≠ 0) (hover : mk8Over x = false) :
    ∃ c, (c = (mk8Bracket x).1 ∨ c = (mk8Bracket x).2) ∧ roundMk8 x =
      if (mk8Bracket x).1 = (mk8Bracket x).2 then (Fmt.mk8.signed x.neg (mk8Bracket x).1, 0)
      else (if c = 0 then 0 else Fmt.mk8.signed x.neg c, flagNX ||| flagIf (mk8Tiny x) flagUF) := by
  unfold roundMk8
  rw [if_neg (by simp [hx]), if_neg (by simp [hover])]
  generalize mk8Bracket x = b
  refine ⟨_, ?_, rfl⟩
  dsimp only
  generalize (if x.e ≤ -10 then _ else _ : Nat × Nat) = p
  split_ifs <;> simp

/-- The code that is delivered for a choice c reads as an integer exactly when c has its magnitude. -/
theorem mk8_reads_integer_iff {c m : Nat} (hc : c < 128) (neg : Bool) :
    ratOf (Fmt.mk8.read (if c = 0 then 0 else Fmt.mk8.signed neg c)) = some (signed neg m) ↔ mk8Mag c = m * 1024 := by
  have hval : ratOf (Fmt.mk8.read (if c = 0 then 0 else Fmt.mk8.signed neg c)) = some (signed neg ((mk8Mag c : Rat) / 1024)) := by
    split
    case isTrue hzero =>
      subst hzero
      simpa [mk8Mag, Fmt.signed] using ratOf_read_mk8 (c := 0) (by omega) false nofun
    case isFalse hpos => exact ratOf_read_mk8 hc neg fun _ => Nat.pos_of_ne_zero hpos
  rw [hval, Option.some_inj, (signed_injective neg).eq_iff, div_eq_iff (by norm_num)]
  norm_cast

/-- R71 for an integer in MK8: NX is raised exactly when the result is not the integer, and with every OF. -/
theorem roundMk8_integer (neg : Bool) (m : Nat) :
    ((roundMk8 (.ofVal neg m 0)).2 &&& flagNX = 0 ↔ ratOf (Fmt.mk8.read (roundMk8 (.ofVal neg m 0)).1) = some (signed neg m)) ∧
    ((roundMk8 (.ofVal neg m 0)).2 &&& flagOF ≠ 0 → (roundMk8 (.ofVal neg m 0)).2 &&& flagNX ≠ 0) := by
  rcases Nat.eq_zero_or_pos m with rfl | hpos
  case inl =>
    have hzero : roundMk8 (.ofVal neg 0 0) = (0, 0) := by simp [roundMk8, Exact.ofVal]
    rw [hzero]
    exact ⟨by simp [Fmt.read, Fmt.width, ratOf_fin, mk8Mag], by simp⟩
  have hover : mk8Over (.ofVal neg m 0) = decide (1024 < m) := by simp [mk8Over, Exact.ofVal]
  rcases Nat.lt_or_ge 1024 m with hbig | hin
  case inl =>
    have hround : roundMk8 (.ofVal neg m 0) = (if 1 = 0 then 0 else Fmt.mk8.signed neg 1, flagOF ||| flagNX) := by
      unfold roundMk8
      rw [if_neg (by simp [Exact.ofVal, hpos.ne']), if_pos (by rw [hover, decide_eq_true hbig])]
      rfl
    rw [hround, mk8_reads_integer_iff (by omega), mk8Mag_one]
    have hNX : (flagOF ||| flagNX) &&& flagNX ≠ 0 := by decide
    exact ⟨iff_of_false hNX (by omega), fun _ => hNX⟩
  case inr =>
    obtain ⟨c, hc, hround⟩ := roundMk8_between (x := .ofVal neg m 0) hpos.ne' (by rw [hover, decide_eq_false hin.not_gt])
    have hb := mk8Brackets_foldl (X := m * 1024) (by rw [mk8Mag_one]; omega) (le_refl 128)
    rw [← mk8Bracket_integer neg] at hb
    obtain ⟨hlo, hhi⟩ := mk8Brackets_exact_iff hb
    rw [hround]
    split
    case isTrue hsame =>
      have hmag := hlo.mp hsame
      have hne : (mk8Bracket (.ofVal neg m 0)).1 ≠ 0 := fun h => by
        rw [h, show mk8Mag 0 = 0 from rfl] at hmag
        omega
      have hread := (mk8_reads_integer_iff hb.lo_lt neg).mpr hmag
      rw [if_neg hne] at hread
      exact ⟨iff_of_true (by simp) hread, by simp⟩
    case isFalse hdiff =>
      have hlt : c < 128 := hc.elim (· ▸ hb.lo_lt) (· ▸ hb.hi_lt)
      have hmag : mk8Mag c ≠ m * 1024 := hc.elim (fun h => h ▸ mt hlo.mpr hdiff) (fun h => h ▸ mt hhi.mpr hdiff)
      have hNX : (flagNX ||| flagIf (mk8Tiny (.ofVal neg m 0)) flagUF) &&& flagNX ≠ 0 := by
        cases mk8Tiny (.ofVal neg m 0) <;> decide
      exact ⟨iff_of_false hNX (mt (mk8_reads_integer_iff hlt neg).mp hmag), fun _ => hNX⟩

/-! ### Integer to float -/

theorem exactRat_integer (i : Int) : exactRat (.ofVal (i < 0) i.natAbs 0) = i := by
  rw [exactRat_eq]
  rcases lt_or_ge i 0 with h | h
  · simp [Exact.ofVal, magnitude, h, Nat.cast_natAbs, abs_of_neg h]
  · simp [Exact.ofVal, magnitude, h.not_gt, Nat.cast_natAbs, abs_of_nonneg h]

/-- R69, integer to float: the integer rounded, NX exactly when the result is not the integer, and with every OF. -/
theorem ofInt_spec (f : Fmt) (rm : Nat) (i : Int) :
    let r := ofInt f rm false i
    (∃ e, e.sticky = false ∧ exactRat e = i ∧ r = f.round rm false e) ∧
    (r.2 &&& flagNX = 0 ↔ ratOf (f.read r.1) = some (i : Rat)) ∧
    (r.2 &&& flagOF ≠ 0 → r.2 &&& flagNX ≠ 0) := by
  intro r
  refine ⟨⟨.ofVal (i < 0) i.natAbs 0, rfl, exactRat_integer i, rfl⟩, ?_⟩
  rw [← exactRat_integer i]
  by_cases hf : f ∈ fieldFormats
  case pos => exact ⟨round_inexact_iff hf rm false rfl, round_overflow_inexact hf rm false rfl⟩
  case neg =>
    obtain rfl : f = .mk8 := by
      cases f with
      | mk8 => rfl
      | _ => exact absurd (by decide) hf
    have hmag : magnitude (.ofVal (i < 0) i.natAbs 0) = i.natAbs := by simp [magnitude, Exact.ofVal]
    rw [exactRat_eq, hmag]
    exact roundMk8_integer _ _

/-! ### The statement -/

/-- Settles O9: both directions round one exact value, and NX is raised exactly when the result is not the operand. -/
theorem floatIntegerConversion : Obligations.FloatIntegerConversion := by
  unfold Obligations.FloatIntegerConversion
  exact ⟨fun f rm sg n a _ hrm => toInt_spec f sg n a hrm, fun f rm i _ => ofInt_spec f rm i⟩

end Sys2Proof.Proofs
end

section
/-! PROOF. The elements of a fragment product (O14). -/

namespace Sys2Proof.Proofs

open Sys2Proof Sys2Proof.Machine Sys2Proof.Claims

/-- The blocks of a set: one for each row and column that is on (R114, R120). -/
theorem mem_mmaBlocks {a : Arch} {w : FullX} {f : Nat} {row col dep : Nat → Bool} {b : MatBlock} :
    b ∈ mmaBlocks a w f row col dep ↔ ∃ i n, i < 16 ∧ n < 16 ∧ row i = true ∧ col n = true ∧
      b = (w.d.toNat + n % 8, 32 * f + i + 16 * (n / 8),
        ((List.range (matK w.fmt.toNat)).filter dep).map (fragHalf a w.fmt.toNat w.a.toNat (32 * f + i) 16),
        ((List.range (matK w.fmt.toNat)).filter dep).map (fragHalf a w.fmt.toNat w.b.toNat (32 * f + n) 16)) := by
  simp only [mmaBlocks, List.mem_flatMap, List.mem_range]
  constructor
  · rintro ⟨i, hi, hb⟩
    cases hrow : row i with
    | false => simp [hrow] at hb
    | true =>
      simp only [hrow, Bool.not_true, Bool.false_eq_true, if_false, List.mem_filterMap, List.mem_range] at hb
      obtain ⟨n, hn, hb⟩ := hb
      cases hcol : col n with
      | false => simp [hcol] at hb
      | true =>
        refine ⟨i, n, hi, hn, hrow, hcol, ?_⟩
        simpa [hcol, hi, hn] using hb.symm
  · rintro ⟨i, n, hi, hn, hrow, hcol, rfl⟩
    refine ⟨i, hi, ?_⟩
    simp only [hrow, Bool.not_true, Bool.false_eq_true, if_false, List.mem_filterMap, List.mem_range]
    exact ⟨n, hn, by simp [hcol, hi, hn]⟩

theorem foldl_add_eq_sum {α : Type} (g : α → Int) (l : List α) (z : Int) : l.foldl (fun s p => s + g p) z = (l.map g).sum + z := by
  induction l generalizing z with
  | nil => simp
  | cons p l ih =>
    rw [List.foldl_cons, ih, List.map_cons, List.sum_cons]
    ring

/-- A byte read as a signed integer. -/
theorem intOf_byte {x : Nat} (hx : x < 256) : intOf true 8 x = (BitVec.ofNat 8 x).toInt := by
  have hbit : x.testBit 7 = decide (128 ≤ x) := by
    rw [Nat.testBit_eq_decide_div_mod_eq, decide_eq_decide]
    omega
  rw [intOf, BitVec.toInt_eq_toNat_cond, BitVec.toNat_ofNat, Nat.mod_eq_of_lt hx, hbit]
  by_cases h : 128 ≤ x
  · rw [if_pos (by simpa using h), if_neg (by omega)]
    rfl
  · rw [if_neg (by simpa using h), if_pos (by omega)]

/-- The pattern of an integer in 32 bits. -/
theorem wrapTo_word (i : Int) : wrapTo 32 i = (BitVec.ofInt 32 i).toNat := by
  rw [BitVec.toNat_ofInt]
  rfl

/-- R77: the integer block, modulo 2^32. -/
theorem blockResult_bytes (acc : Option Nat) {xs ys : List Nat} (hx : ∀ x ∈ xs, x < 256) (hy : ∀ y ∈ ys, y < 256) :
    blockResult 3 acc xs ys = ((BitVec.ofInt 32 (((xs.zip ys).map
      (fun z => (BitVec.ofNat 8 z.1).toInt * (BitVec.ofNat 8 z.2).toInt)).sum + acc.getD 0)).toNat, 0) := by
  have hmap : (xs.zip ys).map (fun z => intOf true 8 z.1 * intOf true 8 z.2) =
      (xs.zip ys).map (fun z => (BitVec.ofNat 8 z.1).toInt * (BitVec.ofNat 8 z.2).toInt) :=
    List.map_congr_left fun z hz => by
      obtain ⟨h1, h2⟩ := List.of_mem_zip hz
      rw [intOf_byte (hx _ h1), intOf_byte (hy _ h2)]
  rw [← wrapTo_word, ← hmap, ← foldl_add_eq_sum]
  rfl

/-! ### The statement -/

/-- Settles O14: the elements are those of the blocks, and the integer block is the sum of its byte products. -/
theorem fragmentElements : Obligations.FragmentElements := by
  unfold Obligations.FragmentElements
  refine ⟨fun a w f row col dep r => ?_, fun acc xs ys _ hx hy => blockResult_bytes acc hx hy⟩
  simp only [mmaSet, List.mem_map, mem_mmaBlocks]
  constructor
  · rintro ⟨b, ⟨i, n, hi, hn, hrow, hcol, rfl⟩, rfl⟩
    exact ⟨i, n, hi, hn, hrow, hcol, rfl⟩
  · rintro ⟨i, n, hi, hn, hrow, hcol, rfl⟩
    exact ⟨_, ⟨i, n, hi, hn, hrow, hcol, rfl⟩, rfl⟩

end Sys2Proof.Proofs
end

section
/-! PROOF. How a lane-by-lane word ends, whatever it computes. -/

namespace Sys2Proof.Proofs

open Sys2Proof Sys2Proof.Machine Sys2Proof.Claims

theorem orFlags_none (a : Arch) : a.orFlags 0 = a := by
  simp [Arch.orFlags]

theorem unionFlags_none (ls : List Nat) (val : Nat → Nat) : unionFlags (ls.map (fun l => (l, val l, 0))) = 0 := by
  unfold unionFlags
  induction ls with
  | nil => rfl
  | cons l ls ih => simpa using ih

theorem quiet_eq_hushed (t : Team) (w : Word1) : t.quiet w = hushed t w.hd.sw := by
  unfold Team.quiet hushed
  split <;> rfl

section
variable {s : State} {t : Team} {d : BitVec 11} {k : DstKind} {once : Bool} {rs : List LaneResult}

theorem aluEffect_done (h : unionFlags rs &&& t.arch.enables = 0) : aluEffect s t d k once false rs =
    .done s { t with arch := (t.arch.writeResults d k rs).orFlags (unionFlags rs) } none := by
  have hnone : arithTrapOf t.arch once rs = none := if_pos h
  simp [aluEffect, hnone]

theorem aluEffect_trap {tr : Trap} (h : arithTrapOf t.arch once rs = some tr) : aluEffect s t d k once false rs = .trap tr := by
  simp [aluEffect, h]

end

/-- A trap that already tells of a word executed once is reported as it stands. -/
theorem report_of_once {w : Word1} {tr : Trap} (h : w.once = true → tr.once = true) : w.report tr = tr := by
  cases hw : w.once with
  | false => exact Laws.report_lanes tr hw
  | true =>
    rw [Laws.report_once tr hw, ← h hw]

section
variable {s s1 : State} {t : Team} {o : AluOp} {chk : State → Team → Option Trap} {eff : State → Team → WordEnd}

/-- A word that keeps an operation's form goes where the operation's own word goes. -/
theorem goes_with_effect (hg : Goes s t o.word) (hc : chk s t = none) : Goes s t { o.word with check := chk, effect := eff } :=
  ⟨hg.running, Laws.passes_congr hg.passes rfl (hc.trans hg.passes.check.symm) rfl rfl rfl, Laws.fits_congr hg.fits rfl rfl⟩

/-- With no enabled flag raised, the results are written and their flags gathered (R73). -/
theorem issueWord_results {rs : List LaneResult} (hg : Goes s t o.word) (hc : chk s t = none) (hs : s1.teams = s.teams)
    (he : eff s t = aluEffect s1 t o.d o.kind o.once false rs) (hfl : unionFlags rs &&& t.arch.enables = 0) :
    issueWord { o.word with check := chk, effect := eff } s = .next (s1.finish
      ({ t with arch := (t.arch.writeResults o.d o.kind rs).orFlags (unionFlags rs) }.note (o.word.demand s t)) o.word none) := by
  obtain ⟨hr, hp, hf⟩ := goes_with_effect (eff := eff) hg hc
  rw [Laws.issueWord_done hr hp hf (he.trans (aluEffect_done hfl)) rfl rfl hs, Laws.markHits_none _ _ rfl]
  exact congrArg _ (Laws.finish_congr _ _ _ rfl rfl rfl rfl)

/-- With an enabled flag raised, nothing is written and ARITH_EXC is taken (R74). -/
theorem issueWord_arithExc {rs : List LaneResult} (hg : Goes s t o.word) (hc : chk s t = none)
    (he : eff s t = aluEffect s1 t o.d o.kind o.once false rs) (hfl : unionFlags rs &&& t.arch.enables ≠ 0) :
    issueWord { o.word with check := chk, effect := eff } s = .next (s.takeTrap (hushed t o.hd.sw)
      { cause := .arithExc, eaddr := t.arch.pc, once := o.once, einfo := (unionFlags rs).zeroExtend 32,
        emask := if o.once then 0 else maskOfList ((rs.filter (fun r => r.2.2 &&& t.arch.enables != 0)).map (·.1)) }) := by
  obtain ⟨hr, hp, hf⟩ := goes_with_effect (eff := eff) hg hc
  rw [Laws.issueWord_trap hr hp hf (he.trans (aluEffect_trap (if_neg hfl))), quiet_eq_hushed, report_of_once fun h => (Bool.and_eq_true_iff.mp h).1]
  rfl

theorem ends_of_effect {i : Instr} {rs : List LaneResult} (hg : Goes s t o.word) (hc : chk s t = none)
    (hx : exec i s = issueWord { o.word with check := chk, effect := eff } s)
    (he : eff s t = aluEffect s t o.d o.kind o.once false rs) : Ends i s t o rs := by
  rw [Ends, hx]
  exact ⟨issueWord_results hg hc rfl he, issueWord_arithExc hg hc he⟩

/-- Results without flags are written. -/
theorem issueWord_wrote {val : Nat → Nat} (hg : Goes s t o.word) (hc : chk s t = none) (hs : s1.teams = s.teams)
    (he : eff s t = aluEffect s1 t o.d o.kind o.once false ((lanes o t).map (fun l => (l, val l, 0)))) :
    issueWord { o.word with check := chk, effect := eff } s = .next (wrote s1 t o val) := by
  have hfl := unionFlags_none (lanes o t) val
  rw [issueWord_results hg hc hs he (by rw [hfl]; exact BitVec.zero_and), hfl, orFlags_none]
  rfl

end

/-- An operation whose function raises no flag writes that function's value in every lane. -/
theorem writes_of_alu {i : Instr} {s : State} {t : Team} {o : AluOp} {g : Nat → Nat → List Nat → Nat × Flags} {f : Nat → List Nat → Nat}
    (hg : Goes s t o.word) (hlong : o.long = false) (hx : exec i s = issueWord { o with f := g : AluOp }.word s)
    (hv : ∀ l, g l (o.old t.arch l) (sources o t.arch l) = (f (o.old t.arch l) (sources o t.arch l), 0)) : Writes i s t o f := by
  refine hx.trans (issueWord_wrote (o := o) (chk := o.word.check) (eff := { o with f := g : AluOp }.word.effect) hg hg.passes.check rfl ?_)
  have hrs : AluOp.results { o with f := g } t =
      (lanes o t).map (fun l => (l, f (o.old t.arch l) (sources o t.arch l), 0)) :=
    List.map_congr_left fun l _ => congrArg (Prod.mk l) (hv l)
  rw [← hrs, ← hlong]
  rfl

section
variable {i : Instr} {s : State} {t : Team} {w : FullA} {k : DstKind} {f : Nat → List Nat → Nat}

/-- The value of operand A in a lane, and that of B or its immediate. -/
def valA (w : FullA) (a : Arch) (l : Nat) : Nat := (Src.op (opd w.a)).read a w.ty.toNat l
def valB (w : FullA) (a : Arch) (l : Nat) : Nat := (srcB w.b w.ext).read a w.ty.toNat l

theorem writes_of_bin {g : Nat → Nat → Nat → Nat} (hg : Goes s t (form2 w k).word) (hx : exec i s = issueWord (bin w k g).word s)
    (hv : ∀ l, let old := (form2 w k).old t.arch l
      g old (valA w t.arch l) (valB w t.arch l) = f old [valA w t.arch l, valB w t.arch l]) :
    Writes i s t (form2 w k) f :=
  writes_of_alu hg rfl hx fun l => congrArg (·, 0) (hv l)

theorem writes_of_un {g : Nat → Nat} (hg : Goes s t (form1 w k).word) (hx : exec i s = issueWord (un w k g).word s)
    (hv : ∀ l, g (valA w t.arch l) = f ((form1 w k).old t.arch l) [valA w t.arch l]) : Writes i s t (form1 w k) f :=
  writes_of_alu hg rfl hx fun l => congrArg (·, 0) (hv l)

end

end Sys2Proof.Proofs
end

section
/-! PROOF. The integer words of two elements (O1). -/

namespace Sys2Proof.Proofs

open Sys2Proof Sys2Proof.Machine Sys2Proof.Claims

/-! ### Integers and bit patterns -/

theorem wrapTo_eq (n : Nat) (z : Int) : wrapTo n z = (BitVec.ofInt n z).toNat := by
  rw [BitVec.toNat_ofInt]
  exact_mod_cast rfl

theorem tyWidth_pos (ty : Nat) : 0 < tyWidth ty := by
  unfold tyWidth tyCount elemCount
  repeat' split
  all_goals decide

theorem elemAt_lt (n v j : Nat) : elemAt n v j < 2 ^ n := Nat.mod_lt _ (by positivity)

/-- The integer that a code is read as is the one that its bits denote (R64). -/
theorem intOf_eq_asInt {n e : Nat} (hn : 0 < n) (he : e < 2 ^ n) (sg : Bool) : intOf sg n e = asInt sg (BitVec.ofNat n e) := by
  cases sg with
  | false => simp [intOf, asInt, Nat.mod_eq_of_lt he]
  | true =>
    have hmsb : (BitVec.ofNat n e).msb = e.testBit (n - 1) := by
      rw [BitVec.msb_eq_getLsbD_last, BitVec.getLsbD_ofNat]
      simp [hn]
    simp [intOf, asInt, BitVec.toInt_eq_msb_cond, hmsb, Nat.mod_eq_of_lt he]

theorem ofInt_asInt (sg : Bool) {n : Nat} (x : BitVec n) : BitVec.ofInt n (asInt sg x) = x := by
  cases sg <;> simp [asInt]

theorem elements_congr {ty : Nat} {g g' : Nat → Nat} (h : ∀ j, g j = g' j) :
    joinElems (tyWidth ty) ((List.range (tyCount ty)).map g) = joinElems (tyWidth ty) ((List.range (tyCount ty)).map g') := by
  rw [funext h]

/-- An integer function of two elements is the bit-vector function that it is modulo 2^w. -/
theorem intElem2_eq_perElem {ty : Nat} {g : Int → Int → Int} {f : (n : Nat) → BitVec n → BitVec n → BitVec n → BitVec n} {old a b : Nat}
    (h : ∀ o x y : BitVec (tyWidth ty), BitVec.ofInt _ (g (asInt (tySigned ty) x) (asInt (tySigned ty) y)) = f _ o x y) :
    intElem2 ty g a b = perElem ty f old [a, b] := by
  refine elements_congr fun j => ?_
  have hread (v : Nat) := intOf_eq_asInt (tyWidth_pos ty) (elemAt_lt (tyWidth ty) v j) (tySigned ty)
  simp only [hread, wrapTo_eq]
  exact congrArg BitVec.toNat (h _ _ _)

/-! ### The element functions -/

theorem emod_sq_ediv (z : Int) (n : Nat) : z % (2 ^ n * 2 ^ n) / 2 ^ n = z / 2 ^ n % 2 ^ n := by
  have hpow : (0 : Int) < 2 ^ n := by positivity
  rw [Int.emod_def, Int.emod_def, Int.mul_assoc, Int.sub_mul_ediv_left _ _ hpow.ne', Int.ediv_ediv_of_nonneg hpow.le]

/-- The upper half of a pattern of 2w bits is that of the quotient by 2^w. -/
theorem extractLsb'_ofInt_upper (n : Nat) (z : Int) : (BitVec.ofInt (2 * n) z).extractLsb' n n = BitVec.ofInt n (z / 2 ^ n) := by
  have hcast (m : Nat) (i : Int) : ((BitVec.ofInt m i).toNat : Int) = i % 2 ^ m := by
    rw [BitVec.toNat_ofInt]
    push_cast
    exact Int.toNat_of_nonneg (Int.emod_nonneg _ (by positivity))
  apply BitVec.eq_of_toNat_eq
  zify
  rw [BitVec.extractLsb'_toNat, Nat.shiftRight_eq_div_pow]
  push_cast
  rw [hcast, hcast, two_mul, pow_add, emod_sq_ediv, Int.emod_emod_of_dvd _ dvd_rfl]

theorem intMin_eq {n : Nat} (hn : 0 < n) : BitVec.intMin n = BitVec.ofInt n (-2 ^ (n - 1)) := by
  rw [← BitVec.toInt_intMin_of_pos hn, BitVec.ofInt_toInt]

theorem intMax_eq (n : Nat) : BitVec.intMax n = BitVec.ofInt n (2 ^ (n - 1) - 1) := by
  rw [← BitVec.toInt_intMax, BitVec.ofInt_toInt]

theorem allOnes_eq (n : Nat) : BitVec.allOnes n = BitVec.ofInt n (2 ^ n - 1) := by
  have hone : 1 ≤ 2 ^ n := Nat.one_le_two_pow
  have hnat : ((2 : Int) ^ n - 1) = (BitVec.allOnes n).toNat := by
    rw [BitVec.toNat_allOnes]
    push_cast [hone]
    rfl
  rw [hnat, BitVec.ofInt_natCast, BitVec.ofNat_toNat, BitVec.setWidth_eq]

section
variable {n : Nat} (sg : Bool) (x y : BitVec n)

theorem mulUpper_eq : mulUpper sg n x y = BitVec.ofInt n (asInt sg x * asInt sg y / 2 ^ n) := by
  rw [← extractLsb'_ofInt_upper, BitVec.ofInt_mul]
  cases sg <;> simp [mulUpper, asInt, BitVec.signExtend]

/-- The clamped sum is the sum, or the bound that it passes. -/
theorem satAdd_eq (hn : 0 < n) : satAdd sg n x y =
    BitVec.ofInt n (min (max (asInt sg x + asInt sg y) (intLo sg n)) (intHi sg n)) := by
  have hsum := BitVec.ofInt_add (asInt sg x) (asInt sg y) (n := n)
  rw [ofInt_asInt, ofInt_asInt] at hsum
  have hpow : (0 : Int) < 2 ^ (n - 1) := by positivity
  cases sg with
  | false =>
    simp only [satAdd, asInt, intLo, intHi, Bool.false_eq_true, if_false] at hsum ⊢
    zify
    split
    · rw [allOnes_eq]
      congr 1
      omega
    · rw [← hsum]
      congr 1
      omega
  | true =>
    simp only [satAdd, asInt, intLo, intHi, if_true] at hsum ⊢
    split
    · rw [intMin_eq hn]
      congr 1
      omega
    · split
      · rw [intMax_eq]
        congr 1
        omega
      · rw [← hsum]
        congr 1
        omega

end

/-- Settles O1: each element function is the integer one modulo 2^w. -/
theorem integerArithmeticOfTwo : Obligations.IntegerArithmeticOfTwo := by
  unfold Obligations.IntegerArithmeticOfTwo
  intro s t w hg ty o sg
  have hpos := tyWidth_pos ty
  have two {i : Instr} {g : Int → Int → Int} {f : (n : Nat) → BitVec n → BitVec n → BitVec n → BitVec n}
      (hx : exec i s = issueWord (bin w .one (fun _ a b => intElem2 ty g a b)).word s)
      (h : ∀ o x y : BitVec (tyWidth ty), BitVec.ofInt _ (g (asInt sg x) (asInt sg y)) = f _ o x y) :
      Writes i s t o (perElem ty f) :=
    writes_of_bin hg hx fun _ => intElem2_eq_perElem h
  refine ⟨two rfl fun _ x y => ?add, two rfl fun _ x y => ?sub, two rfl fun _ x y => ?mul, two rfl fun _ x y => ?upper,
    writes_of_bin hg rfl fun l => elements_congr fun j => ?mulAdd, two rfl fun _ x y => ?least, two rfl fun _ x y => ?greatest,
    two rfl fun _ x y => ?saturated⟩
  case add => rw [BitVec.ofInt_add, ofInt_asInt, ofInt_asInt]
  case sub => rw [Int.sub_eq_add_neg, BitVec.ofInt_add, BitVec.ofInt_neg, ofInt_asInt, ofInt_asInt, BitVec.sub_eq_add_neg]
  case mul => rw [BitVec.ofInt_mul, ofInt_asInt, ofInt_asInt]
  case upper => exact (mulUpper_eq sg x y).symm
  case mulAdd => simp [ty]
  case least => rw [apply_ite (BitVec.ofInt _), ofInt_asInt, ofInt_asInt]
  case greatest => rw [apply_ite (BitVec.ofInt _), ofInt_asInt, ofInt_asInt]
  case saturated => exact (satAdd_eq sg x y hpos).symm

end Sys2Proof.Proofs
end

section
/-! PROOF. The logic words, MOV and the shifts (O2). -/

namespace Sys2Proof.Proofs

open Sys2Proof Sys2Proof.Machine Sys2Proof.Claims

/-! ### A source value fits in the bits of its type -/

theorem joinElems_lt (n : Nat) (es : List Nat) : joinElems n es < 2 ^ (n * es.length) := by
  induction es with
  | nil => simp [joinElems]
  | cons e es ih =>
    have hlow : e % 2 ^ n < 2 ^ n := Nat.mod_lt _ (by positivity)
    calc e % 2 ^ n + 2 ^ n * joinElems n es
      _ < 2 ^ n * (joinElems n es + 1) := by rw [mul_add_one]; omega
      _ ≤ 2 ^ n * 2 ^ (n * es.length) := Nat.mul_le_mul_left _ ih
      _ = 2 ^ (n * (es.length + 1)) := by rw [← pow_add, mul_add_one, add_comm]

theorem tyCount_cases (ty : Nat) : tyCount ty = 1 ∨ tyCount ty = 2 ∨ tyCount ty = 4 := by
  unfold tyCount elemCount
  split <;> simp

theorem tyWidth_mul_tyCount (ty : Nat) : tyWidth ty * tyCount ty = tyBits ty := by
  unfold tyWidth tyBits
  cases hwide : wideTy ty with
  | true =>
    obtain rfl | rfl | rfl : ty = 9 ∨ ty = 13 ∨ ty = 14 := by simpa [wideTy, or_assoc] using hwide
    all_goals rfl
  | false => rcases tyCount_cases ty with h | h | h <;> rw [h] <;> rfl

theorem replElem_lt (ty e : Nat) : replElem (tyWidth ty) (tyCount ty) e < 2 ^ tyBits ty := by
  simpa [replElem, tyWidth_mul_tyCount] using joinElems_lt (tyWidth ty) (List.replicate (tyCount ty) e)

theorem le_tyBits (ty : Nat) : 32 ≤ tyBits ty := by
  unfold tyBits
  split <;> decide

theorem lt_tyBits {x : Nat} (ty : Nat) (h : x < 2 ^ 32) : x < 2 ^ tyBits ty :=
  h.trans_le (Nat.pow_le_pow_right two_pos (le_tyBits ty))

theorem constPattern_lt (i : Nat) : constPatterns.getD i 0 < 2 ^ 32 ∧ widen32 (constPatterns.getD i 0) < 2 ^ 64 := by
  have hall : ∀ p ∈ 0 :: constPatterns, p < 2 ^ 32 ∧ widen32 p < 2 ^ 64 := by decide +kernel
  refine hall _ ?_
  rw [List.getD_eq_getElem?_getD]
  cases hp : constPatterns[i]? with
  | none => simp
  | some p => exact List.mem_cons_of_mem _ (List.mem_of_getElem? hp)

theorem wrapTo_lt (n : Nat) (z : Int) : wrapTo n z < 2 ^ n := by
  rw [wrapTo_eq]
  exact BitVec.isLt _

theorem constVal_lt (ty c : Nat) : constVal ty c < 2 ^ tyBits ty := by
  obtain ⟨hword, hwiden⟩ := constPattern_lt (c - 48)
  unfold constVal
  split
  · split
    · exact replElem_lt ty _
    · split
      case isTrue hwide => simpa [tyBits, hwide] using wrapTo_lt 64 _
      case isFalse => exact replElem_lt ty _
  · dsimp only
    split
    · exact replElem_lt 7 _
    · exact replElem_lt 8 _
    · exact hwiden
    · exact lt_tyBits ty hword

theorem immVal_lt {ty : Nat} (hty : ty ≠ 9) (imm : Word) : immVal ty imm < 2 ^ tyBits ty := by
  unfold immVal
  split
  · contradiction
  · exact BitVec.isLt _
  · exact lt_tyBits ty imm.isLt

theorem pair_lt (lo hi : Word) : lo.toNat + 2 ^ 32 * hi.toNat < 2 ^ 64 := by
  have := lo.isLt
  have := hi.isLt
  omega

/-- A register, of the width that its type has. -/
theorem register_lt (ty : Nat) (lo hi : Word) :
    (if wideTy ty then lo.toNat + 2 ^ 32 * hi.toNat else lo.toNat) < 2 ^ tyBits ty := by
  unfold tyBits
  split
  · exact pair_lt lo hi
  · exact lo.isLt

theorem read_op_lt (o : Opd) (a : Arch) (ty l : Nat) : (Src.op o).read a ty l < 2 ^ tyBits ty := by
  cases o with
  | con c => exact constVal_lt ty c
  | scal n => exact register_lt ty _ _
  | vec n => exact register_lt ty _ _
  | ind k off => exact register_lt ty _ _
  | reserved => exact Nat.two_pow_pos _

theorem read_lt {ty : Nat} (hty : ty ≠ 9) (x : Src) (a : Arch) (l : Nat) : x.read a ty l < 2 ^ tyBits ty := by
  cases x with
  | op o => exact read_op_lt o a ty l
  | imm v => exact immVal_lt hty v

/-! ### Logic of whole values -/

section
variable {n x y : Nat} (hx : x < 2 ^ n) (hy : y < 2 ^ n)
include hx

theorem toNat_not_ofNat : (~~~BitVec.ofNat n x).toNat = 2 ^ n - 1 - x := by
  rw [BitVec.toNat_not, BitVec.toNat_ofNat, Nat.mod_eq_of_lt hx]

include hy

theorem toNat_and_ofNat : (BitVec.ofNat n x &&& BitVec.ofNat n y).toNat = x &&& y := by
  simp [Nat.mod_eq_of_lt hx, Nat.mod_eq_of_lt hy]

theorem toNat_or_ofNat : (BitVec.ofNat n x ||| BitVec.ofNat n y).toNat = x ||| y := by
  simp [Nat.mod_eq_of_lt hx, Nat.mod_eq_of_lt hy]

theorem toNat_xor_ofNat : (BitVec.ofNat n x ^^^ BitVec.ofNat n y).toNat = x ^^^ y := by
  simp [Nat.mod_eq_of_lt hx, Nat.mod_eq_of_lt hy]

/-- The bits of x that y lacks. -/
theorem toNat_andNot_ofNat : (BitVec.ofNat n x &&& ~~~BitVec.ofNat n y).toNat = x ^^^ (x &&& y) := by
  have hbits (u v : BitVec n) : u &&& ~~~v = u ^^^ (u &&& v) := by
    ext i
    simp only [BitVec.getElem_and, BitVec.getElem_not, BitVec.getElem_xor]
    cases u[i] <;> cases v[i] <;> rfl
  rw [hbits, BitVec.toNat_xor, toNat_and_ofNat hx hy, BitVec.toNat_ofNat, Nat.mod_eq_of_lt hx]

end

/-! ### Shifts of elements -/

section
variable {n : Nat} (x : BitVec n) (wrap : Bool) (c : Nat)

theorem shlElem_eq : shlElem n wrap x.toNat c = (x <<< shiftCount wrap n c).toNat := by
  simp only [shlElem]
  split
  case isTrue hout => simp [BitVec.shiftLeft_eq_zero hout]
  case isFalse => rw [BitVec.toNat_shiftLeft]

theorem shrElem_eq : shrElem n wrap x.toNat c = (x >>> shiftCount wrap n c).toNat := by
  simp only [shrElem]
  split
  case isTrue hout => simp [BitVec.ushiftRight_eq_zero hout]
  case isFalse => rw [BitVec.toNat_ushiftRight]

/-- Beyond the width an arithmetic shift leaves the sign alone. -/
theorem sshiftRight_min : x.sshiftRight (min c n) = x.sshiftRight c := by
  ext i hi
  rw [BitVec.getElem_sshiftRight, BitVec.getElem_sshiftRight]
  rcases le_total c n with h | h
  · simp [min_eq_left h]
  · rw [min_eq_right h, dif_neg (by omega), dif_neg (by omega)]

theorem sarElem_eq (hn : 0 < n) : sarElem n wrap x.toNat c = (x.sshiftRight (shiftCount wrap n c)).toNat := by
  rw [← sshiftRight_min, ← BitVec.ofInt_toInt (x := x.sshiftRight _), BitVec.toInt_sshiftRight, Int.shiftRight_eq_div_pow]
  unfold sarElem
  rw [wrapTo_eq, intOf_eq_asInt hn x.isLt, BitVec.ofNat_toNat, BitVec.setWidth_eq]
  simp [asInt]

theorem shiftLeft_mod_two_pow (v : Nat) {k n : Nat} (hk : k ≤ n) : v <<< k % 2 ^ n = (v % 2 ^ (n - k)) <<< k := by
  obtain ⟨d, rfl⟩ := Nat.exists_eq_add_of_le' hk
  rw [Nat.add_sub_cancel, Nat.shiftLeft_eq, Nat.shiftLeft_eq, pow_add, Nat.mul_mod_mul_right]

theorem rotlElem_eq (hn : 0 < n) : rotlElem n x.toNat c = (x.rotateLeft c).toNat := by
  have hc := (Nat.mod_lt c hn).le
  have hlow : x.toNat >>> (n - c % n) < 2 ^ (c % n) := by
    rw [Nat.shiftRight_eq_div_pow, Nat.div_lt_iff_lt_mul (by positivity), ← pow_add, Nat.add_sub_cancel' hc]
    exact x.isLt
  rw [BitVec.toNat_rotateLeft, rotlElem, shiftLeft_mod_two_pow _ hc]
  exact Nat.shiftLeft_add_eq_or_of_lt hlow _

end

/-- A function of two elements is the bit-vector function that it is on their bits. -/
theorem elems2_eq_perElem {ty : Nat} {g : Nat → Nat → Nat} {f : (n : Nat) → BitVec n → BitVec n → BitVec n → BitVec n} {old a b : Nat}
    (h : ∀ o x y : BitVec (tyWidth ty), g x.toNat y.toNat = (f _ o x y).toNat) : elems2 ty g a b = perElem ty f old [a, b] :=
  elements_congr fun j => by
    have hbits (v : Nat) : (BitVec.ofNat (tyWidth ty) (elemAt (tyWidth ty) v j)).toNat = elemAt (tyWidth ty) v j := by
      rw [BitVec.toNat_ofNat, Nat.mod_eq_of_lt (elemAt_lt ..)]
    rw [← hbits a, ← hbits b, h (BitVec.ofNat _ (elemAt (tyWidth ty) old j))]
    rfl

/-- Settles O2: the logic words act on values that fit in their bits, the shifts element by element. -/
theorem logicMovesAndShifts : Obligations.LogicMovesAndShifts := by
  unfold Obligations.LogicMovesAndShifts
  refine ⟨fun s t w => ⟨fun hty hg => ?logic, fun hg => ?unary⟩, fun s t w hg => ?shifts⟩
  case logic =>
    have hty' : w.ty.toNat ≠ 9 := fun h => hty (BitVec.eq_of_toNat_eq h)
    have hA (l : Nat) := read_lt hty' (.op (opd w.a)) t.arch l
    have hB (l : Nat) := read_lt hty' (srcB w.b w.ext) t.arch l
    exact ⟨writes_of_bin hg rfl fun l => (toNat_and_ofNat (hA l) (hB l)).symm,
      writes_of_bin hg rfl fun l => (toNat_or_ofNat (hA l) (hB l)).symm,
      writes_of_bin hg rfl fun l => (toNat_xor_ofNat (hA l) (hB l)).symm,
      writes_of_bin hg rfl fun l => (toNat_andNot_ofNat (hA l) (hB l)).symm⟩
  case unary =>
    have hA (l : Nat) := read_op_lt (opd w.a) t.arch w.ty.toNat l
    exact ⟨writes_of_un hg rfl fun l => (toNat_not_ofNat (hA l)).symm,
      writes_of_un hg rfl fun l => (Nat.mod_eq_of_lt (hA l)).symm⟩
  case shifts =>
    have hpos := tyWidth_pos w.ty.toNat
    exact ⟨writes_of_bin hg rfl fun _ => elems2_eq_perElem fun _ x y => shlElem_eq x _ y.toNat,
      writes_of_bin hg rfl fun _ => elems2_eq_perElem fun _ x y => shrElem_eq x _ y.toNat,
      writes_of_bin hg rfl fun _ => elems2_eq_perElem fun _ x y => sarElem_eq x _ y.toNat hpos,
      writes_of_bin hg rfl fun _ => elems2_eq_perElem fun _ x y => rotlElem_eq x y.toNat hpos⟩

end Sys2Proof.Proofs
end

section
/-! PROOF. NOP, LDI and SEL (O5). -/

namespace Sys2Proof.Proofs

open Sys2Proof Sys2Proof.Machine Sys2Proof.Claims

section
variable {s : State} {t : Team} {w : FullA}

theorem nop_issues (hg : Goes s t { len := extLen w.ext, hd := w.hd, effect := fun s t => .done s t none }) :
    exec (.nop w) s = .next (s.finish (t.note {})
      { len := extLen w.ext, hd := w.hd, effect := fun s t => .done s t none } none) := by
  have hrun := Laws.issueWord_done hg.running
    (w := { len := extLen w.ext, hd := w.hd, lantern := { runs := true, dst := none, ops := [] }, effect := fun s t => .done s t none })
    (Laws.passes_congr hg.passes rfl rfl rfl rfl rfl) (Laws.fits_congr hg.fits rfl rfl) rfl rfl rfl rfl
  rw [Laws.markHits_none _ _ rfl] at hrun
  exact hrun.trans (congrArg _ (Laws.finish_congr _ _ _ rfl rfl rfl rfl))

/-- SEL by lanes: the mask's bit chooses. -/
theorem sel_by_lane (hg : Goes s t (form2 w (kindOf w.ty.toNat)).word) (honce : (form2 w (kindOf w.ty.toNat)).once = false) :
    exec (.sel w) s = .next (wrote s t (form2 w (kindOf w.ty.toNat))
      (fun l => if (t.arch.kget (w.sub.toNat % 8)).getLsbD l then valA w t.arch l else valB w t.arch l)) := by
  refine issueWord_wrote (o := form2 w (kindOf w.ty.toNat)) (chk := (form2 w (kindOf w.ty.toNat)).word.check) hg hg.passes.check rfl ?_
  dsimp only
  split
  case isTrue h => exact nomatch h.symm.trans honce
  case isFalse => rfl

/-- SEL executed once: one bit chooses for the team. -/
theorem sel_at_once {one : Bool} (hg : Goes s t (form2 w (kindOf w.ty.toNat)).word) (honce : (form2 w (kindOf w.ty.toNat)).once = true)
    (hone : scalarBit s t (w.sub.toNat % 8) = (one, s)) :
    exec (.sel w) s = .next (wrote s t (form2 w (kindOf w.ty.toNat)) (fun l => if one then valA w t.arch l else valB w t.arch l)) := by
  refine issueWord_wrote (o := form2 w (kindOf w.ty.toNat)) (chk := (form2 w (kindOf w.ty.toNat)).word.check) hg hg.passes.check rfl ?_
  dsimp only
  split
  case isTrue =>
    rw [hone]
    rfl
  case isFalse h => exact absurd honce h

theorem scalarBit_none {m : Nat} (h : t.arch.kget m &&& fullMask t.tw = 0) : scalarBit s t m = (false, s) := if_pos h

theorem scalarBit_all {m : Nat} (h : t.arch.kget m &&& fullMask t.tw = fullMask t.tw) (hne : fullMask t.tw ≠ 0) :
    scalarBit s t m = (true, s) :=
  (if_neg (h.trans_ne hne)).trans (if_pos h)

end

/-- Settles O5: NOP has no effect of its own, LDI copies its operand, and SEL chooses by the mask. -/
theorem nopLoadImmediateSelect : Obligations.NopLoadImmediateSelect := by
  unfold Obligations.NopLoadImmediateSelect
  intro s t w k nop ldi m
  refine ⟨nop_issues, fun hg => writes_of_alu hg rfl rfl fun _ => rfl, fun hg => ⟨fun honce => ?lanes,
    fun honce => ⟨fun hnone => ?none, fun hall hne => ?all⟩⟩⟩
  case lanes => exact sel_by_lane hg honce
  case none =>
    have hb := sel_at_once hg honce (scalarBit_none hnone)
    simp only [Bool.false_eq_true, if_false] at hb
    exact hb
  case all =>
    have ha := sel_at_once hg honce (scalarBit_all hall hne)
    simp only [if_true] at ha
    exact ha

end Sys2Proof.Proofs
end

section
/-! PROOF. Masks of lanes, and the mask registers (O13). -/

namespace Sys2Proof.Proofs

open Sys2Proof Sys2Proof.Machine Sys2Proof.Claims

theorem getLsbD_maskOfList {l : Nat} (hl : l < 1024) (ls : List Nat) : (maskOfList ls).getLsbD l = decide (l ∈ ls) := by
  have hfold (m : Mask) : (ls.foldl (fun (acc : Mask) l => acc ||| (1 <<< l)) m).getLsbD l = (m.getLsbD l || decide (l ∈ ls)) := by
    induction ls generalizing m with
    | nil => simp
    | cons x ls ih =>
      have hbit : (((1 <<< x : Nat) : Mask)).getLsbD l = decide (l = x) := by
        rw [BitVec.natCast_eq_ofNat, BitVec.getLsbD_ofNat, Nat.one_shiftLeft, Nat.testBit_two_pow]
        simp [hl, eq_comm]
      rw [List.foldl_cons, ih, BitVec.getLsbD_or, hbit]
      simp [Bool.or_assoc]
  exact (hfold 0).trans (by simp)

theorem kget_kset_ne (a : Arch) {q r : Nat} (h : q ≠ r) (lanes val : Mask) : (a.kset r lanes val).kget q = a.kget q := by
  unfold Arch.kset
  split
  · rfl
  · simp [Arch.kget, List.getD_eq_getElem?_getD, h.symm]

theorem kget_kset_same (a : Arch) {r : Nat} (hr : r ≠ 0) (hlen : r < a.k.length) (lanes val : Mask) :
    (a.kset r lanes val).kget r = (a.kget r &&& ~~~lanes) ||| (val &&& lanes) := by
  simp [Arch.kset, Arch.kget, List.getD_eq_getElem?_getD, hr, hlen]

/-- Where no lane has two results, the lanes with a true result are those whose result is true. -/
theorem mem_true_lanes {rs : List LaneResult} (hnd : (rs.map (·.1)).Nodup) {l x : Nat} {f : Flags} (h : (l, x, f) ∈ rs) :
    decide (l ∈ (rs.filter (fun r => r.2.1 != 0)).map (·.1)) = (x != 0) := by
  rw [Bool.eq_iff_iff, decide_eq_true_iff]
  simp only [List.mem_map, List.mem_filter, bne_iff_ne]
  constructor
  · rintro ⟨r, ⟨hr, hne⟩, rfl⟩
    rwa [List.inj_on_of_nodup_map hnd hr h rfl] at hne
  · exact fun hx => ⟨_, ⟨h, hx⟩, rfl⟩

/-- Settles O13: a mask write merges the lanes that have a result. -/
theorem maskRegisters : Obligations.MaskRegisters := by
  unfold Obligations.MaskRegisters
  refine ⟨fun a => rfl, fun a d rs fl hnd => ?_⟩
  intro b
  refine ⟨by simp [b, Arch.orFlags, Arch.writeResults], fun hd => ?zero, fun q hq => ?other, fun hd hlen l hl => ?same⟩
  case zero =>
    subst hd
    rfl
  case other => exact kget_kset_ne a hq _ _
  case same =>
    have hd' : d.toNat ≠ 0 := fun h => hd (BitVec.eq_of_toNat_eq h)
    have hbit : (b.kget d.toNat).getLsbD l = _ := congrArg (BitVec.getLsbD · l) (kget_kset_same a hd' hlen _ _)
    rw [hbit]
    simp only [BitVec.getLsbD_or, BitVec.getLsbD_and, BitVec.getLsbD_not, getLsbD_maskOfList hl, hl, decide_true, Bool.true_and]
    refine ⟨fun x f hmem => ?_, fun hnone => ?_⟩
    · have hin : l ∈ rs.map (·.1) := List.mem_map_of_mem hmem
      rw [mem_true_lanes hnd hmem]
      simp [hin]
    · have hout : l ∉ rs.map (·.1) := fun h => by
        obtain ⟨⟨_, x, f⟩, hmem, rfl⟩ := List.mem_map.mp h
        exact hnone x f hmem
      simp [hout]

end Sys2Proof.Proofs
end

section
/-! PROOF. What a word leaves unchanged, and what a lane-by-lane word leaves in its destination (O58). -/

namespace Sys2Proof.Proofs

open Sys2Proof Sys2Proof.Machine Sys2Proof.Claims

/-! ### Registers -/

theorem vget_vset (a : Arch) (r n l : Nat) (val : Nat → Option Word) : (a.vset r val).vget n l =
    if n = r ∧ r < a.v.length ∧ l < (a.v.getD r []).length then (val l).getD (a.vget n l) else a.vget n l := by
  simp only [Arch.vset, Arch.vget, List.getD_eq_getElem?_getD, List.getElem?_modify]
  by_cases hn : r = n
  · subst hn
    by_cases hr : r < a.v.length
    · by_cases hl : l < (a.v[r]).length <;> simp [hr, hl]
    · simp [hr]
  · simp [hn, Ne.symm hn]

theorem sget_sset (a : Arch) (r n : Nat) (w : Word) :
    (a.sset r w).sget n = if n = r ∧ r < a.s.length then w else a.sget n := by
  simp only [Arch.sset, Arch.sget, List.getD_eq_getElem?_getD, List.getElem?_set]
  by_cases hn : r = n
  · subst hn
    by_cases hr : r < a.s.length <;> simp [hr]
  · simp [hn, Ne.symm hn]

theorem resultAt_lanes (ls : List Nat) (val : Nat → Nat) (l : Nat) :
    resultAt (ls.map (fun l => (l, val l, 0))) l = if l ∈ ls then some (val l) else none := by
  unfold resultAt
  induction ls with
  | nil => rfl
  | cons x ls ih =>
    by_cases h : x = l
    · simp [h]
    · simpa [List.find?_cons, h, Ne.symm h] using ih

/-- Writing a register changes no length. -/
theorem vset_length (a : Arch) (r : Nat) (val : Nat → Option Word) : (a.vset r val).v.length = a.v.length := by
  simp [Arch.vset]

theorem vset_row_length (a : Arch) (r q : Nat) (val : Nat → Option Word) :
    ((a.vset r val).v.getD q []).length = (a.v.getD q []).length := by
  simp only [Arch.vset, List.getD_eq_getElem?_getD, List.getElem?_modify]
  by_cases h : r = q
  · cases a.v[q]? <;> simp [h]
  · simp [h]

section
variable (a : Arch) {d : BitVec 11} {k : DstKind}

theorem writeResults_vec (hk : k ≠ .mask) {r : Nat} (hr : (opd d).vecNum a = some r) (rs : List LaneResult) : a.writeResults d k rs =
    let a1 := a.vset r (fun l => (resultAt rs l).map (fun x => BitVec.ofNat 32 x))
    if k = .pair then a1.vset (r + 1) (fun l => (resultAt rs l).map (fun x => BitVec.ofNat 32 (x >>> 32))) else a1 := by
  cases k with
  | mask => contradiction
  | _ => cases ho : opd d <;> simp [Arch.writeResults, ho, Opd.vecNum] at hr ⊢ <;> simp [hr]

theorem writeResults_scal (hk : k ≠ .mask) {r : Nat} (hr : opd d = .scal r) (x : LaneResult) (rs : List LaneResult) :
    a.writeResults d k (x :: rs) = if k = .pair then a.ssetPair r x.2.1 else a.sset r (BitVec.ofNat 32 x.2.1) := by
  cases k with
  | mask => contradiction
  | _ => simp [Arch.writeResults, hr]

variable (d k) (rs : List LaneResult)

/-- What writing results changes: a mask, the vector registers, or the scalar ones where there is a result. -/
theorem writeResults_cases :
    (k = .mask ∧ ∃ lanes val, a.writeResults d k rs = a.kset d.toNat lanes val) ∨
    (k ≠ .mask ∧ (∃ r, (opd d).vecNum a = some r) ∧ a.writeResults d k rs = { a with v := (a.writeResults d k rs).v }) ∨
    (k ≠ .mask ∧ (∃ r, opd d = .scal r) ∧ rs ≠ [] ∧ a.writeResults d k rs = { a with s := (a.writeResults d k rs).s }) ∨
    a.writeResults d k rs = a := by
  by_cases hk : k = .mask
  · subst hk
    exact .inl ⟨rfl, _, _, rfl⟩
  refine .inr ?_
  cases hr : (opd d).vecNum a with
  | some r =>
    refine .inl ⟨hk, ⟨r, rfl⟩, ?_⟩
    rw [writeResults_vec a hk hr]
    dsimp only
    split <;> rfl
  | none =>
    refine .inr ?_
    cases ho : opd d with
    | scal r =>
      cases rs with
      | nil => exact .inr (by cases k <;> simp [Arch.writeResults, ho] at hk ⊢)
      | cons x rs =>
        refine .inl ⟨hk, ⟨r, rfl⟩, nofun, ?_⟩
        rw [writeResults_scal a hk ho]
        split <;> rfl
    | vec r => simp [ho, Opd.vecNum] at hr
    | ind q off => simp [ho, Opd.vecNum] at hr
    | con c => exact .inr (by cases k <;> simp [Arch.writeResults, ho, Opd.vecNum] at hk ⊢)
    | reserved => exact .inr (by cases k <;> simp [Arch.writeResults, ho, Opd.vecNum] at hk ⊢)

theorem writeResults_frame : ({ a.writeResults d k rs with v := a.v, s := a.s, k := a.k } : Arch) = a := by
  obtain ⟨-, lanes, val, h⟩ | ⟨-, -, h⟩ | ⟨-, -, -, h⟩ | h := writeResults_cases a d k rs
  · rw [h, Arch.kset]
    split <;> rfl
  all_goals rw [h]

theorem writeResults_v (h : k = .mask ∨ (opd d).vecNum a = none) : (a.writeResults d k rs).v = a.v := by
  obtain ⟨-, lanes, val, heq⟩ | ⟨hk, ⟨r, hr⟩, -⟩ | ⟨-, -, -, heq⟩ | heq := writeResults_cases a d k rs
  · rw [heq, Laws.kset_v]
  · exact (h.elim hk fun hnone => nomatch hnone.symm.trans hr).elim
  all_goals rw [heq]

theorem writeResults_s (h : k = .mask ∨ rs = [] ∨ ∀ r, opd d ≠ .scal r) : (a.writeResults d k rs).s = a.s := by
  obtain ⟨-, lanes, val, heq⟩ | ⟨-, -, heq⟩ | ⟨hk, ⟨r, hr⟩, hne, -⟩ | heq := writeResults_cases a d k rs
  · rw [heq, Laws.kset_s]
  · rw [heq]
  · exact (h.elim hk (·.elim hne (· r hr))).elim
  · rw [heq]

theorem kget_writeResults {q : Nat} (h : ¬ (k = .mask ∧ q = d.toNat)) : (a.writeResults d k rs).kget q = a.kget q := by
  obtain ⟨hk, lanes, val, heq⟩ | ⟨-, -, heq⟩ | ⟨-, -, -, heq⟩ | heq := writeResults_cases a d k rs
  · rw [heq, kget_kset_ne a (fun hq => h ⟨hk, hq⟩)]
  · rw [heq]
    rfl
  · rw [heq]
    rfl
  · rw [heq]

end

section
variable (a : Arch) {d : BitVec 11} {k : DstKind} {r : Nat} (ls : List Nat) (val : Nat → Nat)

theorem vget_writeResults (hk : k ≠ .mask) (hr : (opd d).vecNum a = some r) (n l : Nat) :
    (a.writeResults d k (ls.map (fun l => (l, val l, 0)))).vget n l =
      if (n = r ∨ k = .pair ∧ n = r + 1) ∧ l ∈ ls ∧ n < a.v.length ∧ l < (a.v.getD n []).length
      then BitVec.ofNat 32 (if n = r then val l else val l / 2 ^ 32) else a.vget n l := by
  rw [writeResults_vec a hk hr]
  dsimp only
  by_cases hp : k = .pair
  · simp only [hp, if_true, true_and, vget_vset, vset_length, vset_row_length, resultAt_lanes, Nat.shiftRight_eq_div_pow]
    by_cases hl : l ∈ ls
    · by_cases hn : n = r
      · simp [hl, hn]
      · by_cases hn' : n = r + 1 <;> simp [hl, hn, hn']
    · simp [hl]
  · simp only [hp, if_false, false_and, or_false, vget_vset, resultAt_lanes]
    by_cases hl : l ∈ ls
    · by_cases hn : n = r <;> simp [hl, hn]
    · simp [hl]

theorem sget_writeResults (hk : k ≠ .mask) (hr : opd d = .scal r) (x : LaneResult) (rs : List LaneResult) (n : Nat) :
    (a.writeResults d k (x :: rs)).sget n = if (n = r ∨ k = .pair ∧ n = r + 1) ∧ n < a.s.length
      then BitVec.ofNat 32 (if n = r then x.2.1 else x.2.1 / 2 ^ 32) else a.sget n := by
  have hlen (w : Word) : (a.sset r w).s.length = a.s.length := by simp [Arch.sset]
  rw [writeResults_scal a hk hr]
  by_cases hp : k = .pair
  · simp only [hp, if_true, true_and, Arch.ssetPair, sget_sset, hlen, Nat.shiftRight_eq_div_pow]
    by_cases hn : n = r
    · simp [hn]
    · by_cases hn' : n = r + 1 <;> simp [hn, hn']
  · simp only [hp, if_false, false_and, or_false, sget_sset]
    by_cases hn : n = r <;> simp [hn]

end

/-! ### The end of a word -/

theorem noteSample_frame (s : State) (t : Team) (n : Nat) :
    ({ s.noteSample t n with samples := s.samples, sampleN := s.sampleN } : State) = s := by
  unfold State.noteSample
  split
  · rfl
  · dsimp only
    split <;> rfl

/-- The team as the end of a word leaves it: past the word, and in the run state that a switch marker may give it (R27). -/
def issuedTeam (t : Team) (w : Word1) (pc : Option DWord) (run : RunState) : Team :=
  { t with unread := none, run := run
           arch := { t.arch with pc := pc.getD (t.arch.pc + BitVec.ofNat 64 w.len), issued := t.arch.issued + 1 } }

theorem finish_eq (s : State) (t : Team) (w : Word1) (pc : Option DWord) : ∃ (s1 : State) (run : RunState),
    s.finish t w pc = s1.setTeam (issuedTeam t w pc run) ∧ s1.teams = s.teams ∧
    ({ s1 with issue := s.issue, samples := s.samples, sampleN := s.sampleN } : State) = s := by
  have hsample (b : Bool) (n : Nat) : (if b then s.noteSample t n else s).teams = s.teams ∧
      ({ (if b then s.noteSample t n else s) with samples := s.samples, sampleN := s.sampleN } : State) = s := by
    cases b with
    | false => exact ⟨rfl, rfl⟩
    | true => exact ⟨Laws.noteSample_teams s t n, noteSample_frame s t n⟩
  unfold State.finish
  dsimp only
  obtain ⟨hteams, hframe⟩ := hsample _ _
  have hissue := congrArg (fun x : State => { x with issue := s.issue }) hframe
  split
  · split
    · exact ⟨_, _, rfl, hteams, hissue⟩
    · exact ⟨_, t.run, rfl, hteams, hissue⟩
  · exact ⟨_, t.run, rfl, hteams, hissue⟩

section
variable (s : State) (t : Team) (w : Word1) (pc : Option DWord)

theorem finish_frame : ({ s.finish t w pc with
    teams := s.teams, issue := s.issue, samples := s.samples, sampleN := s.sampleN } : State) = s := by
  obtain ⟨s1, run, heq, -, hframe⟩ := finish_eq s t w pc
  rw [heq]
  exact congrArg (fun x : State => { x with teams := s.teams }) hframe

theorem finish_team?_ne {u : Nat} (hu : u ≠ t.uid) : (s.finish t w pc).team? u = s.team? u := by
  obtain ⟨s1, run, heq, hteams, -⟩ := finish_eq s t w pc
  have hset : (s1.setTeam (issuedTeam t w pc run)).team? u = s1.team? u := Laws.team?_setTeam_ne hu
  rw [heq, hset, State.team?, hteams, State.team?]

variable {s t}

theorem finish_team? (h : (s.team? t.uid).isSome) : ∃ run, (s.finish t w pc).team? t.uid = some (issuedTeam t w pc run) := by
  obtain ⟨s1, run, heq, hteams, -⟩ := finish_eq s t w pc
  have hin : (s1.team? (issuedTeam t w pc run).uid).isSome := by
    rwa [State.team?, hteams]
  exact ⟨run, heq ▸ Laws.team?_setTeam hin⟩

end

/-! ### Passing a memory gate -/

/-- Changing a core of the package keeps what the change keeps. -/
theorem core_updCore {β : Type} (s : State) (n c : Nat) {f : Core → Core} (g : Core → β) (hf : ∀ x, g (f x) = g x) :
    g ((s.updCore n f).core c) = g (s.core c) := by
  simp only [State.updCore, State.core, List.getD_eq_getElem?_getD, List.getElem?_modify]
  by_cases hn : n = c
  · cases s.cores[c]? <;> simp [hn, hf]
  · simp [hn]

section
variable (s : State) (t : Team)

/-- An acquire changes read caches and slices alone (R144). -/
theorem acquireAt_frame (n : Nat) : ({ s.acquireAt t n with cores := s.cores, slices := s.slices } : State) = s := by
  unfold State.acquireAt
  dsimp only
  split <;> split <;> rfl

theorem acquireAt_core (n c : Nat) : ((s.acquireAt t n).core c).outbound = (s.core c).outbound ∧
    ((s.acquireAt t n).core c).lantern = (s.core c).lantern := by
  have hcore : (s.acquireAt t n).core c =
      (if 2 ≤ n then s.invalidateRead t.loc.pkgCore (s.asidOf t) else s).core c := by
    unfold State.acquireAt
    dsimp only
    split <;> rfl
  rw [hcore]
  split
  · exact ⟨core_updCore s _ c Core.outbound fun _ => rfl, core_updCore s _ c Core.lantern fun _ => rfl⟩
  · exact ⟨rfl, rfl⟩

/-- Passing the gate is nothing, or the acquire of the SC fence that is passed. -/
theorem gated_cases : (gated s t).1 = s ∨ ∃ n, t.arch.scFence = some n ∧ (gated s t).1 = s.acquireAt t n := by
  unfold gated
  cases hsc : t.arch.scFence with
  | none => exact .inl rfl
  | some n =>
    by_cases hrole : t.role = .trailing
    · exact .inl (if_pos hrole)
    · exact .inr ⟨n, rfl, if_neg hrole⟩

theorem gated_frame : ({ (gated s t).1 with cores := s.cores, slices := s.slices } : State) = s := by
  obtain h | ⟨n, -, h⟩ := gated_cases s t
  · rw [h]
  · rw [h, acquireAt_frame]

theorem gated_unfenced (hsc : t.arch.scFence = none) : (gated s t).1 = s := by
  obtain h | ⟨n, hn, -⟩ := gated_cases s t
  · exact h
  · exact nomatch hsc.symm.trans hn

theorem gated_core (c : Nat) : ((gated s t).1.core c).outbound = (s.core c).outbound ∧
    ((gated s t).1.core c).lantern = (s.core c).lantern := by
  obtain h | ⟨n, -, h⟩ := gated_cases s t
  · rw [h]
    exact ⟨rfl, rfl⟩
  · rw [h]
    exact acquireAt_core s t n c

end

/-! ### A lane-by-lane word -/

section
variable {s : State} {t : Team} {o : AluOp} {val : Nat → Nat}

/-- The registers of a team after a lane-by-lane word, but for the pc and the count of words. -/
def writtenArch (t : Team) (o : AluOp) (val : Nat → Nat) : Arch :=
  t.arch.writeResults o.d o.kind ((lanes o t).map (fun l => (l, val l, 0)))

/-- The team of a lane-by-lane word, as the word leaves it. -/
theorem wrote_team? (hr : Running s t) : ∃ run, (wrote s t o val).team? t.uid =
    some (issuedTeam ({ t with arch := writtenArch t o val }.note (o.word.demand s t)) o.word none run) := by
  refine finish_team? o.word none (t := { t with arch := writtenArch t o val }.note (o.word.demand s t)) ?_
  exact Option.isSome_iff_exists.mpr ⟨t, hr.team⟩

theorem note_held (t : Team) (d : Demand) : (t.note d).regions.map (·.held) = t.regions.map (·.held) := by
  simp only [Team.note, Team.updOpen, List.map_map]
  refine List.map_congr_left fun r _ => ?_
  dsimp only [Function.comp]
  split <;> rfl

/-- With a scalar destination a word executes once, and has the one result. -/
theorem writtenArch_scal (hk : o.kind ≠ .mask) {r : Nat} (hr : opd o.d = .scal r) :
    lanes o t = [0] ∧ writtenArch t o val = t.arch.writeResults o.d o.kind [(0, val 0, 0)] := by
  have honce : o.once = true := by simp [AluOp.once, hk, hr, Opd.isScal]
  have hlanes : lanes o t = [0] := if_pos honce
  exact ⟨hlanes, by rw [writtenArch, hlanes]; rfl⟩

/-- What a lane-by-lane word leaves in a scalar destination. -/
theorem sget_writtenArch (hk : o.kind ≠ .mask) {r : Nat} (hr : opd o.d = .scal r) (hlen : r + 1 < t.arch.s.length) :
    (writtenArch t o val).sget r = BitVec.ofNat 32 (val 0) ∧
    (o.kind = .pair → (writtenArch t o val).sget (r + 1) = BitVec.ofNat 32 (val 0 / 2 ^ 32)) := by
  rw [(writtenArch_scal hk hr).2]
  refine ⟨?_, fun hp => ?_⟩
  · rw [sget_writeResults _ hk hr, if_pos ⟨.inl rfl, by omega⟩, if_pos rfl]
  · rw [sget_writeResults _ hk hr, if_pos ⟨.inr ⟨hp, rfl⟩, hlen⟩, if_neg (Nat.succ_ne_self r)]

end

/-- Settles O58: the end of a word, the gate of a memory word, and the destination of a lane-by-lane word. -/
theorem frameOfWords : Obligations.FrameOfWords := by
  unfold Obligations.FrameOfWords
  refine ⟨fun s t w pc => ⟨finish_frame s t w pc, fun _ => finish_team?_ne s t w pc⟩,
    fun s t => ⟨gated_frame s t, gated_unfenced s t, gated_core s t, rfl⟩, fun s t o val hr => ?_⟩
  intro s' a ls pair vec scal
  have hframe : ({ s' with teams := s.teams, issue := s.issue, samples := s.samples, sampleN := s.sampleN } : State) = s :=
    finish_frame s _ _ _
  obtain ⟨run, hteam⟩ := wrote_team? (o := o) (val := val) hr
  have hregs := writeResults_frame a o.d o.kind (ls.map (fun l => (l, val l, 0)))
  refine ⟨fun b => ⟨congrArg (Memory.get · b) (congrArg State.mem hframe :), congrArg (Memory.get · b) (congrArg State.hostMem hframe :)⟩,
    (congrArg State.blocks hframe :), (congrArg State.spans hframe :), _, hteam, rfl, rfl, rfl, note_held _ _,
    congrArg (· + BitVec.ofNat 64 (extLen o.ext)) (congrArg Arch.pc hregs :),
    (congrArg (fun x : Arch => { x with pc := a.pc, issued := a.issued }) hregs :), fun n l hn => ?vget, fun n hn => ?sget,
    fun q hq => kget_writeResults a o.d o.kind _ hq, fun d l hk hd hl hlen hrow => ?low, fun d l hp hd hl hlen hrow => ?high,
    fun d hk hd hlen => ?scal⟩
  case vget =>
    change (writtenArch t o val).vget n l = a.vget n l
    by_cases hv : o.kind = .mask ∨ (opd o.d).vecNum a = none
    · rw [Arch.vget, writtenArch, writeResults_v a _ _ _ hv, Arch.vget]
    · obtain ⟨hk, hsome⟩ := not_or.mp hv
      obtain ⟨r, hr⟩ := Option.ne_none_iff_exists'.mp hsome
      refine (vget_writeResults a ls val hk hr n l).trans (if_neg ?_)
      rintro ⟨hin, hl, -⟩
      exact hn ⟨⟨hk, r, hr, hin.imp_right (And.imp_left beq_iff_eq.mpr)⟩, hl⟩
  case sget =>
    change (writtenArch t o val).sget n = a.sget n
    by_cases hs : o.kind = .mask ∨ ∀ r, opd o.d ≠ .scal r
    · rw [Arch.sget, writtenArch, writeResults_s a _ _ _ (hs.imp_right .inr), Arch.sget]
    · obtain ⟨hk, hsome⟩ := not_or.mp hs
      obtain ⟨r, hr⟩ := not_forall_not.mp hsome
      obtain ⟨hls, harch⟩ := writtenArch_scal (t := t) (val := val) hk hr
      rw [harch, sget_writeResults _ hk hr, if_neg]
      rintro ⟨hin, -⟩
      exact hn ⟨hk, by simp [ls, hls], r, hr, hin.imp_right (And.imp_left beq_iff_eq.mpr)⟩
  case low =>
    change (writtenArch t o val).vget d l = _
    rw [writtenArch, vget_writeResults a ls val hk hd, if_pos ⟨.inl rfl, hl, hlen, hrow⟩, if_pos rfl]
  case high =>
    change (writtenArch t o val).vget (d + 1) l = _
    have hk : o.kind ≠ .mask := by simp [hp]
    rw [writtenArch, vget_writeResults a ls val hk hd, if_pos ⟨.inr ⟨hp, rfl⟩, hl, hlen, hrow⟩, if_neg (Nat.succ_ne_self d)]
  case scal => exact sget_writtenArch hk hd hlen

end Sys2Proof.Proofs
end

section
/-! PROOF. The lane exchanges, VOTE and BSCALE (O10). -/

namespace Sys2Proof.Proofs

open Sys2Proof Sys2Proof.Machine Sys2Proof.Claims

theorem wrote_congr {s : State} {t : Team} {o : AluOp} {val val' : Nat → Nat} (h : ∀ l, val l = val' l) :
    wrote s t o val = wrote s t o val' := by rw [funext h]

/-! ### Collectives -/

section
variable {s s1 : State} {t : Team} {o : AluOp} {f : State → Team → State × List LaneResult}

theorem collective_wrote {val : Nat → Nat} (hg : Goes s t o.word)
    (hf : f s t = (s1, (lanes o t).map (fun l => (l, val l, 0)))) (hs : s1.teams = s.teams) :
    collective o f s = .next (wrote s1 t o val) :=
  issueWord_wrote (chk := o.word.check) hg hg.passes.check hs (by simp only [hf])

theorem collective_ends {i : Instr} {rs : List LaneResult} (hg : Goes s t o.word) (hx : exec i s = collective o f s)
    (hf : f s t = (s, rs)) : Ends i s t o rs :=
  ends_of_effect (chk := o.word.check) hg hg.passes.check hx (by simp only [hf])

end

theorem firstTrap_cons {c : Option Trap} {cs : List (Option Trap)} (h : c = none) (hs : firstTrap cs = none) :
    firstTrap (c :: cs) = none := by
  subst h
  exact hs

/-! ### The exchanges -/

section
variable {s : State} {t : Team} {w : FullC}

/-- A word of layout C with A and further sources, in the type of DT. -/
def exchangeForm (w : FullC) (srcs : List (Src × Nat)) : AluOp :=
  { coll w (kindOf w.dt.toNat) w.dt.toNat with srcs := (.op (opd w.a), w.dt.toNat) :: srcs }

/-- The value of an operand field in a lane, in the type of DT. -/
def valC (w : FullC) (f : BitVec 11) (t : Team) (l : Nat) : Nat := (Src.op (opd f)).read t.arch w.dt.toNat l

/-- Operand A of lane m, where m is a live lane of the team, and else the lane's own. -/
def takenFrom (w : FullC) (t : Team) (l m : Nat) : Nat := if m < t.tw && t.arch.live.getLsbD m then valC w w.a t m else valC w w.a t l

theorem takenFrom_eq (l m : Nat) : valC w w.a t (if m < t.tw && Mask.has t.arch.live m then m else l) = takenFrom w t l m :=
  apply_ite _ _ _ _

theorem takenFrom_self (l : Nat) : takenFrom w t l l = valC w w.a t l := ite_self _

theorem takenFrom_ite (p : Prop) [Decidable p] (l m : Nat) :
    takenFrom w t l (if p then m else l) = (if p then some m else none).elim (valC w w.a t l) (takenFrom w t l) := by
  split
  · rfl
  · exact takenFrom_self l

theorem shfl_wrote (hg : Goes s t (exchangeForm w [(.op (opd w.b), w.dt.toNat)]).word) :
    exec (.shfl w) s = .next (wrote s t (exchangeForm w [(.op (opd w.b), w.dt.toNat)]) (fun l =>
      (shflFrom (max 1 t.gw) w.sub.toNat l (valC w w.b t l)).elim (valC w w.a t l) (takenFrom w t l))) := by
  change execShfl w s = _
  unfold execShfl
  refine collective_wrote hg (Prod.ext rfl (List.map_congr_left fun l _ => ?_)) rfl
  refine Prod.ext rfl (Prod.ext ((takenFrom_eq l _).trans ?_) rfl)
  generalize w.sub.toNat = mode
  match mode with
  | 0 => rfl
  | 1 => exact takenFrom_ite _ l _
  | 2 => exact takenFrom_ite _ l _
  | _ + 3 => rfl

/-- Operand A of lane m where m is live, and else the lane's own: BCAST. -/
def sentFrom (w : FullC) (t : Team) (m l : Nat) : Nat := if t.arch.live.getLsbD m then valC w w.a t m else valC w w.a t l

theorem sentFrom_eq (m l : Nat) : valC w w.a t (if Mask.has t.arch.live m then m else l) = sentFrom w t m l := apply_ite _ _ _ _

theorem bcast_named (hsub : w.sub.getLsbD 0 = false) (hb : (opd w.b).isVec = false)
    (hg : Goes s t (exchangeForm w [(.op (opd w.b), w.dt.toNat)]).word) : exec (.bcast w) s =
      .next (wrote s t (exchangeForm w [(.op (opd w.b), w.dt.toNat)]) (sentFrom w t (valC w w.b t 0 % max 1 t.tw))) := by
  change execBcast w s = _
  unfold execBcast
  simp only [hsub, Bool.false_eq_true, if_false, List.cons_append, List.nil_append, Bool.not_false, Bool.true_and, hb]
  refine issueWord_wrote hg (firstTrap_cons hg.passes.check rfl) rfl ?_
  exact congrArg (aluEffect s t _ _ _ false) (List.map_congr_left fun l _ => Prod.ext rfl (Prod.ext (sentFrom_eq _ l) rfl))

theorem bcast_first (hsub : w.sub.getLsbD 0 = true) (hg : Goes s t (exchangeForm w []).word) : exec (.bcast w) s =
      .next (wrote s t (exchangeForm w []) (sentFrom w t ((lanes (exchangeForm w []) t).headD 0))) := by
  change execBcast w s = _
  unfold execBcast
  simp only [hsub, if_true, List.append_nil, Bool.not_true, Bool.false_and]
  refine issueWord_wrote hg (firstTrap_cons hg.passes.check rfl) rfl ?_
  exact congrArg (aluEffect s t _ _ _ false) (List.map_congr_left fun l _ => Prod.ext rfl (Prod.ext (sentFrom_eq _ l) rfl))

end

/-- Settles O10: the exchanges take A of another lane, VOTE and BSCALE go over a scope and over a block. -/
theorem laneExchangeVoteAndScale : Obligations.LaneExchangeVoteAndScale := by
  unfold Obligations.LaneExchangeVoteAndScale
  refine ⟨fun s t w => ?exchanges, fun s t w => ?scopes⟩
  case exchanges =>
    intro ty live a b form
    refine ⟨fun hg => (shfl_wrote hg).trans (congrArg _ (wrote_congr fun l => ?_)),
      fun hsub hb hg => bcast_named hsub hb hg, fun hsub hg => bcast_first hsub hg⟩
    split
    next m hm => exact congrArg (Option.elim · _ _) hm
    next hnone => exact congrArg (Option.elim · _ _) hnone
  case scopes =>
    intro a form st etop elems
    refine ⟨fun hg => ?vote, fun hg => ?scale⟩
    case vote =>
      change execVote w s = _
      unfold execVote
      exact collective_wrote hg rfl rfl
    case scale =>
      have htop : ∀ dt : BitVec 4, (match dt.toNat with | 10 => (10 : Int) | 11 => 8 | _ => 15) =
        if dt = 10 then 10 else if dt = 11 then 8 else 15 := by decide
      have hx : exec (.bscale w) s = execBscale w s := rfl
      unfold execBscale at hx
      refine collective_ends hg hx ?_
      split
      case isTrue honce =>
        have honce' : (form .one st).once = true := honce
        have hone (e : Int) (he : e = etop) : onceResult (scaleByte e (elems 0)).1 (scaleByte e (elems 0)).2 =
            [(0, scaleByte etop ([0].flatMap elems))] := by
          rw [he, List.flatMap_singleton]
          rfl
        simp only [lanes, honce', if_true]
        exact congrArg (Prod.mk s) (hone _ (htop w.dt))
      case isFalse honce =>
        have honce' : ¬ (form .one st).once = true := honce
        simp only [lanes, honce']
        have hblock (e : Int) (he : e = etop) (l : Nat) (xs : List FVal) :
            (l, (scaleByte e xs).1, (scaleByte e xs).2) = (l, scaleByte etop xs) := by rw [he]
        exact congrArg (Prod.mk s) (List.map_congr_left fun l _ => hblock _ (htop w.dt) l _)

end Sys2Proof.Proofs
end

section
/-! PROOF. REDUX and SCAN (O11). -/

namespace Sys2Proof.Proofs

open Sys2Proof Sys2Proof.Machine Sys2Proof.Claims

/-! ### A word that executes once reads the same value in every lane -/

theorem read_lane {o : Opd} (ho : o.isVec = false) (a : Arch) (ty l : Nat) : (Src.op o).read a ty l = (Src.op o).read a ty 0 := by
  cases o with
  | vec n => exact nomatch ho
  | ind k off => exact nomatch ho
  | scal n => rfl
  | con c => rfl
  | reserved => rfl

theorem firstTrap_head {c : Option Trap} {cs : List (Option Trap)} (h : firstTrap (c :: cs) = none) : c = none := by
  cases c with
  | none => rfl
  | some tr => exact nomatch h

theorem dstCheck_scal {pair vec : Bool} {n : Nat} (h : dstCheck pair vec (.scal n) = none) : (vec || pair && n % 2 == 1) = false := by
  simpa [dstCheck, trapIf] using h

/-- A scalar destination stands only beside sources that are not vector registers (R47). -/
theorem no_vec_of_once {s : State} {t : Team} {o : AluOp} (hg : Goes s t o.word) (honce : o.once = true) :
    o.srcs.any (fun x => x.1.isVec) = false := by
  have hcheck : o.check = none := hg.passes.check
  simp only [AluOp.once, Bool.and_eq_true, bne_iff_ne] at honce
  obtain ⟨hk, hscal⟩ := honce
  cases hd : opd o.d with
  | scal n =>
    cases hkind : o.kind with
    | mask => exact absurd hkind hk
    | one | pair =>
      simp only [AluOp.check, hkind, hd] at hcheck
      exact (Bool.or_eq_false_iff.mp (dstCheck_scal (firstTrap_head hcheck))).1
  | _ => simp [hd, Opd.isScal] at hscal

/-! ### The integer operators -/

theorem foldl_add_mod (n : Nat) (xs : List Nat) {x : Nat} (hx : x < n) :
    xs.foldl (fun acc y => (acc + y) % n) x = (x :: xs).sum % n := by
  induction xs generalizing x with
  | nil => simp [Nat.mod_eq_of_lt hx]
  | cons y ys ih =>
    rw [List.foldl_cons, ih (Nat.mod_lt _ (by omega))]
    simp [Nat.add_assoc]

/-- Taking the better of two values, over a list, ends at a value that no other beats. -/
theorem foldl_best {r : Nat → Nat → Prop} [DecidableRel r] (htotal : ∀ x y, r x y ∨ r y x) (htrans : ∀ x y z, r x y → r y z → r x z)
    (xs : List Nat) (x : Nat) : let best := xs.foldl (fun acc y => if r acc y then acc else y) x
    best ∈ x :: xs ∧ ∀ z ∈ x :: xs, r best z := by
  induction xs generalizing x with
  | nil => simpa using htotal x x
  | cons y ys ih =>
    by_cases h : r x y
    · obtain ⟨hmem, hbeats⟩ := ih x
      simp only [List.foldl_cons, if_pos h, List.mem_cons, forall_eq_or_imp] at hmem hbeats ⊢
      exact ⟨hmem.imp_right .inr, hbeats.1, htrans _ _ _ hbeats.1 h, hbeats.2⟩
    · obtain ⟨hmem, hbeats⟩ := ih y
      simp only [List.foldl_cons, if_neg h, List.mem_cons, forall_eq_or_imp] at hmem hbeats ⊢
      exact ⟨.inr hmem, htrans _ _ _ hbeats.1 ((htotal x y).resolve_left h), hbeats⟩

theorem testBit_foldl_and (xs : List Nat) (x i : Nat) : (xs.foldl (fun acc y => acc &&& y) x).testBit i = (x :: xs).all (·.testBit i) := by
  induction xs generalizing x with
  | nil => simp
  | cons y ys ih => simp [ih, Bool.and_assoc]

theorem testBit_foldl_or (xs : List Nat) (x i : Nat) : (xs.foldl (fun acc y => acc ||| y) x).testBit i = (x :: xs).any (·.testBit i) := by
  induction xs generalizing x with
  | nil => simp
  | cons y ys ih => simp [ih, Bool.or_assoc]

theorem testBit_foldl_xor (xs : List Nat) (x i : Nat) :
    (xs.foldl (fun acc y => acc ^^^ y) x).testBit i = ((x :: xs).filter (·.testBit i)).length.testBit 0 := by
  induction xs generalizing x with
  | nil => cases h : x.testBit i <;> simp [h]
  | cons y ys ih =>
    rw [List.foldl_cons, ih]
    cases hx : x.testBit i <;> cases hy : y.testBit i <;> simp [hx, hy, Nat.add_assoc]

/-! ### The forms that execute once -/

section
variable {s : State} {t : Team} {o : AluOp} {op ty rm : Nat} {redux team : Bool}

theorem onceReduce_team (hact : o.lanes t ≠ []) : onceReduce s t o true true op ty rm =
    (s, [(0, reduceTerms op ty rm ((o.lanes t).map (fun _ => o.src t.arch 0 0)))]) := by
  simp [onceReduce, onceResult, hact]

theorem onceReduce_one (hteam : (redux && team) = false) (hact : o.lanes t ≠ []) (h0 : op ≠ 0) (h5 : op ≠ 5) :
    onceReduce s t o redux team op ty rm = (s, [(0, reduceTerms op ty rm [o.src t.arch 0 0])]) := by
  simp [onceReduce, onceResult, hteam, hact, h0, h5]

/-- Where the spec states no result, the value is free (log 12). -/
theorem onceReduce_free (hteam : o.lanes t = [] ∨ (redux && team) = false) (h : o.lanes t = [] ∨ op = 0 ∨ op = 5) :
    ∃ k x, onceReduce s t o redux team op ty rm = ({ s with free := k }, [(0, x, 0)]) := by
  have hone : (redux && team && (o.lanes t).length != 0) = false := by
    rcases hteam with h | h <;> simp [h]
  have htwo : (op != 0 && op != 5 && (o.lanes t).length != 0) = false := by
    rcases h with h | h | h <;> simp [h]
  simp only [onceReduce, hone, htwo]
  exact ⟨_, _, rfl⟩

end

section
variable (s : State) (t : Team) (w : FullC)

/-- The form of REDUX and SCAN. -/
def reduceForm (w : FullC) : AluOp := coll w (kindOf w.dt.toNat) w.dt.toNat

/-- The terms that the lanes of a list give. -/
def termsOf (w : FullC) (t : Team) (ls : List Nat) : Nat × Flags :=
  reduceTerms w.sub.toNat w.dt.toNat w.rm.toNat (ls.map ((Src.op (opd w.a)).read t.arch w.dt.toNat))

theorem redux_results : ∃ f, exec (.redux w) s = collective (reduceForm w) f s ∧
    ((reduceForm w).once = false → f s t = (s, (acting t w.hd).map (fun l => (l, termsOf w t (scope t w.hd w.sat l))))) ∧
    ((reduceForm w).once = true → f s t = onceReduce s t (reduceForm w) true w.sat w.sub.toNat w.dt.toNat w.rm.toNat) := by
  have hx : exec (.redux w) s = execRedux w s := rfl
  unfold execRedux at hx
  refine ⟨_, hx, fun honce => ?_, fun honce => if_pos honce⟩
  exact if_neg (by rw [← reduceForm, honce]; exact Bool.false_ne_true)

theorem scan_results : ∃ f, exec (.scan w) s = collective (reduceForm w) f s ∧
    ((reduceForm w).once = false →
      f s t = (s, (acting t w.hd).map (fun l => (l, termsOf w t ((scope t w.hd w.sat l).filter (· ≤ l)))))) ∧
    ((reduceForm w).once = true → f s t = onceReduce s t (reduceForm w) false w.sat w.sub.toNat w.dt.toNat w.rm.toNat) := by
  have hx : exec (.scan w) s = execScan w s := rfl
  unfold execScan at hx
  refine ⟨_, hx, fun honce => ?_, fun honce => if_pos honce⟩
  have hscope (l : Nat) : (scope t w.hd w.sat l).filter (· ≤ l) = (acting t w.hd).filter (fun m => sameScope t w.sat l m && m ≤ l) := by
    rw [scope, List.filter_filter]
    exact List.filter_congr fun m _ => Bool.and_comm _ _
  simp only [hscope]
  exact if_neg (by rw [← reduceForm, honce]; exact Bool.false_ne_true)

section
variable {s t w} (hg : Goes s t (reduceForm w).word) (honce : (reduceForm w).once = false)
include hg honce

theorem redux_lanes : Ends (.redux w) s t (reduceForm w)
    ((acting t w.hd).map (fun l => (l, termsOf w t (scope t w.hd w.sat l)))) := by
  obtain ⟨f, hx, hf, -⟩ := redux_results s t w
  exact collective_ends hg hx (hf honce)

theorem scan_lanes : Ends (.scan w) s t (reduceForm w)
    ((acting t w.hd).map (fun l => (l, termsOf w t ((scope t w.hd w.sat l).filter (· ≤ l))))) := by
  obtain ⟨f, hx, hf, -⟩ := scan_results s t w
  exact collective_ends hg hx (hf honce)

end

variable {s t w} (hg : Goes s t (reduceForm w).word) (honce : (reduceForm w).once = true)
include hg honce

/-- Operand A of the form that executes once is the same in every lane. -/
theorem terms_once (ls : List Nat) : termsOf w t ls =
    reduceTerms w.sub.toNat w.dt.toNat w.rm.toNat (ls.map (fun _ => (reduceForm w).src t.arch 0 0)) := by
  have hvec : (opd w.a).isVec = false := by simpa [reduceForm, coll, Src.isVec] using no_vec_of_once hg honce
  exact congrArg (reduceTerms _ _ _) (List.map_congr_left fun l _ => read_lane hvec t.arch _ l)

theorem redux_team (hact : acting t w.hd ≠ []) (hsat : w.sat = true) :
    Ends (.redux w) s t (reduceForm w) [(0, termsOf w t (acting t w.hd))] := by
  obtain ⟨f, hx, -, hf⟩ := redux_results s t w
  refine collective_ends hg hx ((hf honce).trans ?_)
  rw [hsat, onceReduce_team (o := reduceForm w) hact, terms_once hg honce]
  rfl

theorem redux_one (hact : acting t w.hd ≠ []) (h0 : w.sub ≠ 0) (h5 : w.sub ≠ 5) (hsat : w.sat = false) :
    Ends (.redux w) s t (reduceForm w) [(0, termsOf w t [0])] := by
  obtain ⟨f, hx, -, hf⟩ := redux_results s t w
  have h0' : w.sub.toNat ≠ 0 := fun h => h0 (BitVec.eq_of_toNat_eq h)
  have h5' : w.sub.toNat ≠ 5 := fun h => h5 (BitVec.eq_of_toNat_eq h)
  exact collective_ends hg hx ((hf honce).trans (onceReduce_one hsat hact h0' h5'))

theorem scan_one (hact : acting t w.hd ≠ []) (h0 : w.sub ≠ 0) (h5 : w.sub ≠ 5) :
    Ends (.scan w) s t (reduceForm w) [(0, termsOf w t [0])] := by
  obtain ⟨f, hx, -, hf⟩ := scan_results s t w
  have h0' : w.sub.toNat ≠ 0 := fun h => h0 (BitVec.eq_of_toNat_eq h)
  have h5' : w.sub.toNat ≠ 5 := fun h => h5 (BitVec.eq_of_toNat_eq h)
  exact collective_ends hg hx ((hf honce).trans (onceReduce_one rfl hact h0' h5'))

/-- A once-executed form whose value is free. -/
theorem free_wrote {f : State → Team → State × List LaneResult} (hf : ∃ k x, f s t = ({ s with free := k }, [(0, x, 0)])) :
    ∃ k x, collective (reduceForm w) f s = .next (wrote { s with free := k } t (reduceForm w) (fun _ => x)) := by
  obtain ⟨k, x, hf⟩ := hf
  have hlanes : lanes (reduceForm w) t = [0] := if_pos honce
  exact ⟨k, x, collective_wrote hg (by rw [hf, hlanes]; rfl) rfl⟩

theorem redux_free (hact : acting t w.hd = [] ∨ w.sub = 0 ∨ w.sub = 5) (hteam : acting t w.hd = [] ∨ w.sat = false) :
    ∃ k x, exec (.redux w) s = .next (wrote { s with free := k } t (reduceForm w) (fun _ => x)) := by
  obtain ⟨f, hx, -, hf⟩ := redux_results s t w
  rw [hx]
  refine free_wrote hg honce ?_
  rw [hf honce]
  exact onceReduce_free hteam (hact.imp_right (Or.imp (congrArg BitVec.toNat) (congrArg BitVec.toNat)))

theorem scan_free (hact : acting t w.hd = [] ∨ w.sub = 0 ∨ w.sub = 5) :
    ∃ k x, exec (.scan w) s = .next (wrote { s with free := k } t (reduceForm w) (fun _ => x)) := by
  obtain ⟨f, hx, -, hf⟩ := scan_results s t w
  rw [hx]
  refine free_wrote hg honce ?_
  rw [hf honce]
  exact onceReduce_free (.inr rfl) (hact.imp_right (Or.imp (congrArg BitVec.toNat) (congrArg BitVec.toNat)))

end

/-- Settles O11: by lanes over the scope; a word that executes once reads one value in every lane, or its value is free. The integer
operators are folds over the terms. -/
theorem reductions : Obligations.Reductions := by
  unfold Obligations.Reductions
  refine ⟨fun s t w => ?forms, fun ty rm x xs hty hlt => ?integers⟩
  case forms =>
    intro ty a o red hg
    exact ⟨fun honce => ⟨redux_lanes hg honce, scan_lanes hg honce⟩, fun honce hact hsat => redux_team hg honce hact hsat,
      fun honce hact h0 h5 => ⟨redux_one hg honce hact h0 h5, scan_one hg honce hact h0 h5⟩,
      fun honce hact => ⟨redux_free hg honce hact, scan_free hg honce hact⟩⟩
  case integers =>
    intro val
    have hint : ty ≠ 6 := by
      rintro rfl
      simp at hty
    have hval {y : Nat} (hy : y ∈ x :: xs) : val y = intOf (tySigned ty) (tyWidth ty) y :=
      (intOf_eq_asInt (tyWidth_pos ty) (hlt y hy) _).symm
    simp only [reduceTerms, hint, if_false]
    refine ⟨foldl_add_mod _ xs (hlt x List.mem_cons_self), ?least, ?greatest, fun i => testBit_foldl_and xs x i,
      fun i => testBit_foldl_or xs x i, fun i => testBit_foldl_xor xs x i, fun _ => trivial⟩
    case least =>
      obtain ⟨hmem, hbest⟩ := foldl_best (r := fun y z => intOf (tySigned ty) (tyWidth ty) y ≤ intOf (tySigned ty) (tyWidth ty) z)
        (fun _ _ => le_total _ _) (fun _ _ _ => le_trans) xs x
      refine ⟨_, hmem, rfl, fun z hz => ?_⟩
      rw [hval hmem, hval hz]
      exact hbest z hz
    case greatest =>
      obtain ⟨hmem, hbest⟩ := foldl_best (r := fun y z => intOf (tySigned ty) (tyWidth ty) y ≥ intOf (tySigned ty) (tyWidth ty) z)
        (fun _ _ => le_total _ _) (fun _ _ _ => ge_trans) xs x
      refine ⟨_, hmem, rfl, fun z hz => ?_⟩
      rw [hval hmem, hval hz]
      exact hbest z hz

end Sys2Proof.Proofs
end

section
/-! PROOF. The mask words (O12). -/

namespace Sys2Proof.Proofs

open Sys2Proof Sys2Proof.Machine Sys2Proof.Claims

section
variable {i : Instr} {s : State} {t : Team} {w : FullC} {n : Nat}

/-- A mask word that sets D to m in the acting lanes. -/
theorem masks_of_effect {eff : State → Team → WordEnd} {m : Mask} (hg : Goes s t (maskForm w n))
    (hx : exec i s = issueWord { maskForm w n with effect := eff } s)
    (he : eff s t = .done s { t with arch := t.arch.kset w.d.toNat (t.arch.acting t.tw w.hd) m } none) :
    Masks i s t (maskForm w n) w.d.toNat m := by
  have hdone := Laws.issueWord_done hg.running (w := { maskForm w n with effect := eff })
    (Laws.passes_congr hg.passes rfl rfl rfl rfl rfl) (Laws.fits_congr hg.fits rfl rfl) he rfl rfl rfl
  rw [Laws.markHits_none _ _ rfl] at hdone
  exact hx.trans (hdone.trans (congrArg _ (Laws.finish_congr _ _ _ rfl rfl rfl rfl)))

theorem masks_of_bits {f : Arch → Nat → Bool} (hg : Goes s t (maskForm w n)) (hx : exec i s = issueWord (maskWord w n f) s) :
    Masks i s t (maskForm w n) w.d.toNat (maskWhere t (f t.arch)) :=
  masks_of_effect (eff := (maskWord w n f).effect) hg hx rfl

theorem elect_masks (hg : Goes s t (maskForm w 0)) : Masks (.elect w) s t (maskForm w 0) w.d.toNat
    (maskOfList ((acting t w.hd).filter (fun l => (scope t w.hd w.sat l).head? = some l))) := by
  have hfirst (l : Nat) : decide ((scope t w.hd w.sat l).head? = some l) =
    (((acting t w.hd).filter (sameScope t w.sat l)).head? == some l) := (beq_eq_decide ..).symm
  simp only [hfirst]
  exact masks_of_effect hg rfl rfl

end

section
variable {s : State} {t : Team} {w : FullC}

/-- A word of layout C that reads no operand. -/
def plainForm (w : FullC) : AluOp := { hd := w.hd, ext := w.ext, d := w.d, kind := .one, srcs := [], f := fun _ _ _ => (0, 0) }

theorem classCheck_lt {n : Nat} {f : BitVec 11} (h : f.toNat < n) : classCheck n f = none :=
  if_neg (by simpa using h)

/-- KMOV from a mask to a vector register. -/
theorem kmov_toVector (hsub : w.sub = 2) (hd : (opd w.d).isVec = true) (ha : w.a.toNat < 8) (hg : Goes s t (plainForm w).word) :
    exec (.kmov w) s = .next (wrote s t (plainForm w) (fun l => if kbit t.arch w.a l then 0xFFFFFFFF else 0)) := by
  have honce : (plainForm w).once = false := by
    cases ho : opd w.d <;> simp_all [AluOp.once, plainForm, Opd.isScal, Opd.isVec]
  have hlanes : lanes (plainForm w) t = (plainForm w).lanes t := if_neg (by simp [honce])
  change execKmov w s = _
  unfold execKmov
  rw [hsub]
  refine issueWord_wrote (o := plainForm w) hg
    (firstTrap_cons (by simp [trapIf, hd]) (firstTrap_cons hg.passes.check (firstTrap_cons (classCheck_lt ha) rfl))) rfl ?_
  rw [honce, hlanes]
  rfl

/-- The lanes over which KPOP and KFIRST go, and whose bit is set. -/
def counted (w : FullC) (t : Team) (l : Nat) : List Nat :=
  (if (plainForm w).once then acting t w.hd else scope t w.hd w.sat l).filter (kbit t.arch w.a)

theorem kcount_wrote {f : List Nat → Nat} (hteam : (plainForm w).once = true → w.sat = true) (ha : w.a.toNat < 8)
    (hg : Goes s t (plainForm w).word) : kcount w f s = .next (wrote s t (plainForm w) (fun l => f (counted w t l))) := by
  have hscope : trapIf ((plainForm w).once && !w.sat) illegalTrap = none := by
    cases honce : (plainForm w).once with
    | false => rfl
    | true => rw [hteam honce]; rfl
  refine issueWord_wrote (o := plainForm w) hg
    (firstTrap_cons hscope (firstTrap_cons hg.passes.check (firstTrap_cons (classCheck_lt ha) rfl))) rfl ?_
  refine congrArg (aluEffect s t _ _ _ false) ?_
  cases honce : (plainForm w).once with
  | true =>
    simp only [lanes, counted, honce, if_true]
    exact if_pos honce
  | false =>
    simp only [lanes, counted, honce]
    exact if_neg (Bool.eq_false_iff.mp honce)

end

/-- Settles O12: ELECT to KMOV set a mask in the acting lanes; KMOV to a vector, KPOP and KFIRST write a
number from the bits of a mask. -/
theorem maskWords : Obligations.MaskWords := by
  unfold Obligations.MaskWords
  intro s t w d k none1 toMask set
  refine ⟨elect_masks, fun hg => ⟨masks_of_bits (f := fun a l => kbit a w.a l && kbit a w.b l) hg rfl,
      masks_of_bits (f := fun a l => kbit a w.a l || kbit a w.b l) hg rfl,
      masks_of_bits (f := fun a l => kbit a w.a l != kbit a w.b l) hg rfl⟩,
    fun hg => ⟨masks_of_bits (f := fun a l => !kbit a w.a l) hg rfl, fun hsub => ?fromMask⟩, fun hsub hg => ?fromVector,
    fun hsub hd ha hg => kmov_toVector hsub hd ha hg,
    fun honce ha hg => ⟨kcount_wrote honce ha hg, kcount_wrote (f := (·.headD 0xFFFFFFFF)) honce ha hg⟩⟩
  case fromMask =>
    refine masks_of_bits (f := fun a l => kbit a w.a l) hg ?_
    change execKmov w s = _
    unfold execKmov
    rw [hsub]
    rfl
  case fromVector =>
    refine writes_of_alu (o := toMask) (g := fun _ _ xs => (xs.getD 0 0, 0)) hg rfl ?_ fun _ => rfl
    change execKmov w s = _
    unfold execKmov
    rw [hsub]
    rfl

end Sys2Proof.Proofs
end

section
/-! PROOF. Where a statement's element function is not the machine's: DOT4 (O3) and LEA (O4) under a type that their entries do not list. -/

namespace Sys2Proof.Proofs

open Sys2Proof Sys2Proof.Machine Sys2Proof.Claims

/-! ### Two claims about one scalar result -/

/-- A word leaves one value in a scalar destination: two claims about it agree. -/
theorem scalar_result_unique {s : State} {t : Team} {o : AluOp} {val val' : Nat → Nat} {r : Nat} (hr : Running s t) (hk : o.kind ≠ .mask)
    (hd : opd o.d = .scal r) (hlen : r + 1 < t.arch.s.length) (h : wrote s t o val = wrote s t o val') :
    BitVec.ofNat 32 (val 0) = BitVec.ofNat 32 (val' 0) ∧
    (o.kind = .pair → BitVec.ofNat 32 (val 0 / 2 ^ 32) = BitVec.ofNat 32 (val' 0 / 2 ^ 32)) := by
  obtain ⟨run, hteam⟩ := wrote_team? (o := o) (val := val) hr
  obtain ⟨run', hteam'⟩ := wrote_team? (o := o) (val := val') hr
  rw [h, hteam', Option.some.injEq] at hteam
  have hregs : (writtenArch t o val').s = (writtenArch t o val).s := congrArg (fun t : Team => t.arch.s) hteam
  have hsget (n : Nat) : (writtenArch t o val).sget n = (writtenArch t o val').sget n := by rw [Arch.sget, ← hregs, Arch.sget]
  obtain ⟨hlow, hhigh⟩ := sget_writtenArch (val := val) hk hd hlen
  obtain ⟨hlow', hhigh'⟩ := sget_writtenArch (val := val') hk hd hlen
  exact ⟨hlow.symm.trans ((hsget r).trans hlow'), fun hp => (hhigh hp).symm.trans ((hsget (r + 1)).trans (hhigh' hp))⟩

/-! ### A team that executes a word -/

/-- A team of 32 lanes and 16 registers of 0, at an open region. -/
def soloTeam : Team :=
  (Team.start 0 .ordinary { chip := 0, cluster := 0, core := 0, part := 0, slot := 0 } 0 0 0 32 32 16 0 0 0
    (Arch.start 0 32 16 0 [] (fun _ _ => 0) (fullMask 32))).openAt 0 64 8

/-- A package with that team alone, which holds the issue slot. -/
def soloState : State := { State.reset with teams := [soloTeam], issue := some 0 }

theorem solo_running : Running soloState soloTeam := ⟨rfl, rfl, rfl, rfl, rfl, rfl⟩

theorem solo_scalars : 0 + 1 < soloTeam.arch.s.length := by
  change 0 + 1 < ((List.range 128).map _).length
  simp

/-- The team executes a word that passes its checks and writes no vector register. -/
theorem solo_goes {o : AluOp} (hcaps : o.caps = 1) (hcheck : o.check = none) (hpred : isNop o.hd = false)
    (hbounds : o.bounds soloTeam = none) (hdest : destRegs soloTeam.arch o.d o.kind = []) : Goes soloState soloTeam o.word := by
  have hdemand : o.word.demand soloState soloTeam = {} := congrArg (fun ds => ({ dests := ds } : Demand)) hdest
  refine ⟨solo_running, ⟨?_, hcheck, hpred, hbounds, rfl⟩, ⟨rfl, rfl, _, rfl, ?_, ?_⟩⟩
  · change o.caps &&& _ = o.caps
    rw [hcaps]
    rfl
  · rw [hdemand]
    rfl
  · rw [hdemand]
    rfl

/-- A word of layout A with the scalar registers s0 and s1 as its destination. -/
def toScalar (a b : BitVec 11) (ty : BitVec 4) : FullA :=
  { hd := { sw := false, pred := 0, pn := false }, d := 0x700, a := a, b := b, ty := ty, rm := 0, na := false, aa := false, nb := false,
    ab := false, sub := 0, ext := none }

/-! ### DOT4 and LEA -/

section
variable {s : State} {t : Team} {w : FullA}

theorem dot4_writes (hg : Goes s t (form2 w .one).word) :
    Writes (.dot4 w) s t (form2 w .one) (fun old xs => dot4 w.ty.toNat old (xs.getD 0 0) (xs.getD 1 0)) :=
  writes_of_bin hg rfl fun _ => rfl

/-- LEA's form: a pair for its base, and its index in the type of the word. -/
def leaForm (w : FullA) : AluOp := { form2 w .pair with srcs := [(.op (opd w.a), 13), (srcB w.b w.ext, w.ty.toNat)] }

theorem lea_writes (hg : Goes s t (leaForm w).word) : Writes (.lea w) s t (leaForm w) (fun _ xs =>
    wrapTo 64 ((xs.getD 0 0 : Int) + intOf (w.ty == 0) 32 (xs.getD 1 0) * 2 ^ (w.sub.toNat % 4))) :=
  writes_of_alu hg rfl rfl fun _ => rfl

end

/-- Refutes O3: the statement asks nothing of DOT4's TYPE. With TYPE 0, which the entry does not list (R94), a = -1 and b = 1 as inline
constants, the machine reads the bytes signed and writes -1, where the statement, which reads signed under TYPE 4 alone, has 255. -/
theorem not_integerFunctionsAndBitFields : ¬ Obligations.IntegerFunctionsAndBitFields := by
  unfold Obligations.IntegerFunctionsAndBitFields
  rintro ⟨-, h⟩
  let w := toScalar 0x7A0 0x781 0
  have hg : Goes soloState soloTeam (form2 w .one).word := solo_goes rfl (by decide) rfl rfl rfl
  obtain ⟨-, -, hclaim, -⟩ := h soloState soloTeam w hg
  have hsame := scalar_result_unique (o := form2 w .one) (r := 0) solo_running nofun (by decide) solo_scalars
    (Host.Outcome.next.inj (hclaim.symm.trans (dot4_writes hg)))
  exact absurd hsame.1 (by decide +kernel)

/-- Refutes O4: the statement asks nothing of LEA's TYPE. With TYPE 13, which the entry does not list (R93), and the index -1 as an inline
constant, the machine adds the whole 64-bit index, where the statement adds its low 32 bits: the high words differ. -/
theorem not_pairArithmeticAndCompares : ¬ Obligations.PairArithmeticAndCompares := by
  unfold Obligations.PairArithmeticAndCompares
  rintro ⟨h, -⟩
  let w := toScalar 0x780 0x7A0 13
  have hg : Goes soloState soloTeam (leaForm w).word := solo_goes rfl (by decide) rfl rfl rfl
  have hclaim := (h soloState soloTeam w).2 hg
  have hsame := scalar_result_unique (o := leaForm w) (r := 0) solo_running nofun (by decide) solo_scalars
    (Host.Outcome.next.inj (hclaim.symm.trans (lea_writes hg)))
  exact absurd (hsame.2 rfl) (by decide +kernel)

end Sys2Proof.Proofs
end

section
/-! PROOF. How a word finds its region and its room (O60). -/

namespace Sys2Proof.Proofs

open Sys2Proof Sys2Proof.Machine Sys2Proof.Claims

/-! ### The head of a word (R229, R337, R338) -/

/-- A word needs a head before it. -/
def Headless (t : Team) : Prop := t.needHead = true ∨ t.openRegion = none

theorem headless_iff (t : Team) : (t.needHead || t.openRegion.isNone) = true ↔ Headless t := by
  simp [Headless]

theorem withHead_full {t : Team} (tick : Nat) (hhead : Headless t) (hfull : 4 ≤ t.inFlight) : t.withHead tick = none :=
  (if_pos ((headless_iff t).mpr hhead)).trans (if_neg hfull.not_gt)

/-- Team t1 is t at the head that the word finds: one that opens before it, or that of the region in which it stands. -/
def AtHead (t : Team) (tick : Nat) (t1 : Team) : Prop :=
  Headless t ∧ t.inFlight < 4 ∧ t1 = t.openAt tick 64 8 ∨ ¬ Headless t ∧ t1 = t

theorem withHead_atHead {t t1 : Team} {tick : Nat} (h : AtHead t tick t1) : t.withHead tick = some t1 ∧ t1.needHead = false := by
  rcases h with ⟨hhead, hroom, rfl⟩ | ⟨hhead, rfl⟩
  · exact ⟨(if_pos ((headless_iff t).mpr hhead)).trans (if_pos hroom), rfl⟩
  · exact ⟨if_neg (mt (headless_iff t1).mp hhead), by simpa using (not_or.mp hhead).1⟩

/-- After an implicit head a further one is needed exactly when four regions are in flight. -/
theorem needHead_implicitHead (t : Team) (tick : Nat) : (t.implicitHead tick).needHead = decide (4 ≤ t.inFlight) := by
  have hclosed : (t.closeRegion tick).inFlight = t.inFlight := by simp [Team.inFlight, Team.closeRegion, Team.updOpen]
  unfold Team.implicitHead
  dsimp only
  rw [hclosed]
  split
  case isTrue h => exact (decide_eq_false h.not_ge).symm
  case isFalse h => exact (decide_eq_true (not_lt.mp h)).symm

/-! ### Limits and room -/

/-- The team at which a word of team t1, in its open region r, finds its room: t1 itself within the limits; past one, t1 with the architectural
figure at a fresh head, and t1 at an implicit head elsewhere (R338). -/
def placed (s : State) (t1 : Team) (r : Region) (w : Word1) : Team :=
  if overLimit t1 r (w.demand s t1) = false then t1 else if r.fresh = true then atFresh s t1 w else t1.implicitHead s.tick

section
variable {s : State} {t t1 : Team} {w : Word1} {r : Region}

/-- What issuing a word that closes no region comes to. -/
theorem issueWord_open (hr : Running s t) (hp : Passes s t w) (hc : w.closing s t = false) :
    issueWord w s = .next ((s.runOpen t w).afterStep t.uid t.arch.pc) := by
  unfold issueWord
  rw [Laws.running_issuer hr]
  dsimp only
  rw [Laws.runWord_passes hr hp, hc, if_neg Bool.false_ne_true]

theorem runOpen_full (hhead : Headless t) (hfull : 4 ≤ t.inFlight) : s.runOpen t w = s.wordWait t (.wait .regionSlot) := by
  unfold State.runOpen
  rw [withHead_full s.tick hhead hfull]

/-- The state after a word's effect on team t, before the single step that the word may have been. -/
def effected (s : State) (t : Team) (w : Word1) : State :=
  match w.effect s t with
  | .done s' t' pc => (s'.markHits t' (w.demand s t)).finish (t'.note (w.demand s t)) w pc
  | .trap tr => s.wordTrap t w tr
  | .wait s' run => s'.wordWait t run
  | .act s' => s'

theorem ended_eq (s : State) (t : Team) (w : Word1) : ended s t w = (effected s t w).afterStep t.uid t.arch.pc := rfl

/-- What an ordinary word at its head waits for, or its effect (R337–R339). -/
theorem runOpen_placed (h1 : t.withHead s.tick = some t1) (hopen : t1.openRegion = some r) {t2 : Team} (h2 : placed s t1 r w = t2) :
    (t2.needHead = true → s.runOpen t w = s.wordWait t2 (.wait .regionSlot)) ∧
    (t2.needHead = false → ∀ r2, t2.openRegion = some r2 →
      (s.noRoom t2 r2 (w.demand s t2) = none → s.runOpen t w = effected s t2 w) ∧
      (∀ c, s.noRoom t2 r2 (w.demand s t2) = some c → s.runOpen t w = s.wordWait t2 (.wait c))) := by
  have hplaced : (if (!overLimit t1 r (w.demand s t1)) = true then t1
      else if r.fresh = true then t1.raiseFor (w.demand s t1) else t1.implicitHead s.tick) = t2 := by
    rw [← h2]
    simp [placed, atFresh]
  unfold State.runOpen
  simp only [h1, hopen, Option.map_some, Option.getD_some, hplaced]
  refine ⟨fun hhead => if_pos hhead, fun hhead r2 hr2 => ⟨fun hroom => ?_, fun c hroom => ?_⟩⟩ <;>
    simp only [hhead, hr2, Option.bind_some, hroom, Bool.false_eq_true, if_false]
  rfl

theorem placed_within (h : overLimit t1 r (w.demand s t1) = false) : placed s t1 r w = t1 := if_pos h

theorem placed_fresh (h : overLimit t1 r (w.demand s t1) = true) (hfresh : r.fresh = true) : placed s t1 r w = atFresh s t1 w :=
  (if_neg (by simp [h])).trans (if_pos hfresh)

theorem placed_head (h : overLimit t1 r (w.demand s t1) = true) (hfresh : r.fresh = false) : placed s t1 r w = t1.implicitHead s.tick :=
  (if_neg (by simp [h])).trans (if_neg (by simp [hfresh]))

theorem atHead_names (h : AtHead t s.tick t1) : t1.uid = t.uid ∧ t1.arch = t.arch := by
  rcases h with ⟨-, -, rfl⟩ | ⟨-, rfl⟩ <;> exact ⟨rfl, rfl⟩

theorem placed_names (s : State) (t1 : Team) (r : Region) (w : Word1) : (placed s t1 r w).uid = t1.uid ∧ (placed s t1 r w).arch = t1.arch := by
  unfold placed
  split
  · exact ⟨rfl, rfl⟩
  · split
    · exact ⟨rfl, rfl⟩
    · exact ⟨Laws.implicitHead_uid .., Laws.implicitHead_arch ..⟩

/-- A word at its head that needs no further one: it waits for the room it lacks, or has its effect (R339). -/
theorem finds_room (hr : Running s t) (hp : Passes s t w) (hc : w.closing s t = false) (h1 : AtHead t s.tick t1)
    (hopen : t1.openRegion = some r) {t2 : Team} (h2 : placed s t1 r w = t2) (hhead : t2.needHead = false) :
    ∀ r2, t2.openRegion = some r2 →
      (s.noRoom t2 r2 (w.demand s t2) = none → issueWord w s = .next (ended s t2 w)) ∧
      (∀ c, s.noRoom t2 r2 (w.demand s t2) = some c →
        issueWord w s = .next ((s.wordWait t2 (.wait c)).afterStep t.uid t.arch.pc)) := by
  intro r2 hr2
  obtain ⟨huid, harch⟩ := placed_names s t1 r w
  obtain ⟨huid1, harch1⟩ := atHead_names h1
  rw [h2, huid1] at huid
  rw [h2, harch1] at harch
  obtain ⟨heffect, hwait⟩ := (runOpen_placed (withHead_atHead h1).1 hopen h2).2 hhead r2 hr2
  rw [issueWord_open hr hp hc]
  refine ⟨fun hroom => ?_, fun c hroom => ?_⟩
  · rw [heffect hroom, ended_eq, huid, harch]
  · rw [hwait c hroom]

/-- A word past a limit for which no head can open waits for a region slot (R229, R338). -/
theorem waits_for_slot (hr : Running s t) (hp : Passes s t w) (hc : w.closing s t = false) (h1 : AtHead t s.tick t1)
    (hopen : t1.openRegion = some r) {t2 : Team} (h2 : placed s t1 r w = t2) (hhead : t2.needHead = true) :
    issueWord w s = .next ((s.wordWait t2 (.wait .regionSlot)).afterStep t.uid t.arch.pc) := by
  rw [issueWord_open hr hp hc, (runOpen_placed (withHead_atHead h1).1 hopen h2).1 hhead]

end

/-- Settles O60: the word finds its head, then its place within the limits of the region, then its room. -/
theorem regionsAndRoom : Obligations.RegionsAndRoom := by
  unfold Obligations.RegionsAndRoom
  intro s t w hr hp hclosing headless waits finds
  refine ⟨fun hhead hfull => ?full, fun t1 h1 r hopen => ⟨fun hwithin => ?within, fun hover hfresh => ?fresh, fun hover hfresh =>
    ⟨fun hfull => ?slot, fun hroom _ => ?head⟩⟩⟩
  case full =>
    have hrun := issueWord_open hr hp (hclosing t)
    rwa [runOpen_full hhead hfull] at hrun
  all_goals
    have hhead : t1.needHead = false := (withHead_atHead h1).2
  case within => exact finds_room hr hp (hclosing t) h1 hopen (placed_within hwithin) hhead
  case fresh => exact finds_room hr hp (hclosing t) h1 hopen (placed_fresh hover hfresh) hhead
  case slot => exact waits_for_slot hr hp (hclosing t) h1 hopen (placed_head hover hfresh) ((needHead_implicitHead ..).trans (decide_eq_true hfull))
  case head => exact finds_room hr hp (hclosing t) h1 hopen (placed_head hover hfresh) ((needHead_implicitHead ..).trans (decide_eq_false hroom.not_ge))

end Sys2Proof.Proofs
end

section
/-! PROOF. How a word ends that a statement knows by its form: its effect is done, or traps. -/

namespace Sys2Proof.Proofs

open Sys2Proof Sys2Proof.Machine Sys2Proof.Claims

/-- To team t, word x is of form f: it differs from f in its effect alone. -/
structure HasForm (s : State) (t : Team) (x f : Word1) : Prop where
  len     : x.len = f.len
  hd      : x.hd = f.hd
  caps    : x.caps = f.caps
  once    : x.once = f.once
  sample  : x.sample = f.sample
  check   : x.check s t = f.check s t
  bounds  : x.bounds s t = f.bounds s t
  closing : x.closing s t = f.closing s t
  demand  : x.demand s t = f.demand s t
  targets : x.targets s t = f.targets s t

theorem hasForm_effect (s : State) (t : Team) (f : Word1) (eff : State → Team → WordEnd) : HasForm s t { f with effect := eff } f :=
  ⟨rfl, rfl, rfl, rfl, rfl, rfl, rfl, rfl, rfl, rfl⟩

section
variable {i : Instr} {s : State} {t : Team} {x f : Word1} (hg : Goes s t f) (hx : exec i s = issueWord x s) (hf : HasForm s t x f)
include hg hf

theorem goes_of_form : Goes s t x :=
  ⟨hg.running, Laws.passes_congr hg.passes hf.caps hf.check hf.hd hf.bounds hf.targets, Laws.fits_congr hg.fits hf.closing hf.demand⟩

include hx

/-- The word's effect is done. -/
theorem done_of_form {s' : State} {t' : Team} (he : x.effect s t = .done s' t' none) (hu : t'.uid = t.uid) (hs : t'.stepMode = t.stepMode)
    (hin : s'.teams = s.teams) :
    exec i s = .next ((s'.markHits t' (f.demand s t)).finish (t'.note (f.demand s t)) f none) := by
  obtain ⟨hr, hp, hfit⟩ := goes_of_form hg hf
  rw [hx, Laws.issueWord_done hr hp hfit he hu hs hin, hf.demand, Laws.finish_congr _ _ _ hf.len hf.hd hf.once hf.sample]

/-- The same for a word that writes no tile. -/
theorem done_of_untiled_form {s' : State} {t' : Team} (he : x.effect s t = .done s' t' none) (htiles : (f.demand s t).tiles = [])
    (hu : t'.uid = t.uid) (hs : t'.stepMode = t.stepMode) (hin : s'.teams = s.teams) :
    exec i s = .next (s'.finish (t'.note (f.demand s t)) f none) := by
  rw [done_of_form hg hx hf he hu hs hin, Laws.markHits_none _ _ htiles]

/-- The word's effect traps precisely. -/
theorem traps_of_form {tr tr' : Trap} (he : x.effect s t = .trap tr) (hreport : f.report tr = tr') : Traps i s t f.hd.sw tr' := by
  obtain ⟨hr, hp, hfit⟩ := goes_of_form hg hf
  rw [Traps, hx, Laws.issueWord_trap hr hp hfit he, quiet_eq_hushed, hf.hd, Word1.report, hf.once, ← hreport, Word1.report]

end

end Sys2Proof.Proofs
end

section
/-! PROOF. MMA, MMAM and MMQ (O15). -/

namespace Sys2Proof.Proofs

open Sys2Proof Sys2Proof.Machine Sys2Proof.Claims

/-- A matrix word has its effect while the array is free (R122). -/
theorem effect_of_array {x : Word1} {f : State → Team → WordEnd} (hx : x.effect = onArray f) {s : State} {t : Team} (hfree : s.arrayBusy t = false)
    {e : WordEnd} (he : f s t = e) : x.effect s t = e := by
  rw [hx, onArray, hfree, ← he]
  rfl

/-! ### Flags and checks -/

theorem allFlags_map {α : Type} (l : List α) (f : α → Flags) : allFlags (l.map f) = l.foldl (fun acc x => acc ||| f x) 0 := List.foldl_map

section
variable (t : Team) (id : Nat) (fl : Flags) (once : Bool) (lanes : Mask)

@[simp] theorem matFlags_uid : (t.matFlags id fl once lanes).uid = t.uid := by
  unfold Team.matFlags
  dsimp only
  split <;> rfl

@[simp] theorem matFlags_stepMode : (t.matFlags id fl once lanes).stepMode = t.stepMode := by
  unfold Team.matFlags
  dsimp only
  split <;> rfl

end

/-! ### MMA and MMAM (R119, R120) -/

/-- The blocks of a set depend on the masks of its 16 rows and columns and of the K depths alone. -/
theorem mmaBlocks_congr {a : Arch} {w : FullX} {f : Nat} {row row' col col' dep dep' : Nat → Bool} (hrow : ∀ i < 16, row i = row' i)
    (hcol : ∀ n < 16, col n = col' n) (hdep : ∀ k < 32, dep k = dep' k) : mmaBlocks a w f row col dep = mmaBlocks a w f row' col' dep' := by
  have hks : (List.range (matK w.fmt.toNat)).filter dep = (List.range (matK w.fmt.toNat)).filter dep' := by
    have hK : matK w.fmt.toNat ≤ 32 := by unfold matK; split <;> omega
    exact List.filter_congr fun k hk => hdep k ((List.mem_range.mp hk).trans_le hK)
  unfold mmaBlocks
  dsimp only
  rw [hks]
  refine List.flatMap_congr fun i hi => ?_
  rw [hrow i (List.mem_range.mp hi)]
  split
  · rfl
  · refine List.filterMap_congr fun n hn => ?_
    rw [hcol n (List.mem_range.mp hn)]

/-- A bit of a mask register, by set and lane. -/
def setBit (t : Team) (k : Nat) : Nat → Nat → Bool := fun f l => (t.arch.kget k).getLsbD (32 * f + l)

theorem setBit_zero (t : Team) {f l : Nat} (h : 32 * f + l < 1024) : setBit t 0 f l = true := by
  rw [setBit, Arch.kget, if_pos rfl, BitVec.getLsbD_allOnes]
  exact decide_eq_true h

/-- The blocks that a fragment product computes in every set of the team. -/
def teamBlocks (t : Team) (w : FullX) (row col dep : Nat → Nat → Bool) : List MatBlock :=
  (List.range (t.tw / 32)).flatMap (fun f => mmaBlocks t.arch w f (row f) (col f) (dep f))

/-- The team once the blocks bs are under way: the product is numbered, its checks go with the region, its elements are pending, and its
flags are gathered. -/
def blocksIssued (t0 : Team) (w : FullX) (bs : List MatBlock) : Team :=
  let rs : List MatResult := bs.map (mmaElem t0.arch w)
  let t1 := t0.freshId.2
  let t := if bs.isEmpty then t1 else t1.addCheck t0.nextId (bs.map (fun b => blockCheck w.fmt.toNat b.2.2.1 b.2.2.2))
  let p : Pending := { id := t0.nextId, pc := t0.arch.pc, region := t.regionId, dest := .vec w.d.toNat, x2 := false,
                       lanes := maskOfList (rs.map (·.2.1)), vals := rs.map (fun r => (r.1, r.2.1, BitVec.ofNat 32 r.2.2.1)) }
  ({ t with pend := if rs.isEmpty then t.pend else t.pend ++ [p] }).matFlags t0.nextId (rs.foldl (fun acc (r : MatResult) => acc ||| r.2.2.2) 0) false
    (maskOfList ((rs.filter (fun (r : MatResult) => r.2.2.2 &&& t0.arch.enables != 0)).map (fun (r : MatResult) => r.2.1)))

theorem mmaTeam_eq (t : Team) (w : FullX) (row col dep : Nat → Nat → Bool) :
    mmaTeam t w row col dep = blocksIssued t w (teamBlocks t w row col dep) := by
  unfold mmaTeam teamBlocks
  dsimp only
  generalize (List.range (t.tw / 32)).flatMap _ = bs
  rw [allFlags_map]
  cases bs with
  | nil =>
    rw [if_pos rfl]
    rfl
  | cons b bs =>
    rw [if_neg (List.cons_ne_nil b bs)]
    rfl

theorem blocksIssued_names (t : Team) (w : FullX) (bs : List MatBlock) :
    (blocksIssued t w bs).uid = t.uid ∧ (blocksIssued t w bs).stepMode = t.stepMode := by
  unfold blocksIssued
  dsimp only
  rw [matFlags_uid, matFlags_stepMode]
  split <;> exact ⟨rfl, rfl⟩

/-- Under k0 every element of every set is on (R45). -/
theorem mmaTeam_unmasked (t : Team) (w : FullX) (hw : t.tw ≤ 1024) :
    mmaTeam t w (setBit t 0) (setBit t 0) (setBit t 0) = mmaTeam t w (fun _ _ => true) (fun _ _ => true) (fun _ _ => true) := by
  rw [mmaTeam_eq, mmaTeam_eq]
  refine congrArg (blocksIssued t w) (List.flatMap_congr fun f hf => ?_)
  have hbit (l : Nat) (hl : l < 32) : setBit t 0 f l = true := setBit_zero t (by have := List.mem_range.mp hf; omega)
  exact mmaBlocks_congr (fun i hi => hbit i (by omega)) (fun n hn => hbit n (by omega)) hbit

/-- The lanes of the team that do not act. -/
def idleLanes (t : Team) (w : FullX) : Mask := fullMask t.tw &&& ~~~(t.arch.acting t.tw w.hd)

theorem idles_iff (t : Team) (w : FullX) : (!w.any && idleLanes t w != 0) = true ↔ w.any = false ∧ idleLanes t w ≠ 0 := by simp

section
variable {i : Instr} {s : State} {t : Team} {w : FullX} {row col dep : Nat} (hg : Goes s t (mmaForm w)) (hfree : s.arrayBusy t = false)
  (hx : exec i s = issueWord (mmaWord w row col dep) s)
include hg hfree hx

theorem mma_done (htw : t.tw % 32 = 0) (hact : w.any = true ∨ idleLanes t w = 0) :
    exec i s = .next (s.finish ((mmaTeam t w (setBit t row) (setBit t col) (setBit t dep)).note ((mmaForm w).demand s t)) (mmaForm w) none) := by
  have heffect : (mmaWord w row col dep).effect s t = .done s (mmaTeam t w (setBit t row) (setBit t col) (setBit t dep)) none := by
    refine effect_of_array rfl hfree ((if_neg (by simp [htw])).trans ((if_neg (mt (idles_iff t w).mp ?_)).trans ?_))
    · rcases hact with h | h <;> simp [h]
    · rw [mmaTeam_eq]
      rfl
  rw [mmaTeam_eq] at heffect ⊢
  obtain ⟨huid, hstep⟩ := blocksIssued_names t w (teamBlocks t w (setBit t row) (setBit t col) (setBit t dep))
  exact done_of_untiled_form hg hx (hasForm_effect s t (mmaForm w) _) heffect rfl huid hstep rfl

theorem mma_traps_sets (htw : t.tw % 32 ≠ 0) : Traps i s t w.hd.sw (divergent 2 0 false) :=
  traps_of_form hg hx (hasForm_effect s t (mmaForm w) _) (effect_of_array rfl hfree (if_pos (by simpa using htw))) rfl

theorem mma_traps_idle (htw : t.tw % 32 = 0) (hany : w.any = false) (hidle : idleLanes t w ≠ 0) :
    Traps i s t w.hd.sw (divergent 1 (idleLanes t w) false) :=
  traps_of_form hg hx (hasForm_effect s t (mmaForm w) _)
    (effect_of_array rfl hfree ((if_neg (by simp [htw])).trans (if_pos ((idles_iff t w).mpr ⟨hany, hidle⟩)))) rfl

end


/-! ### MMQ (R121–R123) -/

/-- The open region keeps its name under a change that keeps its identity. -/
theorem regionId_updOpen (t : Team) {f : Region → Region} (hid : ∀ r, (f r).id = r.id) (hopen : ∀ r, (f r).closeT = r.closeT) :
    (t.updOpen f).regionId = t.regionId := by
  simp only [Team.regionId, Team.openRegion, Team.updOpen, List.getLast?_map]
  cases t.regions.getLast? with
  | none => rfl
  | some r =>
    cases hc : r.closeT <;> simp [Option.filter, hc, hid, hopen]

theorem regionId_addCheck (t : Team) (id : Nat) (sums : List Nat) : (t.addCheck id sums).regionId = t.regionId :=
  regionId_updOpen t (fun _ => rfl) (fun _ => rfl)

theorem regionId_stageX2 (t u : Team) (q : Nat) (v : List Word) : (t.stageX2 u q v).regionId = t.regionId := by
  refine regionId_updOpen t (fun r => ?_) (fun r => ?_) <;> split <;> rfl

/-- The tiles of the partner's group as a product leaves them. -/
abbrev Staging := Team × Nat × List Word × Flags

def stageAll (t : Team) (far : List Staging) : Team := far.foldl (fun t r => t.stageX2 r.1 r.2.1 r.2.2.1) t

/-- Staging leaves the team's names and its open region's. -/
theorem stageAll_names (t : Team) (far : List Staging) :
    (stageAll t far).uid = t.uid ∧ (stageAll t far).stepMode = t.stepMode ∧ (stageAll t far).regionId = t.regionId := by
  unfold stageAll
  induction far generalizing t with
  | nil => exact ⟨rfl, rfl, rfl⟩
  | cons r far ih =>
    obtain ⟨huid, hstep, hreg⟩ := ih (t.stageX2 r.1 r.2.1 r.2.2.1)
    exact ⟨huid, hstep, hreg.trans (regionId_stageX2 ..)⟩

/-- Team u, which is t with its tiles written and staged, once the product's checks and operands are noted and its flags gathered. -/
def productIssued (w : FullX) (x2 : Bool) (t u : Team) (sums : List Nat) (fl : Flags) (region : Nat) : Team :=
  let regs := (List.range 4).map (w.a.toNat + ·) ++ (List.range 8).map (w.b.toNat + ·)
  let p : Pending := { id := t.nextId, pc := t.arch.pc, region := region, dest := .none, lanes := 0, vals := regs.map (fun r => (r, 0, 0)), x2 := x2 }
  let u1 := u.addCheck t.nextId sums
  ({ u1 with pend := u1.pend ++ [p] } : Team).matFlags t.nextId fl true 0

theorem productIssued_names (w : FullX) (x2 : Bool) (t u : Team) (sums : List Nat) (fl : Flags) (region : Nat) :
    (productIssued w x2 t u sums fl region).uid = u.uid ∧ (productIssued w x2 t u sums fl region).stepMode = u.stepMode := by
  unfold productIssued
  dsimp only
  rw [matFlags_uid, matFlags_stepMode]
  exact ⟨rfl, rfl⟩

/-- The four tiles of the team's own product, and the team that has written them. -/
def ownProduct (t : Team) (w : FullX) : List (List Word × Flags) :=
  mmqGroup t.arch w.fmt.toNat w.set.toNat w.set.toNat w.a.toNat w.b.toNat w.acc (fun k => t.arch.tile (w.d.toNat + k))

def ownWritten (t : Team) (w : FullX) : Team :=
  { t with nextId := t.nextId + 1, arch := t.arch.setTiles ((ownProduct t w).mapIdx (fun k r => (w.d.toNat + k, r.1))) }

/-- The four tiles of the product for partner u. -/
def farProduct (t u : Team) (w : FullX) : List (List Word × Flags) :=
  mmqGroup t.arch w.fmt.toNat w.set.toNat (w.set.toNat + 1) w.a.toNat w.b.toNat w.acc (fun k => x2Old t u (w.d.toNat + k))

/-- What the checker forms of the product of set n of B. -/
def productChecks (t : Team) (w : FullX) (n : Nat) : List Nat := mmqChecks t.arch w.fmt.toNat w.set.toNat n w.a.toNat w.b.toNat

/-- The staged tiles of the partner. -/
def staging (t u : Team) (w : FullX) : List Staging := (farProduct t u w).mapIdx (fun k r => (u, w.d.toNat + k, r))

theorem allFlags_staging (t u : Team) (w : FullX) :
    allFlags ((farProduct t u w).map (fun r => r.2)) = (staging t u w).foldl (fun acc r => acc ||| r.2.2.2) 0 := by
  rw [← allFlags_map (staging t u w) (fun r => r.2.2.2)]
  refine congrArg allFlags ?_
  refine List.ext_getElem (by simp [staging]) fun k _ _ => by simp [staging]

section
variable {s : State} {t : Team} {w : FullX} (hg : Goes s t (mmqForm w)) (hfree : s.arrayBusy t = false)
include hg

theorem mmq_done {u : Team} {sums : List Nat} {fl : Flags} {x : Word1} (hx : exec (.mmq w) s = issueWord x s) (hf : HasForm s t x (mmqForm w))
   (hu : u.uid = t.uid) (hs : u.stepMode = t.stepMode) (hr : u.regionId = t.regionId)
   (he : x.effect s t = .done s (productIssued w w.x2 t u sums fl (u.addCheck t.nextId sums).regionId) none) :
   let u2 := productIssued w w.x2 t u sums fl t.regionId
   exec (.mmq w) s = .next ((s.markHits u2 ((mmqForm w).demand s t)).finish (u2.note ((mmqForm w).demand s t)) (mmqForm w) none) := by
  rw [regionId_addCheck, hr] at he
  obtain ⟨huid, hstep⟩ := productIssued_names w w.x2 t u sums fl t.regionId
  exact done_of_form hg hx hf he (huid.trans hu) (hstep.trans hs) rfl

include hfree

theorem mmq_own (hx2 : w.x2 = false) (htw : t.tw % 256 = 0) (hset : w.set.toNat < t.tw / 256) :
    let u2 := productIssued w w.x2 t (ownWritten t w) (productChecks t w w.set.toNat) (allFlags ((ownProduct t w).map (fun r => r.2))) t.regionId
    exec (.mmq w) s = .next ((s.markHits u2 ((mmqForm w).demand s t)).finish (u2.note ((mmqForm w).demand s t)) (mmqForm w) none) := by
  refine mmq_done hg rfl (hasForm_effect s t (mmqForm w) _) rfl rfl rfl (effect_of_array rfl hfree ?_)
  refine (if_neg (by simp [htw, hx2, hset])).trans ?_
  have hfl : allFlags ((ownProduct t w).map (fun r => r.2)) = (ownProduct t w).foldl (fun acc r => acc ||| r.2) 0 ||| 0 := by
    rw [allFlags_map]
    exact BitVec.or_zero.symm
  rw [hx2, hfl, ← List.append_nil (productChecks t w w.set.toNat)]
  cases s.partner t w.d.toNat <;> rfl

theorem mmq_far {u : Team} (hx2 : w.x2 = true) (htw : t.tw % 256 = 0) (hset : w.set.toNat + 1 < t.tw / 256) (hu : s.partner t w.d.toNat = some u) :
    let u2 := productIssued w w.x2 t (stageAll (ownWritten t w) (staging t u w))
      (productChecks t w w.set.toNat ++ productChecks t w (w.set.toNat + 1))
      (allFlags ((ownProduct t w).map (fun r => r.2)) ||| allFlags ((farProduct t u w).map (fun r => r.2))) t.regionId
    exec (.mmq w) s = .next ((s.markHits u2 ((mmqForm w).demand s t)).finish (u2.note ((mmqForm w).demand s t)) (mmqForm w) none) := by
  obtain ⟨huid, hstep, hreg⟩ := stageAll_names (ownWritten t w) (staging t u w)
  refine mmq_done hg rfl (hasForm_effect s t (mmqForm w) _) huid hstep hreg (effect_of_array rfl hfree ?_)
  refine (if_neg (by simp [htw, hx2, hset])).trans ?_
  rw [hx2, hu, allFlags_map, allFlags_staging]
  rfl

theorem mmq_traps_sets (h : t.tw % 256 ≠ 0 ∨ t.tw / 256 ≤ (if w.x2 then w.set.toNat + 1 else w.set.toNat)) :
    Traps (.mmq w) s t w.hd.sw (divergent 2 0 true) :=
  traps_of_form hg rfl (hasForm_effect s t (mmqForm w) _) (effect_of_array rfl hfree (if_pos (by simpa using h))) rfl

theorem mmq_traps_alone (hx2 : w.x2 = true) (htw : t.tw % 256 = 0) (hset : w.set.toNat + 1 < t.tw / 256)
    (hu : s.partner t w.d.toNat = none) : Traps (.mmq w) s t w.hd.sw (divergent 3 0 true) := by
  refine traps_of_form (tr := divergent 3 0 true) hg rfl (hasForm_effect s t (mmqForm w) _)
    (effect_of_array rfl hfree ((if_neg (by simp [htw, hx2, hset])).trans ?_)) rfl
  rw [hx2, hu]

end

/-- Settles O15: MMA is MMAM under k0, which turns every element on; MMQ writes its own tiles, and with X2 stages its partner's besides. -/
theorem fragmentAndTileProducts : Obligations.FragmentAndTileProducts := by
  unfold Obligations.FragmentAndTileProducts
  refine ⟨fun s t w hg hfree hw => ?fragments, fun s t w hg hfree => ?tiles⟩
  case fragments =>
    have hmma : exec (.mma w) s = issueWord (mmaWord w 0 0 0) s := rfl
    have hmmam : exec (.mmam w) s = issueWord (mmaWord w _ _ _) s := rfl
    refine ⟨fun htw hact => ⟨?_, mma_done hg hfree hmmam htw hact⟩, fun htw => ⟨mma_traps_sets hg hfree hmma htw, mma_traps_sets hg hfree hmmam htw⟩,
      fun htw hany hidle => ⟨mma_traps_idle hg hfree hmma htw hany hidle, mma_traps_idle hg hfree hmmam htw hany hidle⟩⟩
    rw [← mmaTeam_unmasked t w hw]
    exact mma_done hg hfree hmma htw hact
  case tiles =>
    exact ⟨mmq_own hg hfree, fun u => mmq_far hg hfree, mmq_traps_sets hg hfree, mmq_traps_alone hg hfree⟩

end Sys2Proof.Proofs
end

section
/-! PROOF. QZERO, QADD, QCVT, QSCALE and QMOV (O16). -/

namespace Sys2Proof.Proofs

open Sys2Proof Sys2Proof.Machine Sys2Proof.Claims

theorem firstTrap_singleton (c : Option Trap) : firstTrap [c] = c := by
  cases c <;> rfl

/-! ### Words that write whole tiles (R126, R127) -/

theorem allFlags_zero {α : Type} (l : List α) : allFlags (l.map (fun _ => 0)) = 0 := by
  rw [allFlags_map]
  induction l with
  | nil => rfl
  | cons _ _ ih => exact ih

theorem tileMap_eq (f : Nat → Nat × Flags) :
    tileMap f = (tileOf (fun i => (f i).1), allFlags ((List.range 8192).map (fun i => (f i).2))) := by
  rw [tileMap, tileOf, allFlags_map, List.map_map, List.foldl_map]
  rfl

/-- A word whose effect stages tiles does so. -/
theorem stages_of_form {i : Instr} {s : State} {t : Team} {x f : Word1} (hg : Goes s t f) (hx : exec i s = issueWord x s)
    (hf : HasForm s t x f) {ts : List (Nat × List Word)} {fl : Flags} (he : x.effect s t = .done s (staged t ts fl) none) : Stages i s t f ts fl :=
  done_of_form hg hx hf he (matFlags_uid ..) (matFlags_stepMode ..) rfl

/-- One tile written from its index is staged. -/
theorem tileEffect_eq (q : Nat) (f : Arch → Nat → Nat × Flags) (s : State) (t : Team) :
    tileEffect q f s t = .done s (staged t [(q, tileOf (fun i => (f t.arch i).1))]
      (allFlags ((List.range 8192).map (fun i => (f t.arch i).2)))) none := by
  have heffect : tileEffect q f s t = .done s (staged t [(q, (tileMap (f t.arch)).1)] (tileMap (f t.arch)).2) none := rfl
  rw [heffect, tileMap_eq]

/-- Element i of a tile. -/
def tileElem (a : Arch) (q i : Nat) : Nat := ((a.tile q).getD i 0).toNat

/-- The elements of QADD and of QCVT. -/
def addElem (w : FullX) (a : Arch) (i : Nat) : Nat × Flags :=
  if w.fmt = 3 then ((tileElem a w.a.toNat i + tileElem a w.b.toNat i) % 2 ^ 32, 0) else fAdd .f32 0 (tileElem a w.a.toNat i) (tileElem a w.b.toNat i)

def convertElem (w : FullX) (a : Arch) (i : Nat) : Nat × Flags := qcvtElem w.fmt.toNat w.any (tileElem a w.a.toNat i)

section
variable {s : State} {t : Team} {w : FullX} (hfree : s.arrayBusy t = false)
include hfree

theorem qzero_stages (hg : Goes s t (tile1Form w [])) : Stages (.qzero w) s t (tile1Form w []) [(w.d.toNat, tileOf (fun _ => 0))] 0 := by
  have hstages := stages_of_form hg (i := .qzero w) rfl
    ⟨rfl, rfl, rfl, rfl, rfl, (firstTrap_singleton _).symm, (firstTrap_singleton _).symm, rfl, rfl, rfl⟩
    (effect_of_array rfl hfree (tileEffect_eq ..))
  rwa [allFlags_zero] at hstages

theorem qadd_stages (hg : Goes s t (tile1Form w [w.a, w.b])) :
    Stages (.qadd w) s t (tile1Form w [w.a, w.b]) [(w.d.toNat, tileOf (fun i => (addElem w t.arch i).1))]
      (allFlags ((List.range 8192).map (fun i => (addElem w t.arch i).2))) :=
  stages_of_form hg rfl (hasForm_effect s t (tile1Form w [w.a, w.b]) _)
    (effect_of_array (f := tileEffect w.d.toNat (addElem w)) rfl hfree (tileEffect_eq ..))

theorem qcvt_stages (hg : Goes s t (tile1Form w [w.a])) :
    Stages (.qcvt w) s t (tile1Form w [w.a]) [(w.d.toNat, tileOf (fun i => (convertElem w t.arch i).1))]
      (allFlags ((List.range 8192).map (fun i => (convertElem w t.arch i).2))) :=
  stages_of_form hg rfl (hasForm_effect s t (tile1Form w [w.a]) _)
    (effect_of_array (f := tileEffect w.d.toNat (convertElem w)) rfl hfree (tileEffect_eq ..))

end

/-! ### QSCALE (R126) -/

/-- Element i of tile k of a scaled accumulation. -/
def scaledElem (w : FullX) (a : Arch) (k i : Nat) : Nat × Flags :=
  let scale : Option Int := match scaleExp (a.escByte w.b.toNat (i / 64)), scaleExp (a.escByte (Machine.extOf w.ext).c.toNat (64 * k + i % 64)) with
    | some x, some y => some (x + y)
    | _, _ => none
  Fmt.f32.sum 0 [Fmt.f32.read (tileElem a (w.d.toNat + k) i), (Fmt.f32.read (tileElem a (w.a.toNat + k) i)).scale scale]

/-- Four tiles written from their indices, to tile q and those after it. -/
theorem tileMaps_mapIdx (q : Nat) (g : Nat → Nat → Nat × Flags) : ((List.range 4).map (fun k => tileMap (g k))).mapIdx (fun k r => (q + k, r.1)) =
    (List.range 4).map (fun k => (q + k, tileOf (fun i => (g k i).1))) :=
  List.ext_getElem (by simp) fun k _ _ => by simp [tileMap_eq]

theorem tileMaps_flags (g : Nat → Nat → Nat × Flags) : ((List.range 4).map (fun k => tileMap (g k))).foldl (fun acc r => acc ||| r.2) 0 =
    allFlags ((List.range 4).map (fun k => allFlags ((List.range 8192).map (fun i => (g k i).2)))) := by
  rw [← allFlags_map, List.map_map]
  exact congrArg allFlags (List.map_congr_left fun k _ => by rw [Function.comp, tileMap_eq])

theorem qscale_stages {s : State} {t : Team} {w : FullX} (hfree : s.arrayBusy t = false) (hg : Goes s t (qscaleForm w)) :
    Stages (.qscale w) s t (qscaleForm w) ((List.range 4).map (fun k => (w.d.toNat + k, tileOf (fun i => (scaledElem w t.arch k i).1))))
      (allFlags ((List.range 4).map (fun k => allFlags ((List.range 8192).map (fun i => (scaledElem w t.arch k i).2))))) := by
  rw [← tileMaps_mapIdx, ← tileMaps_flags]
  exact stages_of_form hg rfl (hasForm_effect s t (qscaleForm w) _) (effect_of_array rfl hfree rfl)

/-! ### QMOV (R129) -/

/-- The sum of the powers of two of the numbers below n with property p. -/
theorem testBit_foldl_two_pow (n l : Nat) (p : Nat → Bool) :
    ((List.range n).foldl (fun acc k => if p k then acc + 2 ^ k else acc) 0).testBit l = (decide (l < n) && p l) ∧
    (List.range n).foldl (fun acc k => if p k then acc + 2 ^ k else acc) 0 < 2 ^ n := by
  induction n with
  | zero => simp
  | succ n ih =>
    obtain ⟨hbit, hlt⟩ := ih
    rw [List.range_succ, List.foldl_concat]
    generalize (List.range n).foldl _ 0 = x at hbit hlt
    have hsum : x + 2 ^ n = 2 ^ n ||| x := by simpa [add_comm] using Nat.two_pow_add_eq_or_of_lt hlt 1
    have hpow : 2 ^ (n + 1) = 2 ^ n + 2 ^ n := by rw [pow_succ, mul_two]
    refine ⟨?_, by split <;> omega⟩
    rcases eq_or_ne l n with rfl | hne
    · cases p l <;> simp [hsum, hbit]
    · have hlt' : l < n + 1 ↔ l < n := by omega
      split <;> simp [hsum, hbit, hne.symm, hlt']

theorem getLsbD_maskOf {l : Nat} (hl : l < 1024) (n : Nat) (p : Nat → Bool) : (maskOf n p).getLsbD l = (decide (l < n) && p l) := by
  rw [maskOf, BitVec.getLsbD_ofNat, (testBit_foldl_two_pow n l p).1]
  simp [hl]

section
variable {s : State} {t : Team} {w : FullX} (hg : Goes s t (qmovForm w)) (hfree : s.arrayBusy t = false)
include hg hfree

/-- The elements of a tile on their way to the lanes of a set. -/
def tileInFlight (t : Team) (w : FullX) : Pending :=
  { id := t.nextId, pc := t.arch.pc, region := t.regionId, dest := .vec w.d.toNat, x2 := false,
    lanes := maskOf t.tw (fun l => l / 256 == w.set.toNat),
    vals := (List.range 256).flatMap (fun l => (List.range 32).map (fun j =>
      (w.d.toNat + j, 256 * w.set.toNat + l, (t.arch.tile w.a.toNat).getD (64 * (l % 128) + 32 * (l / 128) + j) 0))) }

theorem qmov_done (htw : t.tw % 256 = 0) (hset : w.set.toNat < t.tw / 256) :
    exec (.qmov w) s = .next (s.finish (({ t with nextId := t.nextId + 1, pend := t.pend ++ [tileInFlight t w] }).note ((qmovForm w).demand s t))
      (qmovForm w) none) := by
  have hsets : ¬ (t.tw % 256 != 0 || decide (t.tw / 256 ≤ w.set.toNat)) = true := by simp [htw, hset]
  exact done_of_untiled_form hg rfl (hasForm_effect s t (qmovForm w) _) (effect_of_array rfl hfree (if_neg hsets)) rfl rfl rfl rfl

theorem qmov_traps (h : t.tw % 256 ≠ 0 ∨ t.tw / 256 ≤ w.set.toNat) : Traps (.qmov w) s t w.hd.sw (divergent 2 0 true) :=
  traps_of_form hg rfl (hasForm_effect s t (qmovForm w) _) (effect_of_array rfl hfree (if_pos (by simpa using h))) rfl

end

theorem mem_tileInFlight_lanes (t : Team) (w : FullX) (l : Nat) :
    (tileInFlight t w).lanes.getLsbD l = true ↔ l < t.tw ∧ l < 1024 ∧ l / 256 = w.set.toNat := by
  by_cases hl : l < 1024
  · rw [tileInFlight, getLsbD_maskOf hl]
    simp [hl]
  · simp [hl, BitVec.getLsbD_of_ge _ l (not_lt.mp hl)]

theorem mem_tileInFlight_vals (t : Team) (w : FullX) (v : Nat × Nat × Word) :
    v ∈ (tileInFlight t w).vals ↔ ∃ r c, r < 128 ∧ c < 64 ∧
      v = (w.d.toNat + c % 32, 256 * w.set.toNat + r + 128 * (c / 32), (t.arch.tile w.a.toNat).getD (64 * r + c) 0) := by
  simp only [tileInFlight, List.mem_flatMap, List.mem_map, List.mem_range]
  constructor
  · rintro ⟨l, hl, j, hj, rfl⟩
    refine ⟨l % 128, 32 * (l / 128) + j, by omega, by omega, ?_⟩
    rw [show (32 * (l / 128) + j) % 32 = j by omega, show 256 * w.set.toNat + l % 128 + 128 * ((32 * (l / 128) + j) / 32) = 256 * w.set.toNat + l by omega,
      Nat.add_assoc]
  · rintro ⟨r, c, hr, hc, rfl⟩
    refine ⟨r + 128 * (c / 32), by omega, c % 32, by omega, ?_⟩
    rw [show (r + 128 * (c / 32)) % 128 = r by omega, show (r + 128 * (c / 32)) / 128 = c / 32 by omega,
      show 64 * r + 32 * (c / 32) + c % 32 = 64 * r + c by omega, Nat.add_assoc]

/-- Settles O16: the words that write tiles stage the elements that their functions give, and QMOV has a tile's elements on their way. -/
theorem tileArithmeticAndMoves : Obligations.TileArithmeticAndMoves := by
  unfold Obligations.TileArithmeticAndMoves
  refine ⟨fun s t w hfree => ⟨qzero_stages hfree, qadd_stages hfree, qcvt_stages hfree, qscale_stages hfree⟩, fun s t w hg hfree =>
    ⟨fun htw hset => ⟨tileInFlight t w, qmov_done hg hfree htw hset, rfl, rfl, rfl, rfl, mem_tileInFlight_lanes t w, mem_tileInFlight_vals t w⟩,
      qmov_traps hg hfree⟩⟩

end Sys2Proof.Proofs
end

section
/-! PROOF. LDF (O26). -/

namespace Sys2Proof.Proofs

open Sys2Proof Sys2Proof.Machine Sys2Proof.Claims

/-! ### Passing the gate of a memory word -/

theorem passGate_eq (s : State) (t : Team) : s.passGate t = gated s t := by
  unfold State.passGate gated
  cases t.arch.scFence with
  | none => rfl
  | some n => simp

theorem gated_teams (s : State) (t : Team) : (gated s t).1.teams = s.teams := (congrArg State.teams (gated_frame s t) :)

theorem gated_tick (s : State) (t : Team) : (gated s t).1.tick = s.tick := (congrArg State.tick (gated_frame s t) :)

theorem gated_watchHits (s : State) (t : Team) (x : WatchAcc) : (gated s t).1.watchHits x = s.watchHits x := by
  have hbar : (gated s t).1.bar = s.bar := (congrArg State.bar (gated_frame s t) :)
  have hreg (f off : Nat) : (gated s t).1.reg f off = s.reg f off := by simp only [State.reg, hbar]
  simp only [State.watchHits, State.watchReg, State.reg64, hbar, hreg]

/-- With no watchpoint hit, watching an access changes nothing (R394). -/
theorem watchTeam_unwatched {s : State} (h : ∀ x, s.watchHits x = []) (u : Nat) (sp : Space) (a n kind lane : Nat) (pc : DWord) (region : Option Nat) :
    s.watchTeam u sp a n kind lane pc region = s := by
  unfold State.watchTeam
  split
  · rfl
  · simp only [h]
    rfl

/-- Gathering no tag changes nothing. -/
theorem gather_nil (t : Team) (region : Nat) : t.gather region [] = t := by
  have hregions : t.regions.map (fun r => if r.id = region then r.gather t.loc.zone [] else r) = t.regions :=
    (List.map_congr_left fun r _ => ite_self r).trans (List.map_id _)
  rw [Team.gather, Team.updRegion, hregions]

/-! ### The lanes and the bytes of LDF -/

theorem ldfSpan_end (w : FullX) (l : Nat) : (ldfSpan w.acc l).1 + (ldfSpan w.acc l).2 = ldfReach w l := by
  unfold ldfSpan ldfReach
  cases w.acc with
  | true => rfl
  | false =>
    by_cases h : l % 256 < 128
    · simp [h, h.not_ge]
    · simp [h, not_lt.mp h]

/-- The lanes whose bytes without `.perm` pass the allocation. -/
def ldfOutside (s : State) (t : Team) (w : FullX) : List LaneAddr :=
  (ldfLanes w t.arch).filter (fun x => (s.scratchOf t (spaceOf w.space.toNat)).size < x.2 + ldfReach w x.1)

theorem ldfOutside_eq (s : State) (t : Team) (w : FullX) : ldfOutside s t w = (ldfLanes w t.arch).filter (fun x =>
    (s.scratchOf t (spaceOf w.space.toNat)).size < x.2 + (ldfSpan w.acc x.1).1 + (ldfSpan w.acc x.1).2) := by
  simp only [ldfOutside, Nat.add_assoc, ldfSpan_end]

/-- LDF `.perm` gathers one byte for each offset of the table that a lane's role reads (R125). -/
theorem ldfPieces_perm (w : FullX) {idx : List Nat} (hidx : idx.length = 32) (x : LaneAddr) :
    (ldfPieces (spaceOf w.space.toNat) w.acc true x.1 x.2 idx).map (fun p => (x.1, p.1)) =
      (if w.acc then idx else if x.1 % 256 < 128 then idx.take 16 else idx.drop 16).map
        (fun i => (x.1, (x.2 + i) % (if spaceOf w.space.toNat = .glob then 2 ^ 64 else 2 ^ 32))) := by
  have hpow : (2 : Nat) ^ (if spaceOf w.space.toNat = .glob then 64 else 32) = if spaceOf w.space.toNat = .glob then 2 ^ 64 else 2 ^ 32 := by
    split <;> rfl
  have hpart : (idx.drop (if !w.acc && decide (128 ≤ x.1 % 256) then 16 else 0)).take (if w.acc then 32 else 16) =
      if w.acc then idx else if x.1 % 256 < 128 then idx.take 16 else idx.drop 16 := by
    cases w.acc with
    | true => simp [List.take_of_length_le hidx.le]
    | false =>
      by_cases h : x.1 % 256 < 128
      · simp [h, h.not_ge]
      · simp [h, not_lt.mp h, List.take_of_length_le, hidx]
  simp only [ldfPieces, if_true, hpow, hpart, List.map_map]
  rfl

theorem ldfGathers_eq (w : FullX) {idx : List Nat} (hidx : idx.length = 32) (ls : List LaneAddr) :
    ls.flatMap (fun x => (ldfPieces (spaceOf w.space.toNat) w.acc true x.1 x.2 idx).map (fun p => (x.1, p.1))) = ldfGathers w idx ls :=
  List.flatMap_congr fun x _ => ldfPieces_perm w hidx x

/-! ### `.perm` -/

/-- A trap over the lanes xs, at the first, by a rule that leaves %estat.ONCE to the word. -/
def lanesBeyond (c : Cause) (xs : List LaneAddr) : Trap :=
  { cause := c, eaddr := BitVec.ofNat 64 ((xs.headD (0, 0)).2), emask := maskOfList (xs.map (·.1)) }

/-- LDF `.perm` has read its table from pocket at once. -/
structure TableRead (s : State) (t : Team) (table : Nat) (bs : List Byte) (inv : List (Space × Nat)) : Prop where
  aligned : table % 2 = 0
  inside  : table + 64 ≤ (s.scratchOf t .pocket).size
  gate    : s.gate t .pocket [(0, table)] 64 EntryKind.stopsLoad = none
  older   : s.loadMustWait t .pocket [(0, table)] 64 = false
  read    : s.readScratch t t.nextId .pocket table 64 = (s, .bytes bs [] inv)

/-- The entries of the table that were never written. -/
def unsetEntries (table : Nat) (inv : List (Space × Nat)) : List (Nat × Nat) :=
  ((List.range 32).map (fun k => (k, (table + 2 * k) / 4 * 4))).filter (fun x => inv.any (fun v => v.2 == x.2))

section
variable {s : State} {t : Team} {w : FullX} {table : Nat} {bs : List Byte} {inv : List (Space × Nat)} (hr : TableRead s t table bs inv)
  (kind : List Nat → List (Nat × Nat) → AccKind) (ls : List LaneAddr)
include hr

/-- A gathered byte that passes the allocation traps (R151). -/
theorem ldfPerm_past (hsp : spaceOf w.space.toNat ≠ .glob) {past : List LaneAddr}
    (hpast : (ldfGathers w (ldfTable bs) ls).filter (fun x => (s.scratchOf t (spaceOf w.space.toNat)).size ≤ x.2) = past) (hne : past ≠ []) :
    ldfPerm kind (spaceOf w.space.toNat) w.acc table ls s t = .trap (lanesBeyond .scratchRange past) := by
  obtain ⟨haligned, hinside, hgate, holder, hread⟩ := hr
  rw [← ldfGathers_eq w (idx := ldfTable bs) (by simp [ldfTable])] at hpast
  unfold ldfPerm
  refine (if_neg (by simp [haligned])).trans ((if_neg hinside.not_gt).trans ?_)
  simp only [hgate, holder, hread, Bool.false_eq_true, if_false, if_neg hsp]
  split
  case h_1 x xs heq =>
    obtain rfl : past = x :: xs := hpast.symm.trans heq
    rw [heq]
    rfl
  case h_2 heq => exact absurd (hpast.symm.trans heq) hne

/-- With every gathered byte inside and nothing in the way, the lanes are captured. -/
theorem ldfPerm_done (hpast : spaceOf w.space.toNat ≠ .glob →
      (ldfGathers w (ldfTable bs) ls).filter (fun x => (s.scratchOf t (spaceOf w.space.toNat)).size ≤ x.2) = [])
    (hgathers : s.gate t (spaceOf w.space.toNat) (ldfGathers w (ldfTable bs) ls) 1 EntryKind.stopsLoad = none)
    (hteam : s.team? t.uid = some t) (hwatch : ∀ x, s.watchHits x = []) :
    ldfPerm kind (spaceOf w.space.toNat) w.acc table ls s t = .done (gated s t).1
      (({ (gated s t).2 with nextId := t.nextId + 1 } : Team).addAccess t.nextId true (kind (ldfTable bs) (unsetEntries table inv)) ls) none := by
  obtain ⟨haligned, hinside, hgate, holder, hread⟩ := hr
  rw [← ldfGathers_eq w (idx := ldfTable bs) (by simp [ldfTable])] at hpast hgathers
  have hunwatched : ∀ x, (gated s t).1.watchHits x = [] := fun x => (gated_watchHits s t x).trans (hwatch x)
  have hteam' : (gated s t).1.team? (gated s t).2.uid = some t := by rwa [State.team?, gated_teams]
  unfold ldfPerm
  refine (if_neg (by simp [haligned])).trans ((if_neg hinside.not_gt).trans ?_)
  simp only [hgate, holder, hread, Bool.false_eq_true, if_false, passGate_eq, watchTeam_unwatched hunwatched]
  split
  case h_1 x xs heq =>
    split at heq
    · exact nomatch heq
    case isFalse hsp => exact nomatch heq.symm.trans (hpast hsp)
  case h_2 heq =>
    split
    case h_1 c hc => exact nomatch hc.symm.trans hgathers
    case h_2 =>
      rw [gather_nil, hteam']
      rfl

end

/-! ### The word -/

theorem outside_iff (sp : Space) (xs : List LaneAddr) : (sp != .glob && !xs.isEmpty) = true ↔ sp ≠ .glob ∧ xs ≠ [] := by simp

theorem headD_map_snd (xs : List LaneAddr) : (xs.map (·.2)).headD 0 = (xs.headD (0, 0)).2 := by
  cases xs <;> rfl

/-- The access of LDF, its lanes captured. -/
def ldfAccess (t : Team) (w : FullX) (idx : List Nat) (unset : List (Nat × Nat)) : Access :=
  let e := Machine.extOf w.ext
  { id := t.nextId, word := t.arch.issued, pc := t.arch.pc, region := t.regionId, once := true, susp := false, lost := [],
    kind := .ldf (spaceOf w.space.toNat) w.fmt.toNat w.acc w.perm w.d.toNat e.c.toNat idx unset (BitVec.ofNat 8 (t.arch.sget (e.xc.toNat % 128)).toNat),
    lanes := (ldfLanes w t.arch).map (fun x => { lane := x.1, addr := x.2, st := .waiting }) }

/-- LDF captures its lanes. -/
def LdfCaptures (s : State) (t : Team) (w : FullX) (idx : List Nat) (unset : List (Nat × Nat)) : Prop :=
  exec (.ldf w) s = .next ((gated s t).1.finish ({ (gated s t).2 with nextId := t.nextId + 1, accs := t.accs ++ [ldfAccess t w idx unset] }.note
    ((ldfForm w).demand s t)) (ldfForm w) none)

section
variable {s : State} {t : Team} {w : FullX} (hg : Goes s t (ldfForm w)) (hfree : s.arrayBusy t = false)
include hg hfree

theorem ldf_traps_shape (h : ¬ (t.tw % 256 = 0 ∧ w.set.toNat < t.tw / 256)) : Traps (.ldf w) s t w.hd.sw (divergent 2 0 true) := by
  refine traps_of_form hg rfl (hasForm_effect s t (ldfForm w) _) (effect_of_array rfl hfree (if_pos ?_)) rfl
  rw [not_and_or] at h
  simpa using h

variable (hshape : t.tw % 256 = 0 ∧ w.set.toNat < t.tw / 256)
include hshape

theorem ldf_traps_outside (hperm : w.perm = false) (hsp : spaceOf w.space.toNat ≠ .glob) (hout : ldfOutside s t w ≠ []) :
    Traps (.ldf w) s t w.hd.sw { lanesBeyond .scratchRange (ldfOutside s t w) with once := true } := by
  refine traps_of_form (tr := lanesBeyond .scratchRange (ldfOutside s t w)) hg rfl (hasForm_effect s t (ldfForm w) _)
    (effect_of_array rfl hfree ((if_neg (by simp [hshape])).trans ((if_neg (by simp [hperm])).trans ?_))) rfl
  rw [ldfOutside_eq] at hout ⊢
  exact (if_pos ((outside_iff ..).mpr ⟨hsp, hout⟩)).trans
    (congrArg (fun a => WordEnd.trap { lanesBeyond .scratchRange _ with eaddr := BitVec.ofNat 64 a }) (headD_map_snd _))

theorem ldf_done (hperm : w.perm = false) (hout : spaceOf w.space.toNat ≠ .glob → ldfOutside s t w = [])
    (hgate : s.gate t (spaceOf w.space.toNat) (ldfLanes w t.arch) 33 EntryKind.stopsLoad = none) : LdfCaptures s t w [] [] := by
  refine done_of_untiled_form hg rfl (hasForm_effect s t (ldfForm w) _)
    (effect_of_array rfl hfree ((if_neg (by simp [hshape])).trans ((if_neg (by simp [hperm])).trans ((if_neg ?_).trans ?_)))) rfl rfl rfl (gated_teams s t)
  · rw [ldfOutside_eq] at hout
    exact mt (outside_iff ..).mp fun h => h.2 (hout h.1)
  · split
    case h_1 c hc => exact nomatch hc.symm.trans hgate
    case h_2 =>
      rw [passGate_eq]
      rfl

variable (hperm : w.perm = true)
include hperm

theorem ldf_traps_align (h : (Machine.extOf w.ext).imm.toNat % 2 ≠ 0) :
    Traps (.ldf w) s t w.hd.sw { cause := .align, eaddr := BitVec.ofNat 64 (Machine.extOf w.ext).imm.toNat, once := true } :=
  traps_of_form hg rfl (hasForm_effect s t (ldfForm w) _)
    (effect_of_array rfl hfree ((if_neg (by simp [hshape])).trans ((if_pos hperm).trans (if_pos (by simpa using h))))) rfl

theorem ldf_traps_table (h : (Machine.extOf w.ext).imm.toNat % 2 = 0)
    (hsize : (s.scratchOf t .pocket).size < (Machine.extOf w.ext).imm.toNat + 64) :
    Traps (.ldf w) s t w.hd.sw { cause := .scratchRange, eaddr := BitVec.ofNat 64 (Machine.extOf w.ext).imm.toNat, once := true } :=
  traps_of_form hg rfl (hasForm_effect s t (ldfForm w) _)
    (effect_of_array rfl hfree ((if_neg (by simp [hshape])).trans ((if_pos hperm).trans ((if_neg (by simp [h])).trans (if_pos hsize))))) rfl

variable {bs : List Byte} {inv : List (Space × Nat)} (hr : TableRead s t (Machine.extOf w.ext).imm.toNat bs inv)
include hr

theorem ldf_traps_past {past : List LaneAddr} (hsp : spaceOf w.space.toNat ≠ .glob)
    (hpast : (ldfGathers w (ldfTable bs) (ldfLanes w t.arch)).filter (fun x => (s.scratchOf t (spaceOf w.space.toNat)).size ≤ x.2) = past)
    (hne : past ≠ []) : Traps (.ldf w) s t w.hd.sw { lanesBeyond .scratchRange past with once := true } :=
  traps_of_form hg rfl (hasForm_effect s t (ldfForm w) _)
    (effect_of_array rfl hfree ((if_neg (by simp [hshape])).trans ((if_pos hperm).trans (ldfPerm_past hr _ _ hsp hpast hne)))) rfl

theorem ldf_gathers (hpast : spaceOf w.space.toNat ≠ .glob → (ldfGathers w (ldfTable bs) (ldfLanes w t.arch)).filter
      (fun x => (s.scratchOf t (spaceOf w.space.toNat)).size ≤ x.2) = [])
    (hgathers : s.gate t (spaceOf w.space.toNat) (ldfGathers w (ldfTable bs) (ldfLanes w t.arch)) 1 EntryKind.stopsLoad = none)
    (hwatch : ∀ x, s.watchHits x = []) : LdfCaptures s t w (ldfTable bs) (unsetEntries (Machine.extOf w.ext).imm.toNat inv) :=
  done_of_untiled_form hg rfl (hasForm_effect s t (ldfForm w) _)
    (effect_of_array rfl hfree ((if_neg (by simp [hshape])).trans ((if_pos hperm).trans
      (ldfPerm_done hr _ _ hpast hgathers hg.running.team hwatch)))) rfl rfl rfl (gated_teams s t)

end

/-- Settles O26: the shape and the lanes' ranges come first; `.perm` reads its table at once, and its gathered bytes are checked as the lanes are. -/
theorem fragmentLoads : Obligations.FragmentLoads := by
  unfold Obligations.FragmentLoads
  intro s t w hg hfree sp e table ls shape beyond report out acc
  refine ⟨ldf_traps_shape hg hfree, fun hshape hperm => ldf_traps_outside hg hfree hshape hperm,
    fun hshape hperm => ldf_done hg hfree hshape hperm, fun hshape hperm => ldf_traps_align hg hfree hshape hperm,
    fun hshape hperm => ldf_traps_table hg hfree hshape hperm, fun hshape hperm haligned hinside hgate holder bs inv hread => ?_⟩
  have hr : TableRead s t table bs inv := ⟨haligned, hinside, hgate, holder, hread⟩
  exact ⟨fun hsp hne => ldf_traps_past hg hfree hshape hperm hr hsp rfl hne, ldf_gathers hg hfree hshape hperm hr⟩

end Sys2Proof.Proofs
end

section
/-! PROOF. QLD and QST (O25). -/

namespace Sys2Proof.Proofs

open Sys2Proof Sys2Proof.Machine Sys2Proof.Claims

/-! ### The address, the pieces and the checks of a tile move -/

theorem wrapTo_natCast (k n : Nat) : wrapTo k (n : Int) = n % 2 ^ k := by
  rw [wrapTo_eq, BitVec.ofInt_natCast, BitVec.toNat_ofNat]

/-- The memory operand of a tile move. -/
abbrev tileOpd (w : FullX) : MemOpd := { sp := spaceOf w.space.toNat, a := w.a, b := 0x780, imm := immOf w.ext }

theorem immOf_eq (e : Option Ext) : immOf e = ((e.map Ext.imm).getD 0).toInt := by
  cases e <;> rfl

theorem read_con_zero (a : Arch) : (Src.op (opd 0x780)).read a 1 0 = 0 := by
  have : opd 0x780 = .con 0 := by decide
  rw [this]
  exact (by decide : constVal 1 0 = 0)

theorem addr_tileOpd (w : FullX) (a : Arch) : (tileOpd w).addr a 0 = tileAddr w a := by
  have hzero : intOf true 32 0 = 0 := by decide
  unfold MemOpd.addr tileAddr
  simp only [read_con_zero, immOf_eq, wrapTo_eq, hzero, Int.add_zero, Int.natCast_zero, BitVec.ofInt_add, BitVec.ofInt_natCast,
    BitVec.ofInt_toInt]
  rfl

/-- Rows and pieces are taken modulo the space's size. -/
theorem wrapTo_space (sp : Space) (n : Nat) : wrapTo (if sp = .glob then 64 else 32) (n : Int) = n % (if sp = .glob then 2 ^ 64 else 2 ^ 32) := by
  rw [wrapTo_natCast]
  split <;> rfl

theorem tilePieces_eq (w : FullX) (a : Arch) : tilePieces (spaceOf w.space.toNat) ((tileOpd w).addr a 0) (scalVal a w.b) = quarter w a := by
  unfold tilePieces quarter
  simp only [wrapTo_space, addr_tileOpd]
  rfl

/-- A tile move's operands are not aligned (R128). -/
def TileMoveOdd (t : Team) (w : FullX) : Prop :=
  tileAddr w t.arch % 16 ≠ 0 ∨ tileStride w t.arch % 16 ≠ 0 ∨ tileStride w t.arch < 256

/-- The check of a tile move. -/
def tileMoveCheck (s : State) (t : Team) (w : FullX) : Option Trap :=
  tileMoveTrap (spaceOf w.space.toNat) (s.scratchOf t (spaceOf w.space.toNat)).size (tileAddr w t.arch) (tileStride w t.arch)

/-- The address of row i. -/
def tileRow (t : Team) (w : FullX) (i : Nat) : Nat :=
  (tileAddr w t.arch + i * tileStride w t.arch) % (if spaceOf w.space.toNat = .glob then 2 ^ 64 else 2 ^ 32)

/-- The trap of operands that are not aligned. -/
def tileAlignTrap (t : Team) (w : FullX) : Trap :=
  { cause := .align, eaddr := BitVec.ofNat 64 (tileAddr w t.arch), einfo := BitVec.ofNat 32 (tileStride w t.arch), once := true }

theorem firstTrap_pair (c d : Option Trap) : firstTrap [c, d] = c.or d := by
  cases c <;> cases d <;> rfl

theorem tileMoveOdd_iff (t : Team) (w : FullX) : TileMoveOdd t w ↔
    (tileAddr w t.arch % 16 != 0 || tileStride w t.arch % 16 != 0 || tileStride w t.arch < 256) = true := by
  simp [TileMoveOdd, or_assoc]

/-- The rows of a tile move are held against their allocation in ascending order. -/
theorem tileMoveCheck_eq (s : State) (t : Team) (w : FullX) : tileMoveCheck s t w =
    (trapIf (tileAddr w t.arch % 16 != 0 || tileStride w t.arch % 16 != 0 || tileStride w t.arch < 256) (tileAlignTrap t w)).or
      (if spaceOf w.space.toNat = .glob then none
      else (((List.range 32).map (tileRow t w)).find? (fun a => (s.scratchOf t (spaceOf w.space.toNat)).size < a + 256)).map
        (fun a => { cause := .scratchRange, eaddr := BitVec.ofNat 64 a, once := true })) := by
  unfold tileMoveCheck tileMoveTrap
  simp only [wrapTo_space, firstTrap_pair]
  rfl

section
variable {s : State} {t : Team} {w : FullX}

theorem tileMoveCheck_odd (h : TileMoveOdd t w) : tileMoveCheck s t w = some (tileAlignTrap t w) := by
  rw [tileMoveCheck_eq, (tileMoveOdd_iff t w).mp h]
  rfl

theorem tileMoveCheck_even (h : ¬ TileMoveOdd t w) : tileMoveCheck s t w = if spaceOf w.space.toNat = .glob then none
    else (((List.range 32).map (tileRow t w)).find? (fun a => (s.scratchOf t (spaceOf w.space.toNat)).size < a + 256)).map
      (fun a => { cause := .scratchRange, eaddr := BitVec.ofNat 64 a, once := true }) := by
  rw [tileMoveCheck_eq, Bool.eq_false_iff.mpr (mt (tileMoveOdd_iff t w).mpr h)]
  rfl

theorem tileMoveCheck_outside (h : ¬ TileMoveOdd t w) (hsp : spaceOf w.space.toNat ≠ .glob) {k : Nat} (hk : k < 32)
    (hrow : (s.scratchOf t (spaceOf w.space.toNat)).size < tileRow t w k + 256) :
    ∃ a, tileMoveCheck s t w = some { cause := .scratchRange, eaddr := a, once := true } := by
  rw [tileMoveCheck_even h, if_neg hsp]
  cases hfind : ((List.range 32).map (tileRow t w)).find? (fun a => (s.scratchOf t (spaceOf w.space.toNat)).size < a + 256) with
  | some a => exact ⟨_, rfl⟩
  | none => exact absurd hrow (by simpa using List.find?_eq_none.mp hfind _ (List.mem_map_of_mem (List.mem_range.mpr hk)))

theorem tileMoveCheck_ok (h : TileMoveOk s t w) : tileMoveCheck s t w = none := by
  obtain ⟨haddr, hstride, hlong, hrows⟩ := h
  rw [tileMoveCheck_even (by simp [TileMoveOdd, haddr, hstride, hlong])]
  split
  · rfl
  case isFalse hsp =>
    have hnone : ((List.range 32).map (tileRow t w)).find? (fun a => (s.scratchOf t (spaceOf w.space.toNat)).size < a + 256) = none := by
      simpa [tileRow] using hrows hsp
    rw [hnone]
    rfl

end

/-! ### Reading a quarter -/

/-- The words that a read found never written. -/
def unsetWords : ReadEnd → List (Space × Nat)
  | .bytes _ _ inv => inv
  | .stuck _ => []

theorem unsetWords_ite {c : Prop} [Decidable c] {x y : State × ReadEnd} (hx : unsetWords x.2 = []) (hy : unsetWords y.2 = []) :
    unsetWords (if c then x else y).2 = [] := by
  split <;> assumption

/-- A global read finds no word that was never written (R149). -/
theorem unsetWords_readGlobal (s : State) (t : Team) (seq region : Nat) (pc : DWord) (lane va n : Nat) (raw useCache fill first : Bool) :
    unsetWords (s.readGlobal t seq region pc lane va n raw useCache fill first).2 = [] := by
  unfold State.readGlobal
  refine unsetWords_ite rfl (unsetWords_ite rfl ?_)
  dsimp only
  generalize (if useCache = true then _ else none : Option _) = hit
  cases hit with
  | some l => rfl
  | none =>
    refine unsetWords_ite rfl ?_
    generalize State.reached _ _ _ = reached
    obtain ⟨s1, x⟩ := reached
    dsimp only
    generalize x.check .read t.arch.inHandler = found
    cases found with
    | bad code => rfl
    | absent =>
      dsimp only
      generalize s1.startMiss _ _ _ _ = miss
      obtain ⟨s2, _ | _⟩ := miss <;> rfl
    | remote d =>
      dsimp only
      cases s1.frame? (s.asidOf t) va <;> rfl
    | ok h base a b p =>
      refine unsetWords_ite (unsetWords_ite rfl rfl) ?_
      cases s1.tagAt h base <;> rfl

/-- A scratch read changes the log alone. -/
theorem grids_readScratch (s : State) (t : Team) (seq : Nat) (sp : Space) (off n : Nat) : (s.readScratch t seq sp off n).1.grids = s.grids := by
  unfold State.readScratch
  dsimp only
  repeat' split
  all_goals rfl

theorem grids_setReg (s : State) (f off : Nat) (v : Word) : (s.setReg f off v).grids = s.grids := by
  unfold State.setReg
  dsimp only
  split <;> rfl

theorem grids_watchTeam (s : State) (u : Nat) (sp : Space) (a n kind lane : Nat) (pc : DWord) (region : Option Nat) :
    (s.watchTeam u sp a n kind lane pc region).grids = s.grids := by
  unfold State.watchTeam
  split
  · rfl
  · dsimp only
    refine List.foldlRecOn (motive := fun s' : State => s'.grids = s.grids) _ _ rfl fun s' hs' w _ => ?_
    have hcount (cl : Nat) : (s'.countHit cl w).grids = s.grids := (grids_setReg ..).trans hs'
    repeat' split
    all_goals exact hcount _

/-- Reading a quarter of global memory finds no word that was never written; reading one of a scratch space changes no grid. -/
theorem readQuarter_unset_or_grids (s : State) (t : Team) (seq : Nat) (sp : Space) (ps : List (Nat × Nat)) :
    (sp = .glob → (s.readQuarter t seq sp ps).2.unset = []) ∧ (sp ≠ .glob → (s.readQuarter t seq sp ps).1.grids = s.grids) := by
  unfold State.readQuarter
  refine List.foldlRecOn (motive := fun acc : State × QuarterRead => (sp = .glob → acc.2.unset = []) ∧ (sp ≠ .glob → acc.1.grids = s.grids))
    _ _ ⟨fun _ => rfl, fun _ => rfl⟩ fun acc hacc p _ => ?_
  dsimp only
  refine ⟨fun hsp => ?_, fun hsp => ?_⟩
  · have hunset := hacc.1 hsp
    simp only [if_pos hsp]
    generalize hread : acc.1.readGlobal _ _ _ _ _ _ _ _ _ _ _ = x
    have hx : unsetWords x.2 = [] := hread ▸ unsetWords_readGlobal ..
    obtain ⟨s1, bs | st⟩ := x
    case bytes tags inv =>
      have hinv : inv = [] := hx
      simp [hunset, hinv]
    case stuck => exact hunset
  · have hgrids := hacc.2 hsp
    simp only [if_neg hsp]
    generalize hread : acc.1.readScratch _ _ _ _ _ = x
    have hx : x.1.grids = s.grids := hread ▸ (grids_readScratch ..).trans hgrids
    obtain ⟨s1, bs | st⟩ := x
    case bytes tags inv => exact (grids_watchTeam ..).trans hx
    case stuck => exact hx

theorem gated_grids (s : State) (t : Team) : (gated s t).1.grids = s.grids := (congrArg State.grids (gated_frame s t) :)

/-- A team's mode is its grid's. -/
theorem uninitMode_congr {s s' : State} {t u : Team} (hs : s'.grids = s.grids) (hu : u.grid = t.grid) : s'.uninitMode u = s.uninitMode t := by
  have hgrid : s'.gridOf u = s.gridOf t := by rw [State.gridOf, State.grid?, hs, hu, State.gridOf, State.grid?]
  rw [State.uninitMode, hgrid, State.uninitMode]

/-- After a quarter has been read, the mode of the team's grid is as before, unless no word of it was unwritten. -/
theorem uninitMode_readQuarter {s : State} {t u : Team} {seq : Nat} {sp : Space} {ps : List (Nat × Nat)} {s2 : State} {r : QuarterRead}
    (h : s.readQuarter t seq sp ps = (s2, r)) (hu : u.grid = t.grid) (hmode : s.uninitMode t = 0 ∨ r.unset = []) :
    (if r.unset.isEmpty then 0 else s2.uninitMode u) = 0 := by
  obtain ⟨hglob, hscratch⟩ := readQuarter_unset_or_grids s t seq sp ps
  rw [h] at hglob hscratch
  by_cases hunset : r.unset = []
  · simp [hunset]
  · have hgrids : s2.grids = s.grids := hscratch fun hsp => hunset (hglob hsp)
    rw [uninitMode_congr hgrids hu, hmode.resolve_right hunset, ite_self]

/-! ### The pieces' addresses and the traps of both words -/

/-- The addresses of a quarter's pieces. -/
def quarterAddrs (w : FullX) (a : Arch) : List LaneAddr := (quarter w a).map (fun p => (0, p.2))

/-- What a tile move's check finds, as the word's effect spells it. -/
theorem tileMoveTrap_of_check {s : State} {t : Team} {w : FullX} {c : Option Trap} (h : tileMoveCheck s t w = c) :
    tileMoveTrap (spaceOf w.space.toNat) (s.scratchOf t (spaceOf w.space.toNat)).size ((tileOpd w).addr t.arch 0) (scalVal t.arch w.b) = c := by
  rw [addr_tileOpd]
  exact h

/-- QST's form, as the word spells its demand. -/
theorem hasForm_qst (s : State) (t : Team) (w : FullX) (eff : State → Team → WordEnd) :
    HasForm s t { qstForm w with
      demand := fun _ t =>
        let ps := tilePieces (spaceOf w.space.toNat) ((tileOpd w).addr t.arch 0) (scalVal t.arch w.b)
        { entries := newEntries t (spaceOf w.space.toNat) false (ps.map (fun p => lineOf p.2)) }
      effect := eff } (qstForm w) :=
  ⟨rfl, rfl, rfl, rfl, rfl, rfl, rfl, rfl,
    congrArg (fun ps : List (Nat × Nat) => ({ entries := newEntries t (spaceOf w.space.toNat) false (ps.map (fun p => p.2 / 64)) } : Demand))
      (tilePieces_eq w t.arch), rfl⟩

section
variable {s : State} {t : Team} {w : FullX} {tr : Trap} (hfree : s.arrayBusy t = false) (hcheck : tileMoveCheck s t w = some tr)
include hfree hcheck

theorem qld_traps (hg : Goes s t (qldForm w)) (honce : tr.once = true) : Traps (.qld w) s t w.hd.sw tr := by
  refine traps_of_form (tr := tr) hg rfl (hasForm_effect s t (qldForm w) _) (effect_of_array rfl hfree ?_) (report_of_once fun _ => honce)
  simp only [tileMoveTrap_of_check hcheck]

theorem qst_traps (hg : Goes s t (qstForm w)) (honce : tr.once = true) : Traps (.qst w) s t w.hd.sw tr := by
  refine traps_of_form (tr := tr) hg rfl (hasForm_qst s t w _) (effect_of_array rfl hfree ?_) (report_of_once fun _ => honce)
  simp only [tileMoveTrap_of_check hcheck]

end

/-! ### QLD -/

theorem lvqPush_names (t : Team) (e : LvqEntry) : (t.lvqPush e).uid = t.uid ∧ (t.lvqPush e).stepMode = t.stepMode := by
  unfold Team.lvqPush
  split <;> exact ⟨rfl, rfl⟩

section
variable {s : State} {t : Team} {w : FullX} (hg : Goes s t (qldForm w)) (hrole : t.role ≠ .trailing) (hfree : s.arrayBusy t = false)

/-- The queue entry of QLD. -/
def qldEntry (t : Team) (w : FullX) (ws : List Word) : LvqEntry :=
  lvqValues t.arch.issued t.arch.pc t.regionId [(0, tileAddr w t.arch)] (ws.map (fun x => (w.d.toNat, 0, x)))

/-- The team once QLD has read its quarter. -/
def qldWritten (s : State) (t : Team) (w : FullX) (r : QuarterRead) : Team :=
  let t1 : Team := { (gated s t).2 with nextId := t.nextId + 1 }
  (({ t1 with arch := t1.arch.setTiles [(w.d.toNat, withQuarter (t.arch.tile w.d.toNat) w.set.toNat r.words)] } : Team).gather
    t.regionId r.tags).lvqPush { qldEntry t w r.words with note := t.arch.noted t.arch t.arch.issued }

include hg hrole hfree in
theorem qld_done (hok : TileMoveOk s t w) (hgate : s.gate t (spaceOf w.space.toNat) (quarterAddrs w t.arch) 16 EntryKind.stopsLoad = none)
    (holder : s.loadMustWait t (spaceOf w.space.toNat) (quarterAddrs w t.arch) 16 = false)
    (hroom : t.lvqRoom (qldEntry t w (List.replicate 2048 0)) = true) {s2 : State} {r : QuarterRead}
    (hread : (gated s t).1.readQuarter { (gated s t).2 with nextId := t.nextId + 1 } t.nextId (spaceOf w.space.toNat) (quarter w t.arch) = (s2, r))
    (hbad : r.bad = []) (hteams : s2.teams = s.teams) (hmode : s.uninitMode t = 0 ∨ r.unset = []) :
    exec (.qld w) s = .next ((s2.markHits (qldWritten s t w r) ((qldForm w).demand s t)).finish
      ((qldWritten s t w r).note ((qldForm w).demand s t)) (qldForm w) none) := by
  refine done_of_form hg rfl (hasForm_effect s t (qldForm w) _) (effect_of_array rfl hfree ?_) (lvqPush_names ..).1 (lvqPush_names ..).2 hteams
  have hwatch : ((s2.team? (gated s t).2.freshId.2.uid).map (·.watch)).getD (gated s t).2.freshId.2.watch = t.watch := by
    have hteam : s2.team? t.uid = some t := by
      rw [State.team?, hteams]
      exact hg.running.team
    exact congrArg (fun x : Option Team => (x.map (·.watch)).getD t.watch) hteam
  have hmode' (u : Team) (hu : u.grid = t.grid) : (if r.unset.isEmpty then 0 else s2.uninitMode u) = 0 :=
    uninitMode_readQuarter hread hu (hmode.imp_left ((uninitMode_congr (gated_grids s t) rfl).trans ·))
  rw [quarterAddrs] at hgate holder
  rw [qldEntry] at hroom
  simp only [tileMoveTrap_of_check (tileMoveCheck_ok hok), tilePieces_eq, if_neg hrole, hgate, holder, passGate_eq]
  refine (if_neg Bool.false_ne_true).trans ((if_neg ?room).trans ?_)
  case room =>
    rw [addr_tileOpd, hroom]
    decide
  generalize hx : (gated s t).1.readQuarter _ _ _ _ = x
  obtain rfl : x = (s2, r) := hx.symm.trans hread
  obtain ⟨words, tags, unset, bad⟩ := r
  obtain rfl : bad = [] := hbad
  -- every piece was read, and no word read calls for a report
  refine (if_neg Bool.false_ne_true).trans ?_
  rw [hwatch, hmode' _ ?grid]
  refine (if_neg (by decide)).trans (congrArg (WordEnd.done s2 · none) (congrArg₂ Team.lvqPush (congrArg (Team.gather · _ _) ?written) ?entry))
  case grid => rfl
  case written =>
    rw [if_neg (by decide)]
    rfl
  case entry =>
    rw [if_neg (by decide), addr_tileOpd]
    rfl

end

/-! ### QST -/

/-- Holding entries leaves a team's names, its role and its architectural state. -/
structure HeldOnly (t u : Team) : Prop where
  uid      : u.uid = t.uid
  stepMode : u.stepMode = t.stepMode
  role     : u.role = t.role
  arch     : u.arch = t.arch

theorem holdStore_heldOnly (t : Team) (sp : Space) (rel : Bool) (scope acc tick : Nat) (ps : List (Nat × StorePart)) :
    HeldOnly t (t.holdStore sp rel scope acc tick ps) := by
  unfold Team.holdStore
  refine List.foldlRecOn (motive := HeldOnly t) _ _ ⟨rfl, rfl, rfl, rfl⟩ fun u hu p _ => ?_
  obtain ⟨huid, hstep, hrole, harch⟩ := hu
  dsimp only
  split <;> exact ⟨huid, hstep, hrole, harch⟩

theorem probeOf_waiting_iff (t : Team) (sp : Space) : t.probeOf sp = .waiting ↔ sp = .glob ∧ t.role ≠ .trailing := by
  unfold Team.probeOf
  by_cases hsp : sp = .glob <;> by_cases hrole : t.role = .trailing <;> simp [hsp, hrole]

/-- The access that a held write adds, where it needs one, is its probe's. -/
theorem addAccess_probe {t u : Team} (hword : u.arch.issued = t.arch.issued) (hpc : u.arch.pc = t.arch.pc) (hrole : u.role = t.role)
    (once : Bool) (sp : Space) (ls : List LaneAddr) :
    (if u.probeOf sp = .waiting then u.addAccess t.nextId once (.store .glob) ls else u) = probeAccess t once sp ls u := by
  rw [probeAccess, ← hrole, ← hword, ← hpc]
  exact if_congr (probeOf_waiting_iff u sp) rfl rfl

theorem probeAccess_names (t : Team) (once : Bool) (sp : Space) (ls : List LaneAddr) (u : Team) :
    (probeAccess t once sp ls u).uid = u.uid ∧ (probeAccess t once sp ls u).stepMode = u.stepMode := by
  unfold probeAccess
  split <;> exact ⟨rfl, rfl⟩

section
variable {s : State} {t : Team} {w : FullX} (hg : Goes s t (qstForm w)) (hfree : s.arrayBusy t = false)

/-- The parts of a stored quarter. -/
def storedParts (t : Team) (w : FullX) : List (Nat × StorePart) :=
  (quarter w t.arch).map (fun p => (p.2 / 64,
    { acc := t.nextId, pc := t.arch.pc, lane := 0, off := p.2 % 64,
      data := (List.range 4).flatMap (fun j => natBytes 4 ((t.arch.tile w.d.toNat).getD (2048 * w.set.toNat + p.1 + j) 0).toNat) }))

/-- The team once QST holds its quarter. -/
def quarterHeld (s : State) (t : Team) (w : FullX) : Team :=
  ({ (gated s t).2 with nextId := t.nextId + 1 } : Team).holdStore (spaceOf w.space.toNat) false 0 t.nextId s.tick (storedParts t w)

theorem quarterHeld_heldOnly (s : State) (t : Team) (w : FullX) : HeldOnly { (gated s t).2 with nextId := t.nextId + 1 } (quarterHeld s t w) :=
  holdStore_heldOnly ..

include hg hfree in
theorem qst_done (hok : TileMoveOk s t w) (hgate : s.gate t (spaceOf w.space.toNat) (quarterAddrs w t.arch) 16 EntryKind.stopsWrite = none) :
    exec (.qst w) s = .next ((gated s t).1.finish ((probeAccess t true (spaceOf w.space.toNat) (quarterAddrs w t.arch) (quarterHeld s t w)).note
      ((qstForm w).demand s t)) (qstForm w) none) := by
  obtain ⟨huid, hstep, hrole, harch⟩ := quarterHeld_heldOnly s t w
  obtain ⟨hpuid, hpstep⟩ := probeAccess_names t true (spaceOf w.space.toNat) (quarterAddrs w t.arch) (quarterHeld s t w)
  have hprobe := addAccess_probe (t := t) (congrArg Arch.issued harch :) (congrArg Arch.pc harch :) hrole true (spaceOf w.space.toNat)
    (quarterAddrs w t.arch)
  rw [quarterAddrs] at hgate
  refine done_of_untiled_form hg rfl (hasForm_qst s t w _) (effect_of_array rfl hfree ?_) rfl (hpuid.trans huid) (hpstep.trans hstep) (gated_teams s t)
  rw [← hprobe]
  simp only [tileMoveTrap_of_check (tileMoveCheck_ok hok), tilePieces_eq, hgate, passGate_eq, gated_tick]
  rfl

end

/-- Settles O25: the check is one of the operands, then of the rows; behind it QLD reads its quarter at once, and QST holds its parts as a
store does. -/
theorem tileMoves : Obligations.TileMoves := by
  unfold Obligations.TileMoves
  intro s t w hrole hfree
  refine ⟨fun hg => ⟨fun hodd => qld_traps hfree (tileMoveCheck_odd hodd) hg rfl, fun k hodd hsp hk hrow => ?_,
    fun hok hgate holder hroom s2 r hread hbad hteams hmode => qld_done hg hrole hfree hok hgate holder hroom hread hbad hteams hmode⟩,
    fun hg => ⟨fun hodd => qst_traps hfree (tileMoveCheck_odd hodd) hg rfl, fun k hodd hsp hk hrow => ?_, qst_done hg hfree⟩⟩
  · obtain ⟨a, ha⟩ := tileMoveCheck_outside hodd hsp hk hrow
    exact ⟨a, qld_traps hfree ha hg rfl⟩
  · obtain ⟨a, ha⟩ := tileMoveCheck_outside hodd hsp hk hrow
    exact ⟨a, qst_traps hfree ha hg rfl⟩

end Sys2Proof.Proofs
end

section
/-! PROOF. Reads and writes of the two memories in canonical form (O24). -/

namespace Sys2Proof.Proofs

open Sys2Proof Sys2Proof.Machine

@[simp] theorem memoryGet_cons (c : Host.Cell) (m : Memory) (b : Nat) :
    Memory.get (c :: m) b = if c.1 = b then c.2 else if b < c.1 then Memory.fill else m.get b := rfl

/-- Below its first address a memory is not listed. -/
theorem memoryGet_below {m : Memory} {b : Nat} (h : ∀ c ∈ m, b < c.1) : m.get b = Memory.fill := by
  cases m with
  | nil => rfl
  | cons c m =>
    have hc : b < c.1 := h c List.mem_cons_self
    simp [hc, hc.ne']

theorem memoryGet_set {m : Memory} (h : m.wf = true) (a b : Nat) (v : Byte) : (m.set a v).get b = if b = a then v else m.get b := by
  induction m with
  | nil =>
    by_cases hv : v = Memory.fill
    · simp [Memory.set, hv]
    · simp [Memory.set, hv, eq_comm]
  | cons c m ih =>
    obtain ⟨hc, hm, hbelow⟩ := (Laws.Memory.wf_cons c m).mp h
    have hfill : b ≤ c.1 → Memory.get m b = Memory.fill := fun hb => memoryGet_below fun d hd => hb.trans_lt (hbelow d hd)
    rw [Memory.set]
    obtain hlt | rfl | hgt := lt_trichotomy c.1 a
    · rw [if_pos hlt, memoryGet_cons, ih hm, memoryGet_cons]
      by_cases hb : b = a
      · simp [hb, hlt.ne, hlt.not_gt]
      · simp [hb]
    · rw [if_neg (lt_irrefl _), if_pos rfl, memoryGet_cons]
      by_cases hv : v = Memory.fill
      · rw [if_pos hv, hv]
        obtain hb | rfl | hb := lt_trichotomy b c.1
        · simp [hb.ne, hb.ne', hb, hfill hb.le]
        · simp [hfill le_rfl]
        · simp [hb.ne, hb.ne', hb.not_gt]
      · rw [if_neg hv, memoryGet_cons]
        simp only [eq_comm (a := b)]
        split <;> rfl
    · rw [if_neg hgt.not_gt, if_neg hgt.ne']
      by_cases hv : v = Memory.fill
      · rw [if_pos hv, hv]
        by_cases hb : b = a
        · simp [hb, hgt, hgt.ne']
        · simp [hb]
      · rw [if_neg hv, memoryGet_cons]
        obtain hb | rfl | hb := lt_trichotomy b a
        · simp [hb.ne, hb.ne', hb, hb.trans hgt, (hb.trans hgt).ne']
        · simp
        · simp [hb.ne, hb.ne', hb.not_gt]

theorem memoryGet_put {m : Memory} (h : m.wf = true) (a : Nat) (bs : List Byte) (b : Nat) :
    (m.put a bs).get b = if a ≤ b ∧ b < a + bs.length then bs.getD (b - a) 0 else m.get b := by
  induction bs generalizing m a with
  | nil => simp [Memory.put]
  | cons v bs ih =>
    rw [Memory.put, ih (Laws.Memory.set_wf h a v), memoryGet_set h]
    obtain hb | rfl | hb := lt_trichotomy b a
    · simp [hb.ne, hb.not_ge, show ¬ a + 1 ≤ b by omega]
    · simp
    · have hnext : b - a = b - (a + 1) + 1 := by omega
      simp [hb.le, hb.ne', hnext, show b < a + 1 + bs.length ↔ b < a + (bs.length + 1) by omega, show a + 1 ≤ b by omega]

/-- Byte i of a masked run stands at address a + i. -/
theorem memoryGet_putMasked {m : Memory} (h : m.wf = true) (a : Nat) (k : BitVec 64) (bs : List Byte) (i b : Nat) :
    (m.putMasked a k bs i).get b =
      if a + i ≤ b ∧ b < a + i + bs.length ∧ k.getLsbD (b - a) = true then bs.getD (b - (a + i)) 0 else m.get b := by
  induction bs generalizing m i with
  | nil =>
    rw [if_neg (by simp only [List.length_nil]; omega)]
    rfl
  | cons v bs ih =>
    have hwrite : (if k.getLsbD i = true then m.set (a + i) v else m).wf = true ∧
        (if k.getLsbD i = true then m.set (a + i) v else m).get b = if b = a + i ∧ k.getLsbD i = true then v else m.get b := by
      by_cases hk : k.getLsbD i = true
      · simp [hk, Laws.Memory.set_wf h, memoryGet_set h]
      · simp [hk, h]
    rw [Memory.putMasked, ih hwrite.1, hwrite.2]
    obtain hb | rfl | hb := lt_trichotomy b (a + i)
    · simp [hb.ne, hb.not_ge, show ¬ a + (i + 1) ≤ b by omega]
    · simp
    · have hnext : b - (a + i) = b - (a + (i + 1)) + 1 := by omega
      simp [hb.ne', hb.le, hnext, show a + (i + 1) ≤ b by omega, show b < a + (i + 1) + bs.length ↔ b < a + i + (bs.length + 1) by omega]

theorem memory_ext {m m' : Memory} (h : m.wf = true) (h' : m'.wf = true) (heq : ∀ a, m.get a = m'.get a) : m = m' := by
  induction m generalizing m' with
  | nil =>
    cases m' with
    | nil => rfl
    | cons d m' => exact absurd (heq d.1).symm (by simpa using ((Laws.Memory.wf_cons d m').mp h').1)
  | cons c m ih =>
    obtain ⟨hc, hm, hbelow⟩ := (Laws.Memory.wf_cons c m).mp h
    cases m' with
    | nil => exact absurd (heq c.1) (by simpa using hc)
    | cons d m' =>
      obtain ⟨hd, hm', hbelow'⟩ := (Laws.Memory.wf_cons d m').mp h'
      have haddr : c.1 = d.1 := by
        obtain hlt | haddr | hgt := lt_trichotomy c.1 d.1
        · exact absurd (heq c.1) (by simpa [hlt, hlt.ne'] using hc)
        · exact haddr
        · exact absurd (heq d.1).symm (by simpa [hgt, hgt.ne'] using hd)
      have hbyte : c.2 = d.2 := by simpa [haddr] using heq c.1
      refine congrArg₂ List.cons (Prod.ext haddr hbyte) (ih hm hm' fun a => ?_)
      by_cases ha : a ≤ c.1
      · rw [memoryGet_below fun x hx => ha.trans_lt (hbelow x hx), memoryGet_below fun x hx => (haddr ▸ ha).trans_lt (hbelow' x hx)]
      · simpa [ha, haddr ▸ ha, (not_le.mp ha).ne, (not_le.mp (haddr ▸ ha)).ne, (not_le.mp ha).not_gt, (not_le.mp (haddr ▸ ha)).not_gt] using heq a

/-- Settles O24: the laws of one byte carry over to runs, byte by byte. -/
theorem memoryLaws : Obligations.MemoryLaws := by
  unfold Obligations.MemoryLaws
  exact ⟨fun m a b v h => memoryGet_set h a b v, fun m a bs h => memoryGet_put h a bs,
    fun m a k bs h b => memoryGet_putMasked h a k bs 0 b, fun m m' => memory_ext⟩

end Sys2Proof.Proofs
end

section
/-! PROOF. The effective address and the checks of a memory word (O17). -/

namespace Sys2Proof.Proofs

open Sys2Proof Sys2Proof.Machine Sys2Proof.Claims

/-! ### The address of a lane (R138) -/

theorem memAddr_eq (w : FullM) (a : Arch) (l : Nat) : (memOf w).addr a l = effAddr w a l := by
  have hoff := intOf_eq_asInt (by decide) (read_op_lt (opd w.b) a 1 l) true
  change intOf true 32 ((Src.op (opd w.b)).read a 1 l) = (BitVec.ofNat 32 ((Src.op (opd w.b)).read a 1 l)).toInt at hoff
  unfold MemOpd.addr effAddr
  simp only [memOf, immOf_eq, hoff, wrapTo_eq, BitVec.ofInt_add, BitVec.ofInt_natCast, BitVec.ofInt_toInt]
  rfl

/-- The lanes that a memory word accesses, as the word spells them. -/
theorem accessed_eq (w : FullM) (once : Bool) (t : Team) :
    (memLanes t w.hd once).map (fun l => (l, (memOf w).addr t.arch l)) = accessed w once t := by
  simp only [memAddr_eq]
  rfl

theorem memOnce_eq (w : FullM) (d : Bool) : memOnce w d = (!(memOf w).isVec && (d || !(opd w.d).isVec)) := rfl

theorem loadOnce_eq (w : FullM) : (!(opd w.d).isVec && !(memOf w).isVec) = memOnce w false :=
  Bool.and_comm ..

/-! ### The checks at issue (R151) -/

/-- The trap over the lanes xs that fail a check. -/
def checkFailed (c : Cause) (once : Bool) (xs : List LaneAddr) : Trap :=
  { cause := c, eaddr := BitVec.ofNat 64 ((xs.headD (0, 0)).2), once := once, emask := if once then 0 else maskOfList (xs.map (·.1)) }

theorem lanesTrap_eq (c : Cause) (once : Bool) (xs : List LaneAddr) :
    lanesTrap c once xs = if xs = [] then none else some (checkFailed c once xs) := by
  cases xs <;> rfl

theorem accessTrap_eq (sp : Space) (size align n : Nat) (once : Bool) (ls : List LaneAddr) : accessTrap sp size align n once ls =
    (lanesTrap .align once (ls.filter (fun x => x.2 % align != 0))).or
      (if sp = .glob then none else lanesTrap .scratchRange once (ls.filter (fun x => size < x.2 + n))) :=
  firstTrap_pair ..

section
variable {sp : Space} {size align n : Nat} {once : Bool} {ls : List LaneAddr}

theorem accessTrap_none_iff : accessTrap sp size align n once ls = none ↔
    (∀ x ∈ ls, x.2 % align = 0) ∧ (sp ≠ .glob → ∀ x ∈ ls, x.2 + n ≤ size) := by
  rw [accessTrap_eq, Option.or_eq_none_iff, lanesTrap_eq]
  refine and_congr ?_ ?_
  · simp [List.filter_eq_nil_iff]
  · by_cases hsp : sp = .glob
    · simp [hsp]
    · simp [hsp, lanesTrap_eq, List.filter_eq_nil_iff]

theorem accessTrap_odd (h : ls.filter (fun x => x.2 % align != 0) ≠ []) :
    accessTrap sp size align n once ls = some (checkFailed .align once (ls.filter (fun x => x.2 % align != 0))) := by
  rw [accessTrap_eq, lanesTrap_eq, if_neg h, Option.some_or]

theorem accessTrap_out (heven : ls.filter (fun x => x.2 % align != 0) = []) (hsp : sp ≠ .glob)
    (h : ls.filter (fun x => size < x.2 + n) ≠ []) :
    accessTrap sp size align n once ls = some (checkFailed .scratchRange once (ls.filter (fun x => size < x.2 + n))) := by
  rw [accessTrap_eq, lanesTrap_eq, if_pos heven, Option.none_or, if_neg hsp, lanesTrap_eq, if_neg h]

end

theorem accessTrap_ok {s : State} {t : Team} {sp : Space} {align n : Nat} {ls : List LaneAddr} (h : AccessOk s t sp align n ls) (once : Bool) :
    accessTrap sp (s.scratchOf t sp).size align n once ls = none :=
  accessTrap_none_iff.mpr h

/-! ### Words that access memory behind their checks and the gate -/

/-- The effect of a word that checks its lanes' addresses, does nothing where no lane acts, waits where a gate holds it back, and else goes on
past the gate. -/
def memEffect (sp : Space) (align n : Nat) (once : Bool) (ls : List LaneAddr) (stops : EntryKind → Bool) (past : State → Team → WordEnd)
    (s : State) (t : Team) : WordEnd :=
  match accessTrap sp (s.scratchOf t sp).size align n once ls with
  | some tr => .trap tr
  | none =>
    if ls.isEmpty then .done s t none
    else match s.gate t sp ls n stops with
      | some c => .wait s (.wait c)
      | none => past (gated s t).1 (gated s t).2

section
variable {sp : Space} {align n : Nat} {once : Bool} {ls : List LaneAddr} {stops : EntryKind → Bool} {past : State → Team → WordEnd}
  {s : State} {t : Team}

theorem memEffect_trap {tr : Trap} (h : accessTrap sp (s.scratchOf t sp).size align n once ls = some tr) :
    memEffect sp align n once ls stops past s t = .trap tr := by
  simp only [memEffect, h]

variable (hok : AccessOk s t sp align n ls)
include hok

theorem memEffect_idle (h : ls = []) : memEffect sp align n once ls stops past s t = .done s t none := by
  simp only [memEffect, accessTrap_ok hok]
  exact if_pos (by simpa using h)

theorem memEffect_wait (h : ls ≠ []) {c : WaitOn} (hgate : s.gate t sp ls n stops = some c) :
    memEffect sp align n once ls stops past s t = .wait s (.wait c) := by
  simp only [memEffect, accessTrap_ok hok, hgate]
  exact if_neg (by simpa using h)

theorem memEffect_past (h : ls ≠ []) (hgate : s.gate t sp ls n stops = none) :
    memEffect sp align n once ls stops past s t = past (gated s t).1 (gated s t).2 := by
  simp only [memEffect, accessTrap_ok hok, hgate]
  exact if_neg (by simpa using h)

end

/-- Such a word traps as its lanes' addresses say. -/
theorem memEffect_traps {i : Instr} {s : State} {t : Team} {x f : Word1} {sp : Space} {align n : Nat} {ls : List LaneAddr}
    {stops : EntryKind → Bool} {past : State → Team → WordEnd} (hg : Goes s t f) (hx : exec i s = issueWord x s) (hf : HasForm s t x f)
    (he : x.effect s t = memEffect sp align n f.once ls stops past s t) : AccessTraps i s t f.hd.sw f.once sp align n ls := by
  have traps (c : Cause) (xs : List LaneAddr) (h : accessTrap sp (s.scratchOf t sp).size align n f.once ls = some (checkFailed c f.once xs)) :
      Traps i s t f.hd.sw (checkFailed c f.once xs) :=
    traps_of_form hg hx hf (he.trans (memEffect_trap h)) (report_of_once id)
  exact ⟨fun hodd => traps _ _ (accessTrap_odd hodd), fun heven hsp hout => traps _ _ (accessTrap_out heven hsp hout)⟩

/-! ### LD and ST -/

theorem loadEffect_eq (w : FullM) (once : Bool) (align n : Nat) (stops : EntryKind → Bool) (kind : Arch → AccKind) (s : State) (t : Team) :
    loadEffect (memOf w) w.hd once align n stops kind s t = memEffect (spaceOf w.space.toNat) align n once (accessed w once t) stops
      (fun s1 t1 => .done s1 (({ t1 with nextId := t1.nextId + 1 } : Team).addAccess t1.nextId once (kind t1.arch) (accessed w once t)) none) s t := by
  unfold loadEffect memEffect
  simp only [accessed_eq, passGate_eq]
  rfl

theorem hasForm_formOf (s : State) (t : Team) (x : Word1) : HasForm s t x (formOf x) :=
  ⟨rfl, rfl, rfl, rfl, rfl, rfl, rfl, rfl, rfl, rfl⟩

/-- The access of LD, LDA and, raw, of LDN. -/
def loadKind (w : FullM) (raw : Bool) (a : Arch) : AccKind :=
  .load (spaceOf w.space.toNat) w.width.toNat (w.sub.getLsbD 0) (w.ord == 1) w.rp (scopeIn (spaceOf w.space.toNat) w.scope.toNat) (destOf a w.d) raw

/-- What stands in the way of such an access. -/
def loadStops (raw : Bool) : EntryKind → Bool := if raw then EntryKind.isOpaque else EntryKind.stopsLoad

theorem loadWord_effect (w : FullM) (raw : Bool) : (loadWord w raw).effect =
    loadEffect (memOf w) w.hd (memOnce w false) (2 ^ w.width.toNat) (2 ^ w.width.toNat) (loadStops raw) (loadKind w raw) := by
  rw [← loadOnce_eq]
  rfl

/-- The team once ST or STL holds its parts. -/
def storeHeld (w : FullM) (rel : Bool) (ls : List LaneAddr) (tick : Nat) (t : Team) : Team :=
  ({ t with nextId := t.nextId + 1 } : Team).holdStore (spaceOf w.space.toNat) rel (scopeIn (spaceOf w.space.toNat) w.scope.toNat)
    t.nextId tick (storeParts w t (2 ^ w.width.toNat) ls)

theorem storeWord_effect (w : FullM) (rel : Bool) (s : State) (t : Team) : (storeWord w rel).effect s t =
    memEffect (spaceOf w.space.toNat) (2 ^ w.width.toNat) (2 ^ w.width.toNat) (memOnce w false) (accessed w (memOnce w false) t)
      EntryKind.stopsWrite (fun s1 t1 =>
        let u := storeHeld w rel (accessed w (memOnce w false) t) s1.tick t1
        .done s1 (if u.probeOf (spaceOf w.space.toNat) = .waiting then
          u.addAccess t1.nextId (memOnce w false) (.store .glob) (accessed w (memOnce w false) t) else u) none) s t := by
  unfold storeWord memEffect
  simp only [loadOnce_eq, accessed_eq, passGate_eq]
  rfl

/-- LD, LDA and LDN trap as their addresses say. -/
theorem loadWord_traps {i : Instr} {s : State} {t : Team} {w : FullM} {raw : Bool} (hg : Goes s t (formOf (loadWord w raw)))
    (hx : exec i s = issueWord (loadWord w raw) s) :
    AccessTraps i s t w.hd.sw (memOnce w false) (spaceOf w.space.toNat) (2 ^ w.width.toNat) (2 ^ w.width.toNat)
      (accessed w (memOnce w false) t) := by
  have h := (congrFun₂ (loadWord_effect w raw) s t).trans (loadEffect_eq ..)
  rw [← loadOnce_eq] at h ⊢
  exact memEffect_traps hg hx (hasForm_formOf ..) h

/-- ST and STL trap as their addresses say. -/
theorem storeWord_traps {i : Instr} {s : State} {t : Team} {w : FullM} {rel : Bool} (hg : Goes s t (formOf (storeWord w rel)))
    (hx : exec i s = issueWord (storeWord w rel) s) :
    AccessTraps i s t w.hd.sw (memOnce w false) (spaceOf w.space.toNat) (2 ^ w.width.toNat) (2 ^ w.width.toNat)
      (accessed w (memOnce w false) t) := by
  have h := storeWord_effect w rel s t
  rw [← loadOnce_eq] at h ⊢
  exact memEffect_traps hg hx (hasForm_formOf ..) h

/-- Settles O17: the sum is the machine's own, and a word traps at the first check that its lanes fail. -/
theorem effectiveAddress : Obligations.EffectiveAddress := by
  unfold Obligations.EffectiveAddress
  exact ⟨memAddr_eq, fun sp size align n once ls => accessTrap_none_iff, fun s t w => ⟨fun hg => loadWord_traps hg rfl, fun hg => storeWord_traps hg rfl⟩⟩

end Sys2Proof.Proofs
end

section
/-! PROOF. LD, LDA, LDN and GQRY capture their addresses (O18). -/

namespace Sys2Proof.Proofs

open Sys2Proof Sys2Proof.Machine Sys2Proof.Claims

/-- A word whose effect is that of a load captures its lanes. -/
theorem captures_of_form {i : Instr} {s : State} {t : Team} {x f : Word1} {w : FullM} {n : Nat} {stops : EntryKind → Bool}
    {kind : Arch → AccKind} (hg : Goes s t f) (hx : exec i s = issueWord x s) (hf : HasForm s t x f) (htiles : (f.demand s t).tiles = [])
    (he : x.effect = loadEffect (memOf w) w.hd f.once n n stops kind) (hok : AccessOk s t (spaceOf w.space.toNat) n n (accessed w f.once t)) :
    Captures i s t f (spaceOf w.space.toNat) n f.once (accessed w f.once t) stops (kind (gated s t).2.arch) := by
  have heffect := (congrFun₂ he s t).trans (loadEffect_eq ..)
  exact ⟨fun h => done_of_untiled_form hg hx hf (heffect.trans (memEffect_idle hok h)) htiles rfl rfl rfl,
    fun h hgate => done_of_untiled_form hg hx hf (heffect.trans (memEffect_past hok h hgate)) htiles rfl rfl (gated_teams s t)⟩

/-- GQRY's form, as the word spells when it executes once. -/
theorem hasForm_gqry (s : State) (t : Team) (w : FullM) (eff : State → Team → WordEnd) :
    HasForm s t { gqryForm w with once := !(opd w.d).isVec && !(memOf w).isVec, effect := eff } (gqryForm w) :=
  ⟨rfl, rfl, rfl, loadOnce_eq w, rfl, rfl, rfl, rfl, rfl, rfl⟩

/-- Settles O18: the loads and GQRY share one effect, behind the checks and the gate. -/
theorem loadsAreCaptured : Obligations.LoadsAreCaptured := by
  unfold Obligations.LoadsAreCaptured
  intro s t w sp n once ls load
  have captures {i : Instr} {raw : Bool} (hg : Goes s t (formOf (loadWord w raw))) (hx : exec i s = issueWord (loadWord w raw) s)
      (hok : AccessOk s t sp n n ls) :
      Captures i s t (formOf (loadWord w raw)) sp n once ls (if raw then EntryKind.isOpaque else EntryKind.stopsLoad) (load raw) := by
    have honce : once = (formOf (loadWord w raw)).once := (loadOnce_eq w).symm
    simp only [ls, honce] at hok ⊢
    refine captures_of_form (stops := loadStops raw) (kind := loadKind w raw) hg hx (hasForm_formOf ..) rfl ?_ hok
    rw [loadWord_effect, ← honce]
  refine ⟨fun hg => ⟨fun hok => ⟨captures hg rfl hok, captures hg rfl hok⟩, loadWord_traps hg rfl, loadWord_traps hg rfl⟩,
    fun hg => ⟨fun hok => captures hg rfl hok, loadWord_traps hg rfl⟩, fun hg hok => ?_⟩
  refine captures_of_form (kind := fun a => .gqry (destOf a w.d)) hg rfl (hasForm_gqry s t w (loadEffect (memOf w) w.hd _ 1 1 _ _)) rfl ?_ hok
  exact congrArg (fun b => loadEffect (memOf w) w.hd b 1 1 EntryKind.stopsQuery (fun a => .gqry (destOf a w.d))) (loadOnce_eq w)

end Sys2Proof.Proofs
end

section
/-! PROOF. ST and STL hold their stores (O19). -/

namespace Sys2Proof.Proofs

open Sys2Proof Sys2Proof.Machine Sys2Proof.Claims

section
variable {i : Instr} {s : State} {t : Team} {w : FullM} {rel : Bool} (hx : exec i s = issueWord (storeWord w rel) s)
  (hg : Goes s t (formOf (storeWord w rel)))
  (hok : AccessOk s t (spaceOf w.space.toNat) (2 ^ w.width.toNat) (2 ^ w.width.toNat) (accessed w (memOnce w false) t))
include hx hg hok

theorem storeWord_idle (h : accessed w (memOnce w false) t = []) :
    exec i s = .next (s.finish (t.note ((formOf (storeWord w rel)).demand s t)) (formOf (storeWord w rel)) none) :=
  done_of_untiled_form hg hx (hasForm_formOf ..) ((storeWord_effect w rel s t).trans (memEffect_idle hok h)) rfl rfl rfl rfl

theorem storeWord_holds (h : accessed w (memOnce w false) t ≠ [])
    (hgate : s.gate t (spaceOf w.space.toNat) (accessed w (memOnce w false) t) (2 ^ w.width.toNat) EntryKind.stopsWrite = none) :
    exec i s = .next ((gated s t).1.finish ((probeAccess t (memOnce w false) (spaceOf w.space.toNat) (accessed w (memOnce w false) t)
      (storeHeld w rel (accessed w (memOnce w false) t) s.tick (gated s t).2)).note ((formOf (storeWord w rel)).demand s t))
      (formOf (storeWord w rel)) none) := by
  have hheld : HeldOnly { (gated s t).2 with nextId := t.nextId + 1 } (storeHeld w rel (accessed w (memOnce w false) t) s.tick (gated s t).2) :=
    holdStore_heldOnly ..
  generalize hu : storeHeld w rel (accessed w (memOnce w false) t) s.tick (gated s t).2 = u at hheld ⊢
  obtain ⟨huid, hstep, hrole, harch⟩ := hheld
  obtain ⟨hpuid, hpstep⟩ := probeAccess_names t (memOnce w false) (spaceOf w.space.toNat) (accessed w (memOnce w false) t) u
  refine done_of_untiled_form hg hx (hasForm_formOf ..) ((storeWord_effect w rel s t).trans ((memEffect_past hok h hgate).trans ?_)) rfl
    (hpuid.trans huid) (hpstep.trans hstep) (gated_teams s t)
  rw [gated_tick, hu]
  exact congrArg (WordEnd.done (gated s t).1 · none) (addAccess_probe (t := t) (congrArg Arch.issued harch :) (congrArg Arch.pc harch :) hrole ..)

end

/-- Settles O19: behind the checks and the gate, the parts are held line by line, and a global write gets its probe. -/
theorem storesAreHeld : Obligations.StoresAreHeld := by
  unfold Obligations.StoresAreHeld
  intro s t w sp n once ls does
  have both {i : Instr} {rel : Bool} (hx : exec i s = issueWord (storeWord w rel) s) : does i rel :=
    fun hg => ⟨fun hok => ⟨storeWord_idle hx hg hok, storeWord_holds hx hg hok⟩, storeWord_traps hg hx⟩
  exact ⟨both rfl, both rfl⟩

end Sys2Proof.Proofs
end

section
/-! PROOF. Where a statement numbers a held atomic's access by the entry that it takes: ATOM without return (O20). -/

namespace Sys2Proof.Proofs

open Sys2Proof Sys2Proof.Machine Sys2Proof.Claims

/-- ATOM without return of the global word at the address in s0 and s1, a 32-bit sum with s2. -/
def addAtNull : FullM :=
  { hd := { sw := false, pred := 0, pn := false }, d := 0, a := 0x700, b := 0x780, space := 0, width := 2, ord := 0, scope := 3, rp := false,
    nr := true, sub := 0, ext := some { xc := 0x10, c := 0x702, imm := 0 } }

theorem addAtNull_accessed : accessed addAtNull (atomOnce addAtNull) soloTeam = [(0, 0)] := by decide +kernel

theorem addAtNull_ok : AccessOk soloState soloTeam .glob 4 4 (accessed addAtNull (atomOnce addAtNull) soloTeam) := by
  rw [addAtNull_accessed]
  exact ⟨by decide, nofun⟩

theorem addAtNull_gate :
    soloState.gate soloTeam .glob (accessed addAtNull (atomOnce addAtNull) soloTeam) 4 EntryKind.stopsWrite = none := by decide +kernel

theorem addAtNull_goes : Goes soloState soloTeam (atomForm addAtNull) :=
  ⟨solo_running, ⟨by decide +kernel, rfl, rfl, rfl, rfl⟩, ⟨rfl, rfl, _, rfl, by decide +kernel, by decide +kernel⟩⟩

/-- The accesses that the held entries of a word's outcome name, team by team. -/
def heldAccs (o : Host.Outcome State Fault Refusal) : List (List Nat) :=
  match o with
  | .next s => s.teams.map (fun t => t.regions.flatMap (fun r => r.held.map (·.acc)))
  | _ => []

/-- The machine's entry names the access that captured the operation, number 0. -/
theorem heldAccs_addAtNull : heldAccs (exec (.atom addAtNull) soloState) = [[0]] := by decide +kernel

/-- Refutes O20: of an ATOM without return the statement names each held entry's access by the number that the entry itself takes (its fold
binds the team anew), where the machine names the access that captured the operation. The team's first ATOM holds an entry of access 0; the
statement has 1. -/
theorem not_heldAtomicsFencesAndInvalidation : ¬ Obligations.HeldAtomicsFencesAndInvalidation := by
  unfold Obligations.HeldAtomicsFencesAndInvalidation
  rintro ⟨h, -⟩
  obtain ⟨-, -, hholds⟩ := (h soloState soloTeam addAtNull rfl addAtNull_goes).1 addAtNull_ok
  have hclaim := hholds (by rw [addAtNull_accessed]; nofun) addAtNull_gate
  exact absurd (heldAccs_addAtNull.symm.trans (congrArg heldAccs hclaim)) (by decide +kernel)

end Sys2Proof.Proofs
end

section
/-! PROOF. The new value of an atomic, and one read-modify-write of scratch (O22). -/

namespace Sys2Proof.Proofs

open Sys2Proof Sys2Proof.Machine Sys2Proof.Claims

/-! ### Integer types of one element (Table 6.7) -/

theorem oneElement {ty : Nat} (h : ty ∈ [0, 1, 13, 14]) : tyCount ty = 1 ∧ tyFmt ty = none := by
  fin_cases h <;> exact ⟨rfl, rfl⟩

/-- A function of two integers, of values with one element. -/
theorem intElem2_one {ty old v : Nat} (h : ty ∈ [0, 1, 13, 14]) (hold : old < 2 ^ tyWidth ty) (hv : v < 2 ^ tyWidth ty) (f : Int → Int → Int) :
    intElem2 ty f old v = (BitVec.ofInt (tyWidth ty)
      (f (asInt (tySigned ty) (BitVec.ofNat (tyWidth ty) old)) (asInt (tySigned ty) (BitVec.ofNat (tyWidth ty) v)))).toNat := by
  have helem {x : Nat} (hx : x < 2 ^ tyWidth ty) : elemAt (tyWidth ty) x 0 = x := Nat.mod_eq_of_lt hx
  unfold intElem2 elems2
  simp only [(oneElement h).1, List.range_one, List.map_cons, List.map_nil, joinElems, List.foldr_cons, List.foldr_nil, mul_zero, add_zero,
    helem hold, helem hv, wrapTo_eq, intOf_eq_asInt (tyWidth_pos ty) hold, intOf_eq_asInt (tyWidth_pos ty) hv]
  exact Nat.mod_eq_of_lt (BitVec.isLt _)

theorem ofInt_ite_asInt {n a b : Nat} (ha : a < 2 ^ n) (hb : b < 2 ^ n) (sg : Bool) (p : Prop) [Decidable p] :
    (BitVec.ofInt n (if p then asInt sg (BitVec.ofNat n a) else asInt sg (BitVec.ofNat n b))).toNat = if p then a else b := by
  split
  · rw [ofInt_asInt, BitVec.toNat_ofNat, Nat.mod_eq_of_lt ha]
  · rw [ofInt_asInt, BitVec.toNat_ofNat, Nat.mod_eq_of_lt hb]

theorem toNat_ofNat_of_lt {n a : Nat} (h : a < 2 ^ n) : (BitVec.ofNat n a).toNat = a := by
  rw [BitVec.toNat_ofNat, Nat.mod_eq_of_lt h]

section
variable {ty old v : Nat} (h : ty ∈ [0, 1, 13, 14]) (hold : old < 2 ^ tyWidth ty) (hv : v < 2 ^ tyWidth ty)
include h hold hv

theorem atomNew_sum : atomNew 0 ty old v = (BitVec.ofNat (tyWidth ty) old + BitVec.ofNat (tyWidth ty) v).toNat := by
  have hsum := intElem2_one h hold hv (· + ·)
  rw [BitVec.ofInt_add, ofInt_asInt, ofInt_asInt] at hsum
  simpa only [atomNew, (oneElement h).2] using hsum

theorem atomNew_lesser : atomNew 1 ty old v =
    if asInt (tySigned ty) (BitVec.ofNat (tyWidth ty) old) ≤ asInt (tySigned ty) (BitVec.ofNat (tyWidth ty) v) then old else v := by
  have hmin := intElem2_one h hold hv (fun a b => if a ≤ b then a else b)
  rw [ofInt_ite_asInt hold hv] at hmin
  simpa only [atomNew, (oneElement h).2] using hmin

theorem atomNew_greater : atomNew 2 ty old v =
    if asInt (tySigned ty) (BitVec.ofNat (tyWidth ty) v) ≤ asInt (tySigned ty) (BitVec.ofNat (tyWidth ty) old) then old else v := by
  have hmax := intElem2_one h hold hv (fun a b => if a ≥ b then a else b)
  rw [ofInt_ite_asInt hold hv] at hmax
  simpa only [atomNew, (oneElement h).2] using hmax

end

/-! ### One read-modify-write of an allocation (R159) -/

/-- Updating the elements of a key keeps which element is found first under it. -/
theorem find?_updated {α : Type} (key : α → Nat) {f : α → α} (hf : ∀ x, key (f x) = key x) (u : Nat) (l : List α) :
    (l.map (fun x => if key x = u then f x else x)).find? (fun x => key x == u) = (l.find? (fun x => key x == u)).map f := by
  have hkey : (fun x => key x == u) ∘ (fun x => if key x = u then f x else x) = fun x => key x == u := by
    funext x
    by_cases hx : key x = u <;> simp [hx, hf]
  rw [List.find?_map, hkey]
  refine Option.map_congr fun x hx => if_pos ?_
  simpa using List.find?_some hx

theorem block?_updBlock (s : State) (u : Nat) {f : Block → Block} (hf : ∀ b, (f b).uid = b.uid) :
    (s.updBlock u f).block? u = (s.block? u).map f :=
  find?_updated Block.uid hf u s.blocks

theorem span?_updSpan (s : State) (u : Nat) {f : Span → Span} (hf : ∀ x, (f x).uid = x.uid) :
    (s.updSpan u f).span? u = (s.span? u).map f :=
  find?_updated Span.uid hf u s.spans

/-- A team's allocation, where it has one, is what a change of it leaves. -/
theorem scratchOf_updScratch {s : State} {t : Team} {sp : Space} (h : (s.scratchOf t sp).size ≠ 0) (f : Scratch → Scratch) :
    (s.updScratch t sp f).scratchOf t sp = f (s.scratchOf t sp) := by
  obtain rfl | ⟨b, hb⟩ : sp = .glob ∨ ∃ b, s.block? t.block = some b := by
    cases hb : s.block? t.block with
    | none => cases sp <;> simp [State.scratchOf, hb, Scratch.empty] at h ⊢
    | some b => exact .inr ⟨b, rfl⟩
  · exact absurd rfl h
  cases sp with
  | glob => exact absurd rfl h
  | gallery =>
    have hspan := span?_updSpan s b.span (f := fun x => { x with gallery := x.gallery.map f }) fun _ => rfl
    have hblock : (s.updSpan b.span (fun x => { x with gallery := x.gallery.map f })).block? t.block = some b := hb
    simp only [State.scratchOf, State.updScratch, hb, hblock, hspan, Option.bind_some] at h ⊢
    split at h
    · cases hx : (s.span? b.span).bind (·.gallery) with
      | none => simp [hx, Scratch.empty] at h
      | some c =>
        obtain ⟨x, hx, hc⟩ := Option.bind_eq_some_iff.mp hx
        simp [*]
    · exact absurd rfl h
  | pocket =>
    have hblock := block?_updBlock s t.block (f := fun b => { b with pockets := b.pockets.modify t.loc.core f }) fun _ => rfl
    simp only [State.scratchOf, State.updScratch, hb, hblock, Option.map_some, Option.getD_some] at h ⊢
    by_cases hlen : t.loc.core < b.pockets.length
    · simp [hlen, List.getD_eq_getElem?_getD]
    · simp [List.getD_eq_getElem?_getD, List.getElem?_eq_none (not_lt.mp hlen), Scratch.empty] at h
  | chamber =>
    have hblock := block?_updBlock s t.block (f := fun b => { b with chamber := f b.chamber }) fun _ => rfl
    simp only [State.scratchOf, State.updScratch, hb, hblock, Option.map_some, Option.getD_some]

theorem natBytes_length (n x : Nat) : (natBytes n x).length = n := by
  rw [natBytes, List.length_map, List.length_range]

theorem natBytes_getD {n i : Nat} (h : i < n) (x : Nat) : (natBytes n x).getD i 0 = BitVec.ofNat 8 (x >>> (8 * i)) := by
  simp [natBytes, List.getD_eq_getElem?_getD, h]

theorem write_get {c : Scratch} (h : c.mem.wf = true) (a n v b : Nat) : (c.write a (natBytes n v)).mem.get b =
    if a ≤ b ∧ b < a + n then BitVec.ofNat 8 (v >>> (8 * (b - a))) else c.mem.get b := by
  rw [Scratch.write, memoryGet_put h, natBytes_length]
  split
  · rw [natBytes_getD (by omega)]
  · rfl

/-- A read-modify-write of scratch: the old bytes, and the new ones written where there are any. -/
theorem rmw_scratch {sp : Space} (h : sp ≠ .glob) (s : State) (t : Team) (pr : Probe) (a n : Nat) (f : Nat → Option Nat) :
    s.rmw t pr sp a n f = (match f (bytesNat ((s.scratchOf t sp).mem.bytes a n)) with
      | some x => s.updScratch t sp (fun c => c.write a (natBytes n x))
      | none => s, (s.scratchOf t sp).mem.bytes a n) := by
  cases sp with
  | glob => exact absurd rfl h
  | _ =>
    unfold State.rmw
    dsimp only
    split <;> simp only [*]

/-- Settles O22: an integer atomic's types have one element, and a change of a team's allocation is what the team reads back. -/
theorem atomicOperationsOnScratch : Obligations.AtomicOperationsOnScratch := by
  unfold Obligations.AtomicOperationsOnScratch
  refine ⟨fun ty old v h hold hv => ?new, fun s t pr sp a n f hsp hsize hwf => ?rmw⟩
  case new =>
    refine ⟨atomNew_sum h hold hv, atomNew_lesser h hold hv, atomNew_greater h hold hv, ?_, ?_, ?_, rfl, rfl, rfl⟩
    · rw [BitVec.toNat_and, toNat_ofNat_of_lt hold, toNat_ofNat_of_lt hv, atomNew]
    · rw [BitVec.toNat_or, toNat_ofNat_of_lt hold, toNat_ofNat_of_lt hv, atomNew]
    · rw [BitVec.toNat_xor, toNat_ofNat_of_lt hold, toNat_ofNat_of_lt hv, atomNew]
  case rmw =>
    intro r old
    have hr : r = _ := rmw_scratch hsp s t pr a n f
    refine ⟨by rw [hr], fun hnone => by rw [hr, hnone], fun x hx b => ?_⟩
    rw [hr, hx, scratchOf_updScratch hsize]
    exact write_get hwf ..

end Sys2Proof.Proofs
end

section
/-! PROOF. Holding a store, and performing it at its slice (O23). -/

namespace Sys2Proof.Proofs

open Sys2Proof Sys2Proof.Machine Sys2Proof.Claims

/-! ### Holding (R148) -/

theorem eraseDups_replicate {α : Type} [BEq α] [LawfulBEq α] (n : Nat) (a : α) : (List.replicate (n + 1) a).eraseDups = [a] := by
  rw [List.replicate_succ, List.eraseDups_cons]
  simp

/-- Parts of one line are its only run. -/
theorem linesOf_oneLine {parts : List StorePart} (h : parts ≠ []) (line : Nat) : linesOf (parts.map (fun p => (line, p))) = [(line, parts)] := by
  obtain ⟨p, rest, rfl⟩ := List.exists_cons_of_ne_nil h
  have hlines : ((p :: rest).map (fun p => (line, p))).map (·.1) = List.replicate (rest.length + 1) line := by
    simp [Function.comp_def, List.replicate_succ]
  have hparts : ((((p :: rest).map (fun p => (line, p))).filter (fun x => x.1 == line)).map (·.2)) = p :: rest := by
    rw [List.filter_map, List.map_map]
    simp [Function.comp_def]
  rw [linesOf, hlines, eraseDups_replicate, List.map_singleton, hparts]

section
variable {t : Team} {r : Region} {sp : Space} {rel : Bool} {line : Nat} {parts : List StorePart} (hopen : t.openRegion = some r) (hparts : parts ≠ [])
include hopen hparts

theorem holdStore_new (h : rel = true ∨ mergeTarget r.held sp line = none) (scope acc tick : Nat) :
    t.holdStore sp rel scope acc tick (parts.map (fun p => (line, p))) =
      t.hold (.store sp line parts rel scope) acc (t.probeOf sp) (maskOfList (parts.map (·.lane))) tick := by
  have hnone : (if rel = true then none else t.openRegion.bind (fun r => mergeTarget r.held sp line)) = none := by
    simp only [hopen, Option.bind_some]
    exact ite_eq_left_iff.mpr fun hrel => h.resolve_left hrel
  simp only [Team.holdStore, linesOf_oneLine hparts, List.foldl_cons, List.foldl_nil, hnone]

theorem holdStore_merged {q : Nat} (hrel : rel = false) (h : mergeTarget r.held sp line = some q) (scope acc tick : Nat) :
    t.holdStore sp rel scope acc tick (parts.map (fun p => (line, p))) =
      t.updOpen (fun r => { r with held := r.held.map (fun e => if e.seq = q then e.addParts parts scope else e) }) := by
  simp [Team.holdStore, linesOf_oneLine hparts, hrel, hopen, h]

end

theorem probeOf_eq (t : Team) (sp : Space) : t.probeOf sp = if sp = .glob ∧ t.role ≠ .trailing then .waiting else .none :=
  if_congr (by simp) rfl rfl

/-! ### Performing (R145, R148) -/

theorem getD_patch {bs new : List Byte} {off : Nat} (h : off + new.length ≤ bs.length) (i : Nat) :
    (patch bs off new).getD i 0 = if off ≤ i ∧ i < off + new.length then new.getD (i - off) 0 else bs.getD i 0 := by
  have hoff : (bs.take off).length = off := by simp; omega
  unfold patch
  obtain hlt | hge := lt_or_ge i off
  · rw [List.append_assoc, List.getD_append _ _ _ _ (by omega), if_neg (by omega)]
    simp [List.getD_eq_getElem?_getD, hlt]
  obtain hlt | hge' := lt_or_ge i (off + new.length)
  · rw [if_pos ⟨hge, hlt⟩, List.getD_append _ _ _ _ (by simp; omega), List.getD_append_right _ _ _ _ (by omega), hoff]
  · rw [if_neg (by omega), List.getD_append_right _ _ _ _ (by simp; omega)]
    simp only [List.getD_eq_getElem?_getD, List.getElem?_drop, List.length_append, hoff]
    congr 2
    omega

/-- A slice's line after a part has been laid over the lines of an address. -/
def storedAt (asid line : Nat) (p : StorePart) (l : SliceLine) : SliceLine :=
  if l.asid = asid ∧ l.line = line then { l with dirty := true, data := applyParts [p] l.data } else l

/-- The line that a fill brings in. -/
def freshLine (s : State) (asid line : Nat) (host : Bool) (base : Nat) (priv : Bool) : SliceLine :=
  { asid := asid, line := line, data := s.rawBytes host (base / 64 * 64) 64, dirty := false, host := host, base := base / 64 * 64, priv := priv }

/-- The lines once a line's slice holds it. -/
def filledSlices (s : State) (asid line : Nat) (host : Bool) (base : Nat) (priv : Bool) : List SliceLine :=
  if (s.slice? asid (64 * line)).isSome then s.slices else s.slices ++ [freshLine s asid line host base priv]

/-- The line stands in its slice, or finds room there. -/
def HasRoom (s : State) (asid line : Nat) : Prop :=
  (s.slice? asid (64 * line)).isSome = true ∨
    (s.slices.filter (fun l => s.sliceDie (64 * l.line) == s.sliceDie (64 * line))).length < globalLines (s.sliceDie (64 * line))

theorem lineOf_mul (line : Nat) : lineOf (64 * line) = line := Nat.mul_div_cancel_left _ (by decide)

theorem fillSlice_eq {s : State} {asid line : Nat} (h : HasRoom s asid line) (host : Bool) (base : Nat) (priv : Bool) :
    s.fillSlice asid (64 * line) host base priv = { s with slices := filledSlices s asid line host base priv } := by
  unfold State.fillSlice filledSlices
  cases hs : s.slice? asid (64 * line) with
  | some l => rfl
  | none =>
    have hroom := h.resolve_left (by simp [hs])
    simp only [hroom, if_true, lineOf_mul]
    rfl

theorem unmark_frame (s : State) (host : Bool) (base n : Nat) : ({ s.unmark host base n with gresBytes := s.gresBytes } : State) = s := by
  unfold State.unmark
  split <;> rfl

theorem performStore_eq {s : State} {asid line base : Nat} {pr : Probe} {h w x k : Bool} (hroom : HasRoom s asid line)
    (hwatch : ∀ x, s.watchHits x = []) (hkept : s.keptAt pr asid (64 * line) = (s, .ok h base w x k)) (die team : Nat) (p : StorePart) :
    ({ s.performStore die pr team asid line [p] with gresBytes := s.gresBytes } : State) =
      { s with slices := (filledSlices s asid line h base k).map (storedAt asid line p) } := by
  simp only [State.performStore, List.foldl_cons, List.foldl_nil, watchTeam_unwatched hwatch, hkept, fillSlice_eq hroom]
  have hframe := unmark_frame { s with slices := filledSlices s asid line h base k } h (base / 64 * 64 + p.off) p.data.length
  generalize State.unmark _ h (base / 64 * 64 + p.off) p.data.length = u at hframe ⊢
  have hslices : u.slices = filledSlices s asid line h base k := (congrArg State.slices hframe :)
  rw [hslices]
  exact congrArg (fun v : State => { v with
    slices := (filledSlices s asid line h base k).map (storedAt asid line p) }) hframe

theorem storedAt_names (asid line : Nat) (p : StorePart) (l : SliceLine) :
    (storedAt asid line p l).asid = l.asid ∧ (storedAt asid line p l).line = l.line := by
  unfold storedAt
  split <;> exact ⟨rfl, rfl⟩

theorem find?_storedAt (asid line : Nat) (p : StorePart) (ls : List SliceLine) (asid' line' : Nat) :
    (ls.map (storedAt asid line p)).find? (fun l => l.asid == asid' && l.line == line') =
      (ls.find? (fun l => l.asid == asid' && l.line == line')).map (storedAt asid line p) := by
  rw [List.find?_map]
  simp only [Function.comp_def, storedAt_names]

theorem find?_filledSlices (s : State) (asid line : Nat) (host : Bool) (base : Nat) (priv : Bool) (asid' line' : Nat) :
    (filledSlices s asid line host base priv).find? (fun l => l.asid == asid' && l.line == line') =
      if asid' = asid ∧ line' = line then some ((s.slice? asid (64 * line)).getD (freshLine s asid line host base priv))
      else s.slice? asid' (64 * line') := by
  have hfind (l : Nat) : s.slices.find? (fun x => x.asid == asid' && x.line == l) = s.slice? asid' (64 * l) := by
    rw [State.slice?, lineOf_mul]
  unfold filledSlices
  cases hs : s.slice? asid (64 * line) with
  | some l =>
    rw [if_pos Option.isSome_some, hfind]
    split
    case isTrue h => rw [h.1, h.2, hs, Option.getD_some]
    case isFalse => rfl
  | none =>
    rw [if_neg (by simp), List.find?_append, hfind]
    by_cases h : asid' = asid ∧ line' = line
    · obtain ⟨rfl, rfl⟩ := h
      simp [hs, freshLine]
    · have hother : ¬ (asid = asid' ∧ line = line') := fun ⟨ha, hl⟩ => h ⟨ha.symm, hl.symm⟩
      simp [h, freshLine, hother]

section
variable {s : State} {asid line base : Nat} {pr : Probe} {h w x k : Bool} (hroom : HasRoom s asid line)
  (hwatch : ∀ x, s.watchHits x = []) (hkept : s.keptAt pr asid (64 * line) = (s, .ok h base w x k)) (die team : Nat) (p : StorePart)
include hroom hwatch hkept

theorem slice?_performStore (asid' va : Nat) : (s.performStore die pr team asid line [p]).slice? asid' va =
    (if asid' = asid ∧ va / 64 = line then some ((s.slice? asid (64 * line)).getD (freshLine s asid line h base k))
      else s.slice? asid' va).map (storedAt asid line p) := by
  have hslices : (s.performStore die pr team asid line [p]).slices = (filledSlices s asid line h base k).map (storedAt asid line p) :=
    (congrArg State.slices (performStore_eq hroom hwatch hkept die team p) :)
  have hva : s.slice? asid' (64 * (va / 64)) = s.slice? asid' va := by
    rw [State.slice?, lineOf_mul]
    rfl
  rw [State.slice?, hslices, lineOf, find?_storedAt, find?_filledSlices, hva]

/-- Every other line is found as before. -/
theorem slice?_performStore_other {asid' va : Nat} (hother : ¬ (asid' = asid ∧ va / 64 = line)) :
    (s.performStore die pr team asid line [p]).slice? asid' va = s.slice? asid' va := by
  rw [slice?_performStore hroom hwatch hkept, if_neg hother]
  refine (Option.map_congr fun l hl => ?_).trans Option.map_id_apply
  obtain ⟨hasid, hline⟩ : l.asid = asid' ∧ l.line = va / 64 := by simpa [lineOf] using List.find?_some hl
  exact if_neg (by rwa [hasid, hline])

end

theorem slice?_within {i : Nat} (hi : i < 64) (s : State) (asid line : Nat) : s.slice? asid (64 * line + i) = s.slice? asid (64 * line) := by
  have hline : lineOf (64 * line + i) = line := by
    unfold lineOf
    omega
  rw [State.slice?, State.slice?, hline, lineOf_mul]

theorem sliceBytes_one (bs : List Byte) (i : Nat) : sliceBytes bs i 1 = [bs.getD i 0] := rfl

theorem freshLine_getD {base i : Nat} (hbase : base % 64 = 0) (hi : i < 64) (s : State) (asid line : Nat) (h : Bool) (k : Bool) :
    [(freshLine s asid line h base k).data.getD i 0] = s.rawBytes h (base + i) 1 := by
  have hstart : base / 64 * 64 = base := by omega
  simp only [freshLine, hstart, State.rawBytes, Memory.bytes]
  split <;> simp [List.getD_eq_getElem?_getD, hi]

theorem freshLine_length (s : State) (asid line : Nat) (h : Bool) (base : Nat) (k : Bool) :
    (freshLine s asid line h base k).data.length = 64 := by
  simp only [freshLine, State.rawBytes, Memory.bytes]
  split <;> rw [List.length_map, List.length_range]

/-- The line as it stands in its slice, or as a fill brings it in. -/
def standing (s : State) (asid line : Nat) (h : Bool) (base : Nat) (k : Bool) : SliceLine :=
  (s.slice? asid (64 * line)).getD (freshLine s asid line h base k)

theorem standing_names (s : State) (asid line : Nat) (h : Bool) (base : Nat) (k : Bool) :
    (standing s asid line h base k).asid = asid ∧ (standing s asid line h base k).line = line := by
  unfold standing
  cases hs : s.slice? asid (64 * line) with
  | none => exact ⟨rfl, rfl⟩
  | some l => simpa [lineOf_mul] using List.find?_some hs

theorem standing_length {s : State} {asid line : Nat} (hlen : ∀ l, s.slice? asid (64 * line) = some l → l.data.length = 64)
    (h : Bool) (base : Nat) (k : Bool) : (standing s asid line h base k).data.length = 64 := by
  unfold standing
  cases hs : s.slice? asid (64 * line) with
  | none => exact freshLine_length ..
  | some l => exact hlen l hs

theorem lineBytes_standing {base i : Nat} (hbase : base % 64 = 0) (hi : i < 64) (s : State) (asid line : Nat) (h : Bool) (k : Bool) :
    s.lineBytes asid (64 * line + i) h (base + i) 1 = [(standing s asid line h base k).data.getD i 0] := by
  have hmod : (64 * line + i) % 64 = i := by omega
  unfold State.lineBytes standing
  rw [slice?_within hi, hmod]
  cases s.slice? asid (64 * line) with
  | none => exact (freshLine_getD hbase hi ..).symm
  | some l => rfl

/-- A byte of the line: the part's where it has one. -/
theorem lineBytes_performStore {s : State} {asid line base : Nat} {pr : Probe} {h w x k : Bool} (hroom : HasRoom s asid line)
    (hwatch : ∀ x, s.watchHits x = []) (hkept : s.keptAt pr asid (64 * line) = (s, .ok h base w x k)) (die team : Nat) {p : StorePart}
    (hbase : base % 64 = 0) (hp : p.off + p.data.length ≤ 64) (hlen : ∀ l, s.slice? asid (64 * line) = some l → l.data.length = 64)
    {i : Nat} (hi : i < 64) :
    (s.performStore die pr team asid line [p]).lineBytes asid (64 * line + i) h (base + i) 1 =
      if p.off ≤ i ∧ i < p.off + p.data.length then [p.data.getD (i - p.off) 0] else s.lineBytes asid (64 * line + i) h (base + i) 1 := by
  have hfound : (s.performStore die pr team asid line [p]).slice? asid (64 * line + i) =
      some (storedAt asid line p (standing s asid line h base k)) := by
    rw [slice?_performStore hroom hwatch hkept, if_pos ⟨rfl, by omega⟩]
    rfl
  have hmod : (64 * line + i) % 64 = i := by omega
  rw [State.lineBytes, hfound, lineBytes_standing hbase hi s asid line h k, storedAt, if_pos (standing_names ..)]
  change sliceBytes (patch _ p.off p.data) ((64 * line + i) % 64) 1 = _
  rw [hmod, sliceBytes_one, getD_patch (hp.trans (standing_length hlen h base k).ge), ← apply_ite (fun b : Byte => [b])]

/-- Settles O23: parts of one line are held in one entry; a performed part patches the line that stands in the slice, which a fill with room
brings in from the bytes at rest. -/
theorem heldAndPerformedStores : Obligations.HeldAndPerformedStores := by
  unfold Obligations.HeldAndPerformedStores
  refine ⟨fun t r sp rel scope acc tick line parts hopen hparts => ?held, fun s die team asid line pr p h base w x k hkept hbase hp hlen hwatch hroom => ?performed⟩
  case held =>
    dsimp only
    rw [← probeOf_eq]
    exact ⟨fun hnew => holdStore_new hopen hparts hnew scope acc tick, fun q hrel hq => holdStore_merged hopen hparts hrel hq scope acc tick⟩
  case performed =>
    have hframe := performStore_eq hroom hwatch hkept die team p
    exact ⟨(congrArg State.mem hframe :), (congrArg State.hostMem hframe :), (congrArg State.blocks hframe :), (congrArg State.teams hframe :),
      fun i hi => lineBytes_performStore hroom hwatch hkept die team hbase hp hlen hi,
      fun asid' va' hother => slice?_performStore_other hroom hwatch hkept die team p hother⟩

end Sys2Proof.Proofs
end

section
/-! PROOF. What performing an atomic's lanes leaves as it was (O21). -/

namespace Sys2Proof.Proofs

open Sys2Proof Sys2Proof.Machine Sys2Proof.Claims

/-! ### An access at the caches -/

/-- A state that differs in the caches and what stands behind them alone. -/
def CachesAlone (s s1 : State) : Prop :=
  s1 = { s with slices := s1.slices, tlb := s1.tlb, cores := s1.cores, mem := s1.mem, hostMem := s1.hostMem, free := s1.free }

theorem CachesAlone.refl (s : State) : CachesAlone s s := rfl

theorem CachesAlone.trans {s s1 s2 : State} (h : CachesAlone s s1) (h' : CachesAlone s1 s2) : CachesAlone s s2 := by
  unfold CachesAlone at h h' ⊢
  rw [h'.trans (congrArg (fun x : State => { x with
    slices := s2.slices, tlb := s2.tlb, cores := s2.cores, mem := s2.mem, hostMem := s2.hostMem, free := s2.free }) h)]

theorem cachesAlone_addTlb (s : State) (e : TlbEnt) : CachesAlone s (s.addTlb e) := by
  unfold State.addTlb
  dsimp only
  split <;> rfl

/-- A translation changes nothing, or enters a leaf in its slice's TLB. -/
theorem translate_state (s : State) (asid va : Nat) : (s.translate asid va).1 = s ∨ ∃ e, (s.translate asid va).1 = s.addTlb e := by
  unfold State.translate
  dsimp only
  repeat' split
  any_goals exact .inl rfl
  exact .inr ⟨_, rfl⟩

theorem cachesAlone_translate (s : State) (asid va : Nat) : CachesAlone s (s.translate asid va).1 := by
  obtain h | ⟨e, h⟩ := translate_state s asid va <;> rw [h]
  · exact .refl s
  · exact cachesAlone_addTlb s e

theorem cachesAlone_putRaw (s : State) (host : Bool) (base : Nat) (bs : List Byte) : CachesAlone s (s.putRaw host base bs) := by
  unfold State.putRaw
  split <;> rfl

theorem cachesAlone_dropSlices (s : State) (p : SliceLine → Bool) : CachesAlone s (s.dropSlices p) := by
  have hback : CachesAlone s (s.slices.foldl (fun acc l => if p l && l.dirty then acc.putRaw l.host l.base l.data else acc) s) := by
    refine List.foldlRecOn (motive := CachesAlone s) _ _ (.refl s) fun acc h l _ => ?_
    split
    · exact h.trans (cachesAlone_putRaw ..)
    · exact h
  exact hback.trans rfl

theorem cachesAlone_fillSlice (s : State) (asid va : Nat) (host : Bool) (base : Nat) (priv : Bool) :
    CachesAlone s (s.fillSlice asid va host base priv) := by
  unfold State.fillSlice
  dsimp only
  split
  · exact .refl s
  split
  · rfl
  · exact (cachesAlone_dropSlices s _).trans rfl

theorem cachesAlone_sliceWrite (s : State) (asid va : Nat) (host : Bool) (base : Nat) (priv : Bool) (bs : List Byte) :
    CachesAlone s (s.sliceWrite asid va host base priv bs) :=
  (cachesAlone_fillSlice s asid va host base priv).trans rfl

theorem cachesAlone_rmw (s : State) (t : Team) (a n : Nat) (f : Nat → Option Nat) : CachesAlone s (s.rmw t .none .glob a n f).1 := by
  have hdrop : CachesAlone s (s.dropRead t.loc.pkgCore (fun l => l.asid == s.asidOf t && l.line == lineOf a)) := rfl
  have htr := hdrop.trans (cachesAlone_translate _ (s.asidOf t) a)
  unfold State.rmw State.keptAt
  dsimp only
  split
  · next s1 h base _ _ p heq =>
    rw [heq] at htr
    have hfill := htr.trans (cachesAlone_fillSlice s1 (s.asidOf t) a h base p)
    split
    · exact hfill.trans (cachesAlone_sliceWrite ..)
    · exact hfill
  · next s1 _ heq => rwa [heq] at htr

/-! ### Watchpoints, device links -/

theorem setReg_frame (s : State) (f off : Nat) (v : Word) : ({ s.setReg f off v with bar := s.bar } : State) = s := by
  unfold State.setReg
  dsimp only
  split <;> rfl

theorem countHit_frame (s : State) (cl w : Nat) : ({ s.countHit cl w with bar := s.bar } : State) = s := setReg_frame ..

theorem countHit_team? (s : State) (cl w u : Nat) : (s.countHit cl w).team? u = s.team? u := by
  have hteams : (s.countHit cl w).teams = s.teams := (congrArg State.teams (countHit_frame s cl w) :)
  rw [State.team?, hteams, State.team?]

/-- What a watchpoint does changes teams, registers and stop requests alone. -/
theorem watchTeam_frame (s : State) (u : Nat) (sp : Space) (a n kind lane : Nat) (pc : DWord) (region : Option Nat) :
    ({ s.watchTeam u sp a n kind lane pc region with teams := s.teams, bar := s.bar, stopReq := s.stopReq } : State) = s := by
  unfold State.watchTeam
  split
  · rfl
  · refine List.foldlRecOn (motive := fun acc : State => ({ acc with teams := s.teams, bar := s.bar, stopReq := s.stopReq } : State) = s) _ _ rfl
      fun acc hacc w _ => ?_
    have hcount (cl : Nat) : ({ acc.countHit cl w with teams := s.teams, bar := s.bar, stopReq := s.stopReq } : State) = s :=
      (congrArg (fun x : State => { x with teams := s.teams, bar := s.bar, stopReq := s.stopReq }) (countHit_frame acc cl w)).trans hacc
    dsimp only
    repeat' split
    all_goals exact hcount _

theorem team?_updTeam_same (s : State) (u : Nat) {f : Team → Team} (hf : ∀ t, (f t).uid = t.uid) : (s.updTeam u f).team? u = (s.team? u).map f :=
  find?_updated Team.uid hf u s.teams

theorem addHit_eq (t : Team) (w kind : Nat) (pc : DWord) (region lane : Nat) : ∃ ws, t.addHit w kind pc region lane = { t with watch := ws } := by
  unfold Team.addHit
  dsimp only
  split <;> exact ⟨_, rfl⟩

/-- A watchpoint leaves a team but for the hits that it must report. -/
theorem watchTeam_team {s : State} {t : Team} (h : s.team? t.uid = some t) (hkind : (t.kind == TeamKind.lantern) = false) (sp : Space)
    (a n kind lane : Nat) (pc : DWord) (region : Option Nat) :
    ∃ ws, (s.watchTeam t.uid sp a n kind lane pc region).team? t.uid = some { t with watch := ws } := by
  unfold State.watchTeam
  simp only [h]
  refine List.foldlRecOn (motive := fun acc : State => ∃ ws, acc.team? t.uid = some { t with watch := ws }) _ _ ⟨t.watch, h⟩ fun acc hacc w _ => ?_
  obtain ⟨ws, hacc⟩ := hacc
  have hcount (cl : Nat) : (acc.countHit cl w).team? t.uid = some { t with watch := ws } := (countHit_team? ..).trans hacc
  simp only [hkind]
  split
  · exact ⟨ws, hcount _⟩
  simp only [Bool.false_eq_true, if_false]
  split
  · exact ⟨ws, hcount _⟩
  · obtain ⟨ws', hadd⟩ := addHit_eq { t with watch := ws } w kind pc (region.getD 0) lane
    refine ⟨ws', ?_⟩
    rw [team?_updTeam_same, hcount, Option.map_some, hadd]
    intro x
    obtain ⟨_, hx⟩ := addHit_eq x w kind pc (region.getD 0) lane
    rw [hx]

theorem sendLink_frame (s : State) (die asid n : Nat) (m : HostMsg) :
    ({ s.sendLink die asid n m with hostOut := s.hostOut, dies := s.dies, linkQ := s.linkQ } : State) = s := by
  unfold State.sendLink
  dsimp only
  split <;> rfl

/-! ### Performing the lanes -/

/-- What performing a lane of a team leaves: the pending atomics, the device number, and the team but for its watchpoint hits. -/
structure Around (u : Nat) (s s1 : State) : Prop where
  atoms  : s1.atoms = s.atoms
  devNum : s1.devNum = s.devNum
  team   : ∀ t, s.team? u = some t → (t.kind == TeamKind.lantern) = false → ∃ ws, s1.team? u = some { t with watch := ws }

theorem Around.trans {u : Nat} {s s1 s2 : State} (h : Around u s s1) (h' : Around u s1 s2) : Around u s s2 where
  atoms := h'.atoms.trans h.atoms
  devNum := h'.devNum.trans h.devNum
  team t ht hkind := by
    obtain ⟨ws, ht1⟩ := h.team t ht hkind
    obtain ⟨ws', ht2⟩ := h'.team { t with watch := ws } ht1 hkind
    exact ⟨ws', ht2⟩

theorem Around.of_teams {u : Nat} {s s1 : State} (hatoms : s1.atoms = s.atoms) (hdev : s1.devNum = s.devNum) (hteams : s1.teams = s.teams) :
    Around u s s1 where
  atoms := hatoms
  devNum := hdev
  team t ht _ := ⟨t.watch, by rw [State.team?, hteams]; exact ht⟩

theorem Around.refl (u : Nat) (s : State) : Around u s s := .of_teams rfl rfl rfl

theorem CachesAlone.around {s s1 : State} (h : CachesAlone s s1) (u : Nat) : Around u s s1 := by
  unfold CachesAlone at h
  exact .of_teams (congrArg State.atoms h :) (congrArg State.devNum h :) (congrArg State.teams h :)

theorem around_watchTeam (u : Nat) (s : State) (sp : Space) (a n kind lane : Nat) (pc : DWord) (region : Option Nat) :
    Around u s (s.watchTeam u sp a n kind lane pc region) where
  atoms := (congrArg State.atoms (watchTeam_frame s u sp a n kind lane pc region) :)
  devNum := (congrArg State.devNum (watchTeam_frame s u sp a n kind lane pc region) :)
  team t ht hkind := by
    obtain rfl : t.uid = u := Laws.team?_uid ht
    exact watchTeam_team ht hkind ..

theorem around_sendLink (u : Nat) (s : State) (die asid n : Nat) (m : HostMsg) : Around u s (s.sendLink die asid n m) :=
  .of_teams (congrArg State.atoms (sendLink_frame s die asid n m) :) (congrArg State.devNum (sendLink_frame s die asid n m) :)
    (congrArg State.teams (sendLink_frame s die asid n m) :)

theorem updScratch_frame (s : State) (t : Team) (sp : Space) (f : Scratch → Scratch) :
    ({ s.updScratch t sp f with blocks := s.blocks, spans := s.spans } : State) = s := by
  unfold State.updScratch
  cases sp with
  | gallery => dsimp only; split <;> rfl
  | _ => rfl

theorem around_rmw (u : Nat) (s : State) (t : Team) (sp : Space) (a n : Nat) (f : Nat → Option Nat) :
    Around u s (s.rmw t .none sp a n f).1 := by
  by_cases hsp : sp = .glob
  · subst hsp
    exact (cachesAlone_rmw s t a n f).around u
  · rw [rmw_scratch hsp]
    dsimp only
    split
    · next x _ =>
      have hframe := updScratch_frame s t sp (fun c => c.write a (natBytes n x))
      exact .of_teams (congrArg State.atoms hframe :) (congrArg State.devNum hframe :) (congrArg State.teams hframe :)
    · exact .refl u s

theorem laterLane_congr {s s1 : State} (h : s1.devNum = s.devNum) (r : AtomReq) (va : Nat) : s1.laterLane r va = s.laterLane r va := by
  simp only [State.laterLane, State.isRemote, h]

/-- What performing lanes adds to a pending atomic: the near lanes' words and old values, and the far lanes as work. -/
structure Added (s : State) (t : Team) (r : AtomReq) (ls : List LaneAddr) (x x1 : PendAtom) : Prop where
  frame : { x1 with words := x.words, fresh := x.fresh, olds := x.olds, work := x.work, remote := x.remote } = x
  olds  : x1.olds.map (·.1) = x.olds.map (·.1) ++ (ls.filter (fun y => !s.laterLane r y.2)).map (·.1)
  words : x1.words.map (fun w => (w.1.addr, w.2.1)) =
    x.words.map (fun w => (w.1.addr, w.2.1)) ++ (ls.filter (fun y => !s.laterLane r y.2)).map (fun y => (y.2, r.n))
  work  : x1.work = x.work ++ (ls.filter (fun y => s.laterLane r y.2)).map (fun y => (y.1, y.2, r.opds t.arch y.1))

section
variable {s : State} {t : Team} {r : AtomReq} {ls : List LaneAddr} {x x1 : PendAtom} {l a : Nat}

theorem Added.congr {s1 : State} (hdev : s1.devNum = s.devNum) (h : Added s1 t r ls x x1) : Added s t r ls x x1 := by
  obtain ⟨hframe, holds, hwords, hwork⟩ := h
  simp only [laterLane_congr hdev] at holds hwords hwork
  exact ⟨hframe, holds, hwords, hwork⟩

theorem Added.far (hfar : s.laterLane r a = true) {b : Bool}
    (h : Added s t r ls { x with work := x.work ++ [(l, a, r.opds t.arch l)], remote := b } x1) : Added s t r ((l, a) :: ls) x x1 := by
  obtain ⟨hframe, holds, hwords, hwork⟩ := h
  refine ⟨congrArg (fun y : PendAtom => { y with work := x.work, remote := x.remote }) hframe, ?_, ?_, ?_⟩
  · simpa [hfar] using holds
  · simpa [hfar] using hwords
  · simpa [hfar] using hwork

theorem Added.near (hnear : s.laterLane r a = false) {place : Place} (hplace : place.addr = a) {old : List Byte} {fresh : List Place} {v : DWord}
    (h : Added s t r ls { x with words := x.words ++ [(place, r.n, old)], fresh := fresh, olds := x.olds ++ [(l, v)] } x1) :
    Added s t r ((l, a) :: ls) x x1 := by
  obtain ⟨hframe, holds, hwords, hwork⟩ := h
  refine ⟨congrArg (fun y : PendAtom => { y with words := x.words, fresh := x.fresh, olds := x.olds }) hframe, ?_, ?_, ?_⟩
  · simpa [hnear] using holds
  · simpa [hnear, hplace] using hwords
  · simpa [hnear] using hwork

end

theorem perform_adds (r : AtomReq) (region : Nat) (pc : DWord) (asid : Nat) (ls : List LaneAddr) (s : State) (t : Team) (x : PendAtom) :
    Around t.uid s (r.perform region pc asid ls s t x).1 ∧ Added s t r ls x (r.perform region pc asid ls s t x).2 := by
  induction ls generalizing s x with
  | nil => exact ⟨.refl _ _, rfl, by simp [AtomReq.perform], by simp [AtomReq.perform], by simp [AtomReq.perform]⟩
  | cons y ls ih =>
    obtain ⟨l, a⟩ := y
    unfold AtomReq.perform
    dsimp only
    cases hfar : s.laterLane r a with
    | true =>
      rw [if_pos rfl]
      generalize hs1 : ite (s.isRemote a = true) _ s = s1
      have haround : Around t.uid s s1 := by
        rw [← hs1]
        split
        · exact around_sendLink ..
        · exact .refl _ _
      obtain ⟨hkeeps, hadds⟩ := ih s1 { x with work := x.work ++ [(l, a, r.opds t.arch l)], remote := x.remote || s1.isRemote a }
      exact ⟨haround.trans hkeeps, .far hfar (hadds.congr haround.devNum)⟩
    | false =>
      rw [if_neg (by simp)]
      have hlane := (around_rmw t.uid s t r.m.sp a r.n (r.new (r.opds t.arch l).1 (r.opds t.arch l).2)).trans
        (around_watchTeam t.uid _ r.m.sp a r.n 3 l pc (some region))
      obtain ⟨hkeeps, hadds⟩ := ih _ _
      exact ⟨hlane.trans hkeeps, .near hfar rfl (hadds.congr hlane.devNum)⟩

end Sys2Proof.Proofs
end

section
/-! PROOF. ATOM with return and CAS are performed at once (O21). -/

namespace Sys2Proof.Proofs

open Sys2Proof Sys2Proof.Machine Sys2Proof.Claims

/-! ### A returning atomic that may be performed -/

/-- A request as the statement gives it. -/
def atomicOf (q : AtomReq) (len : Nat) (a : Arch) : Atomic :=
  { len := len, n := q.n, dest := q.dest, regs := q.regs, acq := q.acq, rel := q.rel, rp := q.rp, scope := q.scope, op := q.op, opds := q.opds a }

/-- The lanes of a request, with their addresses. -/
def reqLanes (q : AtomReq) (hd : Head) (t : Team) : List LaneAddr := (memLanes t hd q.once).map (fun l => (l, q.m.addr t.arch l))

/-- The region of an atomic: opened, its targets and operands folded, and closed. -/
def atomRegion (q : AtomReq) (ls : List LaneAddr) (tick : Nat) (t : Team) : Team :=
  let fold := ls.flatMap (fun x => foldTarget q.m.sp x.2 ++ natBytes 8 (q.opds t.arch x.1).1.toNat ++ natBytes 8 (q.opds t.arch x.1).2.toNat)
  let t1 := ((t.openAt tick 64 8).updOpen (fun g => { g with folded := fold })).note { dests := q.regs }
  { (t1.closeRegion tick) with needHead := true }

/-- The state past the checks and the gate. -/
def atomState (ls : List LaneAddr) (s : State) (t : Team) : State :=
  (gated s t).1.dropGood ((gated s t).1.asidOf (gated s t).2) (ls.map (fun x => x.2 / 64 * 64))

theorem probes_done {s : State} {t : Team} {b : Bool} {ls : List LaneAddr}
    (h : ∀ x ∈ ls, s.probeAt t t.nextId x.2 true b = (s, .done)) (acc : List LaneAcc) :
    ls.foldl (fun (acc : State × List LaneAcc) x =>
      let y := acc.1.probeAt t t.nextId x.2 true b
      (y.1, acc.2 ++ [{ lane := x.1, addr := x.2, st := y.2 }])) (s, acc) =
    (s, acc ++ ls.map (fun x => { lane := x.1, addr := x.2, st := .done })) := by
  induction ls generalizing acc with
  | nil => simp
  | cons x ls ih =>
    rw [List.foldl_cons, h x List.mem_cons_self]
    exact (ih (fun y hy => h y (List.mem_cons_of_mem x hy)) _).trans (by simp)

/-- Cores whose outbound buffers are empty have nothing to drain. -/
theorem drainPart_drained {s : State} {p : Nat} (h : s.partDrained p = true) : s.drainPart p = s := by
  refine List.foldlRecOn (motive := (· = s)) _ _ rfl fun acc hacc c hc => ?_
  subst hacc
  split
  · next hin =>
    have hempty : (acc.core c).outbound = [] := by simpa [hin] using List.all_eq_true.mp h c hc
    rw [State.drainAll, hempty]
    rfl
  · rfl

theorem cause_done {a : Access} (h : ∀ l ∈ a.lanes, l.st = .done) : a.cause = none := by
  have hfaults : a.faults = [] := List.filterMap_eq_nil_iff.mpr fun l hl => by rw [h l hl]
  rw [Access.cause, hfaults]
  rfl

/-- The access of an atomic's own checks, whose lanes have all been found well. -/
def atomAccess (q : AtomReq) (ls : List LaneAddr) (t : Team) : Access :=
  { id := t.nextId, word := t.arch.issued, pc := t.arch.pc, region := t.nextRegion, once := q.once, kind := .probe none,
    lanes := if q.m.sp = .glob && !(t.role == .trailing) then ls.map (fun x => { lane := x.1, addr := x.2, st := .done }) else [],
    susp := false, lost := [] }

/-- The result of an atomic, under way. -/
def atomResult (ls : List LaneAddr) (t : Team) : Pending :=
  { id := t.nextId - 1, pc := t.arch.pc, region := t.nextRegion, dest := .none, x2 := false, lanes := maskOfList (ls.map (·.1)), vals := [] }

/-- The team of a performed atomic as its lanes are performed: its region closed, with its targets' zones as tags and its results under way. -/
def atomTeam (q : AtomReq) (ls : List LaneAddr) (s : State) (t : Team) : Team :=
  let u := (atomRegion q ls s.tick t).gather t.nextRegion ((s.targetZones t q.m.sp q.scope ls).map (fun z => (z, s.tick)))
  { u with pend := u.pend ++ [atomResult ls t] }

/-- The pending atomic before any lane is performed. -/
def atomStart (q : AtomReq) (ls : List LaneAddr) (s : State) (t : Team) : PendAtom :=
  { id := s.nextUid, team := t.uid, region := t.nextRegion, seq := t.nextId - 1, word := t.arch.issued, pc := t.arch.pc, t := s.tick, own := t.loc.zone,
    target := s.targetZones t q.m.sp q.scope ls, words := [], olds := [], dest := q.dest, wide := q.n == 8, acq := q.acq, scope := q.scope,
    op := q.op, fresh := [], work := [], remote := false, sigOk := t.role == .single }

/-- The lanes performed. -/
def atomPerformed (q : AtomReq) (ls : List LaneAddr) (s : State) (t : Team) : State × PendAtom :=
  q.perform t.nextRegion t.arch.pc (s.fresh.2.asidOf t) ls (s.fresh.2.setTeam (atomTeam q ls s t)) (atomTeam q ls s t) (atomStart q ls s t)

/-- The access by which a trailing copy waits for its leading copy's values. -/
def trailingAccess (q : AtomReq) (ls : List LaneAddr) (t : Team) : Access :=
  { atomAccess q ls t with
    kind := .load q.m.sp (if q.n = 8 then 3 else 2) false false false 0 q.dest true
    lanes := ls.map (fun x => { lane := x.1, addr := x.2, st := .waiting }) }

section
variable {q : AtomReq} {hd : Head} {s : State} {t : Team} {len : Nat} (h : AtomReady s t q.m.sp (atomicOf q len t.arch) (reqLanes q hd t))
include h

theorem atom_checked : (if q.m.sp = .glob && !(t.role == .trailing) then
      (reqLanes q hd t).foldl (fun (acc : State × List LaneAcc) x =>
        let y := acc.1.probeAt t t.nextId x.2 true q.hostOk
        (y.1, acc.2 ++ [{ lane := x.1, addr := x.2, st := y.2 }])) (s, [])
    else (s, [])) = (s, (atomAccess q (reqLanes q hd t) t).lanes) := by
  unfold atomAccess
  split
  · next hsp =>
    obtain ⟨hsp, hrole⟩ : q.m.sp = .glob ∧ t.role ≠ .trailing := by simpa using hsp
    exact probes_done (b := q.hostOk) (h.probed hrole hsp) []
  · rfl

theorem atom_room : (q.regs.length * t.tw != 0 && decide (renameStore t.loc.chip < s.renameUsed t.loc + q.regs.length * t.tw)) = false := by
  by_cases hregs : q.regs = []
  · simp [hregs]
  · have hroom : s.renameUsed t.loc + q.regs.length * t.tw ≤ renameStore t.loc.chip := h.room hregs
    simp [hroom]

variable (hrole : t.role ≠ .trailing)
include hrole

theorem atom_notPending : (reqLanes q hd t).any (fun x => s.pendingHere t q.m.sp x.2 q.n) = false :=
  List.any_eq_false.mpr fun x hx => Bool.eq_false_iff.mp (h.free hrole x hx)

theorem atom_notBuffered : q.buffered s t (reqLanes q hd t) = false := by
  have hout : (q.rel && 2 ≤ q.scope && !(s.core t.loc.pkgCore).outbound.isEmpty) = false := by
    by_cases hrel : q.rel = true ∧ 2 ≤ q.scope
    · simp [h.out hrole hrel.1 hrel.2]
    · simp only [not_and_or] at hrel
      obtain hrel | hscope := hrel
      · simp [hrel]
      · simp [hscope]
  have hlines : (q.m.sp == .glob && (reqLanes q hd t).any (fun x => s.outboundHas t.loc.pkgCore (s.asidOf t) (lineOf x.2))) = false := by
    by_cases hsp : q.m.sp = .glob
    · have hany : (reqLanes q hd t).any (fun x => s.outboundHas t.loc.pkgCore (s.asidOf t) (lineOf x.2)) = false :=
        List.any_eq_false.mpr fun x hx => Bool.eq_false_iff.mp (h.lines hrole hsp x hx)
      rw [hany, Bool.and_false]
    · simp [hsp]
  rw [AtomReq.buffered, hout, hlines, Bool.false_or]

theorem atom_drained : (if q.rp = true then s.drainPart (s.tenantOf t) else s) = s :=
  ite_eq_right_iff.mpr fun hrp => drainPart_drained (h.cores hrole hrp)

end

theorem atomAccess_done (q : AtomReq) (ls : List LaneAddr) (t : Team) : ∀ l ∈ (atomAccess q ls t).lanes, l.st = .done := by
  unfold atomAccess
  intro l hl
  split at hl
  · obtain ⟨x, -, rfl⟩ := List.mem_map.mp hl
    rfl
  · cases hl

/-- How an atomic ends that may be performed now: a trailing copy waits for its leading copy's values, every other performs the lanes. -/
def atomEnd (q : AtomReq) (ls : List LaneAddr) (s : State) (t : Team) : WordEnd :=
  let s1 := atomState ls s t.freshId.2
  let t1 := (gated s t.freshId.2).2
  if t.role = .trailing then .done s1 { atomRegion q ls s1.tick t1 with accs := t1.accs ++ [trailingAccess q ls t] } none
  else
    let p := atomPerformed q ls s1 t1
    .done { p.1 with atoms := p.1.atoms ++ [p.2] } ((p.1.team? t.uid).getD (atomTeam q ls s1 t1)) none

theorem effect_ready {q : AtomReq} {hd : Head} {s : State} {t : Team} {len : Nat}
    (h : AtomReady s t q.m.sp (atomicOf q len t.arch) (reqLanes q hd t)) : q.effect hd s t = atomEnd q (reqLanes q hd t) s t := by
  have hempty : (reqLanes q hd t).isEmpty = false := by simpa using h.lanes
  have hchecked := atom_checked h
  have haccess : accessTrap q.m.sp (s.scratchOf t q.m.sp).size q.n q.n q.once (reqLanes q hd t) = none := accessTrap_ok h.ok _
  have hgate : s.gate t q.m.sp (reqLanes q hd t) q.n EntryKind.stopsWrite = none := h.gate
  have hroom : (q.regs.length * t.freshId.2.tw != 0 && decide (renameStore t.freshId.2.loc.chip <
    s.renameUsed t.freshId.2.loc + q.regs.length * t.freshId.2.tw)) = false := atom_room (t := t) h
  have hdone := atomAccess_done q (reqLanes q hd t) t
  have hnone : (atomAccess q (reqLanes q hd t) t).lanes.any (fun l => l.st == .page || l.st == .waiting) = false :=
    List.any_eq_false.mpr fun l hl => by simp [hdone l hl]
  have hcause : ({ id := t.freshId.1, word := t.freshId.2.arch.issued, pc := t.freshId.2.arch.pc, region := t.freshId.2.nextRegion, once := q.once,
                   kind := .probe none, lanes := (atomAccess q (reqLanes q hd t) t).lanes, susp := false, lost := [] } : Access).cause = none :=
    cause_done hdone
  unfold AtomReq.effect
  by_cases hrole : t.role = .trailing
  · have htr : (t.role == Role.trailing) = true := by simp [hrole]
    dsimp only [reqLanes] at haccess hgate hempty hchecked hnone hcause
    simp only [haccess, hgate, hempty, hchecked, hnone, hcause, Bool.false_eq_true, if_false]
    simp only [htr, hroom, passGate_eq, Bool.false_eq_true, if_false, if_true, Bool.not_true, Bool.false_and]
    exact (if_pos hrole).symm
  · have htr : (t.role == Role.trailing) = false := by simp [hrole]
    have hdrained : (if q.rp = true then s.drainPart (s.tenantOf t.freshId.2) else s) = s := atom_drained (t := t) h hrole
    have hpending : (reqLanes q hd t).any (fun x => s.pendingHere t.freshId.2 q.m.sp x.2 q.n) = false := atom_notPending (t := t) h hrole
    have hbuffered : q.buffered s t.freshId.2 (reqLanes q hd t) = false := atom_notBuffered (t := t) h hrole
    have hpart : (q.rp && !s.partDrained (s.tenantOf t.freshId.2)) = false := by
      by_cases hrp : q.rp = true
      · have hcores : s.partDrained (s.tenantOf t.freshId.2) = true := h.cores hrole hrp
        simp [hcores]
      · simp [hrp]
    dsimp only [reqLanes] at haccess hgate hempty hchecked hnone hcause hpending hbuffered
    simp only [haccess, hgate, hempty, hchecked, hnone, hcause, Bool.false_eq_true, if_false]
    simp only [htr, hbuffered, Bool.false_eq_true, if_false, hdrained]
    simp only [hroom, hpending, hpart, passGate_eq, Bool.false_eq_true, if_false, Bool.not_false, Bool.true_and]
    exact (if_neg hrole).symm

end Sys2Proof.Proofs
end

section
/-! PROOF. The words ATOM and CAS, as closing words (O21). -/

namespace Sys2Proof.Proofs

open Sys2Proof Sys2Proof.Machine Sys2Proof.Claims

/-! ### How a closing word ends that a statement knows by its form -/

section
variable {i : Instr} {s : State} {t : Team} {x f : Word1} (hr : Running s t) (hp : Passes s t f) (hc : Closes s t f)
  (hx : exec i s = issueWord x s) (hf : HasForm s t x f)
include hr hp hc hx hf

/-- What issuing the word comes to, if its team has no step to report. -/
theorem closing_issues : exec i s = .next ((match x.effect s { t with needHead := true } with
    | .done s' t' pc => s'.finish t' x pc
    | .trap tr => s.wordTrap { t with needHead := true } x tr
    | .wait s' run => ({ s' with issue := none }.setTeam { { t with needHead := true } with run := run })
    | .act s' => s').afterStep t.uid t.arch.pc) := by
  have hp' := Laws.passes_congr hp hf.caps hf.check hf.hd hf.bounds hf.targets
  have hc' : Closes s t x := ⟨hf.closing.trans hc.closing, hc.park, hc.failed, hc.drained, hc.acquired⟩
  exact hx.trans (Laws.issueWord_closes hr hp' hc')

theorem closing_done {s' : State} {t' : Team} (he : x.effect s { t with needHead := true } = .done s' t' none) (hu : t'.uid = t.uid)
    (hs : t'.stepMode = t.stepMode) (hin : (s'.team? t.uid).isSome) : exec i s = .next (s'.finish t' f none) := by
  obtain ⟨run, hteam⟩ := finish_team? (t := t') x none (by rwa [hu])
  rw [closing_issues hr hp hc hx hf, he]
  dsimp only
  rw [Laws.afterStep_off, Laws.finish_congr _ _ _ hf.len.symm hf.hd.symm hf.once.symm hf.sample.symm]
  intro y hy
  rw [← hu, hteam, Option.some.injEq] at hy
  rw [← hy]
  exact hs.trans hr.step

theorem closing_traps {tr : Trap} (he : x.effect s { t with needHead := true } = .trap tr) (hreport : f.report tr = tr) :
    exec i s = .next (s.takeTrap (hushed { t with needHead := true } f.hd.sw) tr) := by
  have hkind : (t.kind == TeamKind.lantern) = false := hr.kind
  have hword : s.wordTrap { t with needHead := true } x tr = s.takeTrap (hushed { t with needHead := true } f.hd.sw) tr := by
    have hrep : x.report tr = tr := (congrArg (fun b => ({ tr with once := tr.once || b } : Trap)) hf.once).trans hreport
    unfold State.wordTrap
    dsimp only
    split
    · next h => simp [h] at hkind
    · rw [quiet_eq_hushed, hf.hd, hrep]
  have hnames : (hushed { t with needHead := true } f.hd.sw).uid = t.uid ∧ (hushed { t with needHead := true } f.hd.sw).stepMode = t.stepMode := by
    unfold hushed
    split <;> exact ⟨rfl, rfl⟩
  rw [closing_issues hr hp hc hx hf, he]
  dsimp only
  rw [hword]
  generalize hushed { t with needHead := true } f.hd.sw = u at hnames ⊢
  obtain ⟨huid, hstep⟩ := hnames
  obtain ⟨y, hy, hystep⟩ := Laws.takeTrap_team (s := s) (t := u) (tr := tr) (by rw [huid, hr.team]; rfl)
  rw [Laws.afterStep_off]
  intro z hz
  rw [← huid, hy, Option.some.injEq] at hz
  rw [← hz, hystep, hstep, hr.step]

end

/-! ### The effect of a returning atomic -/

section
variable {q : AtomReq} {hd : Head} {s : State} {t : Team}

theorem effect_traps {tr : Trap} (h : accessTrap q.m.sp (s.scratchOf t q.m.sp).size q.n q.n q.once (reqLanes q hd t) = some tr) :
    q.effect hd s t = .trap tr := by
  unfold AtomReq.effect
  dsimp only [reqLanes] at h
  simp only [h]

theorem effect_idle (h : reqLanes q hd t = []) : q.effect hd s t = .done s t none := by
  have haccess : accessTrap q.m.sp (s.scratchOf t q.m.sp).size q.n q.n q.once [] = none := accessTrap_none_iff.mpr ⟨nofun, fun _ => nofun⟩
  unfold AtomReq.effect
  dsimp only [reqLanes] at h
  simp only [h, haccess, List.isEmpty_nil, if_true]

end

/-! ### What performing leaves -/

theorem finish_issue (s : State) (t : Team) (w : Word1) (pc : Option DWord) : (s.finish t w pc).issue = none := by
  unfold State.finish
  dsimp only
  repeat' split
  all_goals rfl

/-- Past the checks and the gate a state differs in caches and in the answers taken from other packages alone. -/
theorem atomState_eq (ls : List LaneAddr) (s : State) (t : Team) : ∃ cs sl rm, atomState ls s t = { s with cores := cs, slices := sl, remoteIn := rm } := by
  have hframe := gated_frame s t
  have hgated : (gated s t).1 = { s with cores := (gated s t).1.cores, slices := (gated s t).1.slices } :=
    (congrArg (fun x : State => { x with cores := (gated s t).1.cores, slices := (gated s t).1.slices }) hframe :)
  refine ⟨(gated s t).1.cores, (gated s t).1.slices, (atomState ls s t).remoteIn, ?_⟩
  exact congrArg (fun x : State => { x with remoteIn := (atomState ls s t).remoteIn }) hgated

theorem length_atomTeam (q : AtomReq) (ls : List LaneAddr) (s : State) (t : Team) : (atomTeam q ls s t).regions.length = t.regions.length + 1 := by
  simp [atomTeam, atomRegion, Team.gather, Team.updRegion, Team.closeRegion, Team.note, Team.updOpen, Team.openAt]

theorem scratchOf_congr {s s1 : State} {t t1 : Team} (hblocks : s1.blocks = s.blocks) (hspans : s1.spans = s.spans) (hblock : t1.block = t.block)
    (hloc : t1.loc = t.loc) (sp : Space) : s1.scratchOf t1 sp = s.scratchOf t sp := by
  simp only [State.scratchOf, State.block?, State.span?, hblocks, hspans, hblock, hloc]

theorem scratchOf_watchTeam (s : State) (t : Team) (u : Nat) (sp sp' : Space) (a n kind lane : Nat) (pc : DWord) (region : Option Nat) :
    (s.watchTeam u sp' a n kind lane pc region).scratchOf t sp = s.scratchOf t sp := by
  have hframe := watchTeam_frame s u sp' a n kind lane pc region
  have hblocks : (s.watchTeam u sp' a n kind lane pc region).blocks = s.blocks := (congrArg State.blocks hframe :)
  have hspans : (s.watchTeam u sp' a n kind lane pc region).spans = s.spans := (congrArg State.spans hframe :)
  exact scratchOf_congr hblocks hspans rfl rfl sp

/-- One lane performed in a team's allocation: its old bytes, and its new value in their place where there is one. -/
theorem perform_scratch {q : AtomReq} (hsp : q.m.sp ≠ .glob) (region : Nat) (pc : DWord) (asid l a : Nat) {s : State} {t : Team}
    (hsize : (s.scratchOf t q.m.sp).size ≠ 0) (x : PendAtom) :
    let old := bytesNat ((s.scratchOf t q.m.sp).mem.bytes a q.n)
    (q.perform region pc asid [(l, a)] s t x).2.olds = x.olds ++ [(l, BitVec.ofNat 64 old)] ∧
    (q.perform region pc asid [(l, a)] s t x).1.scratchOf t q.m.sp = match q.new (q.opds t.arch l).1 (q.opds t.arch l).2 old with
      | some v => (s.scratchOf t q.m.sp).write a (natBytes q.n v)
      | none => s.scratchOf t q.m.sp := by
  have hnear : s.laterLane q a = false := by simp [State.laterLane, hsp]
  intro old
  unfold AtomReq.perform
  dsimp only
  rw [if_neg (by simp [hnear]), rmw_scratch hsp, AtomReq.perform]
  refine ⟨rfl, ?_⟩
  dsimp only
  rw [scratchOf_watchTeam]
  split
  · next v hv =>
    have hnew : q.new (q.opds t.arch l).1 (q.opds t.arch l).2 old = some v := hv
    rw [scratchOf_updScratch hsize, hnew]
  · next hv =>
    have hnew : q.new (q.opds t.arch l).1 (q.opds t.arch l).2 old = none := hv
    rw [hnew]

/-! ### A returning atomic, performed -/

/-- A team that stands at a head. -/
def headed (t : Team) : Team := { t with needHead := true }

theorem reqLanes_headed (q : AtomReq) (hd : Head) (t : Team) : reqLanes q hd (headed t) = reqLanes q hd t := rfl

theorem atomReady_headed {s : State} {t : Team} {sp : Space} {r : Atomic} {ls : List LaneAddr} (h : AtomReady s t sp r ls) :
    AtomReady s (headed t) sp r ls :=
  ⟨h.lanes, h.ok, h.gate, h.room, h.probed, h.free, h.cores, h.out, h.lines⟩

theorem effect_headed {q : AtomReq} {hd : Head} {s : State} {t : Team} {len : Nat}
    (h : AtomReady s t q.m.sp (atomicOf q len t.arch) (reqLanes q hd t)) : q.effect hd s (headed t) = atomEnd q (reqLanes q hd t) s (headed t) := by
  rw [← reqLanes_headed] at h ⊢
  exact effect_ready (len := len) (t := headed t) (atomReady_headed h)

theorem gated_headed (s : State) (t : Team) :
    (gated s (headed t).freshId.2).2 = { t with nextId := t.nextId + 1, needHead := true, arch := { t.arch with scFence := none } } := rfl

/-- The team whose region an atomic has closed. -/
theorem atomRegion_eq (q : AtomReq) (ls : List LaneAddr) (tick : Nat) (t : Team) :
    atomRegion q ls tick t = { t with regions := (atomRegion q ls tick t).regions, nextRegion := t.nextRegion + 1, needHead := true } := by
  simp only [atomRegion, Team.closeRegion, Team.note, Team.updOpen, Team.openAt]

theorem atomTeam_eq (q : AtomReq) (ls : List LaneAddr) (s : State) (t : Team) : atomTeam q ls s t =
    { t with regions := (atomTeam q ls s t).regions, nextRegion := t.nextRegion + 1, needHead := true, pend := t.pend ++ [atomResult ls t] } := by
  simp only [atomTeam, Team.gather, Team.updRegion, atomRegion, Team.closeRegion, Team.note, Team.updOpen, Team.openAt]

/-- What performing an atomic's lanes leaves. -/
theorem atomPerformed_adds (q : AtomReq) (ls : List LaneAddr) {s : State} {t : Team} (hin : (s.team? t.uid).isSome)
    (hkind : (t.kind == TeamKind.lantern) = false) :
    Added s t q ls (atomStart q ls s t) (atomPerformed q ls s t).2 ∧ (atomPerformed q ls s t).1.atoms = s.atoms ∧
    ∃ ws, (atomPerformed q ls s t).1.team? t.uid = some { atomTeam q ls s t with watch := ws } := by
  have hteam := atomTeam_eq q ls s t
  unfold atomPerformed
  generalize atomTeam q ls s t = u at hteam ⊢
  have huid : u.uid = t.uid := by rw [hteam]
  obtain ⟨⟨hatoms, -, hkeeps⟩, hadds⟩ := perform_adds q t.nextRegion t.arch.pc (s.fresh.2.asidOf t) ls (s.fresh.2.setTeam u) u (atomStart q ls s t)
  refine ⟨?_, hatoms, ?_⟩
  · obtain ⟨hframe, holds, hwords, hwork⟩ := hadds
    have harch : u.arch = t.arch := by rw [hteam]
    exact ⟨hframe, holds, hwords, by rw [hwork, harch]; rfl⟩
  · rw [huid] at hkeeps
    refine hkeeps u ?_ (by rw [hteam]; exact hkind)
    rw [← huid]
    exact Laws.team?_setTeam (by rw [huid]; exact hin)

theorem atomPerformed_scratch {q : AtomReq} (hsp : q.m.sp ≠ .glob) {s : State} {t : Team} (hsize : (s.scratchOf t q.m.sp).size ≠ 0) (y : LaneAddr) :
    let old := bytesNat ((s.scratchOf t q.m.sp).mem.bytes y.2 q.n)
    (atomPerformed q [y] s t).2.olds = [(y.1, BitVec.ofNat 64 old)] ∧
    (atomPerformed q [y] s t).1.scratchOf t q.m.sp = match q.new (q.opds t.arch y.1).1 (q.opds t.arch y.1).2 old with
      | some v => (s.scratchOf t q.m.sp).write y.2 (natBytes q.n v)
      | none => s.scratchOf t q.m.sp := by
  have hteam := atomTeam_eq q [y] s t
  unfold atomPerformed
  generalize atomTeam q [y] s t = u at hteam ⊢
  have hplace : u.block = t.block ∧ u.loc = t.loc ∧ u.arch = t.arch := by
    rw [hteam]
    exact ⟨rfl, rfl, rfl⟩
  obtain ⟨hblock, hloc, harch⟩ := hplace
  have hsame : (s.fresh.2.setTeam u).scratchOf u q.m.sp = s.scratchOf t q.m.sp := scratchOf_congr rfl rfl hblock hloc _
  have hlane := perform_scratch hsp t.nextRegion t.arch.pc (s.fresh.2.asidOf t) y.1 y.2 (s := s.fresh.2.setTeam u) (t := u) (by rwa [hsame])
    (atomStart q [y] s t)
  rw [hsame, harch] at hlane
  intro old
  exact ⟨hlane.1, (scratchOf_congr rfl rfl hblock.symm hloc.symm _).trans hlane.2⟩

/-- A trailing copy's end. -/
theorem atomEnd_trailing {t : Team} (hrole : t.role = .trailing) (q : AtomReq) (ls : List LaneAddr) (s : State) :
    ∃ s1 t1, atomEnd q ls s (headed t) = .done s1 t1 none ∧ s1.teams = s.teams ∧ s1.atoms = s.atoms ∧ t1.uid = t.uid ∧
      t1.stepMode = t.stepMode ∧ t1.arch.pc = t.arch.pc ∧ t1.needHead = true ∧ t1.accs = t.accs ++ [trailingAccess q ls t] := by
  obtain ⟨cs, sl, rm, hstate⟩ := atomState_eq ls s (headed t).freshId.2
  have hregion := atomRegion_eq q ls (atomState ls s (headed t).freshId.2).tick (gated s (headed t).freshId.2).2
  rw [gated_headed] at hregion
  refine ⟨atomState ls s (headed t).freshId.2, _, if_pos hrole, by rw [hstate], by rw [hstate], ?_⟩
  rw [gated_headed, hregion]
  exact ⟨rfl, rfl, rfl, rfl, rfl⟩

/-- What a team that is no trailing copy leaves of an atomic: state s1, team t1 and the pending atomic x. -/
structure SingleEnd (q : AtomReq) (ls : List LaneAddr) (s : State) (t : Team) (s1 : State) (t1 : Team) (x : PendAtom) : Prop where
  team    : s1.team? t.uid = some t1
  step    : t1.stepMode = t.stepMode
  place   : t1.block = t.block ∧ t1.loc = t.loc
  pc      : t1.arch.pc = t.arch.pc
  head    : t1.needHead = true
  regions : t1.regions.length = t.regions.length + 1
  pend    : t1.pend = t.pend ++ [{ id := t.nextId, pc := t.arch.pc, region := t.nextRegion, dest := .none, x2 := false,
                                   lanes := maskOfList (ls.map (·.1)), vals := [] }]
  atoms   : s1.atoms = s.atoms ++ [x]
  frame   : ∃ id word words fresh olds work remote sigOk, x =
    { id := id, team := t.uid, region := t.nextRegion, seq := t.nextId, word := word, pc := t.arch.pc, t := s.tick, own := t.loc.zone,
      target := s.targetZones t q.m.sp q.scope ls, words := words, olds := olds, dest := q.dest, wide := q.n == 8, acq := q.acq,
      scope := q.scope, op := q.op, fresh := fresh, work := work, remote := remote, sigOk := sigOk }
  olds    : x.olds.map (·.1) = (ls.filter (fun y => !s.laterLane q y.2)).map (·.1)
  words   : x.words.map (fun w => (w.1.addr, w.2.1)) = (ls.filter (fun y => !s.laterLane q y.2)).map (fun y => (y.2, q.n))
  work    : x.work = (ls.filter (fun y => s.laterLane q y.2)).map (fun y => (y.1, y.2, q.opds t.arch y.1))
  scratch : q.m.sp ≠ .glob → (s.scratchOf t q.m.sp).size ≠ 0 → ∀ y, ls = [y] →
    let old := bytesNat ((s.scratchOf t q.m.sp).mem.bytes y.2 q.n)
    x.olds = [(y.1, BitVec.ofNat 64 old)] ∧
    s1.scratchOf t1 q.m.sp = match q.new (q.opds t.arch y.1).1 (q.opds t.arch y.1).2 old with
      | some v => (s.scratchOf t q.m.sp).write y.2 (natBytes q.n v)
      | none => s.scratchOf t q.m.sp

theorem atomEnd_single {s : State} {t : Team} (hr : Running s t) (hrole : t.role ≠ .trailing) {q : AtomReq}
    (hopds : ∀ l, q.opds { t.arch with scFence := none } l = q.opds t.arch l) (ls : List LaneAddr) :
    ∃ s1 t1 x, atomEnd q ls s (headed t) = .done s1 t1 none ∧ SingleEnd q ls s t s1 t1 x := by
  obtain ⟨cs, sl, rm, hstate⟩ := atomState_eq ls s (headed t).freshId.2
  have hend : atomEnd q ls s (headed t) = _ := if_neg hrole
  rw [gated_headed, hstate] at hend
  generalize hu : ({ t with nextId := t.nextId + 1, needHead := true, arch := { t.arch with scFence := none } } : Team) = u at hend
  generalize hs1 : ({ s with cores := cs, slices := sl, remoteIn := rm } : State) = s1 at hend
  have huid : u.uid = t.uid := by rw [← hu]
  have hin : (s1.team? u.uid).isSome := by
    rw [huid, ← hs1]
    exact Option.isSome_iff_exists.mpr ⟨t, hr.team⟩
  obtain ⟨hadds, hatoms, ws, hteam⟩ := atomPerformed_adds q ls hin (by rw [← hu]; exact hr.kind)
  have hsame : s1.scratchOf u q.m.sp = s.scratchOf t q.m.sp :=
    scratchOf_congr (by rw [← hs1]) (by rw [← hs1]) (by rw [← hu]) (by rw [← hu]) _
  have harch (l : Nat) : q.opds u.arch l = q.opds t.arch l := by rw [← hu, hopds]
  have hscratch (hsp : q.m.sp ≠ .glob) (hsize : (s.scratchOf t q.m.sp).size ≠ 0) (y : LaneAddr) (hy : ls = [y]) :
      (atomPerformed q ls s1 u).2.olds = [(y.1, BitVec.ofNat 64 (bytesNat ((s.scratchOf t q.m.sp).mem.bytes y.2 q.n)))] ∧
      (atomPerformed q ls s1 u).1.scratchOf u q.m.sp =
        match q.new (q.opds t.arch y.1).1 (q.opds t.arch y.1).2 (bytesNat ((s.scratchOf t q.m.sp).mem.bytes y.2 q.n)) with
        | some v => (s.scratchOf t q.m.sp).write y.2 (natBytes q.n v)
        | none => s.scratchOf t q.m.sp := by
    have hlane := atomPerformed_scratch (s := s1) (t := u) hsp (by rwa [hsame]) y
    rw [hsame, harch] at hlane
    rw [hy]
    exact hlane
  have hlen := length_atomTeam q ls s1 u
  have hT := atomTeam_eq q ls s1 u
  rw [huid] at hteam
  rw [show (headed t).uid = t.uid from rfl, hteam, Option.getD_some] at hend
  generalize atomTeam q ls s1 u = T at *
  generalize atomPerformed q ls s1 u = p at *
  refine ⟨_, _, p.2, hend, ?_⟩
  obtain ⟨hframe, holds, hwords, hwork⟩ := hadds
  subst hu hs1
  exact
    { team := hteam
      step := by rw [hT]
      place := by rw [hT]; exact ⟨rfl, rfl⟩
      pc := by rw [hT]
      head := by rw [hT]
      regions := hlen
      pend := by rw [hT]; rfl
      atoms := congrArg (· ++ [p.2]) hatoms
      frame := ⟨_, _, p.2.words, p.2.fresh, p.2.olds, p.2.work, p.2.remote, _, (congrArg (fun x : PendAtom => { x with
        words := p.2.words, fresh := p.2.fresh, olds := p.2.olds, work := p.2.work, remote := p.2.remote }) hframe :)⟩
      olds := holds
      words := hwords
      work := by
        rw [hwork]
        simp only [hopds]
        rfl
      scratch := fun hsp hsize y hy =>
        ⟨(hscratch hsp hsize y hy).1, (scratchOf_congr rfl rfl (by rw [hT]) (by rw [hT]) _).trans (hscratch hsp hsize y hy).2⟩ }

/-! ### The words -/

theorem atomicOf_new (q : AtomReq) (len : Nat) (a : Arch) (l old : Nat) :
    (atomicOf q len a).new l old = q.new (q.opds a l).1 (q.opds a l).2 old := by
  unfold Atomic.new AtomReq.new atomicOf
  cases q.op <;> rfl

section
variable {i : Instr} {s : State} {t : Team} {x f : Word1} {q : AtomReq} (hr : Running s t) (hp : Passes s t f) (hc : Closes s t f)
  (hx : exec i s = issueWord x s) (hf : HasForm s t x f) (he : x.effect s (headed t) = q.effect f.hd s (headed t))
include hr hp hc hx hf he

theorem atom_performs (hn : 0 < q.n) (hopds : ∀ l, q.opds { t.arch with scFence := none } l = q.opds t.arch l)
    (hready : AtomReady s t q.m.sp (atomicOf q f.len t.arch) (reqLanes q f.hd t)) :
    Performs i s t q.m.sp (atomicOf q f.len t.arch) q.once (reqLanes q f.hd t) := by
  have hend := he.trans (effect_headed hready)
  refine ⟨fun hrole => ?single, fun hrole => ?trailing⟩
  case trailing =>
    obtain ⟨s1, t1, heq, hteams, hatoms, huid, hstep, hpc, hhead, haccs⟩ := atomEnd_trailing hrole q (reqLanes q f.hd t) s
    have hin : (s1.team? t.uid).isSome := by
      rw [State.team?, hteams]
      exact Option.isSome_iff_exists.mpr ⟨t, hr.team⟩
    obtain ⟨run, hteam⟩ := finish_team? (t := t1) f none (by rwa [huid])
    rw [huid] at hteam
    refine ⟨_, _, closing_done hr hp hc hx hf (hend.trans heq) huid hstep hin, finish_issue .., hteam,
      (congrArg State.atoms (finish_frame s1 t1 f none) :).trans hatoms, ?_, hhead, haccs⟩
    exact congrArg (· + BitVec.ofNat 64 f.len) hpc
  case single =>
    obtain ⟨s1, t1, y, heq, hone⟩ := atomEnd_single hr hrole hopds (reqLanes q f.hd t)
    have huid : t1.uid = t.uid := Laws.team?_uid hone.team
    have hin : (s1.team? t.uid).isSome := Option.isSome_iff_exists.mpr ⟨t1, hone.team⟩
    obtain ⟨run, hteam⟩ := finish_team? (t := t1) f none (by rwa [huid])
    rw [huid] at hteam
    have hframe := finish_frame s1 t1 f none
    obtain ⟨_, _, _, _, _, _, _, _, hy⟩ := hone.frame
    refine ⟨_, _, y, closing_done hr hp hc hx hf (hend.trans heq) huid hone.step hin, finish_issue .., hteam,
      congrArg (· + BitVec.ofNat 64 f.len) hone.pc, hone.head, hone.regions, hone.pend, (congrArg State.atoms hframe :).trans hone.atoms,
      congrArg PendAtom.team hy, congrArg PendAtom.seq hy, congrArg PendAtom.pc hy, congrArg PendAtom.region hy, congrArg PendAtom.t hy,
      congrArg PendAtom.own hy, congrArg PendAtom.target hy, congrArg PendAtom.dest hy, congrArg PendAtom.wide hy, congrArg PendAtom.acq hy,
      congrArg PendAtom.scope hy, congrArg PendAtom.op hy, hone.olds, hone.words, hone.work, fun z hsp hz hwf => ?_⟩
    have hfits : z.2 + q.n ≤ (s.scratchOf t q.m.sp).size := hready.ok.2 hsp z (by rw [hz]; exact List.mem_singleton_self z)
    obtain ⟨holds, hscratch⟩ := hone.scratch hsp (by omega) z hz
    have hafter : (s1.finish t1 f none).scratchOf (issuedTeam t1 f none run) q.m.sp = s1.scratchOf t1 q.m.sp :=
      scratchOf_congr (congrArg State.blocks hframe :) (congrArg State.spans hframe :) rfl rfl _
    refine ⟨holds, fun b => ?_⟩
    rw [hafter, hscratch, atomicOf_new]
    dsimp only [atomicOf]
    cases q.new (q.opds t.arch z.1).1 (q.opds t.arch z.1).2 (bytesNat ((s.scratchOf t q.m.sp).mem.bytes z.2 q.n)) with
    | some v => exact write_get hwf ..
    | none => rfl

theorem atom_idles (h : reqLanes q f.hd t = []) : exec i s = .next (s.finish { t with needHead := true } f none) :=
  closing_done hr hp hc hx hf (he.trans (effect_idle (t := headed t) h)) rfl rfl (Option.isSome_iff_exists.mpr ⟨t, hr.team⟩)

theorem atom_closingTraps (honce : f.once = q.once) : ClosingTraps i s t f.hd.sw q.once q.m.sp q.n (reqLanes q f.hd t) := by
  have traps (c : Cause) (xs : List LaneAddr)
      (h : accessTrap q.m.sp (s.scratchOf t q.m.sp).size q.n q.n q.once (reqLanes q f.hd t) = some (checkFailed c q.once xs)) :
      exec i s = .next (s.takeTrap (hushed { t with needHead := true } f.hd.sw) (checkFailed c q.once xs)) :=
    closing_traps hr hp hc hx hf (he.trans (effect_traps (t := headed t) h)) (report_of_once honce.symm.trans)
  exact ⟨fun hodd => traps _ _ (accessTrap_odd hodd), fun heven hsp hout => traps _ _ (accessTrap_out heven hsp hout)⟩

end

/-- ATOM's request, with return. -/
def atomReq (w : FullM) (a : Arch) : AtomReq :=
  { m := memOf w, n := if wideTy (atomTy w) then 8 else 4, once := atomOnce w, dest := destOf a w.d,
    regs := runDests a w.d (if wideTy (atomTy w) then 2 else 1), acq := w.ord.toNat % 2 == 1, rel := 2 ≤ w.ord.toNat,
    scope := scopeIn (spaceOf w.space.toNat) w.scope.toNat, rp := w.rp, op := some (atomOp w, atomTy w),
    opds := fun a l => (BitVec.ofNat 64 ((atomSrc w).read a (atomTy w) l), 0) }

/-- CAS's request. -/
def casReq (w : FullM) (a : Arch) : AtomReq :=
  { atomReq w a with
    n := 2 ^ w.width.toNat, once := casOnce w, regs := runDests a w.d (widthRegs w.width.toNat), op := none
    opds := fun a l => (BitVec.ofNat 64 ((atomSrc w).read a (casTy w) l), BitVec.ofNat 64 ((casCmp w).read a (casTy w) l)) }

theorem reqLanes_atom (w : FullM) (t : Team) : reqLanes (atomReq w t.arch) w.hd t = accessed w (atomOnce w) t := accessed_eq ..

theorem reqLanes_cas (w : FullM) (t : Team) : reqLanes (casReq w t.arch) w.hd t = accessed w (casOnce w) t := accessed_eq ..

theorem atom_word {w : FullM} (hnr : w.nr = false) (s : State) (t : Team) : ∃ x, exec (.atom w) s = issueWord x s ∧ HasForm s t x (atomForm w) ∧
    x.effect s (headed t) = (atomReq w t.arch).effect w.hd s (headed t) := by
  refine ⟨_, rfl, ⟨rfl, rfl, rfl, rfl, rfl, rfl, rfl, rfl, ?_, rfl⟩, if_pos (by simp [hnr])⟩
  exact congrArg (fun ls : List LaneAddr => ({ entries := if w.nr then (ls.map (fun x => x.2 / 64)).eraseDups.length else 0 } : Demand))
    (accessed_eq w (atomOnce w) t)

theorem cas_word (w : FullM) (s : State) (t : Team) : ∃ x, exec (.cas w) s = issueWord x s ∧ HasForm s t x (casForm w) ∧
    x.effect s (headed t) = (casReq w t.arch).effect w.hd s (headed t) :=
  ⟨_, rfl, ⟨rfl, rfl, rfl, rfl, rfl, rfl, rfl, rfl, rfl, rfl⟩, rfl⟩

/-- Settles O21: past the checks every lane is performed in turn at its target, which leaves the team its one region more and the result
under way; a trailing copy waits instead. -/
theorem returningAtomics : Obligations.ReturningAtomics := by
  unfold Obligations.ReturningAtomics
  intro s t w hr sp value base ra rc does
  have hsettled {i : Instr} {x f : Word1} {q : AtomReq} (hx : exec i s = issueWord x s) (hf : HasForm s t x f) (hhd : f.hd = w.hd)
      (he : x.effect s (headed t) = q.effect w.hd s (headed t)) (honce : f.once = q.once) (hn : 0 < q.n) (hsp : q.m.sp = sp)
      (hlanes : reqLanes q w.hd t = accessed w q.once t) (hopds : ∀ l, q.opds { t.arch with scFence := none } l = q.opds t.arch l) :
      does i f (atomicOf q f.len t.arch) q.once := by
    intro hp hc
    rw [← hhd] at he hlanes
    dsimp only
    rw [← hlanes, ← hsp, ← hhd]
    exact ⟨atom_performs hr hp hc hx hf he hn hopds, atom_idles hr hp hc hx hf he, atom_closingTraps hr hp hc hx hf he honce⟩
  refine ⟨fun hnr => ?_, ?_⟩
  · obtain ⟨x, hx, hf, he⟩ := atom_word hnr s t
    refine hsettled hx hf rfl he rfl ?_ rfl (reqLanes_atom w t) fun _ => rfl
    change 0 < if wideTy (atomTy w) then 8 else 4
    split <;> decide
  · obtain ⟨x, hx, hf, he⟩ := cas_word w s t
    exact hsettled hx hf rfl he rfl (Nat.two_pow_pos _) rfl (reqLanes_cas w t) fun _ => rfl

end Sys2Proof.Proofs
end

section
/-! PROOF. The engine words that count an operation and hold its request (O38). -/

namespace Sys2Proof.Proofs

open Sys2Proof Sys2Proof.Machine Sys2Proof.Claims

/-- An effect that is behind checks: the first that fails traps. -/
def checkedEffect (traps : List (Option Trap)) (rest : WordEnd) : WordEnd :=
  match firstTrap traps with
  | some tr => .trap tr
  | none => rest

theorem checkedEffect_of_some {traps : List (Option Trap)} {rest : WordEnd} {tr : Trap} (h : firstTrap traps = some tr) :
    checkedEffect traps rest = .trap tr := by
  simp only [checkedEffect, h]

theorem checkedEffect_of_none {traps : List (Option Trap)} {rest : WordEnd} (h : firstTrap traps = none) : checkedEffect traps rest = rest := by
  simp only [checkedEffect, h]

/-! ### A request (R168, R170) -/

/-- A request whose records or digest name another device (R176). -/
def AsksFar (s : State) (r : EngReq) : Prop :=
  (r.src.spaceNo = 0 ∧ s.isRemote r.src.base = true) ∨ (r.dst.spaceNo = 0 ∧ s.isRemote r.dst.base = true) ∨
    ∃ a, r.digest = some a ∧ s.isRemote a = true

theorem engRemote_iff (s : State) (r : EngReq) : s.engRemote r = true ↔ AsksFar s r := by
  unfold State.engRemote AsksFar
  cases r.digest <;> simp [or_assoc]

/-- The team with its operation counted; a trailing copy's is not. -/
def countedTeam (s : State) (t : Team) (r : EngReq) : Team :=
  if t.role = .trailing then t else { t with cnts := t.cnts.modify r.cls (fun c => c ++ [s.nextUid]) }

theorem countedTeam_names (s : State) (t : Team) (r : EngReq) :
    (countedTeam s t r).uid = t.uid ∧ (countedTeam s t r).stepMode = t.stepMode := by
  unfold countedTeam
  split <;> exact ⟨rfl, rfl⟩

/-- An older operation, with the new one counted. -/
def countedOp (t : Team) (r : EngReq) (x : EngOp) : EngOp :=
  if t.role ≠ .trailing ∧ x.team = t.uid ∧ x.cls = r.cls then { x with younger := x.younger + 1 } else x

/-- The operations with the new one. -/
def requested (s : State) (t : Team) (r : EngReq) : State :=
  { s with nextUid := s.nextUid + 1, ops := s.ops.map (countedOp t r) ++ [newOp s t r] }

section
variable {s : State} {t : Team} {r : EngReq}

theorem request_full (hrole : t.role ≠ .trailing) (h : 255 ≤ (t.cnts.getD r.cls []).length) :
    s.request t r = .wait s (.wait (.counter r.cls 254)) :=
  if_pos (by simpa [Team.counterFull, hrole] using h)

theorem request_dry (hrole : t.role ≠ .trailing) (h : ¬ 255 ≤ (t.cnts.getD r.cls []).length) (hfar : AsksFar s r)
    (hdry : (s.die t.loc.chip).buckets.getD (s.tenantOf t) 0 ≤ 0) : s.request t r = .wait s (.wait .bucket) := by
  refine (if_neg ?_).trans (if_pos ?_)
  · simpa [Team.counterFull, hrole] using h
  · simpa [hrole, (engRemote_iff s r).mpr hfar] using hdry

theorem request_counts (h : t.role = .trailing ∨ (¬ 255 ≤ (t.cnts.getD r.cls []).length ∧
    ¬ (AsksFar s r ∧ (s.die t.loc.chip).buckets.getD (s.tenantOf t) 0 ≤ 0))) :
    s.request t r = .done (requested s t r) ((countedTeam s t r).hold (.engine s.nextUid) 0 .none 0 s.tick) none := by
  have hfull : ¬ ((t.role != .trailing) && t.counterFull r.cls) = true := by
    obtain h | ⟨h, -⟩ := h
    · simp [h]
    · have hroom : t.counterFull r.cls = false := decide_eq_false h
      simp [hroom]
  have hdry : ¬ ((t.role != .trailing) && s.engRemote r && (s.die t.loc.chip).buckets.getD (s.tenantOf t) 0 ≤ 0) = true := by
    obtain h | ⟨-, h⟩ := h
    · simp [h]
    · rw [← engRemote_iff] at h
      simp only [Bool.and_eq_true, decide_eq_true_eq]
      exact fun ⟨⟨_, hfar⟩, hdry⟩ => h ⟨hfar, hdry⟩
  have hcount : countedOp t r = fun x : EngOp =>
      if ((t.role != .trailing) && x.team == (countedTeam s t r).uid && x.cls == r.cls) = true then { x with younger := x.younger + 1 } else x :=
    funext fun x => if_congr (by simp [and_assoc, countedTeam_names]) rfl rfl
  have hteam : countedTeam s t r =
      if (t.role != .trailing) = true then { t with cnts := t.cnts.modify r.cls (fun c => c ++ [s.nextUid]) } else t := by
    by_cases hrole : t.role = .trailing <;> simp [countedTeam, hrole]
  rw [requested, hcount, hteam]
  exact (if_neg hfull).trans (if_neg hdry)

end

section
variable {i : Instr} {s : State} {t : Team} {x f : Word1} (hg : Goes s t f) (hx : exec i s = issueWord x s) (hf : HasForm s t x f)
include hg hx hf

/-- A word whose effect must wait. -/
theorem waits_of_form {run : RunState} (he : x.effect s t = .wait s run) : exec i s = .next (s.wordWait t run) := by
  obtain ⟨hr, hp, hfit⟩ := goes_of_form hg hf
  rw [hx, Laws.issueWord_wait hr hp hfit he rfl]

/-- A word that executes once, behind checks. -/
theorem unless_of_form (honce : f.once = true) {traps : List (Option Trap)} {rest : WordEnd} {does : Prop}
    (he : x.effect s t = checkedEffect traps rest) (hdoes : x.effect s t = rest → does) : Unless i s t f.hd.sw traps does := by
  unfold Unless
  cases htr : firstTrap traps with
  | some tr =>
    refine traps_of_form hg hx hf (he.trans (checkedEffect_of_some htr)) ?_
    rw [Word1.report, honce, Bool.or_true]
  | none => exact hdoes (he.trans (checkedEffect_of_none htr))

/-- A word that asks for an operation. -/
theorem requests_of_form {r : EngReq} (hdemand : f.demand s t = { entries := 1 }) (he : x.effect s t = s.request t r) :
    Requests i s t f r := by
  refine ⟨fun hrole hfull => ?_, fun hrole hfull hfar hdry => ?_, fun hcounts => ?_⟩
  · exact waits_of_form hg hx hf (he.trans (request_full hrole hfull))
  · exact waits_of_form hg hx hf (he.trans (request_dry hrole hfull hfar hdry))
  · obtain ⟨huid, hstep⟩ := countedTeam_names s t r
    have hdone := done_of_untiled_form hg hx hf (he.trans (request_counts hcounts)) (by rw [hdemand]) huid hstep rfl
    rw [hdemand] at hdone
    exact hdone

end

/-! ### The words -/

/-- The address that COPY's digest pair holds, if it names one (R180). -/
def copyDigest (w : FullE) (a : Arch) : Option Nat :=
  (digestReg w.ext).map (fun f => match opd f with
    | .scal n => a.spair n
    | _ => 0)

/-- COPY's checks in their order. -/
def copyTraps (w : FullE) (s : State) (t : Team) (dig : Option Nat) : List (Option Trap) :=
  let x := shapeOf t.arch w.src.toNat
  let y := shapeOf t.arch w.dst.toNat
  let traps := s.barrierTraps t (barrierOf w.ext)
  [traps.1, leadTrap t (shapeChecks x y { dest := false, copy := true, digest := dig.isSome, size := s.sizeOf t x.spaceNo }
      { dest := true, copy := true, digest := dig.isSome, size := s.sizeOf t y.spaceNo } (x.total != y.total)),
    dig.bind (fun a => trapIf (a % 64 != 0) { cause := .align, eaddr := BitVec.ofNat 64 a, once := true }), traps.2]

def copyReq (w : FullE) (t : Team) (dig : Option Nat) : EngReq :=
  { cls := w.cnt.toNat, kind := .copy, src := shapeOf t.arch w.src.toNat, dst := shapeOf t.arch w.dst.toNat, barrier := barrierOf w.ext, digest := dig }

theorem copy_word (w : FullE) (s : State) (t : Team) : ∃ x, exec (.copy w) s = issueWord x s ∧
    HasForm s t x (engForm w ((digestReg w.ext).bind scalPair) 1) ∧
    x.effect s t = checkedEffect (copyTraps w s t (copyDigest w t.arch)) (s.request t (copyReq w t (copyDigest w t.arch))) :=
  ⟨_, rfl, ⟨rfl, rfl, rfl, rfl, rfl, rfl, rfl, rfl, rfl, rfl⟩, rfl⟩

theorem copy_requests {w : FullE} {s : State} {t : Team} (hg : Goes s t (engForm w ((digestReg w.ext).bind scalPair) 1)) :
    Unless (.copy w) s t w.hd.sw (copyTraps w s t (copyDigest w t.arch))
      (Requests (.copy w) s t (engForm w ((digestReg w.ext).bind scalPair) 1) (copyReq w t (copyDigest w t.arch))) := by
  obtain ⟨x, hx, hf, he⟩ := copy_word w s t
  exact unless_of_form hg hx hf rfl he fun he => requests_of_form hg hx hf rfl he

/-- GATHER's checks, and its request. -/
def gatherTraps (w : FullE) (s : State) (t : Team) : List (Option Trap) :=
  let x := shapeOf t.arch w.src.toNat
  let y := shapeOf t.arch w.dst.toNat
  let n := scalVal t.arch w.b
  let traps := s.barrierTraps t (barrierOf w.ext)
  [objTrap (s.scratchOf t (objSpace w)).size (scalVal t.arch w.a) 4 (4 * n), traps.1,
    leadTrap t (shapeChecks x y { dest := false, copy := false, digest := false, size := s.sizeOf t x.spaceNo }
      { dest := true, copy := false, digest := false, size := s.sizeOf t y.spaceNo } (x.planes != 1 || n * x.rowb != y.total)), traps.2]

def gatherReq (w : FullE) (t : Team) : EngReq :=
  { cls := w.cnt.toNat, kind := .gather (objSpace w) (scalVal t.arch w.a) (scalVal t.arch w.b), src := shapeOf t.arch w.src.toNat,
    dst := shapeOf t.arch w.dst.toNat, barrier := barrierOf w.ext, digest := none }

def gatherForm (w : FullE) : Word1 :=
  { engForm w (firstTrap [scalCheck w.a, scalCheck w.b]) 0 with
    demand := fun _ t => { entries := if scalVal t.arch w.b = 0 then 0 else 1 } }

theorem gather_word (w : FullE) (s : State) (t : Team) : ∃ x, exec (.gather w) s = issueWord x s ∧ HasForm s t x (gatherForm w) ∧
    x.effect s t = if scalVal t.arch w.b = 0 then .done s t none else checkedEffect (gatherTraps w s t) (s.request t (gatherReq w t)) :=
  ⟨_, rfl, ⟨rfl, rfl, rfl, rfl, rfl, rfl, rfl, rfl, rfl, rfl⟩, rfl⟩

section
variable {w : FullE} {s : State} {t : Team} (hg : Goes s t (gatherForm w))
include hg

theorem gather_advances (h : scalVal t.arch w.b = 0) : Advances (.gather w) s t t (gatherForm w) := by
  obtain ⟨x, hx, hf, he⟩ := gather_word w s t
  exact done_of_untiled_form hg hx hf (he.trans (if_pos h)) rfl rfl rfl rfl

theorem gather_requests (h : scalVal t.arch w.b ≠ 0) :
    Unless (.gather w) s t w.hd.sw (gatherTraps w s t) (Requests (.gather w) s t (gatherForm w) (gatherReq w t)) := by
  obtain ⟨x, hx, hf, he⟩ := gather_word w s t
  have hdemand : (gatherForm w).demand s t = { entries := 1 } := congrArg (fun n => ({ entries := n } : Demand)) (if_neg h)
  exact unless_of_form hg hx hf rfl (he.trans (if_neg h)) fun he => requests_of_form hg hx hf hdemand he

end

/-- PLFILL's checks, and its request. -/
def plfillTraps (w : FullE) (s : State) (t : Team) : List (Option Trap) :=
  let x := shapeOf t.arch w.src.toNat
  let off := scalVal t.arch w.a
  let g := gourOf (s.seenObject t (objSpace w) off 64)
  let size := (s.scratchOf t (objSpace w)).size
  [objTrap size off 64 64, leadTrap t (trapIf g.bad (gourTrap 1)),
    leadTrap t (shapeChecks x (flatShape (w.sub.toNat % 4) g.base (g.nslot * g.bytes) 0)
      { dest := false, copy := false, digest := false, size := s.sizeOf t x.spaceNo } { dest := true, copy := false, digest := false, size := size }
      (g.bytes < x.total))]

def plfillReq (w : FullE) (t : Team) : EngReq :=
  { cls := w.cnt.toNat, kind := .fill (objRef t (objSpace w) (scalVal t.arch w.a)), src := shapeOf t.arch w.src.toNat,
    dst := flatShape (w.sub.toNat % 4) 0 (shapeOf t.arch w.src.toNat).total 0, barrier := none, digest := none }

theorem plfill_word (w : FullE) (s : State) (t : Team) : ∃ x, exec (.plfill w) s = issueWord x s ∧ HasForm s t x (engForm w (scalCheck w.a) 1) ∧
    x.effect s t = checkedEffect (plfillTraps w s t) (s.request t (plfillReq w t)) :=
  ⟨_, rfl, ⟨rfl, rfl, rfl, rfl, rfl, rfl, rfl, rfl, rfl, rfl⟩, rfl⟩

theorem plfill_requests {w : FullE} {s : State} {t : Team} (hg : Goes s t (engForm w (scalCheck w.a) 1)) :
    Unless (.plfill w) s t w.hd.sw (plfillTraps w s t) (Requests (.plfill w) s t (engForm w (scalCheck w.a) 1) (plfillReq w t)) := by
  obtain ⟨x, hx, hf, he⟩ := plfill_word w s t
  exact unless_of_form hg hx hf rfl he fun he => requests_of_form hg hx hf rfl he

/-- TMOV's checks, and its request (R165). -/
def tmovTraps (w : FullM) (s : State) (t : Team) : List (Option Trap) :=
  let d := scalVal t.arch w.d
  let a := scalVal t.arch w.a
  let len := scalVal t.arch w.b
  let align (off : Nat) : Option Trap := trapIf (off % 4 != 0 || len % 4 != 0) { cause := .align, eaddr := BitVec.ofNat 64 off, once := true }
  let range (sp off : Nat) : Option Trap :=
    trapIf (s.sizeOf t sp < off + len) { cause := .scratchRange, eaddr := BitVec.ofNat 64 off, once := true }
  [align d, align a, range w.space.toNat d, range w.sub.toNat a]

def tmovReq (w : FullM) (t : Team) : EngReq :=
  { cls := 0, kind := .tmov (scalVal t.arch w.b), src := flatShape w.sub.toNat (scalVal t.arch w.a) (scalVal t.arch w.b) 2,
    dst := flatShape w.space.toNat (scalVal t.arch w.d) (scalVal t.arch w.b) 2, barrier := none, digest := none }

theorem tmov_word (w : FullM) (s : State) (t : Team) : ∃ x, exec (.tmov w) s = issueWord x s ∧ HasForm s t x (tmovForm w) ∧
    x.effect s t = checkedEffect (tmovTraps w s t) (if scalVal t.arch w.b = 0 then .done s t none else s.request t (tmovReq w t)) :=
  ⟨_, rfl, ⟨rfl, rfl, rfl, rfl, rfl, rfl, rfl, rfl, rfl, rfl⟩, rfl⟩

theorem tmov_requests {w : FullM} {s : State} {t : Team} (hg : Goes s t (tmovForm w)) : Unless (.tmov w) s t w.hd.sw (tmovTraps w s t)
    ((scalVal t.arch w.b = 0 → Advances (.tmov w) s t t (tmovForm w)) ∧
      (scalVal t.arch w.b ≠ 0 → Requests (.tmov w) s t (tmovForm w) (tmovReq w t))) := by
  obtain ⟨x, hx, hf, he⟩ := tmov_word w s t
  refine unless_of_form hg hx hf rfl he fun he => ⟨fun h => ?_, fun h => ?_⟩
  · exact done_of_untiled_form hg hx hf (he.trans (if_pos h)) rfl rfl rfl rfl
  · have hdemand : (tmovForm w).demand s t = { entries := 1 } := congrArg (fun n => ({ entries := n } : Demand)) (if_neg h)
    exact requests_of_form hg hx hf hdemand (he.trans (if_neg h))

/-- Settles O38: each word is one list of checks before one request, which counts the operation and holds it. -/
theorem engineRequests : Obligations.EngineRequests := by
  unfold Obligations.EngineRequests
  refine ⟨fun s t w => ⟨fun hdig hg => ?plain, fun f n hdig hn hg => ?digest, fun hg => ⟨gather_advances hg, gather_requests hg⟩, fun hg => ?_⟩,
    fun s t w hg => tmov_requests hg⟩
  case plain =>
    have hcopy := copy_requests (w := w) (s := s) (t := t)
    rw [copyDigest, hdig] at hcopy
    exact hcopy hg
  case digest =>
    have hcopy := copy_requests (w := w) (s := s) (t := t)
    rw [copyDigest, hdig] at hcopy
    simp only [Option.map_some, hn] at hcopy
    exact hcopy hg
  · exact plfill_requests hg

end Sys2Proof.Proofs
end

section
/-! PROOF. What the copy engines and the gour unit do of themselves (O45): one rule an event, and the conditions of the model read out. -/

namespace Sys2Proof.Proofs

open Sys2Proof Sys2Proof.Machine Sys2Proof.Claims

/-! ### Starting (R170) -/

section
variable {s : State} {o : EngOp} (ho : s.op? o.id = some o)
include ho

theorem engineRequestStart_event :
    (s.mayStart o = true → Happens (.engineRequestStart o.id) s (s.startOp o)) ∧
    (s.mayStart o = false → Idle (.engineRequestStart o.id) s) := by
  refine guarded_event (c := s.mayStart o = true) id (by simp) ?_
  change execEngineRequestStart o.id s = _
  simp only [execEngineRequestStart, ho]

/-! ### Reading and committing chunks (R174, R177) -/

theorem chunkRead_reads (hrun : o.state = .running) (hgo : s.opStopped o = false) {n : Nat} (hn : o.nextChunk = some n) :
    Happens (.chunkRead o.id) s (s.fetchChunk o n) := by
  change execChunkRead o.id s = _
  simp [execChunkRead, ho, hrun, hgo, hn, happened]

theorem chunkRead_nothing_left (hrun : o.state = .running) (hgo : s.opStopped o = false) (hn : o.nextChunk = none) :
    Idle (.chunkRead o.id) s := by
  change execChunkRead o.id s = _
  simp [execChunkRead, ho, hrun, hgo, hn]

theorem chunkCommit_staged (hrun : o.state = .running) (hgo : s.opStopped o = false) {c : Chunk}
    (hc : o.staged.find? (fun x => x.num == c.num) = some c) :
    (s.mayCommit o c = true → Happens (.chunkCommit o.id c.num) s ((s.commitChunk o c).afterChunk o.id)) ∧
    (s.mayCommit o c = false → Idle (.chunkCommit o.id c.num) s) := by
  refine guarded_event (c := s.mayCommit o c = true) id (by simp) ?_
  change execChunkCommit o.id c.num s = _
  simp [execChunkCommit, ho, hrun, hgo, hc]

theorem chunkCommit_none_staged (hrun : o.state = .running) (hgo : s.opStopped o = false) {n : Nat} (hn : ∀ c ∈ o.staged, c.num ≠ n) :
    Happens (.chunkCommit o.id n) s (s.afterChunk o.id) := by
  have hfind : o.staged.find? (fun c => c.num == n) = none := by simpa using hn
  change execChunkCommit o.id n s = _
  simp [execChunkCommit, ho, hrun, hgo, hfind, happened]

/-- An operation that does not run, or stands still, neither reads nor commits. -/
theorem chunk_idle (h : o.state ≠ .running ∨ s.opStopped o = true) (n : Nat) :
    Idle (.chunkRead o.id) s ∧ Idle (.chunkCommit o.id n) s := by
  have hc : (o.state != EngState.running || s.opStopped o) = true := by simpa using h
  constructor
  · change execChunkRead o.id s = _
    simp only [execChunkRead, ho, hc, if_true]
  · change execChunkCommit o.id n s = _
    simp only [execChunkCommit, ho, hc, if_true]

end

/-- What R170 asks of a request that starts. -/
theorem mayStart_facts {s : State} {o : EngOp} (h : s.mayStart o = true) :
    o.state = .queued ∧ s.opStopped o = false ∧ s.engNext o.die = some o.tenant ∧
      (s.ops.filter (fun x => x.die == o.die && x.state == EngState.running && !s.opStopped x)).length < 4 ∧
      (s.ops.find? (fun x => x.die == o.die && x.tenant == o.tenant && s.startable x)).map (·.id) = some o.id := by
  simp only [State.mayStart, Bool.and_eq_true, beq_iff_eq, decide_eq_true_eq] at h
  obtain ⟨⟨⟨hstart, hturn⟩, hfirst⟩, hfree⟩ := h
  simp only [State.startable, Bool.and_eq_true, beq_iff_eq, Bool.not_eq_true'] at hstart
  obtain ⟨⟨hqueued, -⟩, hgo⟩ := hstart
  exact ⟨hqueued, hgo, hturn, hfree, hfirst⟩

/-- What R160, R174 and R180 ask of a chunk that commits. -/
theorem mayCommit_facts {s : State} {o : EngOp} {c : Chunk} (h : s.mayCommit o c = true) :
    s.tagsClear o.die c.tags = true ∧ (o.digest.isSome = true → c.num = o.committed.length) ∧
      ∀ k ∈ o.chunkAt c.num, s.pendingAt (spaceOf o.dst.spaceNo) (o.placeKey (spaceOf o.dst.spaceNo)).1 (o.placeKey (spaceOf o.dst.spaceNo)).2
        (o.dst.at true k) 1 = false := by
  simp only [State.mayCommit, Bool.and_eq_true] at h
  obtain ⟨⟨⟨⟨⟨hclear, -⟩, hdigest⟩, -⟩, hpending⟩, -⟩ := h
  refine ⟨hclear, fun hsome => ?_, ?_⟩
  · cases hd : o.digest with
    | none => simp [hd] at hsome
    | some va => simpa [hd] using hdigest
  · simpa using hpending

/-! ### The gour unit (R186) -/

/-- The gour unit stands still: its block is not there, or a word of the object is pending. -/
theorem gour_still_iff (s : State) (obj : ObjRef) :
    (!s.gourLive obj || s.gourPending obj) = true ↔ s.gourLive obj = false ∨ s.gourPending obj = true := by simp

theorem gourFillAccept_event {s : State} {obj : ObjRef} {op : Nat} (hop : s.nextFill obj = some op) :
    let g := gourOf (s.gourAt obj)
    let still : Prop := s.gourLive obj = false ∨ s.gourPending obj = true
    (¬ still → g.dist g.widx < g.nslot → Happens (.gourFillAccept obj) s
      (((s.updBlock obj.block (fun b => b.dropGour obj (.fill op))).putGour obj 12 (natBytes 4 (g.widx + 1))).updOp op
        (fun o => { o with slot := some g.widx, dst := { o.dst with base := g.slotAt g.widx } }))) ∧
    (still ∨ g.nslot ≤ g.dist g.widx → Idle (.gourFillAccept obj) s) := by
  intro g still
  rw [← and_imp]
  refine hindered_event (c := (!s.gourLive obj || s.gourPending obj || decide (g.nslot ≤ g.dist g.widx)) = true) ?_ ?_ ?_
  · rintro ⟨hgo, hroom⟩
    simpa [still] using And.intro (not_or.mp hgo) hroom
  · intro h
    simpa [still] using h
  · change execGourFillAccept obj s = _
    simp only [execGourFillAccept, hop]
    rfl

theorem gourFillAccept_idle {s : State} {obj : ObjRef} (hop : s.nextFill obj = none) : Idle (.gourFillAccept obj) s := by
  change execGourFillAccept obj s = _
  simp only [execGourFillAccept, hop]

/-- A release that counts: with NREL of them the slot is free. -/
def gourCounted (s : State) (obj : ObjRef) (g : Gour) : State :=
  if g.rcnt + 1 = g.nrel then (s.putGour obj 24 (natBytes 4 0)).putGour obj 20 (natBytes 4 (g.ridx + 1))
  else s.putGour obj 24 (natBytes 4 (g.rcnt + 1))

theorem gourReleaseApply_event (s : State) (obj : ObjRef) :
    let g := gourOf (s.gourAt obj)
    let still : Prop := s.gourLive obj = false ∨ s.gourPending obj = true
    (.rel g.ridx ∈ s.gourQueue obj ∧ ¬ still → Happens (.gourReleaseApply obj) s
      (gourCounted (s.updBlock obj.block (fun b => b.dropGour obj (.rel g.ridx))) obj g)) ∧
    (.rel g.ridx ∉ s.gourQueue obj ∨ still → Idle (.gourReleaseApply obj) s) := by
  intro g still
  refine hindered_event (c := (!s.gourLive obj || s.gourPending obj || !(s.gourQueue obj).contains (.rel g.ridx)) = true) ?_ ?_ rfl
  · rintro ⟨hmem, hgo⟩
    simpa [still] using And.intro (not_or.mp hgo) hmem
  · intro h
    simpa [still, or_comm] using h

theorem plinitApply_event {s : State} {obj : ObjRef} {t : Team} {e : Entry} {rest : List Entry} {sp : Space} {off base bytes nslot nrel : Nat}
    (hteam : s.plinitTeam obj = some (t, e, rest)) (hkind : e.kind = .plinit sp off base bytes nslot nrel) :
    let g := gourOf (s.gourAt obj)
    (g.widx = g.cidx ∧ s.gourPending obj = false → Happens (.plinitApply obj) s
      ((s.setTeam { t with relq := rest }).putGour obj 0 (gourBytes base bytes nslot nrel))) ∧
    (g.widx ≠ g.cidx ∨ s.gourPending obj = true → Idle (.plinitApply obj) s) := by
  intro g
  refine hindered_event (c := (g.widx != g.cidx || s.gourPending obj) = true) (by simp) (by simp) ?_
  change execPlinitApply obj s = _
  simp only [execPlinitApply, hteam, hkind]
  rfl

/-- Settles O45: each engine event by the rule of its own above. -/
theorem engineEvents : Obligations.EngineEvents := by
  unfold Obligations.EngineEvents
  refine ⟨fun s o ho => ?_, fun s obj => ?_⟩
  · obtain ⟨hstarts, hwaits⟩ := engineRequestStart_event ho
    refine ⟨hstarts, hwaits, mayStart_facts, fun hrun hgo => ?_, chunk_idle ho, fun c => mayCommit_facts⟩
    exact ⟨fun n hn => chunkRead_reads ho hrun hgo hn, chunkRead_nothing_left ho hrun hgo,
      fun c hc => chunkCommit_staged ho hrun hgo hc, fun n hn => chunkCommit_none_staged ho hrun hgo hn⟩
  · obtain ⟨hcounts, hidle⟩ := gourReleaseApply_event s obj
    refine ⟨fun op hop => gourFillAccept_event hop, gourFillAccept_idle, fun hmem hgo => ⟨fun hlast => ?_, fun hmore => ?_⟩, hidle, ?_⟩
    · have h := hcounts ⟨hmem, hgo⟩
      rwa [gourCounted, if_pos hlast] at h
    · have h := hcounts ⟨hmem, hgo⟩
      rwa [gourCounted, if_neg hmore] at h
    · intro t e rest sp off base bytes nslot nrel hteam hkind
      obtain ⟨hinit, hwait⟩ := plinitApply_event hteam hkind
      exact ⟨fun hall hfree => hinit ⟨hall, hfree⟩, hwait⟩

end Sys2Proof.Proofs
end

section
/-! PROOF. Writes of a function's registers and of a partition's control word (O48, R4, R213, R308, R312, R331, R363, R389): what each
register's write does, and when the event is none. -/

namespace Sys2Proof.Proofs

open Sys2Proof Sys2Proof.Machine Sys2Proof.Claims

/-! ### Launch queues (R213) -/

section
variable {s : State} {f q : Nat} {val : Word}

/-- A queue that is off, and whose write leaves EN off or fails or passes the checks. -/
theorem writeQueueCtl_of_off (hen : s.regField f (0x40 * q + 8) 0 1 = 0) (hval : val.getLsbD 0 = true) :
    let s1 := s.writeMasked f (0x40 * q + 8) (if f = 0 then 0x7F8 else 0xF8) 0x4 val
    s.writeQueueCtl f q val = if s1.queueBad f q then s1.setField f (0x40 * q + 8) 2 1 1
      else ((((s1.outdateRead f q).setField f (0x40 * q + 8) 0 1 1).setReg f (0x40 * q + 8 + 4) 0).setReg f (0x40 * q + 8 + 8) 0) := by
  simp only [State.writeQueueCtl, hen, hval, Nat.zero_ne_one, if_false, Bool.not_true, Bool.false_eq_true]

theorem writeQueueCtl_of_on (hen : s.regField f (0x40 * q + 8) 0 1 = 1) (hval : val.getLsbD 0 = false) :
    s.writeQueueCtl f q val = (s.writeMasked f (0x40 * q + 8) 0x8 0x4 val).setField f (0x40 * q + 8) 0 1 0 := by
  simp only [State.writeQueueCtl, hen, hval, if_true, Bool.false_eq_true, if_false]

theorem launchQueueEnable_writes (hf : f < 9) (hq : q < 4) (hval : val.getLsbD 0 = true) (hen : s.regField f (0x40 * q + 8) 0 1 = 0) :
    Happens (.launchQueueEnable f q val) s (s.writeQueueCtl f q val) :=
  if_neg (by simpa [hf, hq, hen] using hval)

theorem launchQueueEnable_idle (h : 9 ≤ f ∨ 4 ≤ q ∨ val.getLsbD 0 = false ∨ s.regField f (0x40 * q + 8) 0 1 = 1) :
    Idle (.launchQueueEnable f q val) s :=
  if_pos (by simpa [or_assoc] using h)

theorem launchQueueDisable_writes (hf : f < 9) (hq : q < 4) (hval : val.getLsbD 0 = false) (hen : s.regField f (0x40 * q + 8) 0 1 = 1) :
    Happens (.launchQueueDisable f q val) s (s.writeQueueCtl f q val) :=
  if_neg (by simpa [hf, hq, hen] using hval)

theorem launchQueueDisable_idle (h : 9 ≤ f ∨ 4 ≤ q ∨ val.getLsbD 0 = true ∨ s.regField f (0x40 * q + 8) 0 1 = 0) :
    Idle (.launchQueueDisable f q val) s :=
  if_pos (by simpa [or_assoc] using h)

theorem launchQueueWidx_writes (hf : f < 9) (hq : q < 4) (hrec : s.recovery = false) :
    Happens (.launchQueueWidx f q val) s (s.writeWidx f q val) :=
  if_neg (by simp [hf, hq, hrec])

theorem launchQueueWidx_idle (h : 9 ≤ f ∨ 4 ≤ q ∨ s.recovery = true) : Idle (.launchQueueWidx f q val) s :=
  if_pos (by simpa [or_assoc, or_comm, or_left_comm] using h)

end

theorem queueEvents (s : State) (f q : Nat) (val : Word) :
    let off := 0x40 * q + 8
    let en := s.regField f off 0 1
    (f < 9 → q < 4 → val.getLsbD 0 = true → en = 0 →
      let s1 := s.writeMasked f off (if f = 0 then 0x7F8 else 0xF8) 0x4 val
      (s1.queueBad f q = true → Happens (.launchQueueEnable f q val) s (s1.setField f off 2 1 1)) ∧
      (s1.queueBad f q = false → Happens (.launchQueueEnable f q val) s
        ((((s1.outdateRead f q).setField f off 0 1 1).setReg f (off + 4) 0).setReg f (off + 8) 0))) ∧
    (f < 9 → q < 4 → val.getLsbD 0 = false → en = 1 →
      Happens (.launchQueueDisable f q val) s ((s.writeMasked f off 0x8 0x4 val).setField f off 0 1 0)) ∧
    (f < 9 → q < 4 → s.recovery = false →
      ((val - s.reg f (off + 8)).toNat ≤ 2 ^ s.regField f off 4 4 → Happens (.launchQueueWidx f q val) s (s.setReg f (off + 4) val)) ∧
      (2 ^ s.regField f off 4 4 < (val - s.reg f (off + 8)).toNat →
        Happens (.launchQueueWidx f q val) s ((s.setField f off 2 1 1).setField f off 0 1 0))) := by
  refine ⟨fun hf hq hval hen => ?_, fun hf hq hval hen => ?_, fun hf hq hrec => ?_⟩
  · have h := launchQueueEnable_writes hf hq hval hen
    rw [writeQueueCtl_of_off hen hval] at h
    exact ⟨fun hbad => by rwa [if_pos hbad] at h, fun hgood => by rwa [if_neg (ne_true_of_eq_false hgood)] at h⟩
  · exact writeQueueCtl_of_on hen hval ▸ launchQueueDisable_writes hf hq hval hen
  · have h := launchQueueWidx_writes (val := val) hf hq hrec
    exact ⟨fun hfits => (congrArg _ (if_neg (Nat.not_lt.mpr hfits))).mp h, fun hpast => (congrArg _ (if_pos hpast)).mp h⟩

/-! ### Attestation, the trace ring, and the end of a debug session (R331, R363, R389) -/

section
variable {s : State} {f : Nat} {val : Word}

theorem attestationRequest_event (hf : f < 9) (hval : val.getLsbD 0 = true) :
    let s1 := s.writeMasked f 0x7008 0 0x4 val
    let at_ := s1.reg64 f 0x7000 / 4096 * 4096
    (s1.hostTakes at_ 8192 = true → Happens (.attestationRequest f val) s
      (({ s1 with hostMem := s1.hostMem.put at_ (s1.report f (s1.hostMem.bytes at_ 64)) } : State).setField f 0x7008 1 1 1)) ∧
    (s1.hostTakes at_ 8192 = false → Happens (.attestationRequest f val) s (s1.setField f 0x7008 2 1 1)) := by
  intro s1 at_
  have h : Happens (.attestationRequest f val) s (s.writeAttest f val) := if_neg (by simpa [hf] using hval)
  have hwrite : s.writeAttest f val = if !s1.hostTakes at_ 8192 then s1.setField f 0x7008 2 1 1
      else ({ s1 with hostMem := s1.hostMem.put at_ (s1.report f (s1.hostMem.bytes at_ 64)) } : State).setField f 0x7008 1 1 1 := by
    simp only [State.writeAttest, hval, Bool.not_true, Bool.false_eq_true, if_false]
    rfl
  rw [hwrite] at h
  exact ⟨fun htakes => by rwa [htakes] at h, fun hrefuses => by rwa [hrefuses] at h⟩

theorem attestationRequest_idle (h : 9 ≤ f ∨ val.getLsbD 0 = false) : Idle (.attestationRequest f val) s :=
  if_pos (by simpa using h)

theorem traceEnable_event (hf : f < 9) (hrec : s.recovery = false) (hval : val.getLsbD 0 = true) :
    let size := val.toNat / 2 % 32
    (7 ≤ size → size ≤ 24 → Happens (.traceEnable f val) s (s.writeMasked f 0xA008 0x3F 0 val)) ∧
    (size < 7 ∨ 24 < size → Happens (.traceEnable f val) s s) := by
  intro size
  have h : Happens (.traceEnable f val) s (s.writeTrace f val) := if_neg (by simpa [hf, hrec] using hval)
  have hwrite : s.writeTrace f val = if size < 7 ∨ 24 < size then s else s.writeMasked f 0xA008 0x3F 0 val := by
    simp only [State.writeTrace, hval, Bool.true_and, Bool.or_eq_true, decide_eq_true_eq]
    rfl
  rw [hwrite] at h
  exact ⟨fun hlo hhi => by rwa [if_neg (by omega)] at h, fun hout => by rwa [if_pos hout] at h⟩

theorem traceEnable_idle (h : 9 ≤ f ∨ s.recovery = true ∨ val.getLsbD 0 = false) : Idle (.traceEnable f val) s :=
  if_pos (by simpa [or_assoc, or_left_comm] using h)

theorem debugDisable_resumes (hf : f < 9) (hrec : s.recovery = false) (hval : val.getLsbD 0 = false) (hen : s.regField f 0xC000 0 1 = 1) :
    let s1 := s.writeMasked f 0xC000 0x3 0 val
    Happens (.debugDisable f val) s (s1.unfreeze ((s1.stopped.filter (fun x => x.2 == f)).map (·.1))) := by
  intro s1
  have h : Happens (.debugDisable f val) s (s.writeDbgCtl f val) := if_neg (by simpa [hf, hrec, hen] using hval)
  have hwrite : s.writeDbgCtl f val = s1.unfreeze ((s1.stopped.filter (fun x => x.2 == f)).map (·.1)) := by
    simp only [State.writeDbgCtl, hval, hen, decide_true, Bool.not_false, Bool.and_self, if_true]
    rfl
  rwa [hwrite] at h

theorem debugDisable_idle (h : 9 ≤ f ∨ s.recovery = true ∨ val.getLsbD 0 = true ∨ s.regField f 0xC000 0 1 = 0) :
    Idle (.debugDisable f val) s :=
  if_pos (by simpa [or_assoc, or_left_comm] using h)

/-! ### Any register (R4) -/

theorem registerWrite_event {off : Nat} (halign : off % 4 = 0) (hoff : off < 0x10000) :
    (f < 9 → Happens (.registerWrite f off val) s (s.writeReg f off val)) ∧
    (f = 9 → Happens (.registerWrite f off val) s (s.writeMc off val)) := by
  have hgo (hf : f < 10) : exec (.registerWrite f off val) s = if f = 9 then happened (s.writeMc off val) else happened (s.writeReg f off val) :=
    if_neg (by simp [halign]; omega)
  exact ⟨fun hf => (hgo (by omega)).trans (if_neg (by omega)), fun hf => (hgo (by omega)).trans (if_pos hf)⟩

theorem registerWrite_idle {off : Nat} (h : 10 ≤ f ∨ off % 4 ≠ 0 ∨ 0x10000 ≤ off) : Idle (.registerWrite f off val) s :=
  if_pos (by simpa [or_assoc] using h)

end

theorem registerEvents : RegisterEvents := by
  refine ⟨fun s f q val => ?_, fun s f val => ⟨attestationRequest_event, attestationRequest_idle, traceEnable_event, traceEnable_idle,
    debugDisable_resumes, debugDisable_idle, fun off => registerWrite_event, fun off => registerWrite_idle⟩⟩
  obtain ⟨henable, hdisable, hwidx⟩ := queueEvents s f q val
  exact ⟨henable, hdisable, hwidx, launchQueueEnable_idle, launchQueueDisable_idle, launchQueueWidx_idle⟩

/-! ### A partition's control word (R308, R312) -/

/-- A partition's control word once W1C bits are cleared and a new SUSPEND has stopped its blocks. -/
def partCtlHeld (s : State) (p : Nat) (val : Word) : State :=
  let s1 := s.writeMasked 0 (partOff p + 0x1C) 0x2 0x8 val
  if val.getLsbD 1 && !s.partSuspend p then s1.stopPart p 2 else s1

section
variable {s : State} {p : Nat} {val : Word}

theorem partCtlHeld_eq (s : State) (p : Nat) (val : Word) :
    partCtlHeld s p val = if val.getLsbD 1 = true ∧ s.partSuspend p = false then (s.writeMasked 0 (partOff p + 0x1C) 0x2 0x8 val).stopPart p 2
      else s.writeMasked 0 (partOff p + 0x1C) 0x2 0x8 val := by
  simp only [partCtlHeld, Bool.and_eq_true, Bool.not_eq_true']

theorem partCtlHeld_of_suspend (hsus : s.partSuspend p = false) (hval : val.getLsbD 1 = true) :
    partCtlHeld s p val = (s.writeMasked 0 (partOff p + 0x1C) 0x2 0x8 val).stopPart p 2 := by
  rw [partCtlHeld_eq, if_pos ⟨hval, hsus⟩]

theorem partCtlHeld_of_suspended (hsus : s.partSuspend p = true) :
    partCtlHeld s p val = s.writeMasked 0 (partOff p + 0x1C) 0x2 0x8 val := by
  rw [partCtlHeld_eq, if_neg (by simp [hsus])]

theorem writePartCtl_of_on (hen : s.partEn p = true) :
    s.writePartCtl p val = if val.getLsbD 0 || (partCtlHeld s p val).closing.contains p then partCtlHeld s p val
      else (partCtlHeld s p val).disablePart p := if_pos hen

theorem writePartCtl_of_off (hen : s.partEn p = false) (hval : val.getLsbD 0 = false) : s.writePartCtl p val = partCtlHeld s p val :=
  (if_neg (ne_true_of_eq_false hen)).trans (if_pos (by rw [hval]; rfl))

/-- EN keeps its value: nothing more happens than that. -/
theorem writePartCtl_of_same (h : s.partEn p = true ↔ val.getLsbD 0 = true) : s.writePartCtl p val = partCtlHeld s p val := by
  cases hen : s.partEn p with
  | true => rw [writePartCtl_of_on hen, h.mp hen, Bool.true_or, if_pos rfl]
  | false => exact writePartCtl_of_off hen (Bool.eq_false_iff.mpr (mt h.mpr (ne_true_of_eq_false hen)))

section
variable (hen : s.partEn p = false) (hval : val.getLsbD 0 = true) (hrec : (partCtlHeld s p val).recovery = false)
include hen hval hrec

theorem writePartCtl_of_bad {c : Nat} (hbad : (partCtlHeld s p val).partBad p = some c) :
    s.writePartCtl p val = ((partCtlHeld s p val).setField 0 (partOff p + 0x1C) 3 1 1).setField 0 (partOff p + 0x1C) 4 4 c := by
  rw [partCtlHeld] at hrec hbad ⊢
  simp only [State.writePartCtl, hen, hval, hrec, hbad, Bool.false_eq_true, if_false, Bool.not_true]

theorem writePartCtl_of_good (hgood : (partCtlHeld s p val).partBad p = none) :
    s.writePartCtl p val = ((partCtlHeld s p val).setField 0 (partOff p + 0x1C) 0 1 1).attachAll := by
  rw [partCtlHeld] at hrec hgood ⊢
  simp only [State.writePartCtl, hen, hval, hrec, hgood, Bool.false_eq_true, if_false, Bool.not_true]

end

/-! The four events are writes of that word, each where a bit of it changes. -/

section
variable (hp : p < 8) (hrec : s.recovery = false)
include hp hrec

theorem partitionEnable_writes (hen : s.partEn p = false) (hval : val.getLsbD 0 = true) :
    Happens (.partitionEnable p val) s (s.writePartCtl p val) := if_neg (by simpa [hp, hrec, hen] using hval)

theorem partitionDisable_writes (hen : s.partEn p = true) (hval : val.getLsbD 0 = false) :
    Happens (.partitionDisable p val) s (s.writePartCtl p val) := if_neg (by simpa [hp, hrec, hen] using hval)

theorem suspend_writes (hsus : s.partSuspend p = false) (hval : val.getLsbD 1 = true) :
    Happens (.suspend p val) s (s.writePartCtl p val) := if_neg (by simpa [hp, hrec, hsus] using hval)

theorem suspendClear_writes (hsus : s.partSuspend p = true) (hval : val.getLsbD 1 = false) :
    Happens (.suspendClear p val) s (s.writePartCtl p val) := if_neg (by simpa [hp, hrec, hsus] using hval)

end

theorem partitionEnable_idle (h : s.partEn p = true ∨ val.getLsbD 0 = false) : Idle (.partitionEnable p val) s :=
  if_pos (by simpa [or_assoc] using .inr (.inr h))

theorem partitionDisable_idle (h : s.partEn p = false ∨ val.getLsbD 0 = true) : Idle (.partitionDisable p val) s :=
  if_pos (by simpa [or_assoc] using .inr (.inr h))

theorem suspend_idle (h : s.partSuspend p = true ∨ val.getLsbD 1 = false) : Idle (.suspend p val) s :=
  if_pos (by simpa [or_assoc] using .inr (.inr h))

theorem suspendClear_idle (h : s.partSuspend p = false ∨ val.getLsbD 1 = true) : Idle (.suspendClear p val) s :=
  if_pos (by simpa [or_assoc] using .inr (.inr h))

end

theorem partitionEvents : PartitionEvents := by
  intro s p val hp hrec off s1 s2
  have hheld : partCtlHeld s p val = s2 := partCtlHeld_eq s p val
  refine ⟨fun hen hval => ?_, fun hen hval => ?_, fun hsus hval hsame => ?_, fun hsus hval hsame => ?_, suspend_writes hp hrec,
    suspendClear_writes hp hrec, partitionEnable_idle, partitionDisable_idle, suspend_idle, suspendClear_idle⟩
  · have h := partitionEnable_writes hp hrec hen hval
    rw [← hheld]
    exact ⟨fun c hs2 hbad => writePartCtl_of_bad hen hval hs2 hbad ▸ h, fun hs2 hgood => writePartCtl_of_good hen hval hs2 hgood ▸ h⟩
  · have h := partitionDisable_writes hp hrec hen hval
    rw [writePartCtl_of_on hen, hval, Bool.false_or, hheld] at h
    exact ⟨fun hopen => by rwa [if_neg (by simpa using hopen)] at h, fun hclosing => by rwa [if_pos (by simpa using hclosing)] at h⟩
  · have h := suspend_writes hp hrec hsus hval
    rwa [writePartCtl_of_same hsame, partCtlHeld_of_suspend hsus hval] at h
  · have h := suspendClear_writes hp hrec hsus hval
    rwa [writePartCtl_of_same hsame, partCtlHeld_of_suspended hsus] at h

end Sys2Proof.Proofs
end

section
/-! PROOF. The commands of a debug page (O48, R389–R393, R398, R399): the rows of Table 21.1 as writes of CMD, the checks of such a write, and
what each command does to the team it names. -/

namespace Sys2Proof.Proofs

open Sys2Proof Sys2Proof.Machine Sys2Proof.Claims

/-- The row of a command's OP. -/
def dbgInstr (f : Nat) (cmd : Word) (n : Nat) : Instr :=
  match n with
  | 1 => .stoppart f cmd
  | 2 => .stopclus f cmd
  | 3 => .resume f cmd
  | 4 => .step f cmd
  | 5 => .steptrap f cmd
  | 6 => .inspect f cmd
  | 7 => .save f cmd
  | _ => .load f cmd

theorem exec_dbgInstr (s : State) (f : Nat) (cmd : Word) {n : Nat} (hlo : 1 ≤ n) (hhi : n ≤ 8) :
    exec (dbgInstr f cmd n) s = dbgRow n f cmd s := by
  interval_cases n <;> rfl

/-- The state in which a command is carried out: CMD written, BUSY set. -/
def dbgTaken (s : State) (f : Nat) (cmd : Word) : State := (s.setReg f 0xC004 (cmd &&& 0x000F1FFF)).setField f 0xC004 31 1 1

section
variable {s : State} {f : Nat} {cmd : Word}

theorem dbgInstr_idle {n : Nat} (hlo : 1 ≤ n) (hhi : n ≤ 8) (hop : (dbgCmd cmd).op ≠ n) : Idle (dbgInstr f cmd n) s :=
  (exec_dbgInstr s f cmd hlo hhi).trans (if_pos (by simp [hop]))

theorem dbgInstr_writes (hf : f < 9) (hrec : s.recovery = false) (hlo : 1 ≤ (dbgCmd cmd).op) (hhi : (dbgCmd cmd).op ≤ 8) :
    Happens (dbgInstr f cmd (dbgCmd cmd).op) s (s.writeCmd f cmd) :=
  (exec_dbgInstr s f cmd hlo hhi).trans (if_neg (by simp [hf, hrec]))

/-! ### While BUSY -/

theorem writeCmd_of_busy (hbusy : s.regField f 0xC004 31 1 = 1) :
    s.writeCmd f cmd = if (dbgCmd cmd).op = 7 ∧ dbgCmd (s.reg f 0xC004) = dbgCmd cmd then s.trySave f (dbgCmd cmd) else s := by
  simp only [State.writeCmd, hbusy, if_true, Bool.and_eq_true, decide_eq_true_eq, beq_iff_eq]

/-! ### The checks of a command -/

section
variable (hfree : s.regField f 0xC004 31 1 ≠ 1) (hlo : 1 ≤ (dbgCmd cmd).op) (hhi : (dbgCmd cmd).op ≤ 8)
include hfree hlo hhi

theorem writeCmd_of_free :
    s.writeCmd f cmd = if !(dbgTaken s f cmd).dbgReach f (dbgCmd cmd).cluster then (dbgTaken s f cmd).dbgErr f 0x20
      else if 3 < (dbgCmd cmd).op && (dbgTaken s f cmd).regField f 0xC000 0 1 = 0 then (dbgTaken s f cmd).dbgErr f 0x21
      else (dbgTaken s f cmd).runCmd f (dbgCmd cmd) := by
  have hsome : (dbgCmd cmd).op ≠ 0 := by omega
  have hknown : ¬ 8 < (dbgCmd cmd).op := by omega
  refine (if_neg hfree).trans ((if_neg hsome).trans ?_)
  dsimp only
  rw [if_neg hknown]
  rfl

theorem writeCmd_out_of_reach (hreach : (dbgTaken s f cmd).dbgReach f (dbgCmd cmd).cluster = false) :
    s.writeCmd f cmd = (dbgTaken s f cmd).dbgErr f 0x20 := by
  rw [writeCmd_of_free hfree hlo hhi, hreach]
  rfl

theorem writeCmd_no_session (hreach : (dbgTaken s f cmd).dbgReach f (dbgCmd cmd).cluster = true) (hteam : 3 < (dbgCmd cmd).op)
    (hoff : (dbgTaken s f cmd).regField f 0xC000 0 1 = 0) : s.writeCmd f cmd = (dbgTaken s f cmd).dbgErr f 0x21 := by
  rw [writeCmd_of_free hfree hlo hhi, hreach, if_neg (by decide), if_pos (by simp [hteam, hoff])]

theorem writeCmd_runs (hreach : (dbgTaken s f cmd).dbgReach f (dbgCmd cmd).cluster = true)
    (hsession : (dbgCmd cmd).op ≤ 3 ∨ (dbgTaken s f cmd).regField f 0xC000 0 1 ≠ 0) :
    s.writeCmd f cmd = (dbgTaken s f cmd).runCmd f (dbgCmd cmd) := by
  rw [writeCmd_of_free hfree hlo hhi, hreach, if_neg (by decide), if_neg (by simpa [or_iff_not_imp_left] using hsession)]

end
end

/-! ### A command on a team -/

section
variable {s : State} {f : Nat} {c : DbgCmd}

theorem dbgFrozen_of_none {code : Nat} {g : Team → State} (h : ∀ t, s.dbgTeam c = some t → t.frozen = false) :
    s.dbgFrozen f code c g = s.dbgErr f code := by
  unfold State.dbgFrozen
  cases ht : s.dbgTeam c with
  | none => rfl
  | some t => exact if_neg (ne_true_of_eq_false (h t ht))

theorem dbgFrozen_of_frozen {code : Nat} {g : Team → State} {t : Team} (ht : s.dbgTeam c = some t) (hfrozen : t.frozen = true) :
    s.dbgFrozen f code c g = g t := by
  simp only [State.dbgFrozen, ht, hfrozen, if_true]

/-- STEP, STEPTRAP, INSPECT and SAVE want a frozen team. -/
theorem runCmd_of_none (hlo : 4 ≤ c.op) (hhi : c.op ≤ 7) (h : ∀ t, s.dbgTeam c = some t → t.frozen = false) :
    s.runCmd f c = s.dbgErr f 0x24 := by
  have hop : c.op = 4 ∨ c.op = 5 ∨ c.op = 6 ∨ c.op = 7 := by omega
  rcases hop with hop | hop | hop | hop <;> simp only [State.runCmd, hop] <;> exact dbgFrozen_of_none h

theorem runCmd_stoppart (hop : c.op = 1) :
    s.runCmd f c = s.stopTeams f (fun t => t.kind != .lantern && t.loc.cl == c.cluster && t.loc.core == c.core && t.loc.part == c.psel)
      (s.cmdStop 1 c.cluster) := by
  simp only [State.runCmd, hop]

theorem runCmd_stopclus (hop : c.op = 2) : s.runCmd f c = s.stopTeams f (fun t => t.loc.cl == c.cluster) (s.cmdStop 2 c.cluster) := by
  simp only [State.runCmd, hop]

theorem runCmd_resume (hop : c.op = 3) : s.runCmd f c = (s.unfreeze [c.cluster]).dbgDone f := by
  simp only [State.runCmd, hop]

theorem runCmd_load (hop : c.op = 8) : s.runCmd f c = s.loadTeam f c := by
  simp only [State.runCmd, hop]

section
variable {t : Team} (ht : s.dbgTeam c = some t) (hfrozen : t.frozen = true)
include ht hfrozen

theorem runCmd_step (hop : c.op = 4) : s.runCmd f c = s.setTeam { t with stepMode := .armed f false } := by
  simp only [State.runCmd, hop, State.beginStep, dbgFrozen_of_frozen ht hfrozen, Bool.false_and, Bool.false_eq_true, if_false]

theorem runCmd_steptrap (hop : c.op = 5) (hvec : t.arch.tvec ≠ 0) : s.runCmd f c = s.setTeam { t with stepMode := .armed f true } := by
  simp only [State.runCmd, hop, State.beginStep, dbgFrozen_of_frozen ht hfrozen, Bool.true_and, beq_iff_eq, hvec, if_false]

theorem runCmd_steptrap_no_vector (hop : c.op = 5) (hvec : t.arch.tvec = 0) : s.runCmd f c = s.dbgErr f 0x25 := by
  simp only [State.runCmd, hop, State.beginStep, dbgFrozen_of_frozen ht hfrozen, Bool.true_and, beq_iff_eq, hvec, if_true]

theorem runCmd_inspect (hop : c.op = 6) : s.runCmd f c = s.dbgGive f (pad64 (s.teamImage t) ++ t.pendingSection) := by
  simp only [State.runCmd, hop, dbgFrozen_of_frozen ht hfrozen]

theorem trySave_cleared (hregions : t.regions = []) : s.trySave f c = s.dbgGive f (storedForm (s.teamImage t)) := by
  simp only [State.trySave, dbgFrozen_of_frozen ht hfrozen, hregions, List.isEmpty_nil, if_true]

theorem trySave_waits (hregions : t.regions ≠ []) : s.trySave f c = s := by
  simp only [State.trySave, dbgFrozen_of_frozen ht hfrozen, List.isEmpty_iff, hregions, if_false]

end

theorem runCmd_save (hop : c.op = 7) : s.runCmd f c = s.trySave f c := by
  simp only [State.runCmd, hop]

end

theorem debugEvents : DebugEvents := by
  intro s f cmd hf hrec c row s1
  refine ⟨fun n hlo hhi hop => dbgInstr_idle hlo hhi hop, fun hlo hhi hbusy => ?_, fun hlo hhi hfree => ?_⟩
  · have h : Happens (row c.op) s (s.writeCmd f cmd) := dbgInstr_writes hf hrec hlo hhi
    rw [writeCmd_of_busy hbusy] at h
    exact ⟨fun hsave hsame => by rwa [if_pos ⟨hsave, hsame⟩] at h, fun hother => by rwa [if_neg (not_and_or.mpr hother)] at h⟩
  · have h : Happens (row c.op) s (s.writeCmd f cmd) := dbgInstr_writes hf hrec hlo hhi
    refine ⟨fun hreach => writeCmd_out_of_reach hfree hlo hhi hreach ▸ h,
      fun hreach hteam hoff => writeCmd_no_session hfree hlo hhi hreach hteam hoff ▸ h, fun hreach hsession => ?_⟩
    rw [writeCmd_runs hfree hlo hhi hreach hsession] at h
    have hrow {n : Nat} {x : State} (hop : c.op = n) (hx : s1.runCmd f c = x) : Happens (row n) s x := hop ▸ hx ▸ h
    refine ⟨fun hop => hrow hop (runCmd_stoppart hop), fun hop => hrow hop (runCmd_stopclus hop), fun hop => hrow hop (runCmd_resume hop),
      fun hlo4 hhi7 hnone => hrow rfl (runCmd_of_none hlo4 hhi7 hnone), fun t ht hfrozen => ?_, fun hop => hrow hop (runCmd_load hop)⟩
    exact ⟨fun hop => hrow hop (runCmd_step ht hfrozen hop), fun hop hvec => hrow hop (runCmd_steptrap ht hfrozen hop hvec),
      fun hop hvec => hrow hop (runCmd_steptrap_no_vector ht hfrozen hop hvec), fun hop => hrow hop (runCmd_inspect ht hfrozen hop),
      fun hop hregions => hrow hop ((runCmd_save hop).trans (trySave_cleared ht hfrozen hregions)),
      fun hop hregions => hrow hop ((runCmd_save hop).trans (trySave_waits ht hfrozen hregions))⟩

end Sys2Proof.Proofs
end

section
/-! PROOF. Missing translations, their answers, and the dropping of present ones (O48, R297–R300). -/

namespace Sys2Proof.Proofs

open Sys2Proof Sys2Proof.Machine Sys2Proof.Claims

/-! ### RESP and the time-out (R299, R300) -/

/-- A job of the dispatcher that reads a launch record: it looks at its page again by itself. -/
def readsRecord (w : DispWait) : Bool := match w.job with
  | .record _ => true
  | _ => false

section
variable {s : State} {f : Nat} {val : Word}

theorem respMapped_writes (hrec : s.recovery = false) (hkind : val.toNat / 2 ^ 14 % 4 = 0) :
    Happens (.respMapped f val) s (s.writeResp f val) := if_neg (by rw [hrec, hkind]; decide)

theorem respFail_writes (hrec : s.recovery = false) (hkind : val.toNat / 2 ^ 14 % 4 = 1) :
    Happens (.respFail f val) s (s.writeResp f val) := if_neg (by rw [hrec, hkind]; decide)

theorem respMapped_idle (hkind : val.toNat / 2 ^ 14 % 4 ≠ 0) : Idle (.respMapped f val) s :=
  if_pos (Bool.or_eq_true_iff.mpr (.inr (bne_iff_ne.mpr hkind)))

theorem respFail_idle (hkind : val.toNat / 2 ^ 14 % 4 ≠ 1) : Idle (.respFail f val) s :=
  if_pos (Bool.or_eq_true_iff.mpr (.inr (bne_iff_ne.mpr hkind)))

theorem writeResp_of_no_fault (h : s.missTag f val = none) : s.writeResp f val = s := by
  simp only [State.writeResp, h]

section
variable {m : Miss} (hm : s.missTag f val = some m)
include hm

theorem writeResp_fails (hkind : val.toNat / 2 ^ 14 % 4 = 1) : s.writeResp f val = s.failPage m 0x10 := by
  simp only [State.writeResp, hm, hkind]

theorem writeResp_still_absent (hkind : val.toNat / 2 ^ 14 % 4 = 0) (habsent : (s.translate m.asid m.page).2 = .absent) :
    s.writeResp f val = (s.translate m.asid m.page).1.failPage m 0x10 := by
  have hwalk : s.translate m.asid m.page = ((s.translate m.asid m.page).1, .absent) := Prod.ext rfl habsent
  simp only [State.writeResp, hm, hkind]
  rw [hwalk]

theorem writeResp_mapped (hkind : val.toNat / 2 ^ 14 % 4 = 0) (hpresent : (s.translate m.asid m.page).2 ≠ .absent) :
    let s1 := (s.translate m.asid m.page).1
    s.writeResp f val = { s1 with
      misses := s1.misses.filter (fun x => x != m), waitPage := s1.waitPage.filter (fun w => !(w.asid == m.asid && w.page == m.page && !readsRecord w)) } := by
  rcases hwalk : s.translate m.asid m.page with ⟨s1, x⟩
  rw [hwalk] at hpresent
  cases x
  case absent => exact absurd rfl hpresent
  all_goals
    simp only [State.writeResp, hm, hkind, hwalk]
    refine congrArg (fun l => ({ s1 with misses := s1.misses.filter (fun x => x != m), waitPage := l } : State)) (List.filter_congr fun w _ => ?_)
    unfold readsRecord
    cases w.job <;> rfl

end
end

theorem faultTimeout_event {s : State} {m : Miss} (hm : s.misses.find? (fun x => x.slice == m.slice && x.entry == m.entry) = some m) :
    (m.since + 16777216 ≤ s.tick → Happens (.faultTimeout m.slice m.entry) s (s.failPage m 0x12)) ∧
    (s.tick < m.since + 16777216 → Idle (.faultTimeout m.slice m.entry) s) := by
  refine hindered_event (c := s.tick < m.since + tFlt) Nat.not_lt.mpr id ?_
  change execFaultTimeout m.slice m.entry s = _
  simp only [execFaultTimeout, hm]

/-! ### ATS (R298) -/

/-- An answer of ATS that speaks of pages of the host half, of an address space in use. -/
def atsFits (s : State) (c : AtsAnswer) : Prop :=
  4096 ≤ c.bytes ∧ c.va % 4096 = 0 ∧ deviceHalf c.va = false ∧ s.pasidCtxs c.pasid ≠ []

/-- The faults on an answer's range. -/
def atsMisses (s : State) (c : AtsAnswer) : List Miss :=
  s.misses.filter (fun m => m.host && (s.pasidCtxs c.pasid).any (fun x => s.missOf x.asid m) && c.va ≤ m.page && m.page < c.va + c.bytes)

theorem atsCompletion_of_fits {s : State} {c : AtsAnswer} (h : atsFits s c) :
    exec (.atsCompletion c) s =
      let s1 := (s.pasidCtxs c.pasid).foldl (fun (s : State) x => s.fillRange c x) s
      if c.granted then happened { s1 with misses := s1.misses.filter (fun m => !(atsMisses s c).contains m) }
      else happened ((atsMisses s c).foldl (fun (s : State) m => s.noAccess m c.pasid) s) := by
  obtain ⟨hbytes, halign, hhalf, hctx⟩ := h
  exact if_neg (by simp [hbytes, halign, hhalf, hctx])

theorem atsCompletion_idle {s : State} {c : AtsAnswer} (h : ¬ atsFits s c) : Idle (.atsCompletion c) s := by
  refine if_pos ?_
  by_contra hcond
  refine h ?_
  simpa [atsFits, and_assoc] using hcond

theorem noAccess_of_first {s : State} {m : Miss} {pasid : Nat} (h : m.pri = false) : s.noAccess m pasid = { s with
    misses := s.misses.map (fun x => if x = m then { m with pri := true } else x), hostOut := s.hostOut ++ [.pageRequest pasid m.page m.kind] } :=
  if_neg (ne_true_of_eq_false h)

theorem noAccess_of_second {s : State} {m : Miss} {pasid : Nat} (h : m.pri = true) : s.noAccess m pasid = s.failPage m 0x11 := if_pos h

/-! ### Invalidation (R297, R298) -/

section
variable {s : State} {f : Nat} {val : Word}

theorem invalidate_writes (hf : f < 9) (hrec : s.recovery = false) (hgo : val.getLsbD 2 = true) :
    Happens (.invalidate f val) s (s.writeInvctl f val) := if_neg (by simpa [hf, hrec] using hgo)

theorem invalidate_idle (h : 9 ≤ f ∨ s.recovery = true ∨ val.getLsbD 2 = false) : Idle (.invalidate f val) s :=
  if_pos (by simpa [or_assoc, or_left_comm] using h)

theorem writeInvctl_of_busy (hgo : val.getLsbD 2 = true) (hbusy : s.regField f 0x200C 31 1 = 1) : s.writeInvctl f val = s :=
  if_pos (by rw [hgo, hbusy]; rfl)

/-- The command that a function's registers describe. -/
def invalOf (s : State) (f : Nat) (val : Word) : Inval :=
  let n := (s.reg f 0x2008).toNat
  let lo := s.reg64 f 0x2000 / 65536 * 65536
  { func := f, ats := none, asids := [(s.ctx f (s.regField f 0x200C 0 2)).asid], lo := if n = 0 then 0 else lo,
    hi := if n = 0 then 2 ^ 64 else lo + 65536 * n, flush := val.getLsbD 3, since := s.tick }

theorem writeInvctl_starts (hgo : val.getLsbD 2 = true) (hfree : s.regField f 0x200C 31 1 ≠ 1) :
    let s1 := s.writeMasked f 0x200C 0xB 0 val
    s.writeInvctl f val = (s1.setField f 0x200C 31 1 1).startInval (invalOf s1 f val) :=
  (if_neg (c := (val.getLsbD 2 && s.regField f 0x200C 31 1 == 1) = true) (by simpa [hgo] using hfree)).trans
    (if_neg (c := (!val.getLsbD 2) = true) (by rw [hgo]; decide))

end

theorem invalidationComplete_idle {s : State} {f : Nat} (h : s.invs.find? (fun x => x.func == f && s.invalDone x) = none) :
    Idle (.invalidationComplete f) s := by
  change execInvalidationComplete f s = _
  simp only [execInvalidationComplete, h]

theorem invalidationComplete_event {s : State} {f : Nat} {v : Inval} (h : s.invs.find? (fun x => x.func == f && s.invalDone x) = some v) :
    let s1 := if v.flush then s.flushRange v else s
    let s2 : State := { s1 with invs := s1.invs.erase v }
    (v.ats = none → Happens (.invalidationComplete f) s (s2.setField f 0x200C 31 1 0)) ∧
    (∀ p, v.ats = some p → Happens (.invalidationComplete f) s { s2 with hostOut := s2.hostOut ++ [HostMsg.invalidated p] }) := by
  intro s1 s2
  refine ⟨fun hats => ?_, fun p hats => ?_⟩ <;>
  · change execInvalidationComplete f s = _
    simp only [execInvalidationComplete, h, hats, happened, s1, s2]

theorem translationEvents : TranslationEvents := by
  refine ⟨fun s f val hrec => ?_, fun s m => faultTimeout_event, fun s c => ?_, fun s m pasid => ⟨noAccess_of_first, noAccess_of_second⟩,
    fun s pasid va bytes => rfl, fun s f val => ?_, fun s f => ⟨invalidationComplete_idle, fun v => invalidationComplete_event⟩⟩
  · refine ⟨fun hnone => ?_, fun m hm => ?_, respMapped_idle, respFail_idle⟩
    · have hsame {e : Instr} (h : Happens e s (s.writeResp f val)) : Happens e s s := by rwa [writeResp_of_no_fault hnone] at h
      exact ⟨fun hkind => hsame (respMapped_writes hrec hkind), fun hkind => hsame (respFail_writes hrec hkind)⟩
    · exact ⟨fun hkind habsent => writeResp_still_absent hm hkind habsent ▸ respMapped_writes hrec hkind,
        fun hkind hpresent => (respMapped_writes hrec hkind).trans (by rw [writeResp_mapped hm hkind hpresent]; rfl),
        fun hkind => writeResp_fails hm hkind ▸ respFail_writes hrec hkind⟩
  · exact ⟨fun hfits hgrant => (atsCompletion_of_fits hfits).trans (if_pos hgrant),
      fun hfits hgrant => (atsCompletion_of_fits hfits).trans (if_neg (ne_true_of_eq_false hgrant)), atsCompletion_idle⟩
  · have hwrites {s1 : State} (hf : f < 9) (hrec : s.recovery = false) (hgo : val.getLsbD 2 = true) (h : s.writeInvctl f val = s1) :
        Happens (.invalidate f val) s s1 := h ▸ invalidate_writes hf hrec hgo
    exact ⟨fun hf hrec hgo hbusy => hwrites hf hrec hgo (writeInvctl_of_busy hgo hbusy),
      fun hf hrec hgo hfree => hwrites hf hrec hgo (writeInvctl_starts hgo hfree), invalidate_idle⟩

end Sys2Proof.Proofs
end

section
/-! PROOF. What the aperture and other packages read and write (O48, R176, R302, R305). -/

namespace Sys2Proof.Proofs

open Sys2Proof Sys2Proof.Machine Sys2Proof.Claims

/-! ### The aperture (R302) -/

section
variable {s : State} {f off : Nat}

/-- A read through the aperture that cannot be made. -/
def apertureRefused (s : State) (f : Nat) : State := ({ s with hostOut := s.hostOut ++ [HostMsg.unsupported f] } : State).winErr f

theorem noWindow_eq_false_iff {n : Nat} : s.noWindow f off n = false ↔ s.recovery = false ∧ f < 9 ∧ n ≠ 0 ∧ off + n ≤ 2 ^ 28 := by
  simp only [State.noWindow, Bool.or_eq_false_iff, decide_eq_false_iff_not, Nat.not_le, Nat.not_lt, and_assoc]
  rfl

theorem noWindow_of {n : Nat} (h : s.recovery = true ∨ 9 ≤ f ∨ n = 0 ∨ 2 ^ 28 < off + n) : s.noWindow f off n = true := by
  simp only [State.noWindow, Bool.or_eq_true, decide_eq_true_eq, or_assoc]
  exact h

theorem apertureRead_idle {bytes : Nat} (h : s.recovery = true ∨ 9 ≤ f ∨ bytes = 0 ∨ 2 ^ 28 < off + bytes) :
    Idle (.apertureRead f off bytes) s := if_pos (noWindow_of h)

theorem apertureWrite_idle {data : List Byte} (h : s.recovery = true ∨ 9 ≤ f ∨ data = [] ∨ 2 ^ 28 < off + data.length) :
    Idle (.apertureWrite f off data) s := if_pos (noWindow_of (by simpa using h))

theorem apertureRead_no_window {bytes : Nat} (hgo : s.noWindow f off bytes = false) (hw : s.window f off = none) :
    Happens (.apertureRead f off bytes) s (apertureRefused s f) := by
  change execApertureRead f off bytes s = _
  simp only [execApertureRead, hgo, hw, Bool.false_eq_true, if_false, apertureRefused, happened]

section
variable {bytes asid va : Nat} (hgo : s.noWindow f off bytes = false) (hw : s.window f off = some (asid, va))
include hgo hw

theorem apertureRead_answers {s1 : State} {bs : List Byte} {tags : List (Nat × Nat)}
    (hread : s.outsideReads (.aperture f) asid (linePieces (bytes / 64 + 2) va bytes) [] [] = (s1, .ok bs tags)) :
    Happens (.apertureRead f off bytes) s { s1 with hostOut := s1.hostOut ++ [HostMsg.readDone f bs] } := by
  change execApertureRead f off bytes s = _
  simp only [execApertureRead, hgo, hw, hread, Bool.false_eq_true, if_false, happened]

theorem apertureRead_fails {s1 : State} {c : Nat}
    (hread : s.outsideReads (.aperture f) asid (linePieces (bytes / 64 + 2) va bytes) [] [] = (s1, .fail c)) :
    Happens (.apertureRead f off bytes) s (apertureRefused s1 f) := by
  change execApertureRead f off bytes s = _
  simp only [execApertureRead, hgo, hw, hread, Bool.false_eq_true, if_false, apertureRefused, happened]

theorem apertureRead_waits {s1 : State}
    (hread : s.outsideReads (.aperture f) asid (linePieces (bytes / 64 + 2) va bytes) [] [] = (s1, .wait)) :
    exec (.apertureRead f off bytes) s = .next s1 := by
  change execApertureRead f off bytes s = _
  simp only [execApertureRead, hgo, hw, hread, Bool.false_eq_true, if_false]

end

theorem apertureWrite_no_window {data : List Byte} (hgo : s.noWindow f off data.length = false) (hw : s.window f off = none) :
    Happens (.apertureWrite f off data) s (s.winErr f) := by
  change execApertureWrite f off data s = _
  simp only [execApertureWrite, hgo, hw, Bool.false_eq_true, if_false, happened]

theorem apertureWrite_stands {data : List Byte} {asid va : Nat} (hgo : s.noWindow f off data.length = false)
    (hw : s.window f off = some (asid, va)) :
    Happens (.apertureWrite f off data) s { s with posted := s.posted ++
      [{ src := .aperture f, asid := asid, va := va, want := 0, data := data, tags := Tags.empty.add hubZone s.tick s.tick }] } := by
  change execApertureWrite f off data s = _
  simp only [execApertureWrite, hgo, hw, Bool.false_eq_true, if_false, happened]

end

theorem apertureEvents (s : State) (f off : Nat) :
    (∀ bytes, s.recovery = false → f < 9 → bytes ≠ 0 → off + bytes ≤ 2 ^ 28 →
      (s.window f off = none → Happens (.apertureRead f off bytes) s (apertureRefused s f)) ∧
      (∀ asid va, s.window f off = some (asid, va) →
        let r := s.outsideReads (.aperture f) asid (linePieces (bytes / 64 + 2) va bytes) [] []
        (∀ bs tags, r.2 = .ok bs tags → Happens (.apertureRead f off bytes) s { r.1 with hostOut := r.1.hostOut ++ [HostMsg.readDone f bs] }) ∧
        (∀ c, r.2 = .fail c → Happens (.apertureRead f off bytes) s (apertureRefused r.1 f)) ∧
        (r.2 = .wait → exec (.apertureRead f off bytes) s = .next r.1))) ∧
    (∀ data, s.recovery = false → f < 9 → data ≠ [] → off + data.length ≤ 2 ^ 28 →
      (s.window f off = none → Happens (.apertureWrite f off data) s (s.winErr f)) ∧
      (∀ asid va, s.window f off = some (asid, va) → Happens (.apertureWrite f off data) s { s with posted := s.posted ++
        [{ src := .aperture f, asid := asid, va := va, want := 0, data := data, tags := Tags.empty.add hubZone s.tick s.tick }] })) := by
  refine ⟨fun bytes hrec hf hbytes hend => ?_, fun data hrec hf hdata hend => ?_⟩
  · have hgo : s.noWindow f off bytes = false := noWindow_eq_false_iff.mpr ⟨hrec, hf, hbytes, hend⟩
    exact ⟨apertureRead_no_window hgo, fun asid va hw => ⟨fun bs tags h => apertureRead_answers hgo hw (Prod.ext rfl h),
      fun c h => apertureRead_fails hgo hw (Prod.ext rfl h), fun h => apertureRead_waits hgo hw (Prod.ext rfl h)⟩⟩
  · have hgo : s.noWindow f off data.length = false := noWindow_eq_false_iff.mpr ⟨hrec, hf, by simpa using hdata, hend⟩
    exact ⟨apertureWrite_no_window hgo, fun asid va hw => apertureWrite_stands hgo hw⟩

/-! ### Other packages (R176, R305) -/

/-- The address of a request lies in the device half, and its device is listed with its link up. -/
def remoteThere (s : State) (r : RemoteReq) : Prop := s.deviceUp r.device = true ∧ deviceHalf r.va.toNat = true

/-- The request is to this package. -/
def remoteHere (s : State) (r : RemoteReq) : Prop := remoteThere s r ∧ deviceOf r.va.toNat = s.devNum

/-- The request answers one of this package to another. -/
def remoteAway (s : State) (r : RemoteReq) : Prop := remoteThere s r ∧ deviceOf r.va.toNat ≠ s.devNum

/-- An access, as against an answer. -/
def asksForAccess : RemoteKind → Bool
  | .data _ => false
  | .refused => false
  | _ => true

/-- What an access does with the form in which it stands staged. -/
def remoteStaged (s : State) (r : RemoteReq) : Option Posted → Host.Outcome State Fault Refusal
  | none => .next s
  | some p =>
    if deviceOf r.va.toNat != s.devNum then .next s
    else if (s.ctxOf r.asid).isNone then happened (s.sendLink (s.sliceDie r.va.toNat) r.asid 0 (.remoteRefused r.device 0x05))
    else happened { s with posted := s.posted ++ [p] }

section
variable {s : State} {r : RemoteReq}

theorem remoteAccess_not_there (h : ¬ remoteThere s r) : Idle (.remoteAccess r) s := by
  refine if_pos ?_
  by_contra hcond
  exact h (by simpa [remoteThere] using hcond)

theorem remoteAccess_of_there (h : remoteThere s r) : (!s.deviceUp r.device || !deviceHalf r.va.toNat) = false := by
  obtain ⟨hup, hhalf⟩ := h
  simp only [hup, hhalf, Bool.not_true, Bool.or_self]

theorem remoteAccess_access (h : remoteThere s r) (hk : asksForAccess r.kind = true) :
    exec (.remoteAccess r) s = remoteStaged s r (postedOf r s.tick) := by
  change execRemoteAccess r s = _
  simp only [execRemoteAccess, remoteAccess_of_there h, Bool.false_eq_true, if_false]
  cases hkind : r.kind with
  | data d => simp [asksForAccess, hkind] at hk
  | refused => simp [asksForAccess, hkind] at hk
  | read n => rfl
  | write d => rfl
  | atom op ty width vs => rfl
  | probe => rfl

theorem asksForAccess_of_postedOf {p : Posted} {tick : Nat} (hp : postedOf r tick = some p) : asksForAccess r.kind = true := by
  cases hkind : r.kind with
  | data d => simp [postedOf, hkind] at hp
  | refused => simp [postedOf, hkind] at hp
  | read n => rfl
  | write d => rfl
  | atom op ty width vs => rfl
  | probe => rfl

/-- An access to this package stands staged, or is refused where no context has its address space. -/
theorem remoteAccess_stands {p : Posted} (hp : postedOf r s.tick = some p) (h : remoteHere s r) :
    (s.ctxOf r.asid = none → Happens (.remoteAccess r) s (s.sendLink (s.sliceDie r.va.toNat) r.asid 0 (.remoteRefused r.device 0x05))) ∧
    ((s.ctxOf r.asid).isSome = true → Happens (.remoteAccess r) s { s with posted := s.posted ++ [p] }) := by
  obtain ⟨hthere, hdev⟩ := h
  have hexec : exec (.remoteAccess r) s =
      if (s.ctxOf r.asid).isNone then happened (s.sendLink (s.sliceDie r.va.toNat) r.asid 0 (.remoteRefused r.device 0x05))
      else happened { s with posted := s.posted ++ [p] } := by
    rw [remoteAccess_access hthere (asksForAccess_of_postedOf hp), hp]
    exact if_neg (by simp [hdev])
  exact ⟨fun hnone => hexec.trans (if_pos (by simp [hnone])), fun hsome => hexec.trans (if_neg (by simp [← Option.not_isSome, hsome]))⟩

theorem remoteAccess_access_idle (hk : asksForAccess r.kind = true) (h : ¬ remoteHere s r ∨ postedOf r s.tick = none) :
    Idle (.remoteAccess r) s := by
  by_cases hthere : remoteThere s r
  · refine (remoteAccess_access hthere hk).trans ?_
    cases hp : postedOf r s.tick with
    | none => rfl
    | some p =>
      have hdev : deviceOf r.va.toNat ≠ s.devNum := fun hdev => h.elim (fun hhere => hhere ⟨hthere, hdev⟩) (by simp [hp])
      exact if_pos (bne_iff_ne.mpr hdev)
  · exact remoteAccess_not_there hthere

/-- An event of another package that only a request under way gives a meaning. -/
theorem remoteAccess_answer {s1 : State} {asked : Bool} (hexec : remoteThere s r →
      exec (.remoteAccess r) s = if decide (deviceOf r.va.toNat = s.devNum) || !asked then .next s else happened s1) :
    (remoteAway s r → asked = true → Happens (.remoteAccess r) s s1) ∧
    (¬ remoteAway s r ∨ asked = false → Idle (.remoteAccess r) s) := by
  refine ⟨fun ⟨hthere, hdev⟩ hasked => (hexec hthere).trans (if_neg (by simp [hdev, hasked])), fun h => ?_⟩
  by_cases hthere : remoteThere s r
  · refine (hexec hthere).trans (if_pos ?_)
    simpa [remoteAway, hthere] using h
  · exact remoteAccess_not_there hthere

theorem remoteAccess_data {d : List Byte} (hk : r.kind = .data d) :
    (remoteAway s r → s.asked r d.isEmpty = true → Happens (.remoteAccess r) s
      { s.answered r d.isEmpty with remoteIn := s.remoteIn ++ [(r.asid, r.va.toNat, d)] }) ∧
    (¬ remoteAway s r ∨ s.asked r d.isEmpty = false → Idle (.remoteAccess r) s) := by
  refine remoteAccess_answer fun hthere => ?_
  change execRemoteAccess r s = _
  simp only [execRemoteAccess, remoteAccess_of_there hthere, hk, Bool.false_eq_true, if_false]

theorem remoteAccess_refused (hk : r.kind = .refused) :
    (remoteAway s r → (s.asked r false || s.asked r true) = true → Happens (.remoteAccess r) s (s.remoteFailed r)) ∧
    (¬ remoteAway s r ∨ (s.asked r false || s.asked r true) = false → Idle (.remoteAccess r) s) := by
  refine remoteAccess_answer fun hthere => ?_
  change execRemoteAccess r s = _
  simp only [execRemoteAccess, remoteAccess_of_there hthere, hk, Bool.false_eq_true, if_false]

end

theorem outsideEvents : OutsideEvents := by
  refine ⟨fun s f off => ?_, fun s r => ?_⟩
  · obtain ⟨hread, hwrite⟩ := apertureEvents s f off
    exact ⟨hread, fun bytes => apertureRead_idle, hwrite, fun data => apertureWrite_idle⟩
  · refine ⟨remoteAccess_not_there, fun n hk => ?_, fun d hk => ?_, fun op ty width vs hk => ?_, fun hk => ?_, fun d => remoteAccess_data, fun hk => ?_⟩
    · exact ⟨fun hhere hn => remoteAccess_stands (by simp [postedOf, hk, hn]) hhere,
        fun h => remoteAccess_access_idle (by simp [asksForAccess, hk]) (h.imp_right fun hn => by simp [postedOf, hk, hn])⟩
    · exact ⟨fun hhere hd => remoteAccess_stands (by simp [postedOf, hk, hd]) hhere,
        fun h => remoteAccess_access_idle (by simp [asksForAccess, hk]) (h.imp_right fun hd => by simp [postedOf, hk, hd])⟩
    · exact ⟨remoteAccess_stands (by simp [postedOf, hk]), fun h => remoteAccess_access_idle (by simp [asksForAccess, hk]) (.inl h)⟩
    · exact ⟨remoteAccess_stands (by simp [postedOf, hk]), fun h => remoteAccess_access_idle (by simp [asksForAccess, hk]) (.inl h)⟩
    · obtain ⟨hfails, hidle⟩ := remoteAccess_refused (s := s) hk
      exact ⟨fun haway hasked => hfails haway (by simpa using hasked), fun h => hidle (h.imp_right Bool.or_eq_false_iff.mpr)⟩

end Sys2Proof.Proofs
end

section
/-! PROOF. Field tests, power, samples and reset, core dumps and checkpoints (O48, R22, R323–R329, R372–R379, R400), and O48. -/

namespace Sys2Proof.Proofs

open Sys2Proof Sys2Proof.Machine Sys2Proof.Claims

/-! ### Field tests (R372, R373) -/

section
variable {s : State} {cluster unit : Nat}

theorem fieldTestStep_idle (h : ¬ (cluster < 32 ∧ s.clusterThere cluster = true) ∨ unit = 0 ∨ 8 < unit) (pass : Bool) :
    Idle (.fieldTestStep cluster unit pass) s := by
  refine if_pos ?_
  by_contra hcond
  simp only [Bool.or_eq_true, decide_eq_true_eq, Bool.not_eq_true', not_or, Nat.not_le, Nat.not_lt, Bool.not_eq_false] at hcond
  obtain ⟨⟨⟨hlt, hunit⟩, hlast⟩, hthere⟩ := hcond
  exact h.elim (fun hn => hn ⟨hlt, hthere⟩) (fun h => h.elim hunit (Nat.not_lt.mpr hlast))

theorem fieldTestQueue_idle (h : ¬ (cluster < 32 ∧ s.clusterThere cluster = true) ∨ s.regField 0 (testOff 0 cluster) 0 1 = 0 ∨
      s.blocksOn (cluster / 4) (cluster % 4) ≠ []) (pass : Bool) : Idle (.fieldTestQueue cluster unit pass) s := by
  refine if_pos ?_
  by_contra hcond
  simp only [Bool.or_eq_true, decide_eq_true_eq, Bool.not_eq_true', not_or, Nat.not_le, Bool.not_eq_false, List.isEmpty_iff] at hcond
  obtain ⟨⟨⟨hlt, hthere⟩, hqueued⟩, hfree⟩ := hcond
  exact h.elim (fun hn => hn ⟨hlt, hthere⟩) (fun h => h.elim hqueued (fun hn => hn hfree))

section
variable (hlt : cluster < 32) (hthere : s.clusterThere cluster = true)
include hlt hthere

theorem exec_fieldTestStep (hunit : unit ≠ 0) (hlast : unit ≤ 8) (pass : Bool) :
    let s1 : State := { s with log := s.log ++ [LogEnt.unitTest cluster unit pass] }
    exec (.fieldTestStep cluster unit pass) s =
      if pass then .next s1 else .next ((s1.setField 0 (testOff 0 cluster) 8 8 unit).queueTest 0 cluster) :=
  if_neg (by simp [hthere, hunit]; omega)

theorem exec_fieldTestQueue (hqueued : s.regField 0 (testOff 0 cluster) 0 1 ≠ 0) (hfree : s.blocksOn (cluster / 4) (cluster % 4) = [])
    (pass : Bool) :
    let off := testOff 0 cluster
    let s1 := ({ s with log := s.log ++ [LogEnt.unitTest cluster unit pass] } : State).setField 0 off 0 1 0
    exec (.fieldTestQueue cluster unit pass) s =
      if pass then .next ((s1.setField 0 off 1 1 0).setField 0 off 16 16 (min (s1.regField 0 off 16 16 + 1) 65535))
      else .next ((s1.setField 0 off 2 1 1).setField 0 off 8 8 unit) :=
  if_neg (by simp [hthere, hqueued, hfree]; omega)

end
end

/-! ### Power (R323–R329) -/

theorem leaseRecord_idle {s : State} {now : DWord} {rec : List Byte} (h : rec.length ≠ 32) : Idle (.leaseRecord now rec) s :=
  if_pos (bne_iff_ne.mpr h)

/-- A lease whose reserved bytes are 0, that follows every accepted one and has not expired. -/
def leaseGood (s : State) (now : DWord) (rec : List Byte) : Prop :=
  fieldAt rec 0x14 12 = 0 ∧ (∀ l, s.power.lastSeq = some l → l < fieldAt rec 0 8) ∧ now.toNat < fieldAt rec 8 8

theorem leaseGood_iff (s : State) (now : DWord) (rec : List Byte) :
    leaseGood s now rec ↔ (fieldAt rec 0x14 12 != 0 || s.power.lastSeq.any (fun l => fieldAt rec 0 8 ≤ l) ||
      decide (fieldAt rec 8 8 ≤ now.toNat)) = false := by
  cases hseq : s.power.lastSeq with
  | none => simp [leaseGood, hseq]
  | some l => simp [leaseGood, hseq, and_assoc]

theorem leaseRecord_event {s : State} {now : DWord} {rec : List Byte} (hlen : rec.length = 32) :
    (leaseGood s now rec →
      exec (.leaseRecord now rec) s = .next (s.acceptLease (fieldAt rec 0 8) (fieldAt rec 8 8) (fieldAt rec 0x10 2) (fieldAt rec 0x12 2))) ∧
    (¬ leaseGood s now rec → exec (.leaseRecord now rec) s = .next (s.ignoreLease (fieldAt rec 0 8))) := by
  have hexec : exec (.leaseRecord now rec) s =
      if fieldAt rec 0x14 12 != 0 || s.power.lastSeq.any (fun l => fieldAt rec 0 8 ≤ l) || decide (fieldAt rec 8 8 ≤ now.toNat)
      then .next (s.ignoreLease (fieldAt rec 0 8))
      else .next (s.acceptLease (fieldAt rec 0 8) (fieldAt rec 8 8) (fieldAt rec 0x10 2) (fieldAt rec 0x12 2)) := if_neg (by simp [hlen])
  rw [leaseGood_iff, hexec]
  exact ⟨fun h => if_neg (ne_true_of_eq_false h), fun h => if_pos (Bool.not_eq_false _ ▸ h)⟩

theorem leaseExpiry_event (s : State) (now : DWord) :
    (s.regField 0 0x601C 0 1 ≠ 0 → s.reg64 0 0x6010 ≤ now.toNat →
      exec (.leaseExpiry now) s = .next (((s.setField 0 0x601C 0 1 0).setField 0 0x601C 1 1 1).setTarget (s.regField 0 0x6018 0 16))) ∧
    (s.regField 0 0x601C 0 1 = 0 ∨ now.toNat < s.reg64 0 0x6010 → Idle (.leaseExpiry now) s) :=
  ⟨fun hheld hdue => if_neg (by simp [hheld, hdue]), fun h => if_pos (by simpa using h)⟩

/-! ### Samples (R400) -/

section
variable {s : State} {i : Nat} {x : Sample} (hx : s.samples[i]? = some x)
include hx

theorem sampleRecord_idle (hopen : x.doneT = none) (hkept : x.squashed = false) : Idle (.sampleRecord i) s := by
  change execSampleRecord i s = _
  simp only [execSampleRecord, hx, hopen, hkept, Option.isNone_none, Bool.not_false, Bool.and_self, if_true]

theorem exec_sampleRecord (hover : x.doneT.isSome = true ∨ x.squashed = true) :
    let s1 : State := { s with samples := s.samples.eraseIdx i, free := s.free + 9 }
    let size := s1.regField x.func 0xC02C 0 5
    let w := (s1.reg x.func 0xC030).toNat
    exec (.sampleRecord i) s =
      if 2 ^ size ≤ (s1.reg x.func 0xC030 - s1.reg x.func 0xC034).toNat then
        .next (s1.setReg x.func 0xC038 (BitVec.ofNat 32 (min ((s1.reg x.func 0xC038).toNat + 1) 0xFFFFFFFF)))
      else
        .next ((s1.hostPut (s1.reg64 x.func 0xC024 / 4096 * 4096 + 64 * (w % 2 ^ size)) (x.record s.free)).setReg x.func 0xC030
          (BitVec.ofNat 32 (w + 1))) := by
  have hgo : (x.doneT.isNone && !x.squashed) = false := by
    rcases hover with h | h
    · simp [Option.isNone_eq_false_iff.mpr h]
    · simp [h]
  change execSampleRecord i s = _
  simp only [execSampleRecord, hx, hgo, Bool.false_eq_true, if_false, Nat.add_sub_cancel]

end

theorem powerAndTestEvents : PowerAndTestEvents := by
  refine ⟨fun s cluster unit => ?_, fun s d => ?_, fun s now rec => ?_, leaseExpiry_event, fun s i x hx => ?_, fun s => rfl⟩
  · exact ⟨fun ⟨hlt, hthere⟩ hunit hlast => ⟨exec_fieldTestStep hlt hthere hunit hlast true, exec_fieldTestStep hlt hthere hunit hlast false⟩,
      fieldTestStep_idle, fun ⟨hlt, hthere⟩ hqueued hfree => ⟨exec_fieldTestQueue hlt hthere hqueued hfree false,
        exec_fieldTestQueue hlt hthere hqueued hfree true⟩, fieldTestQueue_idle⟩
  · exact ⟨fun hdue => if_neg (Nat.not_lt.mpr hdue), fun hearly => if_pos hearly⟩
  · exact ⟨fun hlen => (leaseRecord_event hlen).1, fun hlen => (leaseRecord_event hlen).2, leaseRecord_idle⟩
  · exact ⟨fun hover hroom => (exec_sampleRecord hx hover).trans (if_neg (Nat.not_le.mpr hroom)),
      fun hover hfull => (exec_sampleRecord hx hover).trans (if_pos hfull), sampleRecord_idle hx⟩

/-! ### The core dump (R374–R376) -/

section
variable {s : State} {f : Nat}

theorem dumpWrite_idle (h : s.grids.find? (fun x => x.func == f && x.dump == DumpState.writing) = none) : Idle (.dumpWrite f) s := by
  change execDumpWrite f s = _
  simp only [execDumpWrite, h]

/-- A grid's dump is over, and its function's page says so. -/
def dumpPast (s : State) (f : Nat) (g : Grid) : State :=
  ((s.updGrid g.uid (fun g => { g with dump := .ended })).setField f 0x900C 1 1 0).setField f 0x900C 2 1 1

theorem dumpWrite_event {g : Grid} (hg : s.grids.find? (fun x => x.func == f && x.dump == DumpState.writing) = some g) :
    let size := 4096 * (s.reg f 0x9008).toNat
    let at_ := s.reg64 f 0x9000 / 4096 * 4096
    (384 ≤ size ∧ s.hostTakes at_ 4096 = true →
      Happens (.dumpWrite f) s (dumpPast { s with hostMem := s.hostMem.put at_ (s.dumpBytes g at_ size) } f g)) ∧
    (size < 384 ∨ s.hostTakes at_ 4096 = false →
      Happens (.dumpWrite f) s (dumpPast (({ s with log := s.log ++ [LogEnt.dumpFault f] } : State).setField f 0x900C 3 1 1) f g)) := by
  intro size at_
  have hexec : exec (.dumpWrite f) s =
      if decide (size < 384) || !s.hostTakes at_ 4096 then
        happened (dumpPast (({ s with log := s.log ++ [LogEnt.dumpFault f] } : State).setField f 0x900C 3 1 1) f g)
      else happened (dumpPast { s with hostMem := s.hostMem.put at_ (s.dumpBytes g at_ size) } f g) := by
    change execDumpWrite f s = _
    simp only [execDumpWrite, hg]
    rfl
  exact ⟨fun ⟨hroom, htakes⟩ => hexec.trans (if_neg (by simp [hroom, htakes])), fun h => hexec.trans (if_pos (by simpa using h))⟩

end

/-! ### The checkpoint (R377–R379) -/

section
variable {s : State} {val : Word}

theorem checkpointGo_writes (hrec : s.recovery = false) (hgo : val.getLsbD 0 = true) : Happens (.checkpointGo val) s (s.writeCkpt val) :=
  if_neg (by simpa [hrec] using hgo)

theorem checkpointAbort_writes (hrec : s.recovery = false) (habort : val.getLsbD 4 = true) :
    Happens (.checkpointAbort val) s (s.writeCkpt val) := if_neg (by simpa [hrec] using habort)

theorem checkpointGo_idle (h : val.getLsbD 0 = false) : Idle (.checkpointGo val) s := if_pos (by rw [h]; simp)

theorem checkpointAbort_idle (h : val.getLsbD 4 = false) : Idle (.checkpointAbort val) s := if_pos (by rw [h]; simp)

/-- ABORT ends a request that waits. -/
def ckptEnded (s : State) (val : Word) : Prop :=
  val.getLsbD 4 = true ∧ s.regField 0 0xD038 1 1 = 1 ∧ (s.writeMasked 0 0xD038 0 0xC val).ckpt.phase = .waiting

theorem writeCkpt_of_ended (h : ckptEnded s val) : s.writeCkpt val = ((s.writeMasked 0 0xD038 0 0xC val).jobDone .stepWord).ckptErr 5 := by
  obtain ⟨habort, hbusy, hphase⟩ := h
  exact if_pos (by rw [habort, hphase]; simp [hbusy])

theorem writeCkpt_of_not_ended (h : ¬ ckptEnded s val) :
    s.writeCkpt val = if val.getLsbD 0 && !decide (s.regField 0 0xD038 1 1 = 1) then (s.writeMasked 0 0xD038 0 0xC val).ckptGo
      else s.writeMasked 0 0xD038 0 0xC val := by
  refine if_neg fun hcond => h ?_
  simp only [Bool.and_eq_true, decide_eq_true_eq, beq_iff_eq] at hcond
  obtain ⟨⟨habort, hbusy⟩, hphase⟩ := hcond
  exact ⟨habort, hbusy, hphase⟩

theorem writeCkpt_of_free (hgo : val.getLsbD 0 = true) (hfree : ¬ s.regField 0 0xD038 1 1 = 1) :
    s.writeCkpt val = (s.writeMasked 0 0xD038 0 0xC val).ckptGo :=
  (writeCkpt_of_not_ended fun ⟨_, hbusy, _⟩ => hfree hbusy).trans (if_pos (by rw [hgo]; simp [hfree]))

theorem writeCkpt_of_going_on (hbusy : s.regField 0 0xD038 1 1 = 1) (h : ¬ ckptEnded s val) :
    s.writeCkpt val = s.writeMasked 0 0xD038 0 0xC val := (writeCkpt_of_not_ended h).trans (if_neg (by simp [hbusy]))

theorem writeCkpt_of_no_go (hgo : val.getLsbD 0 = false) (h : ¬ ckptEnded s val) :
    s.writeCkpt val = s.writeMasked 0 0xD038 0 0xC val := (writeCkpt_of_not_ended h).trans (if_neg (by rw [hgo]; simp))

end

theorem ckptGo_of_valid {s : State} (h : s.ckptValid = true) : s.ckptGo = { s.setField 0 0xD038 1 1 1 with
    ckpt := { phase := .waiting, shards := s.shardList.map (·.1), sums := [], op := none, pollAt := s.tick } } := if_neg (by rw [h]; decide)

theorem ckptGo_of_invalid {s : State} (h : s.ckptValid = false) : s.ckptGo = (s.setField 0 0xD038 3 1 1).setField 0 0xD038 8 4 1 :=
  if_pos (by rw [h]; rfl)

/-! ### The step word (R377, R379) -/

section
variable {s : State}

theorem stepWordPoll_idle (hphase : s.ckpt.phase = .idle) : Idle .stepWordPoll s := by
  change execStepWordPoll s = _
  simp only [execStepWordPoll, hphase]

theorem stepWordPoll_early (hphase : s.ckpt.phase = .waiting) (h : s.tick < s.ckpt.pollAt) : Idle .stepWordPoll s := by
  change execStepWordPoll s = _
  simp only [execStepWordPoll, hphase, h, if_true]

theorem stepWordPoll_copies (hphase : s.ckpt.phase = .copying) : Happens .stepWordPoll s s.copyShards := by
  change execStepWordPoll s = _
  simp only [execStepWordPoll, hphase, happened]

theorem stepWordPoll_suspending (hphase : s.ckpt.phase = .suspending) :
    let saved : Prop := ∀ p ∈ s.ckptParts, s.regField 0 (partOff p + 0x1C) 2 1 = 1
    (saved → Happens .stepWordPoll s { s with ckpt := { s.ckpt with phase := .copying } }) ∧ (¬ saved → Idle .stepWordPoll s) := by
  intro saved
  refine guarded_event (c := (s.ckptParts.all fun p => s.regField 0 (partOff p + 0x1C) 2 1 == 1) = true) (by simp [saved]) (by simp [saved]) ?_
  change execStepWordPoll s = _
  simp only [execStepWordPoll, hphase]

/-- The state in which the step word is read: the next read is 1,050 ticks away. -/
def ckptPolled (s : State) : State := { s with ckpt := { s.ckpt with pollAt := s.tick + 1050 } }

/-- What a read of the step word comes to. -/
def stepWordRead : State × DispRead → Host.Outcome State Fault Refusal
  | (s, .fail) => happened (s.ckptErr 2)
  | (s, .wait _) => .next s
  | (s, .bytes bs) =>
    let s1 := s.jobDone .stepWord
    if bytesNat bs != (s1.reg 0 0xD008).toNat then .next s1
    else happened { s1.suspendParts with ckpt := { s1.ckpt with phase := .suspending } }

theorem exec_stepWordPoll (hphase : s.ckpt.phase = .waiting) (hdue : s.ckpt.pollAt ≤ s.tick) :
    exec .stepWordPoll s = stepWordRead (ckptPolled s).readStep := by
  change execStepWordPoll s = _
  unfold execStepWordPoll
  split
  case h_2 => exact if_neg (Nat.not_lt.mpr hdue)
  all_goals simp_all only [reduceCtorEq]

theorem stepWordRead_fail {r : State × DispRead} (h : r.2 = .fail) : stepWordRead r = happened (r.1.ckptErr 2) := by
  obtain ⟨s0, d⟩ := r
  subst h
  rfl

theorem stepWordRead_wait {r : State × DispRead} {page : Nat} (h : r.2 = .wait page) : stepWordRead r = .next r.1 := by
  obtain ⟨s0, d⟩ := r
  subst h
  rfl

theorem stepWordRead_bytes {r : State × DispRead} {bs : List Byte} (h : r.2 = .bytes bs) :
    let s1 := r.1.jobDone .stepWord
    (bytesNat bs ≠ (s1.reg 0 0xD008).toNat → stepWordRead r = .next s1) ∧
    (bytesNat bs = (s1.reg 0 0xD008).toNat → stepWordRead r = happened { s1.suspendParts with ckpt := { s1.ckpt with phase := .suspending } }) := by
  obtain ⟨s0, d⟩ := r
  subst h
  exact ⟨fun hother => if_pos (bne_iff_ne.mpr hother), fun hsame => if_neg (by simpa using hsame)⟩

end

theorem dumpAndCheckpointEvents : DumpAndCheckpointEvents := by
  refine ⟨fun s f => ⟨dumpWrite_idle, fun g hg => ?_⟩, fun s val hrec => ?_, fun s => ?_⟩
  · obtain ⟨hwritten, hlost⟩ := dumpWrite_event hg
    exact ⟨fun hroom htakes => hwritten ⟨hroom, htakes⟩, hlost⟩
  · have hgo {x : State} (h0 : val.getLsbD 0 = true) (hx : s.writeCkpt val = x) : Happens (.checkpointGo val) s x :=
      hx ▸ checkpointGo_writes hrec h0
    have habort {x : State} (h4 : val.getLsbD 4 = true) (hx : s.writeCkpt val = x) : Happens (.checkpointAbort val) s x :=
      hx ▸ checkpointAbort_writes hrec h4
    refine ⟨fun h0 hfree => ⟨fun hvalid => ?_, fun hinvalid => ?_⟩, fun h0 hbusy h => hgo h0 (writeCkpt_of_going_on hbusy h),
      fun h0 h => hgo h0 (writeCkpt_of_ended h), fun h => habort h.1 (writeCkpt_of_ended h),
      fun h4 h0 h => habort h4 (writeCkpt_of_no_go h0 h), checkpointGo_idle, checkpointAbort_idle⟩
    · exact hgo h0 ((writeCkpt_of_free h0 hfree).trans (ckptGo_of_valid hvalid))
    · exact hgo h0 ((writeCkpt_of_free h0 hfree).trans (ckptGo_of_invalid hinvalid))
  · refine ⟨stepWordPoll_idle, stepWordPoll_early, fun hphase hdue => ?_, fun hphase => (stepWordPoll_suspending hphase).1,
      fun hphase => (stepWordPoll_suspending hphase).2, stepWordPoll_copies⟩
    have hexec := exec_stepWordPoll hphase hdue
    refine ⟨fun h => hexec.trans (stepWordRead_fail h), fun page h => hexec.trans (stepWordRead_wait h), fun bs h => ?_⟩
    obtain ⟨hother, hsame⟩ := stepWordRead_bytes h
    exact ⟨fun hne => hexec.trans (hother hne), fun heq => hexec.trans (hsame heq)⟩

/-- Settles O48: the seven parts, each by the rules of its own events. -/
theorem hostEvents : Obligations.HostEvents :=
  ⟨registerEvents, partitionEvents, debugEvents, translationEvents, outsideEvents, powerAndTestEvents, dumpAndCheckpointEvents⟩

end Sys2Proof.Proofs
end

section
/-! PROOF. Words that wait, and words that hold an action: the ends that they share (O39, O40). -/

namespace Sys2Proof.Proofs

open Sys2Proof Sys2Proof.Machine Sys2Proof.Claims

/-! ### Lookups of teams -/

theorem team?_congr {s s' : State} (h : s'.teams = s.teams) (u : Nat) : s'.team? u = s.team? u := by
  rw [State.team?, h, State.team?]

/-- Changing a team moves none. -/
theorem team?_updTeam_isSome (s : State) (v : Nat) {f : Team → Team} (hf : ∀ t, (f t).uid = t.uid) (u : Nat) :
    ((s.updTeam v f).team? u).isSome = (s.team? u).isSome := by
  have huid : ((fun x : Team => x.uid == u) ∘ fun x => if x.uid = v then f x else x) = fun x => x.uid == u := by
    funext x
    dsimp only [Function.comp]
    split
    · rw [hf]
    · rfl
  rw [State.updTeam, State.team?, List.find?_map, Option.isSome_map, huid, State.team?]

theorem acquireAt_teams (s : State) (t : Team) (n : Nat) : (s.acquireAt t n).teams = s.teams :=
  (congrArg State.teams (acquireAt_frame s t n) :)

theorem team?_lvqDrop_isSome (s : State) (t : Team) (p : LvqEntry → Bool) (u : Nat) :
    ((s.lvqDrop t p).team? u).isSome = (s.team? u).isSome := by
  rw [State.lvqDrop, team?_updTeam_isSome]
  exact fun _ => rfl

/-! ### Ends of a word that a statement knows by its form -/

section
variable {i : Instr} {s : State} {t : Team} {x f : Word1} (hg : Goes s t f) (hx : exec i s = issueWord x s) (hf : HasForm s t x f)
include hg hx hf

/-- The word waits, in a state that its effect has changed. -/
theorem waits_past_form {s' : State} {run : RunState} (he : x.effect s t = .wait s' run) (hin : s'.teams = s.teams) :
    exec i s = .next (s'.wordWait t run) := by
  obtain ⟨hr, hp, hfit⟩ := goes_of_form hg hf
  rw [hx, Laws.issueWord_wait hr hp hfit he hin]

/-- The word's effect leaves nothing of its team to do, and its team has no step to report. -/
theorem acts_of_form {s' : State} (he : x.effect s t = .act s') (hoff : ∀ u, s'.team? t.uid = some u → u.stepMode = .off) :
    exec i s = .next s' := by
  obtain ⟨hr, hp, hfit⟩ := goes_of_form hg hf
  rw [hx, Laws.issueWord_fits hr hp hfit, he]
  exact congrArg _ (Laws.afterStep_off hoff)

/-- The word's effect is done, and may have changed other teams. -/
theorem done_of_resident_form {s' : State} {t' : Team} (he : x.effect s t = .done s' t' none) (hdemand : f.demand s t = {})
    (hu : t'.uid = t.uid) (hs : t'.stepMode = t.stepMode) (hin : (s'.team? t.uid).isSome) :
    exec i s = .next (s'.finish (t'.note {}) f none) := by
  obtain ⟨hr, hp, hfit⟩ := goes_of_form hg hf
  obtain ⟨run, hteam⟩ := finish_team? (t := t'.note {}) f none (by rwa [← hu] at hin)
  rw [hx, Laws.issueWord_fits hr hp hfit, he, hf.demand, hdemand]
  dsimp only
  rw [Laws.markHits_none _ _ rfl, Laws.finish_congr _ _ _ hf.len hf.hd hf.once hf.sample, Laws.afterStep_off]
  intro y hy
  rw [← hu] at hy
  obtain rfl := Option.some.inj (hteam.symm.trans hy)
  exact hs.trans hr.step

/-- A word that holds one entry. -/
theorem holds_of_form {k : EntryKind} (hdemand : f.demand s t = { entries := 1 }) (he : x.effect s t = .done s (t.hold k 0 .none 0 s.tick) none) :
    Holds i s t f k := by
  have hdone := done_of_untiled_form hg hx hf he (by rw [hdemand]) rfl rfl rfl
  rwa [hdemand] at hdone

end

/-! ### The checks of an object -/

theorem objTrap_inScratch {s : State} {t : Team} {sp : Space} {off align len : Nat} (h : inScratch s t sp off align len) :
    objTrap (s.scratchOf t sp).size off align len = none := by
  obtain ⟨halign, hrange⟩ := h
  exact firstTrap_cons (if_neg (by simpa using halign)) (firstTrap_cons (if_neg (by simpa using hrange)) rfl)

/-- A team that is no trailing copy reports its traps itself. -/
theorem leadTrap_lead {t : Team} (hlead : t.role ≠ .trailing) (tr : Option Trap) : leadTrap t tr = tr :=
  if_neg (by simpa using hlead)

end Sys2Proof.Proofs
end

section
/-! PROOF. WAITC, BWAIT and PLWAIT (O39). -/

namespace Sys2Proof.Proofs

open Sys2Proof Sys2Proof.Machine Sys2Proof.Claims

/-! ### The ends of a wait -/

/-- How a trailing copy's wait ends: g is what it takes of the entry that its leading copy left (R365). -/
def trailEnd (g : LvqEntry → Team → Team) (s : State) (t : Team) : WordEnd :=
  match s.lvqFind t (atWord 2 t.arch) with
  | none => .wait s (.wait .lvqEntry)
  | some e => .done (s.lvqDrop t (atWord 2 t.arch)) (g e t) none

/-- A wait reports the failed operation that its condition needs, and else ends as `rest` (R177). -/
def unlessFailed (needs : EngOp → Bool) (s : State) (t : Team) (rest : WordEnd) : WordEnd :=
  match s.failedFor t needs with
  | some o => s.reportFailed t o
  | none => rest

theorem unlessFailed_none {needs : EngOp → Bool} {s : State} {t : Team} {rest : WordEnd} (h : s.failedFor t needs = none) :
    unlessFailed needs s t rest = rest := by
  simp only [unlessFailed, h]

section
variable {i : Instr} {s : State} {t : Team} {x f : Word1} (hg : Goes s t f) (hx : exec i s = issueWord x s) (hf : HasForm s t x f)
include hg hx hf

/-- A trailing copy's wait, whatever it takes of its entry. -/
theorem trailWait_of_form {g : LvqEntry → Team → Team} (hdemand : f.demand s t = {}) (he : x.effect s t = trailEnd g s t)
    (hnames : ∀ e, (g e t).uid = t.uid ∧ (g e t).stepMode = t.stepMode) : TrailWait i s t f g := by
  refine ⟨fun e hfind => ?_, fun hfind => ?_⟩
  · obtain ⟨huid, hstep⟩ := hnames e
    refine done_of_resident_form hg hx hf (he.trans (by simp only [trailEnd, hfind])) hdemand huid hstep ?_
    rw [team?_lvqDrop_isSome, hg.running.team]
    rfl
  · exact waits_of_form hg hx hf (he.trans (by simp only [trailEnd, hfind]))

/-- A wait whose condition needs a failed operation traps. -/
theorem waitFails_of_form {s1 : State} {t1 : Team} {needs : EngOp → Bool} {rest : WordEnd} (he : x.effect s t = unlessFailed needs s1 t1 rest)
    (hin : s1.teams = s.teams) (hu : t1.uid = t.uid) (hs : t1.stepMode = t.stepMode) : WaitFails i s s1 t1 needs := by
  intro o hfailed
  refine acts_of_form hg hx hf (he.trans (by simp only [unlessFailed, hfailed, State.reportFailed, Team.remember])) fun u hteam => ?_
  have hresident : ((s1.tellOp o.id).team? t1.uid).isSome := by
    rw [team?_congr (s := s) (s' := s1.tellOp o.id) hin, hu, hg.running.team]
    rfl
  obtain ⟨y, hy, hystep⟩ := Laws.takeTrap_team (s := s1.tellOp o.id)
    (t := { t1 with recalls := t1.recalls ++ [{ region := t1.nextRegion, op := some o.id }] }) (tr := o.trap t1.depth) hresident
  rw [← hu, hy, Option.some.injEq] at hteam
  rw [← hteam]
  exact hystep.trans (hs.trans hg.running.step)

/-- A wait whose condition does not hold traps for a failed operation that the condition needs, and else parks. -/
theorem unmet_of_form {needs : EngOp → Bool} {c : WaitOn}
    (he : x.effect s t = unlessFailed needs (gated s t).1 (gated s t).2 (.wait (gated s t).1 (.wait c))) :
    WaitFails i s (gated s t).1 (gated s t).2 needs ∧
    ((gated s t).1.failedFor (gated s t).2 needs = none → exec i s = .next ((gated s t).1.wordWait t (.wait c))) :=
  ⟨waitFails_of_form hg hx hf he (gated_teams s t) rfl rfl,
    fun hnone => waits_past_form hg hx hf (he.trans (unlessFailed_none hnone)) (gated_teams s t)⟩

/-- A wait that is over behind its gate. -/
theorem waitEnds_of_form {d : BitVec 11} {scope : Nat} {v : Word} (hdemand : f.demand s t = {})
    (he : x.effect s t = waitValue d scope v (gated s t).1 (gated s t).2) : WaitEnds i s t f d scope v := by
  intro n hn e t1
  have hscal : scalOf d = n := by simp [scalOf, hn]
  rw [waitValue, hscal] at he
  obtain ⟨huid, hstep⟩ := lvqPush_names (gated s t).2 e
  refine ⟨fun hroom => ?_, fun hroom => ?_⟩
  · have hteams : ((gated s t).1.acquireAt t1 scope).teams = s.teams := by
      rw [acquireAt_teams, gated_teams]
    refine done_of_resident_form hg hx hf (he.trans (if_neg ?_)) hdemand huid hstep ?_
    · exact fun h => nomatch hroom.symm.trans (Bool.not_eq_true' _ ▸ h : t.lvqRoom e = false)
    · rw [team?_congr hteams, hg.running.team]
      rfl
  · refine waits_past_form hg hx hf (he.trans (if_pos ?_)) (gated_teams s t)
    exact (Bool.not_eq_true' _).mpr hroom

end

/-! ### WAITC -/

theorem waitc_word (w : FullE) (s : State) (t : Team) : ∃ x, exec (.waitc w) s = issueWord x s ∧ HasForm s t x (engForm w (scalCheck w.a) 0) ∧
    x.effect s t =
      if t.role == .trailing then trailEnd (fun _ t => t) s t
      else if !t.counterMet w.cnt.toNat (scalVal t.arch w.a) then .wait s (.wait (.counter w.cnt.toNat (scalVal t.arch w.a)))
      else unlessFailed (fun o => o.countsFor w.cnt.toNat (scalVal t.arch w.a)) s t
        (.done (s.acquireAt t 2) (t.lvqPush (lvqHeader 2 t.arch.issued t.arch.pc t.regionId)) none) :=
  ⟨_, rfl, ⟨rfl, rfl, rfl, rfl, rfl, rfl, rfl, rfl, rfl, rfl⟩, rfl⟩

section
variable {w : FullE} {s : State} {t : Team} (hg : Goes s t (engForm w (scalCheck w.a) 0))
include hg

theorem waitc_met (hlead : t.role ≠ .trailing) (hmet : (t.cnts.getD w.cnt.toNat []).length ≤ scalVal t.arch w.a) :
    let needs (o : EngOp) : Bool := o.countsFor w.cnt.toNat (scalVal t.arch w.a)
    (s.failedFor t needs = none → exec (.waitc w) s =
      .next ((s.acquireAt t 2).finish ((t.lvqPush (lvqHeader 2 t.arch.issued t.arch.pc t.regionId)).note {}) (engForm w (scalCheck w.a) 0) none)) ∧
    WaitFails (.waitc w) s s t needs := by
  intro needs
  obtain ⟨x, hx, hf, he⟩ := waitc_word w s t
  have hcount : t.counterMet w.cnt.toNat (scalVal t.arch w.a) = true := decide_eq_true hmet
  rw [if_neg (by simpa using hlead), if_neg (by simp [hcount])] at he
  obtain ⟨huid, hstep⟩ := lvqPush_names t (lvqHeader 2 t.arch.issued t.arch.pc t.regionId)
  exact ⟨fun hnone => done_of_untiled_form hg hx hf (he.trans (unlessFailed_none hnone)) rfl huid hstep (acquireAt_teams s t 2),
    waitFails_of_form hg hx hf he rfl rfl rfl⟩

theorem waitc_parks (hlead : t.role ≠ .trailing) (hmet : scalVal t.arch w.a < (t.cnts.getD w.cnt.toNat []).length) :
    Waits (.waitc w) s t (.counter w.cnt.toNat (scalVal t.arch w.a)) := by
  obtain ⟨x, hx, hf, he⟩ := waitc_word w s t
  have hcount : t.counterMet w.cnt.toNat (scalVal t.arch w.a) = false := decide_eq_false (Nat.not_le.mpr hmet)
  rw [if_neg (by simpa using hlead), if_pos (by simp [hcount])] at he
  exact waits_of_form hg hx hf he

theorem waitc_trails (htrail : t.role = .trailing) : TrailWait (.waitc w) s t (engForm w (scalCheck w.a) 0) (fun _ t => t) := by
  obtain ⟨x, hx, hf, he⟩ := waitc_word w s t
  exact trailWait_of_form hg hx hf rfl (he.trans (if_pos (by simpa using htrail))) fun _ => ⟨rfl, rfl⟩

end

/-! ### BWAIT and PLWAIT -/

/-- The effect of a wait on an object of n bytes, which ends as `past` says once it has read the object. -/
def objectWait (d : BitVec 11) (sp : Space) (off n : Nat) (past : State → Team → WordEnd) (s : State) (t : Team) : WordEnd :=
  match objTrap (s.scratchOf t sp).size off n n with
  | some tr => .trap tr
  | none => if t.role == .trailing then trailEnd (firstValue d) s t else onObject sp off n past s t

/-- The form that BWAIT and PLWAIT have. -/
def objectWaitForm (w : FullE) : Word1 := engForm w (firstTrap [scalReg w.d, scalCheck w.a, scalCheck w.b]) 0

section
variable {i : Instr} {s : State} {t : Team} {x f : Word1} {d : BitVec 11} {sp : Space} {off n : Nat} {past : State → Team → WordEnd}
  (he : x.effect s t = objectWait d sp off n past s t) (hin : inScratch s t sp off n n)
include he hin

theorem objectWait_lead (hlead : t.role ≠ .trailing) : x.effect s t = onObject sp off n past s t := by
  rw [he, objectWait, objTrap_inScratch hin]
  exact if_neg (by simpa using hlead)

/-- The object is read behind the gate. -/
theorem objectWait_past (hlead : t.role ≠ .trailing) (hgate : s.gate t sp [(0, off)] n EntryKind.stopsWrite = none) :
    x.effect s t = past (gated s t).1 (gated s t).2 := by
  rw [objectWait_lead he hin hlead, onObject, hgate, passGate_eq]

variable (hg : Goes s t f) (hx : exec i s = issueWord x s) (hf : HasForm s t x f)
include hg hx hf

theorem objectWait_gated (hlead : t.role ≠ .trailing) {c : WaitOn} (hgate : s.gate t sp [(0, off)] n EntryKind.stopsWrite = some c) :
    Waits i s t c :=
  waits_of_form hg hx hf (by rw [objectWait_lead he hin hlead, onObject, hgate])

theorem objectWait_trails (hdemand : f.demand s t = {}) (htrail : t.role = .trailing) : TrailWait i s t f (firstValue d) := by
  refine trailWait_of_form hg hx hf hdemand ?_ fun _ => ⟨rfl, rfl⟩
  rw [he, objectWait, objTrap_inScratch hin]
  exact if_pos (by simpa using htrail)

end

/-- BWAIT, with its object read (R183). -/
def bwaitPast (d : BitVec 11) (sp : Space) (off ph : Nat) (s : State) (t : Team) : WordEnd :=
  let bs := s.seenObject t sp off 16
  if fieldAt bs 0 1 != 0x5B then .trap (syncTrap 0x10)
  else if (fieldAt bs 1 1).testBit 0 then .trap (syncTrap 0x11)
  else if fieldAt bs 12 4 != ph then waitValue d (max 2 (scopeIn sp 5)) (BitVec.ofNat 32 (fieldAt bs 12 4)) s t
  else unlessFailed (fun o => o.arrivesAt sp off) s t (.wait s (.wait (.phase sp off (BitVec.ofNat 32 ph))))

theorem bwait_word (w : FullE) (s : State) (t : Team) : ∃ x, exec (.bwait w) s = issueWord x s ∧ HasForm s t x (objectWaitForm w) ∧
    x.effect s t =
      objectWait w.d (objSpace w) (scalVal t.arch w.a) 16 (bwaitPast w.d (objSpace w) (scalVal t.arch w.a) (scalVal t.arch w.b)) s t :=
  ⟨_, rfl, ⟨rfl, rfl, rfl, rfl, rfl, rfl, rfl, rfl, rfl, rfl⟩, rfl⟩

/-- PLWAIT, with its gour read (R186). -/
def plwaitPast (d : BitVec 11) (sp : Space) (off q : Nat) (s : State) (t : Team) : WordEnd :=
  let g := gourOf (s.seenObject t sp off 64)
  if g.bad then .trap (gourTrap 1)
  else if g.released q then .trap (gourTrap 3)
  else if g.dist q < g.dist g.cidx then waitValue d (scopeIn sp 5) (BitVec.ofNat 32 (g.slotAt q)) s t
  else unlessFailed (fun o => o.fillsFor (objRef t sp off) g q) s t (.wait s (.wait (.gourSlot sp off q)))

theorem plwait_word (w : FullE) (s : State) (t : Team) : ∃ x, exec (.plwait w) s = issueWord x s ∧ HasForm s t x (objectWaitForm w) ∧
    x.effect s t =
      objectWait w.d (objSpace w) (scalVal t.arch w.a) 64 (plwaitPast w.d (objSpace w) (scalVal t.arch w.a) (scalVal t.arch w.b)) s t :=
  ⟨_, rfl, ⟨rfl, rfl, rfl, rfl, rfl, rfl, rfl, rfl, rfl, rfl⟩, rfl⟩

section
variable {w : FullE} {s : State} {t : Team} (hg : Goes s t (objectWaitForm w)) (hlead : t.role ≠ .trailing)
include hg hlead

theorem bwait_reads (hin : inScratch s t (objSpace w) (scalVal t.arch w.a) 16 16)
    (hgate : s.gate t (objSpace w) [(0, scalVal t.arch w.a)] 16 EntryKind.stopsWrite = none) :
    let off := scalVal t.arch w.a
    let ph := scalVal t.arch w.b
    let s1 := (gated s t).1
    let t1 := (gated s t).2
    let bs := s1.seenObject t1 (objSpace w) off 16
    let needs (o : EngOp) : Bool := o.arrivesAt (objSpace w) off
    fieldAt bs 0 1 = 0x5B → (fieldAt bs 1 1).testBit 0 = false →
      (fieldAt bs 12 4 ≠ ph →
        WaitEnds (.bwait w) s t (objectWaitForm w) w.d (max 2 (scopeIn (objSpace w) 5)) (BitVec.ofNat 32 (fieldAt bs 12 4))) ∧
      (fieldAt bs 12 4 = ph → WaitFails (.bwait w) s s1 t1 needs ∧
        (s1.failedFor t1 needs = none → exec (.bwait w) s = .next (s1.wordWait t (.wait (.phase (objSpace w) off (BitVec.ofNat 32 ph)))))) := by
  intro off ph s1 t1 bs needs hstate hover
  obtain ⟨x, hx, hf, he⟩ := bwait_word w s t
  have hpast := objectWait_past he hin hlead hgate
  rw [bwaitPast, if_neg (by simpa using hstate), if_neg (by simpa using hover)] at hpast
  refine ⟨fun hphase => ?_, fun hphase => ?_⟩
  · exact waitEnds_of_form hg hx hf rfl (hpast.trans (if_pos (by simpa using hphase)))
  · exact unmet_of_form hg hx hf (hpast.trans (if_neg (by simpa using hphase)))

theorem plwait_reads (hin : inScratch s t (objSpace w) (scalVal t.arch w.a) 64 64)
    (hgate : s.gate t (objSpace w) [(0, scalVal t.arch w.a)] 64 EntryKind.stopsWrite = none) :
    let off := scalVal t.arch w.a
    let q := scalVal t.arch w.b
    let s1 := (gated s t).1
    let t1 := (gated s t).2
    let g := gourOf (s1.seenObject t1 (objSpace w) off 64)
    let needs (o : EngOp) : Bool := o.fillsFor (objRef t1 (objSpace w) off) g q
    g.bad = false → g.dist q < 2 ^ 31 →
      (g.dist q < g.dist g.cidx →
        WaitEnds (.plwait w) s t (objectWaitForm w) w.d (scopeIn (objSpace w) 5) (BitVec.ofNat 32 (g.slotAt q))) ∧
      (g.dist g.cidx ≤ g.dist q → WaitFails (.plwait w) s s1 t1 needs ∧
        (s1.failedFor t1 needs = none → exec (.plwait w) s = .next (s1.wordWait t (.wait (.gourSlot (objSpace w) off q))))) := by
  intro off q s1 t1 g needs hgood hsequence
  obtain ⟨x, hx, hf, he⟩ := plwait_word w s t
  have hpast := objectWait_past he hin hlead hgate
  have hunreleased : ¬ g.released q = true := by simpa [Gour.released] using hsequence
  rw [plwaitPast, if_neg (by simpa using hgood), if_neg hunreleased] at hpast
  refine ⟨fun hfilled => ?_, fun hunfilled => ?_⟩
  · exact waitEnds_of_form hg hx hf rfl (hpast.trans (if_pos hfilled))
  · exact unmet_of_form hg hx hf (hpast.trans (if_neg (Nat.not_lt.mpr hunfilled)))

end

/-- Settles O39: WAITC reads its counter, BWAIT and PLWAIT their object behind the gate; a trailing copy takes its leading copy's entry. -/
theorem engineWaits : Obligations.EngineWaits := by
  unfold Obligations.EngineWaits
  intro s t w sp off s1 t1 lead
  refine ⟨fun hg => ?waitc, fun hg hin => ?bwait, fun hg hin => ?plwait⟩
  case waitc => exact ⟨waitc_met hg, waitc_parks hg, fun h => waitc_trails hg (not_not.mp h)⟩
  case bwait =>
    obtain ⟨x, hx, hf, he⟩ := bwait_word w s t
    exact ⟨fun hlead hgate => bwait_reads hg hlead hin hgate, fun c hlead hgate => objectWait_gated he hin hg hx hf hlead hgate,
      fun h => objectWait_trails he hin hg hx hf rfl (not_not.mp h)⟩
  case plwait =>
    obtain ⟨x, hx, hf, he⟩ := plwait_word w s t
    exact ⟨fun hlead hgate => plwait_reads hg hlead hin hgate, fun c hlead hgate => objectWait_gated he hin hg hx hf hlead hgate,
      fun h => objectWait_trails he hin hg hx hf rfl (not_not.mp h)⟩

end Sys2Proof.Proofs
end

section
/-! PROOF. ARRIVE, BINIT, PLINIT and PLREL (O40). -/

namespace Sys2Proof.Proofs

open Sys2Proof Sys2Proof.Machine Sys2Proof.Claims

/-- Checks that stand together as one stand one by one. -/
theorem firstTrap_nested (c : Option Trap) (cs : List (Option Trap)) : firstTrap [c, firstTrap cs] = firstTrap (c :: cs) := by
  cases c with
  | none => rw [firstTrap_pair, Option.none_or]; rfl
  | some tr => rfl

theorem unless_nested {i : Instr} {s : State} {t : Team} {sw : Bool} {c : Option Trap} {cs : List (Option Trap)} {does : Prop}
    (h : Unless i s t sw [c, firstTrap cs] does) : Unless i s t sw (c :: cs) does := by
  rwa [Unless, firstTrap_nested] at h

/-- Behind an object in its place one condition decides. -/
theorem unless_placed {i : Instr} {s : State} {t : Team} {sw : Bool} {place : Option Trap} {c : Bool} {tr : Trap} {does : Prop}
    (h : Unless i s t sw [place, trapIf c tr] does) (hplace : place = none) :
    (c = false → does) ∧ (c = true → Traps i s t sw { tr with once := true }) := by
  rw [Unless, hplace, firstTrap_pair, Option.none_or] at h
  refine ⟨fun hc => ?_, fun hc => ?_⟩
  · rwa [hc] at h
  · rwa [hc] at h

/-- A word that checks an object's place, then what its action asks for, and holds the action. -/
theorem action_of_form {i : Instr} {s : State} {t : Team} {x f : Word1} (hg : Goes s t f) (hlead : t.role ≠ .trailing)
    (hx : exec i s = issueWord x s) (hf : HasForm s t x f) (honce : f.once = true) (hdemand : f.demand s t = { entries := 1 })
    {k : EntryKind} {place asks : Option Trap}
    (he : x.effect s t = checkedEffect [place, leadTrap t asks] (.done s (t.hold k 0 .none 0 s.tick) none)) :
    Unless i s t f.hd.sw [place, asks] (Holds i s t f k) := by
  rw [leadTrap_lead hlead] at he
  exact unless_of_form hg hx hf honce he fun he => holds_of_form hg hx hf hdemand he

/-! ### The words -/

/-- The form of ARRIVE, BINIT and PLREL. -/
def actionForm (w : FullE) : Word1 := engForm w (firstTrap [scalCheck w.a, scalCheck w.b]) 1

section
variable {w : FullE} {s : State} {t : Team} (hlead : t.role ≠ .trailing)
include hlead

theorem arrive_holds (hg : Goes s t (actionForm w)) :
    let off := scalVal t.arch w.a
    Unless (.arrive w) s t w.hd.sw
      [objTrap (s.scratchOf t (objSpace w)).size off 16 16, trapIf (s.barUninit t (objSpace w) off) (syncTrap 0x10)]
      (Holds (.arrive w) s t (actionForm w) (.arrive (objSpace w) off (scalVal t.arch w.b))) :=
  action_of_form hg hlead rfl (hasForm_effect ..) rfl rfl rfl

theorem binit_holds (hg : Goes s t (actionForm w)) :
    let off := scalVal t.arch w.a
    Unless (.binit w) s t w.hd.sw
      [objTrap (s.scratchOf t (objSpace w)).size off 16 16, trapIf (scalVal t.arch w.b == 0) (syncTrap 0x12)]
      (Holds (.binit w) s t (actionForm w) (.binit (objSpace w) off (scalVal t.arch w.b))) :=
  action_of_form hg hlead rfl (hasForm_effect ..) rfl rfl rfl

theorem plrel_holds (hg : Goes s t (actionForm w)) :
    let off := scalVal t.arch w.a
    let q := scalVal t.arch w.b
    let g := gourOf (s.seenObject t (objSpace w) off 64)
    Unless (.plrel w) s t w.hd.sw
      [objTrap (s.scratchOf t (objSpace w)).size off 64 64, trapIf g.bad (gourTrap 1), trapIf (g.released q) (gourTrap 3),
        trapIf (g.dist g.cidx ≤ g.dist q) (gourTrap 4)]
      (Holds (.plrel w) s t (actionForm w) (.plrel (objSpace w) off q)) :=
  unless_nested (action_of_form hg hlead rfl (hasForm_effect ..) rfl rfl rfl)

/-- PLINIT asks for parameters that fit. -/
theorem plinit_holds (hg : Goes s t (engForm w (firstTrap [scalCheck w.a, scalCheck w.b, scalCheck (Machine.extOf w.ext).c]) 1)) :
    let e := Machine.extOf w.ext
    let off := scalVal t.arch w.a
    let base := scalVal t.arch w.b
    let bytes := scalVal t.arch e.c
    let nslot := e.imm.toNat % 65536
    let nrel := e.imm.toNat / 65536 % 256
    let size := (s.scratchOf t (objSpace w)).size
    Unless (.plinit w) s t w.hd.sw [objTrap size off 64 64, trapIf (plinitBad size off base bytes nslot nrel) (gourTrap 2)]
      (Holds (.plinit w) s t (engForm w (firstTrap [scalCheck w.a, scalCheck w.b, scalCheck e.c]) 1)
        (.plinit (objSpace w) off base bytes nslot nrel)) :=
  action_of_form hg hlead rfl (hasForm_effect ..) rfl rfl rfl

end

/-- The parameters that PLINIT takes (R186). -/
theorem plinitBad_eq_false_iff (size off base bytes nslot nrel : Nat) : plinitBad size off base bytes nslot nrel = false ↔
    nslot ≠ 0 ∧ nslot ≤ 256 ∧ nrel ≠ 0 ∧ nrel ≤ 16 ∧ bytes ≠ 0 ∧ bytes % 16 = 0 ∧ base % 16 = 0 ∧ base + nslot * bytes ≤ size ∧
      (off + 64 ≤ base ∨ base + nslot * bytes ≤ off) := by
  simp [plinitBad, and_assoc, or_iff_not_imp_left]

/-- Settles O40: each word is the check of its object's place and what its action asks for, before the one entry that holds the action. -/
theorem barrierAndGourActions : Obligations.BarrierAndGourActions := by
  unfold Obligations.BarrierAndGourActions
  intro s t w hlead sp off b form size sync gour g from_
  refine ⟨fun hg => ⟨arrive_holds hlead hg, binit_holds hlead hg, plrel_holds hlead hg⟩, ?_⟩
  intro e form bytes nslot nrel fits hg hin
  obtain ⟨holds, traps⟩ := unless_placed (plinit_holds hlead hg) (objTrap_inScratch hin)
  have hfits : plinitBad size off b bytes nslot nrel = false ↔ fits := plinitBad_eq_false_iff ..
  exact ⟨fun h => holds (hfits.mpr h), fun h => traps (by simpa using mt hfits.mp h)⟩

end Sys2Proof.Proofs
end

section
/-! PROOF. EXIT (O42). -/

namespace Sys2Proof.Proofs

open Sys2Proof Sys2Proof.Machine Sys2Proof.Claims

/-! ### Ends of a closing word that a statement knows by its form -/

section
variable {i : Instr} {s : State} {t : Team} {x f : Word1} (hr : Running s t) (hp : Passes s t f) (hc : Closes s t f)
  (hx : exec i s = issueWord x s) (hf : HasForm s t x f)
include hr hp hc hx hf

/-- The effect changes its team alone, and may go to another word. -/
theorem closing_transfers {t' : Team} {pc : Option DWord} (he : x.effect s (atClose t) = .done s t' pc) (hu : t'.uid = t.uid)
    (hs : t'.stepMode = t.stepMode) : exec i s = .next (s.finish t' f pc) := by
  have hp' := Laws.passes_congr hp hf.caps hf.check hf.hd hf.bounds hf.targets
  have hc' : Closes s t x := ⟨hf.closing.trans hc.closing, hc.park, hc.failed, hc.drained, hc.acquired⟩
  rw [hx, Laws.issueWord_closed hr hp' hc' he hu hs rfl, Laws.finish_congr _ _ _ hf.len hf.hd hf.once hf.sample]

/-- The effect leaves nothing of its team to do. -/
theorem closing_acts {s' : State} (he : x.effect s (atClose t) = .act s') : exec i s = .next (s'.afterStep t.uid t.arch.pc) := by
  have he' : x.effect s { t with needHead := true } = .act s' := he
  rw [closing_issues hr hp hc hx hf, he']

end

/-! ### The lanes that exit (R239) -/

/-- An entry of the control stack without the lanes that exit. -/
def cutEntry (out : Mask) (e : StackEntry) : StackEntry :=
  match e with
  | .join j => .join { j with reconv := j.reconv &&& ~~~out, pend := j.pend &&& ~~~out, early := j.early &&& ~~~out }
  | .call r => .call r

/-- The control stack that EXIT leaves: entries of calls above the innermost join entry go. -/
def exitStack (a : Arch) : List StackEntry :=
  (a.stack.map (cutEntry a.live)).dropWhile (fun e => match e with | .call _ => true | .join _ => false)

/-- Lanes of the team remain once its live lanes have exited. -/
def lanesRemain (t : Team) : Prop := (t.arch.exited ||| t.arch.live) &&& fullMask t.tw ≠ fullMask t.tw

/-- The team whose live lanes have exited, while others remain. -/
def exitedTeam (t : Team) : Team :=
  { atClose t with arch := { t.arch with exited := t.arch.exited ||| t.arch.live, live := 0, stack := exitStack t.arch } }

theorem exit_word (w : FullT) (s : State) (t : Team) : ∃ x, exec (.exit w) s = issueWord x s ∧ HasForm s t x (closingForm w none) ∧
    x.effect s (atClose t) = match exitStack t.arch with
      | .join j :: _ =>
        if (t.arch.exited ||| t.arch.live) &&& fullMask t.tw != fullMask t.tw then .done s (exitedTeam t) (some j.jpc)
        else exitTail s (atClose t)
      | _ => exitTail s (atClose t) :=
  ⟨_, rfl, ⟨rfl, rfl, rfl, rfl, rfl, rfl, rfl, rfl, rfl, rfl⟩, rfl⟩

section
variable {w : FullT} {s : State} {t : Team} (hr : Running s t) (hp : Passes s t (closingForm w none)) (hc : Closes s t (closingForm w none))
include hr hp hc

theorem exit_joins {j : JoinEntry} {rest : List StackEntry} (hstack : exitStack t.arch = .join j :: rest) (hremain : lanesRemain t) :
    exec (.exit w) s = .next (s.finish (exitedTeam t) (closingForm w none) (some j.jpc)) := by
  obtain ⟨x, hx, hf, he⟩ := exit_word w s t
  rw [hstack] at he
  exact closing_transfers hr hp hc hx hf (he.trans (if_pos (by simpa [lanesRemain] using hremain))) rfl rfl

/-- With no join entry, or no lane remaining, the team's last step is all that is left. -/
theorem exit_ends (h : exitStack t.arch = [] ∨ ¬ lanesRemain t) {s' : State} (htail : exitTail s (atClose t) = .act s') :
    exec (.exit w) s = .next (s'.afterStep t.uid t.arch.pc) := by
  obtain ⟨x, hx, hf, he⟩ := exit_word w s t
  refine closing_acts hr hp hc hx hf (he.trans (Eq.trans ?_ htail))
  obtain hempty | hnone := h
  · rw [hempty]
  · split
    · exact if_neg (by simpa [lanesRemain] using hnone)
    · rfl

end

/-! ### The team's last step (R188) -/

section
variable {s s2 : State} {t t2 : Team} (hpass : s.passOps t = (s2, t2))
include hpass

theorem exitTail_leaves (hcnts : ∀ c ∈ t2.cnts, c = []) (hlvq : t2.lvq = []) (hfailed : s2.failedOp t2 = none) (hlast : s2.lastOps t2 = []) :
    exitTail s t = .act (s2.exitTeam t2) := by
  have hdrained : ¬ (t2.cnts.any (fun c => !c.isEmpty) || !t2.lvq.isEmpty) = true := by
    simpa [hlvq] using hcnts
  rw [exitTail, hpass]
  dsimp only
  rw [if_neg hdrained, hfailed, hlast]
  rfl

theorem exitTail_drains (hcnts : ∃ c ∈ t2.cnts, c ≠ []) :
    exitTail s t = .act (({ s2 with issue := none } : State).setTeam { t2 with run := .wait .drain, waitSlots := 0 }) := by
  have hout : (t2.cnts.any (fun c => !c.isEmpty) || !t2.lvq.isEmpty) = true := by
    simpa using Or.inl hcnts
  rw [exitTail, hpass]
  exact if_pos hout

end

/-- Settles O42: the live lanes leave; then the team goes to a JOIN, or takes its last step. -/
theorem exit : Obligations.Exit := by
  unfold Obligations.Exit
  intro s t w hr hp hc out exited less cut stack t1
  refine ⟨fun j rest hstack hremain => exit_joins hr hp hc hstack hremain, fun hends => ?_⟩
  have hends' : exitStack t.arch = [] ∨ ¬ lanesRemain t := hends.imp id not_not.mpr
  intro s2 t2
  exact ⟨fun hcnts hlvq hfailed hlast => exit_ends hr hp hc hends' (exitTail_leaves rfl hcnts hlvq hfailed hlast),
    fun hcnts => exit_ends hr hp hc hends' (exitTail_drains rfl hcnts)⟩

end Sys2Proof.Proofs
end
